-- ==== Sys2Proof/Word.lean ====
section
/-! DEFINITION. The word types of the Orolvokar N2 and the plainest readings of a field of a number. -/

namespace Sys2Proof

/-- One byte (R3). -/
abbrev Byte := BitVec 8
/-- A 32-bit slot word (R88), tag (R81) or parameter register (R165). -/
abbrev W32 := BitVec 32
/-- A scalar, system or mask register (R112, R133, R195), a micro-word (R233). -/
abbrev W64 := BitVec 64
/-- The data of a vector register (R129). -/
abbrev V2048 := BitVec 2048

/-- Bits [lo + n - 1 : lo] of a natural number (R2). -/
def fld (w lo n : Nat) : Nat := w / 2 ^ lo % 2 ^ n

/-- Bit `k` of a natural number (R2). -/
def bit (w k : Nat) : Bool := w / 2 ^ k % 2 == 1

/-- The low `n` bits of a natural number read in two's complement: `sign_extend` of R111. -/
def sext (x n : Nat) : Int :=
  let m := x % 2 ^ n
  if m < 2 ^ (n - 1) then (m : Int) else (m : Int) - 2 ^ n

/-- An integer taken modulo 2^n, as a natural number. -/
def wrap (x : Int) (n : Nat) : Nat := (x % (2 ^ n : Int)).toNat

end Sys2Proof
end

