-- ==== Sys2Proof/Config.lean ====
section
/-! DEFINITION. What an implementation fixes and the spec leaves open: constants with no body, so that nothing can be proved
from their value. Each is named in the assumption log. -/

namespace Sys2Proof.Config

/-- A value the spec leaves open, one for each count of the model's counter of such values (log 10). -/
opaque freeValue : Nat → BitVec 64

/-- The loader's judgement of the paths between safe points (R25) of code whose sequencer words leave them to the registers: the manual gives
no algorithm. From the image's bundles of one isle and its declared distance (log 7). -/
opaque pathsTooLong : List (Nat × BitVec 256) → Nat → Bool

/-- The loader's judgement of the words latched or on hops at a safe point (R287), where the shape, the seams and the latencies do not bound
them: from those figures, and the bundles of every isle (log 7). -/
opaque drainTooDeep : List Nat → List (List (Nat × BitVec 256)) → Bool

/-- amax / F of VBSCL where F, the largest finite value of the target format, is 0 (R146): a coefficient and an exponent of two
(log 54). -/
opaque overZero : Nat → Int → Nat × Int

/-- A byte of the internal layout in which a save area holds the faults recorded against a context (R347), from what each of them
says (log 20). -/
opaque faultLayout : List (List Nat) → Nat → Byte

/-- SHA-384 of a byte string (R398, R405): fixed by a standard outside the manual (log 8). -/
opaque sha384 : List Byte → BitVec 384

/-- ECDSA P-384 verification of an image body under the fused key (R399): fixed outside the manual (log 8). -/
opaque ecdsaVerifies : List Byte → List Byte → Bool

/-- LMS verification of an image body under the fused key (R399): fixed outside the manual (log 8). -/
opaque lmsVerifies : List Byte → List Byte → Bool

/-- The answer of the SPDM responder to a request code, its operands and the transcript so far (R398): fixed by a standard
outside the manual (log 8). -/
opaque spdmAnswer : Nat → List Byte → List Byte → List Byte

/-- Whether an SPDM key exchange or finish message is accepted (R398) (log 8). -/
opaque spdmAccepts : Nat → List Byte → List Byte → Bool

/-- The measurements of what runs from reset on (R398): 1 the root-of-trust ROM, 2 the management firmware, 3 the service-core firmware
(log 8). -/
opaque bootMeasurement : Nat → List Byte

/-- The measurement of the fuse configuration and the defect map (R398), from what they hold (log 8). -/
opaque fuseMeasurement : List (List Nat) → List Byte

/-- The measurement of the firmware of a kite that is brought up (R398, R399), one for each count of free values (log 8). -/
opaque kiteMeasurement : Nat → List Byte

/-- Whether the membership of a fabric group includes another device (R362): fixed by whoever runs the fabric (log 21). -/
opaque groupSpans : Nat → Bool

end Sys2Proof.Config
end

