-- ==== Sys2Proof/Syntax.lean ====
section
/-! DEFINITION. The instructions of the Orolvokar N2: operand types (R88, R96) and ONE inductive with a constructor for
every row of the table of operations and events: slot words (R97-R104), micro-words (R233) and the events that have no
encoding. -/

namespace Sys2Proof

/-- The eight slots of a bundle (R86). -/
inductive SlotId | C | A | B | M | V | X | N | D
  deriving DecidableEq, Repr

/-- Slot index of R86, the value TSLOT reports. -/
def SlotId.idx : SlotId → Nat
  | .C => 0 | .A => 1 | .B => 2 | .M => 3 | .V => 4 | .X => 5 | .N => 6 | .D => 7

/-- The clock classes (R17, R378). -/
inductive ClkClass | ctl | mat | vec | cpy
  deriving DecidableEq, Repr

/-- The data buffers of an isle (R96 BUF). -/
inductive Buf | wb | ab | acb
  deriving DecidableEq, Repr

/-- Abstract directions (R96 DIR). -/
inductive Dir | n | e | s | w
  deriving DecidableEq, Repr

/-- The predicate prefix of a slot word: PNEG and PIDX (R88). -/
structure Pred where
  neg : Bool
  idx : Fin 8
  deriving DecidableEq, Repr

/-- A G operand (R96): a register of either cluster. -/
inductive GReg
  | a (r : Fin 32)
  | b (r : Fin 32)
  deriving DecidableEq, Repr

/-- Rounding modes (R96 RM). -/
inductive Rm | rne | rtz | rna | sr
  deriving DecidableEq, Repr

/-- Atomic operations (R96 OP). -/
inductive AtomOp | add | and | or | xor | min | max | minn | maxn | swap
  deriving DecidableEq, Repr

/-- Conditions of CMP and CMPI (R96, R125). -/
inductive Cond | eq | ne | lt | ge | ltu | geu
  deriving DecidableEq, Repr

/-- Conditions of VCMP (R96, R141). -/
inductive VCond | eq | ne | lt | le | gt | ge | un
  deriving DecidableEq, Repr

/-- Consistency scopes (R104 DP, R263). -/
inductive Scope | isle | device | fabric
  deriving DecidableEq, Repr

/-- System registers (R195). -/
inductive SysReg
  | tcause | taddr | tslot | tinfo | tcause2 | regbase | ctxid | asid
  | px | py | pw | ph | rcycle | clkd | sbmode | feat | srseed
  | bkpt (n : Fin 4)
  | perf (n : Fin 8)
  deriving DecidableEq, Repr

/-- The panel cursors of PADD (R233). -/
inductive Cursor | mi | nj | ko
  deriving DecidableEq, Repr

/-- The value operand of PADD: an immediate or a half of a parameter register (R235). -/
inductive PaddVal
  | imm (x : BitVec 16)
  | mp (half : Bool) (r : Fin 8)
  deriving DecidableEq, Repr

/-- The count operand of mu.loop (R233): n - 1, or a parameter register. -/
inductive MuCount
  | imm (nMinus1 : BitVec 16)
  | mp (r : Fin 8)
  deriving DecidableEq, Repr

/-- A route of SEND or SENDS (R103). -/
structure Route where
  dir1 : Dir
  step1 : Fin 32
  dir2 : Dir
  step2 : Fin 32
  deriving DecidableEq, Repr

/-- A tether request of a kite (R316): attribution, address, and the bytes written or the length read. -/
structure TetherReq where
  sock : Nat
  kctx : Nat
  seq16 : Nat
  asid : Nat
  va : Nat
  write : Option (List Byte)
  len : Nat
  wellFormed : Bool
  deriving DecidableEq, Repr

/-- A peer device's fabric transfer of a collective (R254, R306): the contribution of one remote rank to a group; `src` tells the participants
apart that reach the module over one link. -/
structure PeerReq where
  link : Nat
  src : Nat := 0
  gid : Nat
  rank : Nat
  asid : Nat
  va : Nat
  op : Nat
  npart : Nat
  failed : Bool
  header : BitVec 256
  bytes : List Byte
  deriving DecidableEq, Repr

/-- A host function's memory request (R254, R256): a read of `len` bytes or a write, and the selective stream that it came through (R403). One
with `bar` is for the function's own register block (R389), `gpa` the offset there. -/
structure HostReq where
  fn : Nat
  stream : Nat := 0
  bar : Bool := false
  gpa : Nat
  write : Option (List Byte)
  len : Nat
  deriving DecidableEq, Repr

/-- A unit whose corrected errors are counted (R331): an isle, for an error of one of its memories or for a replay of its array. -/
inductive ErrUnit
  | isle (die col row : Nat)
  | array (die col row : Nat)
  | frame (die frame : Nat)
  | strait (k : Nat)
  | link (k : Nat)
  | socket (k : Nat)
  deriving DecidableEq, Repr

/-- A firmware image for the management complex (R399), reduced to what the device looks at. -/
structure FwImage where
  version : Nat
  body : List Byte
  ecdsa : List Byte
  lms : List Byte
  deriving DecidableEq, Repr

/-- Checkpoint traffic of a peer rank (R405, R408). -/
inductive ReplicaMsg
  | hashes (pid rank : Nat) (job step : W64) (pages : List (Nat × BitVec 384))
  | pages (pid rank : Nat) (job step : W64) (items : List (Nat × List Byte))
  | pull (pid rank : Nat) (gpaPage : Nat) (fromStore : Option Nat)
  deriving DecidableEq, Repr

/-- The instructions: one constructor per row of the table of operations and events. -/
inductive Instr
  -- slot C (R97); `n` is the stall count
  | nopC (p : Pred) (n : Fin 16)
  | nop (p : Pred)
  | hint (p : Pred) (h : Fin 4) (o : BitVec 22)
  | br (p : Pred) (n : Fin 16) (tgt : BitVec 12)
  | bri (p : Pred) (n : Fin 16) (bs : Fin 32)
  | call (p : Pred) (n : Fin 16) (tgt : BitVec 12)
  | ret (p : Pred) (n : Fin 16)
  | loop (p : Pred) (n : Fin 16) (lenM1 : BitVec 8) (cntM1 : BitVec 10)
  | loopr (p : Pred) (n : Fin 16) (lenM1 : BitVec 8) (bs : Fin 32)
  | lbrk (p : Pred) (n : Fin 16)
  | safept (p : Pred) (n : Fin 16) (list : Fin 16)
  | endC (p : Pred) (n : Fin 16)
  | trap (p : Pred) (n : Fin 16) (code : BitVec 8)
  | tret (p : Pred) (n : Fin 16)
  | brk (p : Pred) (n : Fin 16)
  | waitf (p : Pred) (n : Fin 16) (f : Fin 32) (sig : Option (Fin 4)) (cnt : BitVec 10)
  | postf (p : Pred) (n : Fin 16) (f : Fin 32) (sig : Option (Fin 4)) (cnt : BitVec 10)
  | waitb (p : Pred) (n : Fin 16) (bbar : Fin 32) (sig : Option (Fin 4)) (ph : Fin 16)
  | yieldC (p : Pred) (n : Fin 16) (sig : Option (Fin 4))
  | clkdiv (p : Pred) (n : Fin 16) (cls : ClkClass) (divM1 : Fin 8)
  | sysrd (p : Pred) (n : Fin 16) (g : GReg) (sys : SysReg)
  | syswr (p : Pred) (n : Fin 16) (sys : SysReg) (g : GReg)
  | statpop (p : Pred) (n : Fin 16) (g : GReg)
  -- slots A and B (R98)
  | add (p : Pred) (d s1 s2 : Fin 32)
  | addi (p : Pred) (d s1 : Fin 32) (imm : BitVec 12)
  | sub (p : Pred) (d s1 s2 : Fin 32)
  | mul (p : Pred) (d s1 s2 : Fin 32)
  | mulh (p : Pred) (d s1 s2 : Fin 32)
  | mulhn (p : Pred) (d s1 s2 : Fin 32)
  | and (p : Pred) (d s1 s2 : Fin 32)
  | andi (p : Pred) (d s1 : Fin 32) (imm : BitVec 12)
  | or (p : Pred) (d s1 s2 : Fin 32)
  | ori (p : Pred) (d s1 : Fin 32) (imm : BitVec 12)
  | xor (p : Pred) (d s1 s2 : Fin 32)
  | xori (p : Pred) (d s1 : Fin 32) (imm : BitVec 12)
  | shl (p : Pred) (d s1 s2 : Fin 32)
  | shr (p : Pred) (d s1 s2 : Fin 32)
  | sar (p : Pred) (d s1 s2 : Fin 32)
  | shli (p : Pred) (d s1 : Fin 32) (sh : BitVec 6)
  | shri (p : Pred) (d s1 : Fin 32) (sh : BitVec 6)
  | sari (p : Pred) (d s1 : Fin 32) (sh : BitVec 6)
  | min (p : Pred) (d s1 s2 : Fin 32)
  | max (p : Pred) (d s1 s2 : Fin 32)
  | minn (p : Pred) (d s1 s2 : Fin 32)
  | maxn (p : Pred) (d s1 s2 : Fin 32)
  | cmp (p : Pred) (pd : Fin 8) (c : Cond) (s1 s2 : Fin 32)
  | cmpi (p : Pred) (pd : Fin 8) (c : Cond) (s1 : Fin 32) (imm : BitVec 11)
  | sel (p : Pred) (d s1 s2 : Fin 32) (ps : Fin 8)
  | li (p : Pred) (d : Fin 32) (imm : BitVec 17)
  | lui (p : Pred) (d : Fin 32) (imm : BitVec 17)
  | addw (p : Pred) (d s1 s2 : Fin 32)
  | clz (p : Pred) (d s1 : Fin 32)
  | popc (p : Pred) (d s1 : Fin 32)
  | bext (p : Pred) (d s1 : Fin 32) (lo lenM1 : BitVec 6)
  | bins (p : Pred) (d s1 : Fin 32) (lo lenM1 : BitVec 6)
  | movx (p : Pred) (d s1 : Fin 32)
  | plog (p : Pred) (pd pa pb : Fin 8) (tt : BitVec 4)
  -- slot M (R100)
  | ld (p : Pred) (g : GReg) (u : Buf) (ba : Fin 32) (sz : Fin 8) (off : BitVec 6)
  | st (p : Pred) (g : GReg) (u : Buf) (ba : Fin 32) (sz : Fin 8) (off : BitVec 6)
  | ldv (p : Pred) (vd : Fin 32) (u : Buf) (ba : Fin 32) (off : BitVec 9)
  | ldvT (p : Pred) (vd : Fin 32) (u : Buf) (ba : Fin 32) (off : BitVec 9)
  | stv (p : Pred) (vs : Fin 32) (u : Buf) (ba : Fin 32) (off : BitVec 9)
  | stvT (p : Pred) (vs : Fin 32) (u : Buf) (ba : Fin 32) (off : BitVec 9)
  | fill (p : Pred) (g : GReg) (off : BitVec 9)
  | spill (p : Pred) (g : GReg) (off : BitVec 9)
  | fillv (p : Pred) (vd : Fin 32) (off : Fin 16)
  | spillv (p : Pred) (vs : Fin 32) (off : Fin 16)
  | sopenR (p : Pred) (t : Fin 16) (u : Buf) (ba : Fin 32)
  | sopenW (p : Pred) (t : Fin 16) (u : Buf) (ba : Fin 32)
  | sclose (p : Pred) (t : Fin 16)
  | sread (p : Pred) (vd : Fin 32) (t : Fin 16)
  | swrite (p : Pred) (t : Fin 16) (vs : Fin 32)
  | sseek (p : Pred) (t : Fin 16) (brow bcol : Fin 32)
  | hdrmk (p : Pred) (vs : Fin 32) (u : Buf) (ba : Fin 32) (off : BitVec 9)
  | hdrchk (p : Pred) (pd : Fin 8) (u : Buf) (ba : Fin 32) (off : BitVec 9)
  | laop (p : Pred) (op : AtomOp) (g : GReg) (u : Buf) (ba bv : Fin 32)
  | bclr (p : Pred) (u : Buf) (ba bl : Fin 32)
  | ldidx (p : Pred) (vd vi : Fin 32) (u : Buf) (ba : Fin 32) (esz : Fin 4) (vm : Fin 8)
  | stidx (p : Pred) (vs vi : Fin 32) (u : Buf) (ba : Fin 32) (esz : Fin 4) (vm : Fin 8)
  -- slot V (R101)
  | vadd (p : Pred) (vd va vb : Fin 32) (vm : Fin 8) (rm : Rm) (sat : Bool)
  | vsub (p : Pred) (vd va vb : Fin 32) (vm : Fin 8) (rm : Rm) (sat : Bool)
  | vmul (p : Pred) (vd va vb : Fin 32) (vm : Fin 8) (rm : Rm) (sat : Bool)
  | vfma (p : Pred) (vd va vb vc : Fin 32) (rm : Rm)
  | vfms (p : Pred) (vd va vb vc : Fin 32) (rm : Rm)
  | vfnma (p : Pred) (vd va vb vc : Fin 32) (rm : Rm)
  | vmax (p : Pred) (vd va vb : Fin 32) (vm : Fin 8)
  | vmin (p : Pred) (vd va vb : Fin 32) (vm : Fin 8)
  | vabs (p : Pred) (vd va : Fin 32) (vm : Fin 8) (sat : Bool)
  | vneg (p : Pred) (vd va : Fin 32) (vm : Fin 8) (sat : Bool)
  | vcmp (p : Pred) (vmd : Fin 8) (c : VCond) (va vb : Fin 32) (vm : Fin 8)
  | vsel (p : Pred) (vd va vb : Fin 32) (vm : Fin 8)
  | vand (p : Pred) (vd va vb : Fin 32) (vm : Fin 8)
  | vor (p : Pred) (vd va vb : Fin 32) (vm : Fin 8)
  | vxor (p : Pred) (vd va vb : Fin 32) (vm : Fin 8)
  | vnot (p : Pred) (vd va : Fin 32) (vm : Fin 8)
  | vshl (p : Pred) (vd va vb : Fin 32) (vm : Fin 8)
  | vshr (p : Pred) (vd va vb : Fin 32) (vm : Fin 8)
  | vsar (p : Pred) (vd va vb : Fin 32) (vm : Fin 8)
  | vcvt (p : Pred) (vd va bt : Fin 32) (vm : Fin 8) (rm : Rm) (sat : Bool)
  | vqnt (p : Pred) (vd va vsc bt : Fin 32) (rm : Rm)
  | vdqnt (p : Pred) (vd va vsc bt : Fin 32) (rm : Rm)
  | vbscl (p : Pred) (vd va bt : Fin 32)
  | vexp2 (p : Pred) (vd va : Fin 32) (vm : Fin 8) (rm : Rm) (sat : Bool)
  | vlog2 (p : Pred) (vd va : Fin 32) (vm : Fin 8) (rm : Rm) (sat : Bool)
  | vrcp (p : Pred) (vd va : Fin 32) (vm : Fin 8) (rm : Rm) (sat : Bool)
  | vrsq (p : Pred) (vd va : Fin 32) (vm : Fin 8) (rm : Rm) (sat : Bool)
  | vdiv (p : Pred) (vd va vb : Fin 32) (vm : Fin 8) (rm : Rm) (sat : Bool)
  | vsqrt (p : Pred) (vd va : Fin 32) (vm : Fin 8) (rm : Rm) (sat : Bool)
  | vredadd (p : Pred) (vd va : Fin 32) (vm : Fin 8) (rm : Rm) (sat : Bool)
  | vredmax (p : Pred) (vd va : Fin 32) (vm : Fin 8)
  | vredmin (p : Pred) (vd va : Fin 32) (vm : Fin 8)
  | vperm (p : Pred) (vd va vb : Fin 32) (vm : Fin 8)
  | vrot (p : Pred) (vd va : Fin 32) (amt : BitVec 8)
  | vbcast (p : Pred) (vd bs : Fin 32)
  | vins (p : Pred) (vd bs bi : Fin 32)
  | vext (p : Pred) (vd va vb : Fin 32) (amt : BitVec 6)
  | vtag (p : Pred) (vd bs : Fin 32)
  | vmov (p : Pred) (vd va : Fin 32) (vm : Fin 8)
  | viota (p : Pred) (vd bs : Fin 32)
  | vseed (p : Pred) (vd : Fin 32)
  | vmask (p : Pred) (vmd vma vmb : Fin 8) (tt : BitVec 4)
  | vmaskB (p : Pred) (vmd : Fin 8) (bs : Fin 32)
  -- slot X (R102)
  | mcall (p : Pred) (idx : Fin 64) (pmask : BitVec 8)
  | mcallr (p : Pred) (idx : Fin 64) (br : Fin 32)
  | mpset (p : Pred) (mp : Fin 8) (bs : Fin 32)
  | mpsetImm (p : Pred) (mp : Fin 8) (imm : BitVec 16)
  | mpld (p : Pred) (ba : Fin 32) (off : BitVec 9)
  | muwr (p : Pred) (ba bu : Fin 32) (cntM1 : BitVec 8)
  | mrtset (p : Pred) (idx : Fin 64) (bs : Fin 32)
  | mselSwap (p : Pred)
  | mselS0 (p : Pred)
  | mselS1 (p : Pred)
  | mstat (p : Pred) (g : GReg) (sel : Fin 16)
  -- slot N (R103)
  | send (p : Pred) (vs : Fin 32) (h : Bool) (r : Route)
  | sends (p : Pred) (g : GReg) (r : Route)
  | recv (p : Pred) (vd : Fin 32) (h : Bool) (dir : Dir)
  | recvs (p : Pred) (g : GReg) (dir : Dir)
  | fwd (p : Pred) (din dout : Dir) (cntM1 : BitVec 10)
  | nbcRow (p : Pred) (vs : Fin 32) (h : Bool)
  | nbcCol (p : Pred) (vs : Fin 32) (h : Bool)
  | nrmt (p : Pred) (op : AtomOp) (g : GReg) (ba bv : Fin 32)
  -- slot D (R104)
  | xcopy (p : Pred) (tidx : BitVec 8) (bb bbar : Fin 32)
  | xld (p : Pred) (u : Buf) (bbuf bva f : Fin 32) (sz : Fin 8)
  | xst (p : Pred) (u : Buf) (bbuf bva f : Fin 32) (sz : Fin 8)
  | xatom (p : Pred) (op : AtomOp) (bva bv f : Fin 32)
  | barinit (p : Pred) (bbar bx : Fin 32)
  | bararr (p : Pred) (bbar bx : Fin 32)
  | baradd (p : Pred) (bbar bx : Fin 32)
  | phaseR (p : Pred) (sc : Scope)
  | phaseA (p : Pred) (sc : Scope)
  | phaseRa (p : Pred) (sc : Scope)
  | coll (p : Pred) (tidx : BitVec 8) (bb bbar : Fin 32)
  | launch (p : Pred) (bslot brec : Fin 32)
  | kpost (p : Pred) (sock : Fin 2) (bpkt : Fin 32)
  | kstat (p : Pred) (g : GReg) (sock : Fin 2) (sel : Fin 8)
  | xpf (p : Pred) (bva blen : Fin 32)
  | ovl (p : Pred) (ovlid : BitVec 8) (f : Fin 32)
  -- micro-words (R233)
  | muNop (nM1 : BitVec 16)
  | muLda (slot : Fin 2)
  | muLdb (slot : Fin 2)
  | muStep (adv : Bool) (slot : Fin 2)
  | muMask (depth : Bool) (mp : Fin 8)
  | muScl (a b : Bool) (slot : Fin 2)
  | muZero (ld : Bool)
  | muFold
  | muDrain (mp : Fin 8)
  | muDrnc (mp : Fin 8)
  | muXpose (on : Bool)
  | muLoop (c : MuCount)
  | muEndl
  | muPadd (set : Bool) (cur : Cursor) (v : PaddVal)
  | muChk
  | muHdr (mpS mpE : Fin 8)
  | muRet
  -- events of the isles, the network and the engines
  | resultLanding (seq : Nat)
  | bufferAccess (seq : Nat)
  | networkWordArrival (id : Nat)
  | fwdWindowExpiry (din : Dir)
  | nrmtArrival (seq : Nat)
  | engineIntervalEnd
  | waitSatisfied
  | copyUnitEntryFree
  -- events of slot-D operations, collectives and kites
  | asyncSectorTransfer (op : Nat)
  | asyncOperationComplete (op : Nat)
  | ovlComplete (op : Nat)
  | collComplete (op : Nat)
  | launchReachesTable (op : Nat)
  | kiteArrive (sock kctx seq16 cbar bytes : Nat)
  | faultPacket (sock kctx seq16 code : Nat)
  | abandon (sock kctx : Nat) (seqs : List Nat)
  | kiteQuiesceTimeout (sock : Nat)
  -- the launch table, the scheduler and the selectors
  | slotSet (fn slot state : Nat)
  | suspend (fn slot : Nat)
  | resume (fn slot : Nat)
  | kill (fn slot : Nat)
  | hostRecordWrite (fn slot off : Nat) (x : Byte)
  | dependenceSatisfied (slot : Nat)
  | placement (slot : Nat)
  | eprioAging (slot : Nat)
  | contextSwitch (rid : Nat)
  | suspensionRequest (slot : Nat)
  | suspensionComplete (slot : Nat)
  | relocation (slot : Nat)
  | safepointOverdue (rid : Nat)
  | retirement (slot : Nat)
  | retirementComplete (slot : Nat)
  | teardown (slot fcause freason : Nat)
  -- host registers and partition management
  | msixCoalesceTimer (fn : Nat)
  | invalidation (fn : Nat) (cmd : W64)
  | invalidationComplete (fn : Nat)
  | whtLoad (fn idx : Nat)
  | whtUnload (fn idx : Nat)
  | whtCommandComplete (pid : Nat)
  | featwr (fn : Nat) (x : W64)
  | asidcmdSet (fn : Nat) (x : W64)
  | asidcmdClear (fn : Nat) (x : W64)
  | create (fn pid : Nat) (desc : List Byte)
  | partReset (fn pid : Nat)
  | partDestroy (fn pid : Nat)
  | partcmdComplete (fn : Nat)
  | checkpoint (fn : Nat)
  | restore (fn : Nat)
  | abort (fn : Nat)
  | checkpointComplete (pid : Nat)
  | restoreComplete (pid : Nat)
  | fabricLinkBreach (link : Nat)
  | tdispBreach (fn : Nat)
  -- physical events
  | frameZeroed (die frame : Nat)
  | correctedError (u : ErrUnit)
  | frameRetirement (die frame : Nat)
  | voltageRampComplete (rid : Nat)
  | islandIdleGating (die col row : Nat)
  | islandWake (die col row : Nat)
  | budgetInterval
  | waitForWalk
  | whtEntryFetch (pid idx : Nat)
  | barrierPhaseRead (slot va : Nat)
  -- events that only the outside brings about
  | peerAccess (r : PeerReq)
  | tetherRequest (r : TetherReq)
  | socketBringUp (sock vendor device : Nat) (identity : List Byte)
  | dbgsel (fn : Nat) (x : W64)
  | rswin (fn off : Nat) (x : Byte)
  | registerWrite (fn off : Nat) (x : W64)
  | hostMemoryRequest (r : HostReq)
  | functionLevelReset (fn : Nat)
  | lockInterface (fn stream : Nat)
  | startInterface (fn : Nat)
  | stopInterface (fn : Nat)
  | getDeviceInterfaceReport (fn : Nat)
  | getVersion (pf : Nat)
  | getCapabilities (pf : Nat)
  | negotiateAlgorithms (pf : Nat)
  | getDigests (pf : Nat)
  | getCertificate (pf slot : Nat)
  | challenge (pf : Nat) (nonce : List Byte)
  | getMeasurements (pf idx : Nat)
  | keyExchange (pf : Nat) (data : List Byte)
  | finish (pf : Nat) (data : List Byte)
  | firmwareLoad (img : FwImage)
  | powerThrottle (rid : Nat) (on : Bool)
  | thermalPoll (stack temp : Nat)
  | moduleReset
  | replicaExchange (m : ReplicaMsg)
  deriving DecidableEq, Repr

end Sys2Proof
end

