-- ==== Sys2Proof/WellFormed.lean ====
section
/-! DEFINITION. Which instructions are well formed: the operand values that an encoding admits. The checks are those of
R91 (reasons 0x03 and 0x04), R96 and the reserved values of R97-R104 and R233; an event carries no encoding and is always
well formed. -/

namespace Sys2Proof

/-- R91 reason 0x04: PNEG = 1 with PIDX = 0 is illegal. -/
def Pred.wf (p : Pred) : Bool := !(p.neg && p.idx == 0)

/-- The abstract axis of a direction: east and west lie on the row. -/
def Dir.horizontal : Dir → Bool
  | .e => true
  | .w => true
  | .n => false
  | .s => false

/-- R103: the reserved route values. A second pair without steps is written with DIR2 = 0. -/
def Route.wf (r : Route) : Bool :=
  r.step1 != 0 && (if r.step2 = 0 then r.dir2 == .n else r.dir1.horizontal != r.dir2.horizontal)

/-- R98 AF: the field of BEXT and BINS lies inside 64 bits. -/
def fieldWf (lo lenM1 : BitVec 6) : Bool := lo.toNat + lenM1.toNat + 1 ≤ 64

/-- The operand values an encoding of the instruction admits. -/
def Instr.operandsWf : Instr → Bool
  | .trap _ _ c => 128 ≤ c.toNat
  | .cmp _ pd _ _ _ => pd != 0
  | .cmpi _ pd _ _ _ => pd != 0
  | .plog _ pd _ _ _ => pd != 0
  | .hdrchk _ pd _ _ _ => pd != 0
  | .bext _ _ _ lo l => fieldWf lo l
  | .bins _ _ _ lo l => fieldWf lo l
  | .ld _ _ _ _ sz _ => sz != 7
  | .st _ _ _ _ sz _ => sz.val ≤ 3
  | .vcmp _ vmd _ _ _ _ => vmd != 0
  | .vmask _ vmd _ _ _ => vmd != 0
  | .vmaskB _ vmd _ => vmd != 0
  | .mstat _ _ k => k.val ≤ 3
  | .send _ _ _ r => r.wf
  | .sends _ _ r => r.wf
  | .fwd _ din dout _ => din != dout
  | .xld _ _ _ _ _ sz => sz.val ≤ 4
  | .xst _ _ _ _ _ sz => sz.val ≤ 4
  | .xatom _ _ _ bv _ => bv != 31
  | .kstat _ _ _ k => k.val ≤ 3
  | .muScl a b _ => a || b
  | .barinit _ b _ => b != 0
  | .bararr _ b _ => b != 0
  | .baradd _ b _ => b != 0
  | _ => true

/-- The predicate prefix of a slot word; a micro-word or an event has none. -/
def Instr.pred? : Instr → Option Pred
  | .nopC p _ => some p
  | .nop p => some p
  | .hint p _ _ => some p
  | .br p _ _ => some p
  | .bri p _ _ => some p
  | .call p _ _ => some p
  | .ret p _ => some p
  | .loop p _ _ _ => some p
  | .loopr p _ _ _ => some p
  | .lbrk p _ => some p
  | .safept p _ _ => some p
  | .endC p _ => some p
  | .trap p _ _ => some p
  | .tret p _ => some p
  | .brk p _ => some p
  | .waitf p _ _ _ _ => some p
  | .postf p _ _ _ _ => some p
  | .waitb p _ _ _ _ => some p
  | .yieldC p _ _ => some p
  | .clkdiv p _ _ _ => some p
  | .sysrd p _ _ _ => some p
  | .syswr p _ _ _ => some p
  | .statpop p _ _ => some p
  | .add p _ _ _ => some p
  | .addi p _ _ _ => some p
  | .sub p _ _ _ => some p
  | .mul p _ _ _ => some p
  | .mulh p _ _ _ => some p
  | .mulhn p _ _ _ => some p
  | .and p _ _ _ => some p
  | .andi p _ _ _ => some p
  | .or p _ _ _ => some p
  | .ori p _ _ _ => some p
  | .xor p _ _ _ => some p
  | .xori p _ _ _ => some p
  | .shl p _ _ _ => some p
  | .shr p _ _ _ => some p
  | .sar p _ _ _ => some p
  | .shli p _ _ _ => some p
  | .shri p _ _ _ => some p
  | .sari p _ _ _ => some p
  | .min p _ _ _ => some p
  | .max p _ _ _ => some p
  | .minn p _ _ _ => some p
  | .maxn p _ _ _ => some p
  | .cmp p _ _ _ _ => some p
  | .cmpi p _ _ _ _ => some p
  | .sel p _ _ _ _ => some p
  | .li p _ _ => some p
  | .lui p _ _ => some p
  | .addw p _ _ _ => some p
  | .clz p _ _ => some p
  | .popc p _ _ => some p
  | .bext p _ _ _ _ => some p
  | .bins p _ _ _ _ => some p
  | .movx p _ _ => some p
  | .plog p _ _ _ _ => some p
  | .ld p _ _ _ _ _ => some p
  | .st p _ _ _ _ _ => some p
  | .ldv p _ _ _ _ => some p
  | .ldvT p _ _ _ _ => some p
  | .stv p _ _ _ _ => some p
  | .stvT p _ _ _ _ => some p
  | .fill p _ _ => some p
  | .spill p _ _ => some p
  | .fillv p _ _ => some p
  | .spillv p _ _ => some p
  | .sopenR p _ _ _ => some p
  | .sopenW p _ _ _ => some p
  | .sclose p _ => some p
  | .sread p _ _ => some p
  | .swrite p _ _ => some p
  | .sseek p _ _ _ => some p
  | .hdrmk p _ _ _ _ => some p
  | .hdrchk p _ _ _ _ => some p
  | .laop p _ _ _ _ _ => some p
  | .bclr p _ _ _ => some p
  | .ldidx p _ _ _ _ _ _ => some p
  | .stidx p _ _ _ _ _ _ => some p
  | .vadd p _ _ _ _ _ _ => some p
  | .vsub p _ _ _ _ _ _ => some p
  | .vmul p _ _ _ _ _ _ => some p
  | .vfma p _ _ _ _ _ => some p
  | .vfms p _ _ _ _ _ => some p
  | .vfnma p _ _ _ _ _ => some p
  | .vmax p _ _ _ _ => some p
  | .vmin p _ _ _ _ => some p
  | .vabs p _ _ _ _ => some p
  | .vneg p _ _ _ _ => some p
  | .vcmp p _ _ _ _ _ => some p
  | .vsel p _ _ _ _ => some p
  | .vand p _ _ _ _ => some p
  | .vor p _ _ _ _ => some p
  | .vxor p _ _ _ _ => some p
  | .vnot p _ _ _ => some p
  | .vshl p _ _ _ _ => some p
  | .vshr p _ _ _ _ => some p
  | .vsar p _ _ _ _ => some p
  | .vcvt p _ _ _ _ _ _ => some p
  | .vqnt p _ _ _ _ _ => some p
  | .vdqnt p _ _ _ _ _ => some p
  | .vbscl p _ _ _ => some p
  | .vexp2 p _ _ _ _ _ => some p
  | .vlog2 p _ _ _ _ _ => some p
  | .vrcp p _ _ _ _ _ => some p
  | .vrsq p _ _ _ _ _ => some p
  | .vdiv p _ _ _ _ _ _ => some p
  | .vsqrt p _ _ _ _ _ => some p
  | .vredadd p _ _ _ _ _ => some p
  | .vredmax p _ _ _ => some p
  | .vredmin p _ _ _ => some p
  | .vperm p _ _ _ _ => some p
  | .vrot p _ _ _ => some p
  | .vbcast p _ _ => some p
  | .vins p _ _ _ => some p
  | .vext p _ _ _ _ => some p
  | .vtag p _ _ => some p
  | .vmov p _ _ _ => some p
  | .viota p _ _ => some p
  | .vseed p _ => some p
  | .vmask p _ _ _ _ => some p
  | .vmaskB p _ _ => some p
  | .mcall p _ _ => some p
  | .mcallr p _ _ => some p
  | .mpset p _ _ => some p
  | .mpsetImm p _ _ => some p
  | .mpld p _ _ => some p
  | .muwr p _ _ _ => some p
  | .mrtset p _ _ => some p
  | .mselSwap p => some p
  | .mselS0 p => some p
  | .mselS1 p => some p
  | .mstat p _ _ => some p
  | .send p _ _ _ => some p
  | .sends p _ _ => some p
  | .recv p _ _ _ => some p
  | .recvs p _ _ => some p
  | .fwd p _ _ _ => some p
  | .nbcRow p _ _ => some p
  | .nbcCol p _ _ => some p
  | .nrmt p _ _ _ _ => some p
  | .xcopy p _ _ _ => some p
  | .xld p _ _ _ _ _ => some p
  | .xst p _ _ _ _ _ => some p
  | .xatom p _ _ _ _ => some p
  | .barinit p _ _ => some p
  | .bararr p _ _ => some p
  | .baradd p _ _ => some p
  | .phaseR p _ => some p
  | .phaseA p _ => some p
  | .phaseRa p _ => some p
  | .coll p _ _ _ => some p
  | .launch p _ _ => some p
  | .kpost p _ _ => some p
  | .kstat p _ _ _ => some p
  | .xpf p _ _ => some p
  | .ovl p _ _ => some p
  | _ => none

/-- A well-formed instruction: its predicate prefix and its operands are ones an encoding admits (R91). -/
def Instr.wf (i : Instr) : Bool := i.operandsWf && (i.pred?.map Pred.wf).getD true

end Sys2Proof
end

