-- ==== Sys2Proof/Decode.lean ====
section
/-! DEFINITION. The decoder of the eight slots (R86-R104), of a bundle (R87, R91) and of a micro-word (R233), total on any
bits, and AFTER it the encoder, from the same tables. A refused word is answered with the lowest reason of R91 it meets. -/

namespace Sys2Proof

/-! ## Fields (R96) -/

/-- A two-bit field. -/
def f2 (w lo : Nat) : Fin 4 := Fin.ofNat 4 (w / 2 ^ lo)
/-- A three-bit field. -/
def f3 (w lo : Nat) : Fin 8 := Fin.ofNat 8 (w / 2 ^ lo)
/-- A four-bit field. -/
def f4 (w lo : Nat) : Fin 16 := Fin.ofNat 16 (w / 2 ^ lo)
/-- A five-bit field. -/
def f5 (w lo : Nat) : Fin 32 := Fin.ofNat 32 (w / 2 ^ lo)
/-- A six-bit field. -/
def f6 (w lo : Nat) : Fin 64 := Fin.ofNat 64 (w / 2 ^ lo)
/-- An n-bit field kept as bits. -/
def fb (n w lo : Nat) : BitVec n := BitVec.ofNat n (w / 2 ^ lo)

/-- G: bit 5 chooses the cluster (R96). -/
def fG (w lo : Nat) : GReg := if fld w (lo + 5) 1 = 1 then .b (f5 w lo) else .a (f5 w lo)
/-- BUF; the value 3 is refused beforehand (R96). -/
def fBuf (w lo : Nat) : Buf := match fld w lo 2 with | 0 => .wb | 1 => .ab | _ => .acb
/-- An abstract direction (R96). -/
def fDir (w lo : Nat) : Dir := match fld w lo 2 with | 0 => .n | 1 => .e | 2 => .s | _ => .w
/-- RM (R96). -/
def fRm (w lo : Nat) : Rm := match fld w lo 2 with | 0 => .rne | 1 => .rtz | 2 => .rna | _ => .sr
/-- A single-bit flag of a word. -/
def fBool (w lo : Nat) : Bool := fld w lo 1 == 1
/-- OP of the atomics; 9-15 are refused beforehand (R96). -/
def fOp (w lo : Nat) : AtomOp :=
  match fld w lo 4 with
  | 0 => .add | 1 => .and | 2 => .or | 3 => .xor | 4 => .min | 5 => .max | 6 => .minn | 7 => .maxn | _ => .swap
/-- COND of CMP and CMPI; 6-7 are refused beforehand (R96). -/
def fCond (w lo : Nat) : Cond :=
  match fld w lo 3 with | 0 => .eq | 1 => .ne | 2 => .lt | 3 => .ge | 4 => .ltu | _ => .geu
/-- COND of VCMP; 7 is refused beforehand (R96). -/
def fVCond (w lo : Nat) : VCond :=
  match fld w lo 3 with | 0 => .eq | 1 => .ne | 2 => .lt | 3 => .le | 4 => .gt | 5 => .ge | _ => .un
/-- SCOPE of PHASE; 3 is refused beforehand (R104). -/
def fScope (w lo : Nat) : Scope := match fld w lo 2 with | 0 => .isle | 1 => .device | _ => .fabric
/-- CLS of CLKDIV (R97). -/
def fCls (w lo : Nat) : ClkClass := match fld w lo 2 with | 0 => .ctl | 1 => .mat | 2 => .vec | _ => .cpy
/-- XS and CTX (R97): the named context, where XS = 1. -/
def fSig (w : Nat) : Option (Fin 4) := if fld w 12 1 = 1 then some (f2 w 10) else none
/-- The predicate prefix (R88). -/
def fPred (w : Nat) : Pred := { neg := fBool w 31, idx := f3 w 28 }
/-- The two route pairs of NS and NG (R103). -/
def fRoute (w : Nat) : Route := { dir1 := fDir w 14, step1 := f5 w 9, dir2 := fDir w 7, step2 := f5 w 2 }

/-- The system register of a SYS field (R195); none where the number is reserved. -/
def sysOf (n : Nat) : Option SysReg :=
  match n with
  | 0x00 => some .tcause | 0x01 => some .taddr | 0x02 => some .tslot | 0x03 => some .tinfo | 0x04 => some .tcause2
  | 0x08 => some .regbase | 0x09 => some .ctxid | 0x0A => some .asid
  | 0x10 => some .px | 0x11 => some .py | 0x12 => some .pw | 0x13 => some .ph
  | 0x18 => some .rcycle | 0x19 => some .clkd | 0x1A => some .sbmode | 0x1B => some .feat | 0x1C => some .srseed
  | 0x20 => some (.bkpt 0) | 0x21 => some (.bkpt 1) | 0x22 => some (.bkpt 2) | 0x23 => some (.bkpt 3)
  | 0x28 => some (.perf 0) | 0x29 => some (.perf 1) | 0x2A => some (.perf 2) | 0x2B => some (.perf 3)
  | 0x2C => some (.perf 4) | 0x2D => some (.perf 5) | 0x2E => some (.perf 6) | 0x2F => some (.perf 7)
  | _ => none

/-- The check common to all words with an assigned opcode (R91): zero-marked bits, then reserved values, then the predicate
prefix; the lowest reason wins. -/
def ckWord (w : Nat) (zeros : Nat) (reserved : Bool) (i : Instr) : Except Nat Instr :=
  if zeros ≠ 0 then .error 0x02
  else if reserved then .error 0x03
  else if (fPred w).wf then .ok i else .error 0x04

/-- A hint word (R92): any slot, any operands. -/
def decHint (w : Nat) : Except Nat Instr := ckWord w 0 false (.hint (fPred w) (f2 w 22) (fb 22 w 0))

/-- XS = 0 leaves CTX zero-marked (R97). -/
def sigZeros (w : Nat) : Nat := if fld w 12 1 = 1 then 0 else fld w 10 2

/-- Slot C (R97). -/
def decC (w : Nat) : Except Nat Instr :=
  let p := fPred w
  let n := f4 w 18
  match fld w 22 6 with
  | 0x00 => ckWord w (fld w 0 18) false (.nopC p n)
  | 0x01 => ckWord w (fld w 12 6) false (.br p n (fb 12 w 0))
  | 0x02 => ckWord w (fld w 5 13) false (.bri p n (f5 w 0))
  | 0x03 => ckWord w (fld w 12 6) false (.call p n (fb 12 w 0))
  | 0x04 => ckWord w (fld w 0 18) false (.ret p n)
  | 0x05 => ckWord w 0 false (.loop p n (fb 8 w 10) (fb 10 w 0))
  | 0x06 => ckWord w (fld w 0 5) false (.loopr p n (fb 8 w 10) (f5 w 5))
  | 0x07 => ckWord w (fld w 0 18) false (.lbrk p n)
  | 0x08 => ckWord w (fld w 4 14) false (.safept p n (f4 w 0))
  | 0x09 => ckWord w (fld w 0 18) false (.endC p n)
  | 0x0A => ckWord w (fld w 8 10) (fld w 0 8 < 128) (.trap p n (fb 8 w 0))
  | 0x0B => ckWord w (fld w 0 18) false (.tret p n)
  | 0x0C => ckWord w (fld w 0 18) false (.brk p n)
  | 0x0D => ckWord w (sigZeros w) false (.waitf p n (f5 w 13) (fSig w) (fb 10 w 0))
  | 0x0E => ckWord w (sigZeros w) false (.postf p n (f5 w 13) (fSig w) (fb 10 w 0))
  | 0x0F => ckWord w (sigZeros w + fld w 4 6) false (.waitb p n (f5 w 13) (fSig w) (f4 w 0))
  | 0x10 => ckWord w (sigZeros w + fld w 13 5 + fld w 0 10) false (.yieldC p n (fSig w))
  | 0x11 => ckWord w (fld w 0 13) false (.clkdiv p n (fCls w 16) (f3 w 13))
  | 0x12 =>
    match sysOf (fld w 4 8) with
    | some r => ckWord w (fld w 0 4) false (.sysrd p n (fG w 12) r)
    | none => ckWord w (fld w 0 4) true (.nopC p n)
  | 0x13 =>
    match sysOf (fld w 4 8) with
    | some r => ckWord w (fld w 0 4) false (.syswr p n r (fG w 12))
    | none => ckWord w (fld w 0 4) true (.nopC p n)
  | 0x14 => ckWord w (fld w 0 12) false (.statpop p n (fG w 12))
  | 0x3C => decHint w
  | 0x3D => decHint w
  | 0x3E => decHint w
  | 0x3F => decHint w
  | _ => .error 0x01

/-- Slots A and B (R98). -/
def decAB (w : Nat) : Except Nat Instr :=
  let p := fPred w
  let d := f5 w 17
  let s1 := f5 w 12
  let s2 := f5 w 7
  match fld w 22 6 with
  | 0x00 => ckWord w (fld w 0 22) false (.nop p)
  | 0x01 => ckWord w (fld w 0 7) false (.add p d s1 s2)
  | 0x02 => ckWord w 0 false (.addi p d s1 (fb 12 w 0))
  | 0x03 => ckWord w (fld w 0 7) false (.sub p d s1 s2)
  | 0x04 => ckWord w (fld w 0 7) false (.mul p d s1 s2)
  | 0x05 => ckWord w (fld w 0 7) false (.mulh p d s1 s2)
  | 0x06 => ckWord w (fld w 0 7) false (.mulhn p d s1 s2)
  | 0x07 => ckWord w (fld w 0 7) false (.and p d s1 s2)
  | 0x08 => ckWord w 0 false (.andi p d s1 (fb 12 w 0))
  | 0x09 => ckWord w (fld w 0 7) false (.or p d s1 s2)
  | 0x0A => ckWord w 0 false (.ori p d s1 (fb 12 w 0))
  | 0x0B => ckWord w (fld w 0 7) false (.xor p d s1 s2)
  | 0x0C => ckWord w 0 false (.xori p d s1 (fb 12 w 0))
  | 0x0D => ckWord w (fld w 0 7) false (.shl p d s1 s2)
  | 0x0E => ckWord w (fld w 0 7) false (.shr p d s1 s2)
  | 0x0F => ckWord w (fld w 0 7) false (.sar p d s1 s2)
  | 0x10 => ckWord w (fld w 6 6) false (.shli p d s1 (fb 6 w 0))
  | 0x11 => ckWord w (fld w 6 6) false (.shri p d s1 (fb 6 w 0))
  | 0x12 => ckWord w (fld w 6 6) false (.sari p d s1 (fb 6 w 0))
  | 0x13 => ckWord w (fld w 0 7) false (.min p d s1 s2)
  | 0x14 => ckWord w (fld w 0 7) false (.max p d s1 s2)
  | 0x15 => ckWord w (fld w 0 7) false (.minn p d s1 s2)
  | 0x16 => ckWord w (fld w 0 7) false (.maxn p d s1 s2)
  | 0x17 => ckWord w (fld w 0 6) (fld w 19 3 == 0 || 6 ≤ fld w 16 3) (.cmp p (f3 w 19) (fCond w 16) (f5 w 11) (f5 w 6))
  | 0x18 => ckWord w 0 (fld w 19 3 == 0 || 6 ≤ fld w 16 3) (.cmpi p (f3 w 19) (fCond w 16) (f5 w 11) (fb 11 w 0))
  | 0x19 => ckWord w (fld w 0 4) false (.sel p d s1 s2 (f3 w 4))
  | 0x1A => ckWord w 0 false (.li p d (fb 17 w 0))
  | 0x1B => ckWord w 0 false (.lui p d (fb 17 w 0))
  | 0x1C => ckWord w (fld w 0 7) false (.addw p d s1 s2)
  | 0x1D => ckWord w (fld w 0 12) false (.clz p d s1)
  | 0x1E => ckWord w (fld w 0 12) false (.popc p d s1)
  | 0x1F => ckWord w 0 (64 < fld w 6 6 + fld w 0 6 + 1) (.bext p d s1 (fb 6 w 6) (fb 6 w 0))
  | 0x20 => ckWord w 0 (64 < fld w 6 6 + fld w 0 6 + 1) (.bins p d s1 (fb 6 w 6) (fb 6 w 0))
  | 0x21 => ckWord w (fld w 0 12) false (.movx p d s1)
  | 0x22 => ckWord w (fld w 0 9) (fld w 19 3 == 0) (.plog p (f3 w 19) (f3 w 16) (f3 w 13) (fb 4 w 9))
  | 0x3C => decHint w
  | 0x3D => decHint w
  | 0x3E => decHint w
  | 0x3F => decHint w
  | _ => .error 0x01

/-- Slot M (R100). -/
def decM (w : Nat) : Except Nat Instr :=
  let p := fPred w
  match fld w 22 6 with
  | 0x00 => ckWord w (fld w 0 22) false (.nop p)
  | 0x01 => ckWord w 0 (fld w 14 2 == 3 || fld w 6 3 == 7) (.ld p (fG w 16) (fBuf w 14) (f5 w 9) (f3 w 6) (fb 6 w 0))
  | 0x02 => ckWord w 0 (fld w 14 2 == 3 || 4 ≤ fld w 6 3) (.st p (fG w 16) (fBuf w 14) (f5 w 9) (f3 w 6) (fb 6 w 0))
  | 0x03 =>
    ckWord w 0 (fld w 14 2 == 3)
      (if fBool w 16 then .ldvT p (f5 w 17) (fBuf w 14) (f5 w 9) (fb 9 w 0) else .ldv p (f5 w 17) (fBuf w 14) (f5 w 9) (fb 9 w 0))
  | 0x04 =>
    ckWord w 0 (fld w 14 2 == 3)
      (if fBool w 16 then .stvT p (f5 w 17) (fBuf w 14) (f5 w 9) (fb 9 w 0) else .stv p (f5 w 17) (fBuf w 14) (f5 w 9) (fb 9 w 0))
  | 0x05 => ckWord w (fld w 9 7) false (.fill p (fG w 16) (fb 9 w 0))
  | 0x06 => ckWord w (fld w 9 7) false (.spill p (fG w 16) (fb 9 w 0))
  | 0x07 => ckWord w (fld w 4 13) false (.fillv p (f5 w 17) (f4 w 0))
  | 0x08 => ckWord w (fld w 4 13) false (.spillv p (f5 w 17) (f4 w 0))
  | 0x09 =>
    ckWord w (fld w 0 10) (fld w 16 2 == 3)
      (if fBool w 10 then .sopenW p (f4 w 18) (fBuf w 16) (f5 w 11) else .sopenR p (f4 w 18) (fBuf w 16) (f5 w 11))
  | 0x0A => ckWord w (fld w 0 18) false (.sclose p (f4 w 18))
  | 0x0B => ckWord w (fld w 0 13) false (.sread p (f5 w 17) (f4 w 13))
  | 0x0C => ckWord w (fld w 0 13) false (.swrite p (f4 w 18) (f5 w 13))
  | 0x0D => ckWord w (fld w 0 8) false (.sseek p (f4 w 18) (f5 w 13) (f5 w 8))
  | 0x0E => ckWord w (fld w 16 1) (fld w 14 2 == 3) (.hdrmk p (f5 w 17) (fBuf w 14) (f5 w 9) (fb 9 w 0))
  | 0x0F => ckWord w (fld w 16 3) (fld w 19 3 == 0 || fld w 14 2 == 3) (.hdrchk p (f3 w 19) (fBuf w 14) (f5 w 9) (fb 9 w 0))
  | 0x10 => ckWord w 0 (fld w 14 2 == 3 || 9 ≤ fld w 0 4) (.laop p (fOp w 0) (fG w 16) (fBuf w 14) (f5 w 9) (f5 w 4))
  | 0x11 => ckWord w (fld w 16 6 + fld w 0 4) (fld w 14 2 == 3) (.bclr p (fBuf w 14) (f5 w 9) (f5 w 4))
  | 0x12 => ckWord w 0 (fld w 10 2 == 3) (.ldidx p (f5 w 17) (f5 w 12) (fBuf w 10) (f5 w 5) (f2 w 3) (f3 w 0))
  | 0x13 => ckWord w 0 (fld w 10 2 == 3) (.stidx p (f5 w 17) (f5 w 12) (fBuf w 10) (f5 w 5) (f2 w 3) (f3 w 0))
  | 0x3C => decHint w
  | 0x3D => decHint w
  | 0x3E => decHint w
  | 0x3F => decHint w
  | _ => .error 0x01

/-- Slot V (R101, R136). -/
def decV (w : Nat) : Except Nat Instr :=
  let p := fPred w
  let d := f5 w 17
  let a := f5 w 12
  let b := f5 w 7
  let m := f3 w 4
  let rm := fRm w 2
  let sat := fBool w 1
  match fld w 22 6 with
  | 0x00 => ckWord w (fld w 0 22) false (.nop p)
  | 0x01 => ckWord w (fld w 0 1) false (.vadd p d a b m rm sat)
  | 0x02 => ckWord w (fld w 0 1) false (.vsub p d a b m rm sat)
  | 0x03 => ckWord w (fld w 0 1) false (.vmul p d a b m rm sat)
  | 0x04 => ckWord w 0 false (.vfma p d a b (f5 w 2) (fRm w 0))
  | 0x05 => ckWord w 0 false (.vfms p d a b (f5 w 2) (fRm w 0))
  | 0x06 => ckWord w 0 false (.vfnma p d a b (f5 w 2) (fRm w 0))
  | 0x07 => ckWord w (fld w 0 4) false (.vmax p d a b m)
  | 0x08 => ckWord w (fld w 0 4) false (.vmin p d a b m)
  | 0x09 => ckWord w (fld w 7 5 + fld w 2 2 + fld w 0 1) false (.vabs p d a m sat)
  | 0x0A => ckWord w (fld w 7 5 + fld w 2 2 + fld w 0 1) false (.vneg p d a m sat)
  | 0x0B => ckWord w (fld w 0 3) (fld w 19 3 == 0 || fld w 16 3 == 7) (.vcmp p (f3 w 19) (fVCond w 16) (f5 w 11) (f5 w 6) (f3 w 3))
  | 0x0C => ckWord w (fld w 0 4) false (.vsel p d a b m)
  | 0x0D => ckWord w (fld w 0 4) false (.vand p d a b m)
  | 0x0E => ckWord w (fld w 0 4) false (.vor p d a b m)
  | 0x0F => ckWord w (fld w 0 4) false (.vxor p d a b m)
  | 0x10 => ckWord w (fld w 7 5 + fld w 0 4) false (.vnot p d a m)
  | 0x11 => ckWord w (fld w 0 4) false (.vshl p d a b m)
  | 0x12 => ckWord w (fld w 0 4) false (.vshr p d a b m)
  | 0x13 => ckWord w (fld w 0 4) false (.vsar p d a b m)
  | 0x14 => ckWord w (fld w 0 1) false (.vcvt p d a b m rm sat)
  | 0x15 => ckWord w 0 false (.vqnt p d a b (f5 w 2) (fRm w 0))
  | 0x16 => ckWord w 0 false (.vdqnt p d a b (f5 w 2) (fRm w 0))
  | 0x17 => ckWord w (fld w 0 7) false (.vbscl p d a b)
  | 0x18 => ckWord w (fld w 7 5 + fld w 0 1) false (.vexp2 p d a m rm sat)
  | 0x19 => ckWord w (fld w 7 5 + fld w 0 1) false (.vlog2 p d a m rm sat)
  | 0x1A => ckWord w (fld w 7 5 + fld w 0 1) false (.vrcp p d a m rm sat)
  | 0x1B => ckWord w (fld w 7 5 + fld w 0 1) false (.vrsq p d a m rm sat)
  | 0x1C => ckWord w (fld w 0 1) false (.vdiv p d a b m rm sat)
  | 0x1D => ckWord w (fld w 7 5 + fld w 0 1) false (.vsqrt p d a m rm sat)
  | 0x1E => ckWord w (fld w 7 5 + fld w 0 1) false (.vredadd p d a m rm sat)
  | 0x1F => ckWord w (fld w 7 5 + fld w 0 4) false (.vredmax p d a m)
  | 0x20 => ckWord w (fld w 7 5 + fld w 0 4) false (.vredmin p d a m)
  | 0x21 => ckWord w (fld w 0 4) false (.vperm p d a b m)
  | 0x22 => ckWord w (fld w 0 4) false (.vrot p d a (fb 8 w 4))
  | 0x23 => ckWord w (fld w 0 12) false (.vbcast p d a)
  | 0x24 => ckWord w (fld w 0 7) false (.vins p d a b)
  | 0x25 => ckWord w (fld w 0 1) false (.vext p d a b (fb 6 w 1))
  | 0x26 => ckWord w (fld w 0 12) false (.vtag p d a)
  | 0x27 => ckWord w (fld w 7 5 + fld w 0 4) false (.vmov p d a m)
  | 0x28 => ckWord w (fld w 0 12) false (.viota p d a)
  | 0x29 => ckWord w (fld w 0 17) false (.vseed p d)
  | 0x2A =>
    if fld w 8 1 = 1 then ckWord w (fld w 9 10 + fld w 5 3) (fld w 19 3 == 0) (.vmaskB p (f3 w 19) (f5 w 0))
    else ckWord w (fld w 0 8) (fld w 19 3 == 0) (.vmask p (f3 w 19) (f3 w 16) (f3 w 13) (fb 4 w 9))
  | 0x3C => decHint w
  | 0x3D => decHint w
  | 0x3E => decHint w
  | 0x3F => decHint w
  | _ => .error 0x01

/-- Slot X (R102). -/
def decX (w : Nat) : Except Nat Instr :=
  let p := fPred w
  match fld w 22 6 with
  | 0x00 => ckWord w (fld w 0 22) false (.nop p)
  | 0x01 => ckWord w (fld w 0 8) false (.mcall p (f6 w 16) (fb 8 w 8))
  | 0x02 => ckWord w (fld w 0 11) false (.mcallr p (f6 w 16) (f5 w 11))
  | 0x03 =>
    if fld w 18 1 = 1 then ckWord w (fld w 16 2) false (.mpsetImm p (f3 w 19) (fb 16 w 0))
    else ckWord w (fld w 0 13) false (.mpset p (f3 w 19) (f5 w 13))
  | 0x04 => ckWord w (fld w 0 8) false (.mpld p (f5 w 17) (fb 9 w 8))
  | 0x05 => ckWord w (fld w 0 4) false (.muwr p (f5 w 17) (f5 w 12) (fb 8 w 4))
  | 0x06 => ckWord w (fld w 0 11) false (.mrtset p (f6 w 16) (f5 w 11))
  | 0x07 =>
    match fld w 20 2 with
    | 0 => ckWord w (fld w 0 20) false (.mselSwap p)
    | 1 => ckWord w (fld w 0 20) false (.mselS0 p)
    | 2 => ckWord w (fld w 0 20) false (.mselS1 p)
    | _ => ckWord w (fld w 0 20) true (.nop p)
  | 0x08 => ckWord w (fld w 0 12) (4 ≤ fld w 12 4) (.mstat p (fG w 16) (f4 w 12))
  | 0x3C => decHint w
  | 0x3D => decHint w
  | 0x3E => decHint w
  | 0x3F => decHint w
  | _ => .error 0x01

/-- Slot N (R103). -/
def decN (w : Nat) : Except Nat Instr :=
  let p := fPred w
  match fld w 22 6 with
  | 0x00 => ckWord w (fld w 0 22) false (.nop p)
  | 0x01 => ckWord w (fld w 0 2) (!(fRoute w).wf) (.send p (f5 w 17) (fBool w 16) (fRoute w))
  | 0x02 => ckWord w (fld w 0 2) (!(fRoute w).wf) (.sends p (fG w 16) (fRoute w))
  | 0x03 => ckWord w (fld w 0 14) false (.recv p (f5 w 17) (fBool w 16) (fDir w 14))
  | 0x04 => ckWord w (fld w 0 14) false (.recvs p (fG w 16) (fDir w 14))
  | 0x05 => ckWord w (fld w 0 8) (fld w 20 2 == fld w 18 2) (.fwd p (fDir w 20) (fDir w 18) (fb 10 w 8))
  | 0x06 =>
    ckWord w (fld w 0 15) false
      (if fBool w 15 then .nbcCol p (f5 w 17) (fBool w 16) else .nbcRow p (f5 w 17) (fBool w 16))
  | 0x07 => ckWord w (fld w 0 2) (9 ≤ fld w 2 4) (.nrmt p (fOp w 2) (fG w 16) (f5 w 11) (f5 w 6))
  | 0x3C => decHint w
  | 0x3D => decHint w
  | 0x3E => decHint w
  | 0x3F => decHint w
  | _ => .error 0x01

/-- Slot D (R104). -/
def decD (w : Nat) : Except Nat Instr :=
  let p := fPred w
  match fld w 22 6 with
  | 0x00 => ckWord w (fld w 0 22) false (.nop p)
  | 0x01 => ckWord w (fld w 0 4) false (.xcopy p (fb 8 w 14) (f5 w 9) (f5 w 4))
  | 0x02 => ckWord w (fld w 0 2) (fld w 20 2 == 3 || 5 ≤ fld w 2 3) (.xld p (fBuf w 20) (f5 w 15) (f5 w 10) (f5 w 5) (f3 w 2))
  | 0x03 => ckWord w (fld w 0 2) (fld w 20 2 == 3 || 5 ≤ fld w 2 3) (.xst p (fBuf w 20) (f5 w 15) (f5 w 10) (f5 w 5) (f3 w 2))
  | 0x04 => ckWord w (fld w 0 3) (fld w 12 5 == 31 || 9 ≤ fld w 3 4) (.xatom p (fOp w 3) (f5 w 17) (f5 w 12) (f5 w 7))
  | 0x05 => ckWord w (fld w 0 12) (fld w 17 5 == 0) (.barinit p (f5 w 17) (f5 w 12))
  | 0x06 => ckWord w (fld w 0 12) (fld w 17 5 == 0) (.bararr p (f5 w 17) (f5 w 12))
  | 0x07 => ckWord w (fld w 0 12) (fld w 17 5 == 0) (.baradd p (f5 w 17) (f5 w 12))
  | 0x08 =>
    match fld w 20 2 with
    | 2 => ckWord w (fld w 0 18) (fld w 18 2 == 3) (.phaseR p (fScope w 18))
    | 1 => ckWord w (fld w 0 18) (fld w 18 2 == 3) (.phaseA p (fScope w 18))
    | 3 => ckWord w (fld w 0 18) (fld w 18 2 == 3) (.phaseRa p (fScope w 18))
    | _ => ckWord w (fld w 0 18) true (.nop p)
  | 0x09 => ckWord w (fld w 0 4) false (.coll p (fb 8 w 14) (f5 w 9) (f5 w 4))
  | 0x0A => ckWord w (fld w 0 12) false (.launch p (f5 w 17) (f5 w 12))
  | 0x0B => ckWord w (fld w 0 16) false (.kpost p (Fin.ofNat 2 (w / 2 ^ 21)) (f5 w 16))
  | 0x0C => ckWord w (fld w 0 12) (4 ≤ fld w 12 3) (.kstat p (fG w 16) (Fin.ofNat 2 (w / 2 ^ 15)) (f3 w 12))
  | 0x0D => ckWord w (fld w 0 12) false (.xpf p (f5 w 17) (f5 w 12))
  | 0x0E => ckWord w (fld w 0 9) false (.ovl p (fb 8 w 14) (f5 w 9))
  | 0x3C => decHint w
  | 0x3D => decHint w
  | 0x3E => decHint w
  | 0x3F => decHint w
  | _ => .error 0x01

/-- The decoder of one slot word: the instruction, or the lowest reason of R91 (0x01-0x04) it meets. -/
def decodeSlot (k : SlotId) (w : W32) : Except Nat Instr :=
  match k with
  | .C => decC w.toNat
  | .A => decAB w.toNat
  | .B => decAB w.toNat
  | .M => decM w.toNat
  | .V => decV w.toNat
  | .X => decX w.toNat
  | .N => decN w.toNat
  | .D => decD w.toNat

/-- A micro-word (R233); none stands for reason 0x0D. -/
def decMu (w : Nat) : Option Instr :=
  let ck (zeros : Nat) (i : Instr) : Option Instr := if zeros = 0 then some i else none
  match fld w 58 6 with
  | 0x00 => ck (fld w 16 42) (.muNop (fb 16 w 0))
  | 0x01 => ck (fld w 1 57) (.muLda (Fin.ofNat 2 w))
  | 0x02 => ck (fld w 1 57) (.muLdb (Fin.ofNat 2 w))
  | 0x03 => ck (fld w 2 56) (.muStep (fBool w 1) (Fin.ofNat 2 w))
  | 0x04 => if fld w 0 2 ≤ 1 then ck (fld w 5 53) (.muMask (fBool w 0) (f3 w 2)) else none
  | 0x05 => if fld w 1 2 = 0 then none else ck (fld w 3 55) (.muScl (fBool w 1) (fBool w 2) (Fin.ofNat 2 w))
  | 0x06 => ck (fld w 1 57) (.muZero (fBool w 0))
  | 0x07 => ck (fld w 0 58) .muFold
  | 0x08 => ck (fld w 3 55) (.muDrain (f3 w 0))
  | 0x09 => ck (fld w 3 55) (.muDrnc (f3 w 0))
  | 0x0A => ck (fld w 1 57) (.muXpose (fBool w 0))
  | 0x0B =>
    if fld w 16 1 = 1 then ck (fld w 20 38 + fld w 0 16) (.muLoop (.mp (f3 w 17)))
    else ck (fld w 20 38 + fld w 17 3) (.muLoop (.imm (fb 16 w 0)))
  | 0x0C => ck (fld w 0 58) .muEndl
  | 0x0D =>
    let cur : Cursor := match fld w 16 2 with | 0 => .mi | 1 => .nj | _ => .ko
    if fld w 16 2 = 3 then none
    else if fld w 19 1 = 1 then ck (fld w 24 34 + fld w 0 16) (.muPadd (fBool w 18) cur (.mp (fBool w 23) (f3 w 20)))
    else ck (fld w 24 34 + fld w 20 4) (.muPadd (fBool w 18) cur (.imm (fb 16 w 0)))
  | 0x0E => ck (fld w 0 58) .muChk
  | 0x0F => ck (fld w 6 52) (.muHdr (f3 w 0) (f3 w 3))
  | 0x10 => ck (fld w 0 58) .muRet
  | _ => none

/-- The decoder of one 64-bit micro-word (R233); none is reason 0x0D. -/
def decodeMicro (w : W64) : Option Instr := decMu w.toNat

/-! ## A bundle (R86, R87, R91) -/

/-- A register that an instruction can name as its destination (R91 reason 0x05). -/
inductive RegName
  | a (n : Fin 32) | b (n : Fin 32) | p (n : Fin 8) | v (n : Fin 32) | vm (n : Fin 8) | st (n : Fin 16) | mp (n : Fin 8)
  deriving DecidableEq, Repr

/-- The scalar register a G operand names. -/
def GReg.name : GReg → RegName
  | .a r => .a r
  | .b r => .b r

/-- The cluster register a slot A or B word names (R116). -/
def clusterReg (k : SlotId) (r : Fin 32) : RegName := if k = .B then .b r else .a r

/-- The register of the other cluster (R123). -/
def otherReg (k : SlotId) (r : Fin 32) : RegName := if k = .B then .a r else .b r

/-- The destination registers an instruction names, in the slot that holds it (R91 reason 0x05). MPLD writes mp0-mp7 (R165). -/
def Instr.dests (k : SlotId) : Instr → List RegName
  | .sysrd _ _ g _ => [g.name]
  | .statpop _ _ g => [g.name]
  | .add _ d _ _ => [clusterReg k d]
  | .addi _ d _ _ => [clusterReg k d]
  | .sub _ d _ _ => [clusterReg k d]
  | .mul _ d _ _ => [clusterReg k d]
  | .mulh _ d _ _ => [clusterReg k d]
  | .mulhn _ d _ _ => [clusterReg k d]
  | .and _ d _ _ => [clusterReg k d]
  | .andi _ d _ _ => [clusterReg k d]
  | .or _ d _ _ => [clusterReg k d]
  | .ori _ d _ _ => [clusterReg k d]
  | .xor _ d _ _ => [clusterReg k d]
  | .xori _ d _ _ => [clusterReg k d]
  | .shl _ d _ _ => [clusterReg k d]
  | .shr _ d _ _ => [clusterReg k d]
  | .sar _ d _ _ => [clusterReg k d]
  | .shli _ d _ _ => [clusterReg k d]
  | .shri _ d _ _ => [clusterReg k d]
  | .sari _ d _ _ => [clusterReg k d]
  | .min _ d _ _ => [clusterReg k d]
  | .max _ d _ _ => [clusterReg k d]
  | .minn _ d _ _ => [clusterReg k d]
  | .maxn _ d _ _ => [clusterReg k d]
  | .cmp _ pd _ _ _ => [.p pd]
  | .cmpi _ pd _ _ _ => [.p pd]
  | .sel _ d _ _ _ => [clusterReg k d]
  | .li _ d _ => [clusterReg k d]
  | .lui _ d _ => [clusterReg k d]
  | .addw _ d _ _ => [clusterReg k d]
  | .clz _ d _ => [clusterReg k d]
  | .popc _ d _ => [clusterReg k d]
  | .bext _ d _ _ _ => [clusterReg k d]
  | .bins _ d _ _ _ => [clusterReg k d]
  | .movx _ d _ => [clusterReg k d]
  | .plog _ pd _ _ _ => [.p pd]
  | .ld _ g _ _ _ _ => [g.name]
  | .ldv _ vd _ _ _ => [.v vd]
  | .ldvT _ vd _ _ _ => [.v vd]
  | .fill _ g _ => [g.name]
  | .fillv _ vd _ => [.v vd]
  | .sopenR _ t _ _ => [.st t]
  | .sopenW _ t _ _ => [.st t]
  | .sclose _ t => [.st t]
  | .sread _ vd t => [.v vd, .st t]
  | .swrite _ t _ => [.st t]
  | .sseek _ t _ _ => [.st t]
  | .hdrchk _ pd _ _ _ => [.p pd]
  | .laop _ _ g _ _ _ => [g.name]
  | .ldidx _ vd _ _ _ _ _ => [.v vd]
  | .vadd _ vd _ _ _ _ _ => [.v vd]
  | .vsub _ vd _ _ _ _ _ => [.v vd]
  | .vmul _ vd _ _ _ _ _ => [.v vd]
  | .vfma _ vd _ _ _ _ => [.v vd]
  | .vfms _ vd _ _ _ _ => [.v vd]
  | .vfnma _ vd _ _ _ _ => [.v vd]
  | .vmax _ vd _ _ _ => [.v vd]
  | .vmin _ vd _ _ _ => [.v vd]
  | .vabs _ vd _ _ _ => [.v vd]
  | .vneg _ vd _ _ _ => [.v vd]
  | .vcmp _ vmd _ _ _ _ => [.vm vmd]
  | .vsel _ vd _ _ _ => [.v vd]
  | .vand _ vd _ _ _ => [.v vd]
  | .vor _ vd _ _ _ => [.v vd]
  | .vxor _ vd _ _ _ => [.v vd]
  | .vnot _ vd _ _ => [.v vd]
  | .vshl _ vd _ _ _ => [.v vd]
  | .vshr _ vd _ _ _ => [.v vd]
  | .vsar _ vd _ _ _ => [.v vd]
  | .vcvt _ vd _ _ _ _ _ => [.v vd]
  | .vqnt _ vd _ _ _ _ => [.v vd]
  | .vdqnt _ vd _ _ _ _ => [.v vd]
  | .vbscl _ vd _ _ => [.v vd]
  | .vexp2 _ vd _ _ _ _ => [.v vd]
  | .vlog2 _ vd _ _ _ _ => [.v vd]
  | .vrcp _ vd _ _ _ _ => [.v vd]
  | .vrsq _ vd _ _ _ _ => [.v vd]
  | .vdiv _ vd _ _ _ _ _ => [.v vd]
  | .vsqrt _ vd _ _ _ _ => [.v vd]
  | .vredadd _ vd _ _ _ _ => [.v vd]
  | .vredmax _ vd _ _ => [.v vd]
  | .vredmin _ vd _ _ => [.v vd]
  | .vperm _ vd _ _ _ => [.v vd]
  | .vrot _ vd _ _ => [.v vd]
  | .vbcast _ vd _ => [.v vd]
  | .vins _ vd _ _ => [.v vd]
  | .vext _ vd _ _ _ => [.v vd]
  | .vtag _ vd _ => [.v vd]
  | .vmov _ vd _ _ => [.v vd]
  | .viota _ vd _ => [.v vd]
  | .vseed _ vd => [.v vd]
  | .vmask _ vmd _ _ _ => [.vm vmd]
  | .vmaskB _ vmd _ => [.vm vmd]
  | .mpset _ mp _ => [.mp mp]
  | .mpsetImm _ mp _ => [.mp mp]
  | .mpld _ _ _ => [.mp 0, .mp 1, .mp 2, .mp 3, .mp 4, .mp 5, .mp 6, .mp 7]
  | .mstat _ g _ => [g.name]
  | .recv _ vd _ _ => [.v vd]
  | .recvs _ g _ => [g.name]
  | .nrmt _ _ g _ _ => [g.name]
  | .kstat _ g _ _ => [g.name]
  | _ => []

/-- The slots in index order (R86). -/
def slotOrder : List SlotId := [.C, .A, .B, .M, .V, .X, .N, .D]

/-- The word of one slot of a bundle (R86). -/
def bundleWord (b : BitVec 256) (k : SlotId) : W32 := BitVec.ofNat 32 (b.toNat / 2 ^ (32 * k.idx))

/-- The handler-mode check of a word found at decode (R180-R182, R280, R295): reason 0x0A. -/
def Instr.handlerOk : Instr → Bool
  | .safept _ _ _ => false
  | .endC _ _ => false
  | .trap _ _ _ => false
  | .brk _ _ => false
  | .waitf _ _ _ _ _ => false
  | .postf _ _ _ _ _ => false
  | .waitb _ _ _ _ _ => false
  | .yieldC _ _ _ => false
  | .clkdiv _ _ _ _ => false
  | .bclr _ _ _ _ => false
  | .mcall _ _ _ => false
  | .mcallr _ _ _ => false
  | .muwr _ _ _ _ => false
  | .mrtset _ _ _ => false
  | .mselSwap _ => false
  | .mselS0 _ => false
  | .mselS1 _ => false
  | .send _ _ _ _ => false
  | .sends _ _ _ => false
  | .recv _ _ _ _ => false
  | .recvs _ _ _ => false
  | .fwd _ _ _ _ => false
  | .nbcRow _ _ _ => false
  | .nbcCol _ _ _ => false
  | .nrmt _ _ _ _ _ => false
  | .xcopy _ _ _ _ => false
  | .xld _ _ _ _ _ _ => false
  | .xst _ _ _ _ _ _ => false
  | .xatom _ _ _ _ _ => false
  | .barinit _ _ _ => false
  | .bararr _ _ _ => false
  | .baradd _ _ _ => false
  | .coll _ _ _ _ => false
  | .launch _ _ _ => false
  | .kpost _ _ _ => false
  | .xpf _ _ _ => false
  | .ovl _ _ _ => false
  | _ => true

/-- R180: TRET is the one word that normal mode does not allow. -/
def Instr.normalOk : Instr → Bool
  | .tret _ _ => false
  | _ => true

/-- R176: the bundle range of a mode. -/
def modeRange (handler : Bool) (x : Nat) : Bool := if handler then x < 64 else 64 ≤ x && x < 4096

/-- R181 reason 0x09 found at decode: a BR or CALL target, or a LOOP or LOOPR body end, outside the mode's range. -/
def Instr.targetOk (handler : Bool) (pc : Nat) : Instr → Bool
  | .br _ _ t => modeRange handler t.toNat
  | .call _ _ t => modeRange handler t.toNat
  | .loop _ _ l _ => modeRange handler (pc + l.toNat + 1)
  | .loopr _ _ l _ => modeRange handler (pc + l.toNat + 1)
  | _ => true

/-- The reason of R91 or R181 that a decoded word meets beyond its own encoding: a destination named by a word of lower
slot index (0x05), a target outside the mode's range (0x09), a word the mode forbids (0x0A). -/
def wordReason (handler : Bool) (pc : Nat) (named : List RegName) (k : SlotId) (i : Instr) : Option Nat :=
  if (i.dests k).any (named.contains ·) then some 0x05
  else if !i.targetOk handler pc then some 0x09
  else if !(if handler then i.handlerOk else i.normalOk) then some 0x0A
  else none

/-- The words of a bundle from a list of slots on: the first offending slot with its lowest reason, or every instruction. -/
def decodeWords (handler : Bool) (pc : Nat) (b : BitVec 256) :
    List RegName → List SlotId → Except (SlotId × Nat) (List (SlotId × Instr))
  | _, [] => .ok []
  | named, k :: ks =>
    match decodeSlot k (bundleWord b k) with
    | .error r => .error (k, r)
    | .ok i =>
      match wordReason handler pc named k i with
      | some r => .error (k, r)
      | none =>
        match decodeWords handler pc b (named ++ i.dests k) ks with
        | .error e => .error e
        | .ok l => .ok ((k, i) :: l)

/-- R87: all eight words of the bundle at PC, or the lowest offending slot with its lowest reason. -/
def decodeBundle (handler : Bool) (pc : Nat) (b : BitVec 256) : Except (SlotId × Nat) (List (SlotId × Instr)) :=
  decodeWords handler pc b [] slotOrder

/-! ## The encoder (R88-R104, R233) -/

/-- The predicate and opcode bits of a slot word (R88). -/
def encHead (p : Pred) (opc : Nat) : Nat := (if p.neg then 2 ^ 31 else 0) + p.idx.val * 2 ^ 28 + opc * 2 ^ 22

/-- A G operand as six bits (R96). -/
def eG : GReg → Nat
  | .a r => r.val
  | .b r => 32 + r.val
/-- BUF (R96). -/
def eBuf : Buf → Nat
  | .wb => 0 | .ab => 1 | .acb => 2
/-- A direction (R96). -/
def eDir : Dir → Nat
  | .n => 0 | .e => 1 | .s => 2 | .w => 3
/-- RM (R96). -/
def eRm : Rm → Nat
  | .rne => 0 | .rtz => 1 | .rna => 2 | .sr => 3
/-- A single bit. -/
def eBool (b : Bool) : Nat := if b then 1 else 0
/-- OP of the atomics (R96). -/
def eOp : AtomOp → Nat
  | .add => 0 | .and => 1 | .or => 2 | .xor => 3 | .min => 4 | .max => 5 | .minn => 6 | .maxn => 7 | .swap => 8
/-- COND of CMP and CMPI (R96). -/
def eCond : Cond → Nat
  | .eq => 0 | .ne => 1 | .lt => 2 | .ge => 3 | .ltu => 4 | .geu => 5
/-- COND of VCMP (R96). -/
def eVCond : VCond → Nat
  | .eq => 0 | .ne => 1 | .lt => 2 | .le => 3 | .gt => 4 | .ge => 5 | .un => 6
/-- SCOPE (R104). -/
def eScope : Scope → Nat
  | .isle => 0 | .device => 1 | .fabric => 2
/-- CLS (R97). -/
def eCls : ClkClass → Nat
  | .ctl => 0 | .mat => 1 | .vec => 2 | .cpy => 3
/-- XS and CTX at [12:10] (R97). -/
def eSig : Option (Fin 4) → Nat
  | none => 0
  | some c => 2 ^ 12 + c.val * 2 ^ 10
/-- The route pairs at [15:2] (R103). -/
def eRoute (r : Route) : Nat := eDir r.dir1 * 2 ^ 14 + r.step1.val * 2 ^ 9 + eDir r.dir2 * 2 ^ 7 + r.step2.val * 2 ^ 2
/-- The SYS number of a system register (R195). -/
def SysReg.num : SysReg → Nat
  | .tcause => 0x00 | .taddr => 0x01 | .tslot => 0x02 | .tinfo => 0x03 | .tcause2 => 0x04
  | .regbase => 0x08 | .ctxid => 0x09 | .asid => 0x0A
  | .px => 0x10 | .py => 0x11 | .pw => 0x12 | .ph => 0x13
  | .rcycle => 0x18 | .clkd => 0x19 | .sbmode => 0x1A | .feat => 0x1B | .srseed => 0x1C
  | .bkpt n => 0x20 + n.val
  | .perf n => 0x28 + n.val

/-- Formats of slot C: stall count and the 18 low bits. -/
def eC (p : Pred) (n : Fin 16) (opc low : Nat) : Nat := encHead p opc + n.val * 2 ^ 18 + low
/-- Format AR and AU: D, S1 and the twelve low bits. -/
def eA (p : Pred) (opc : Nat) (d s1 : Fin 32) (low : Nat) : Nat := encHead p opc + d.val * 2 ^ 17 + s1.val * 2 ^ 12 + low
/-- The three-register forms of slots A, B and V: fields at 17, 12 and 7, and the seven low bits. -/
def eV (p : Pred) (opc : Nat) (d a b : Fin 32) (low : Nat) : Nat :=
  encHead p opc + d.val * 2 ^ 17 + a.val * 2 ^ 12 + b.val * 2 ^ 7 + low
/-- Format MV: register, T, BUF, BA and OFF. -/
def eMV (p : Pred) (opc : Nat) (v : Fin 32) (t : Bool) (u : Buf) (ba : Fin 32) (off : BitVec 9) : Nat :=
  encHead p opc + v.val * 2 ^ 17 + eBool t * 2 ^ 16 + eBuf u * 2 ^ 14 + ba.val * 2 ^ 9 + off.toNat
/-- The VM, RM and SAT fields of V3, V2 and VT. -/
def eMod (m : Fin 8) (rm : Rm) (sat : Bool) : Nat := m.val * 2 ^ 4 + eRm rm * 2 ^ 2 + eBool sat * 2
/-- Format DL. -/
def eDL (p : Pred) (opc : Nat) (u : Buf) (bbuf bva f : Fin 32) (sz : Fin 8) : Nat :=
  encHead p opc + eBuf u * 2 ^ 20 + bbuf.val * 2 ^ 15 + bva.val * 2 ^ 10 + f.val * 2 ^ 5 + sz.val * 2 ^ 2
/-- Format DT. -/
def eDT (p : Pred) (opc : Nat) (tidx : BitVec 8) (bb bbar : Fin 32) : Nat :=
  encHead p opc + tidx.toNat * 2 ^ 14 + bb.val * 2 ^ 9 + bbar.val * 2 ^ 4

/-- The words of slot C (R97), with the hint words that every slot has (R92). -/
def encC : Instr → Option Nat
  | .nopC p n => some (eC p n 0x00 0)
  | .hint p h o => some (encHead p (0x3C + h.val) + o.toNat)
  | .br p n t => some (eC p n 0x01 t.toNat)
  | .bri p n bs => some (eC p n 0x02 bs.val)
  | .call p n t => some (eC p n 0x03 t.toNat)
  | .ret p n => some (eC p n 0x04 0)
  | .loop p n l c => some (eC p n 0x05 (l.toNat * 2 ^ 10 + c.toNat))
  | .loopr p n l bs => some (eC p n 0x06 (l.toNat * 2 ^ 10 + bs.val * 2 ^ 5))
  | .lbrk p n => some (eC p n 0x07 0)
  | .safept p n l => some (eC p n 0x08 l.val)
  | .endC p n => some (eC p n 0x09 0)
  | .trap p n c => some (eC p n 0x0A c.toNat)
  | .tret p n => some (eC p n 0x0B 0)
  | .brk p n => some (eC p n 0x0C 0)
  | .waitf p n f g c => some (eC p n 0x0D (f.val * 2 ^ 13 + eSig g + c.toNat))
  | .postf p n f g c => some (eC p n 0x0E (f.val * 2 ^ 13 + eSig g + c.toNat))
  | .waitb p n b g ph => some (eC p n 0x0F (b.val * 2 ^ 13 + eSig g + ph.val))
  | .yieldC p n g => some (eC p n 0x10 (eSig g))
  | .clkdiv p n c d => some (eC p n 0x11 (eCls c * 2 ^ 16 + d.val * 2 ^ 13))
  | .sysrd p n g r => some (eC p n 0x12 (eG g * 2 ^ 12 + r.num * 2 ^ 4))
  | .syswr p n r g => some (eC p n 0x13 (eG g * 2 ^ 12 + r.num * 2 ^ 4))
  | .statpop p n g => some (eC p n 0x14 (eG g * 2 ^ 12))
  | _ => none

/-- The words of slots A and B (R98), with the NOP of every slot but C (R90). -/
def encAB : Instr → Option Nat
  | .nop p => some (encHead p 0x00)
  | .add p d a b => some (eV p 0x01 d a b 0)
  | .addi p d a i => some (eA p 0x02 d a i.toNat)
  | .sub p d a b => some (eV p 0x03 d a b 0)
  | .mul p d a b => some (eV p 0x04 d a b 0)
  | .mulh p d a b => some (eV p 0x05 d a b 0)
  | .mulhn p d a b => some (eV p 0x06 d a b 0)
  | .and p d a b => some (eV p 0x07 d a b 0)
  | .andi p d a i => some (eA p 0x08 d a i.toNat)
  | .or p d a b => some (eV p 0x09 d a b 0)
  | .ori p d a i => some (eA p 0x0A d a i.toNat)
  | .xor p d a b => some (eV p 0x0B d a b 0)
  | .xori p d a i => some (eA p 0x0C d a i.toNat)
  | .shl p d a b => some (eV p 0x0D d a b 0)
  | .shr p d a b => some (eV p 0x0E d a b 0)
  | .sar p d a b => some (eV p 0x0F d a b 0)
  | .shli p d a i => some (eA p 0x10 d a i.toNat)
  | .shri p d a i => some (eA p 0x11 d a i.toNat)
  | .sari p d a i => some (eA p 0x12 d a i.toNat)
  | .min p d a b => some (eV p 0x13 d a b 0)
  | .max p d a b => some (eV p 0x14 d a b 0)
  | .minn p d a b => some (eV p 0x15 d a b 0)
  | .maxn p d a b => some (eV p 0x16 d a b 0)
  | .cmp p pd c a b => some (encHead p 0x17 + pd.val * 2 ^ 19 + eCond c * 2 ^ 16 + a.val * 2 ^ 11 + b.val * 2 ^ 6)
  | .cmpi p pd c a i => some (encHead p 0x18 + pd.val * 2 ^ 19 + eCond c * 2 ^ 16 + a.val * 2 ^ 11 + i.toNat)
  | .sel p d a b ps => some (eV p 0x19 d a b (ps.val * 2 ^ 4))
  | .li p d i => some (encHead p 0x1A + d.val * 2 ^ 17 + i.toNat)
  | .lui p d i => some (encHead p 0x1B + d.val * 2 ^ 17 + i.toNat)
  | .addw p d a b => some (eV p 0x1C d a b 0)
  | .clz p d a => some (eA p 0x1D d a 0)
  | .popc p d a => some (eA p 0x1E d a 0)
  | .bext p d a lo l => some (eA p 0x1F d a (lo.toNat * 2 ^ 6 + l.toNat))
  | .bins p d a lo l => some (eA p 0x20 d a (lo.toNat * 2 ^ 6 + l.toNat))
  | .movx p d a => some (eA p 0x21 d a 0)
  | .plog p pd pa pb tt => some (encHead p 0x22 + pd.val * 2 ^ 19 + pa.val * 2 ^ 16 + pb.val * 2 ^ 13 + tt.toNat * 2 ^ 9)
  | _ => none

/-- The words of slot M (R100). -/
def encM : Instr → Option Nat
  | .ld p g u ba sz off => some (encHead p 0x01 + eG g * 2 ^ 16 + eBuf u * 2 ^ 14 + ba.val * 2 ^ 9 + sz.val * 2 ^ 6 + off.toNat)
  | .st p g u ba sz off => some (encHead p 0x02 + eG g * 2 ^ 16 + eBuf u * 2 ^ 14 + ba.val * 2 ^ 9 + sz.val * 2 ^ 6 + off.toNat)
  | .ldv p v u ba off => some (eMV p 0x03 v false u ba off)
  | .ldvT p v u ba off => some (eMV p 0x03 v true u ba off)
  | .stv p v u ba off => some (eMV p 0x04 v false u ba off)
  | .stvT p v u ba off => some (eMV p 0x04 v true u ba off)
  | .fill p g off => some (encHead p 0x05 + eG g * 2 ^ 16 + off.toNat)
  | .spill p g off => some (encHead p 0x06 + eG g * 2 ^ 16 + off.toNat)
  | .fillv p v off => some (encHead p 0x07 + v.val * 2 ^ 17 + off.val)
  | .spillv p v off => some (encHead p 0x08 + v.val * 2 ^ 17 + off.val)
  | .sopenR p t u ba => some (encHead p 0x09 + t.val * 2 ^ 18 + eBuf u * 2 ^ 16 + ba.val * 2 ^ 11)
  | .sopenW p t u ba => some (encHead p 0x09 + t.val * 2 ^ 18 + eBuf u * 2 ^ 16 + ba.val * 2 ^ 11 + 2 ^ 10)
  | .sclose p t => some (encHead p 0x0A + t.val * 2 ^ 18)
  | .sread p v t => some (encHead p 0x0B + v.val * 2 ^ 17 + t.val * 2 ^ 13)
  | .swrite p t v => some (encHead p 0x0C + t.val * 2 ^ 18 + v.val * 2 ^ 13)
  | .sseek p t r c => some (encHead p 0x0D + t.val * 2 ^ 18 + r.val * 2 ^ 13 + c.val * 2 ^ 8)
  | .hdrmk p v u ba off => some (eMV p 0x0E v false u ba off)
  | .hdrchk p pd u ba off => some (encHead p 0x0F + pd.val * 2 ^ 19 + eBuf u * 2 ^ 14 + ba.val * 2 ^ 9 + off.toNat)
  | .laop p op g u ba bv => some (encHead p 0x10 + eG g * 2 ^ 16 + eBuf u * 2 ^ 14 + ba.val * 2 ^ 9 + bv.val * 2 ^ 4 + eOp op)
  | .bclr p u ba bl => some (encHead p 0x11 + eBuf u * 2 ^ 14 + ba.val * 2 ^ 9 + bl.val * 2 ^ 4)
  | .ldidx p v vi u ba e m =>
    some (encHead p 0x12 + v.val * 2 ^ 17 + vi.val * 2 ^ 12 + eBuf u * 2 ^ 10 + ba.val * 2 ^ 5 + e.val * 2 ^ 3 + m.val)
  | .stidx p v vi u ba e m =>
    some (encHead p 0x13 + v.val * 2 ^ 17 + vi.val * 2 ^ 12 + eBuf u * 2 ^ 10 + ba.val * 2 ^ 5 + e.val * 2 ^ 3 + m.val)
  | _ => none

/-- The words of slot V (R101). -/
def encV : Instr → Option Nat
  | .vadd p d a b m rm sat => some (eV p 0x01 d a b (eMod m rm sat))
  | .vsub p d a b m rm sat => some (eV p 0x02 d a b (eMod m rm sat))
  | .vmul p d a b m rm sat => some (eV p 0x03 d a b (eMod m rm sat))
  | .vfma p d a b c rm => some (eV p 0x04 d a b (c.val * 2 ^ 2 + eRm rm))
  | .vfms p d a b c rm => some (eV p 0x05 d a b (c.val * 2 ^ 2 + eRm rm))
  | .vfnma p d a b c rm => some (eV p 0x06 d a b (c.val * 2 ^ 2 + eRm rm))
  | .vmax p d a b m => some (eV p 0x07 d a b (m.val * 2 ^ 4))
  | .vmin p d a b m => some (eV p 0x08 d a b (m.val * 2 ^ 4))
  | .vabs p d a m sat => some (eV p 0x09 d a 0 (m.val * 2 ^ 4 + eBool sat * 2))
  | .vneg p d a m sat => some (eV p 0x0A d a 0 (m.val * 2 ^ 4 + eBool sat * 2))
  | .vcmp p d c a b m =>
    some (encHead p 0x0B + d.val * 2 ^ 19 + eVCond c * 2 ^ 16 + a.val * 2 ^ 11 + b.val * 2 ^ 6 + m.val * 2 ^ 3)
  | .vsel p d a b m => some (eV p 0x0C d a b (m.val * 2 ^ 4))
  | .vand p d a b m => some (eV p 0x0D d a b (m.val * 2 ^ 4))
  | .vor p d a b m => some (eV p 0x0E d a b (m.val * 2 ^ 4))
  | .vxor p d a b m => some (eV p 0x0F d a b (m.val * 2 ^ 4))
  | .vnot p d a m => some (eV p 0x10 d a 0 (m.val * 2 ^ 4))
  | .vshl p d a b m => some (eV p 0x11 d a b (m.val * 2 ^ 4))
  | .vshr p d a b m => some (eV p 0x12 d a b (m.val * 2 ^ 4))
  | .vsar p d a b m => some (eV p 0x13 d a b (m.val * 2 ^ 4))
  | .vcvt p d a b m rm sat => some (eV p 0x14 d a b (eMod m rm sat))
  | .vqnt p d a s b rm => some (eV p 0x15 d a s (b.val * 2 ^ 2 + eRm rm))
  | .vdqnt p d a s b rm => some (eV p 0x16 d a s (b.val * 2 ^ 2 + eRm rm))
  | .vbscl p d a b => some (eV p 0x17 d a b 0)
  | .vexp2 p d a m rm sat => some (eV p 0x18 d a 0 (eMod m rm sat))
  | .vlog2 p d a m rm sat => some (eV p 0x19 d a 0 (eMod m rm sat))
  | .vrcp p d a m rm sat => some (eV p 0x1A d a 0 (eMod m rm sat))
  | .vrsq p d a m rm sat => some (eV p 0x1B d a 0 (eMod m rm sat))
  | .vdiv p d a b m rm sat => some (eV p 0x1C d a b (eMod m rm sat))
  | .vsqrt p d a m rm sat => some (eV p 0x1D d a 0 (eMod m rm sat))
  | .vredadd p d a m rm sat => some (eV p 0x1E d a 0 (eMod m rm sat))
  | .vredmax p d a m => some (eV p 0x1F d a 0 (m.val * 2 ^ 4))
  | .vredmin p d a m => some (eV p 0x20 d a 0 (m.val * 2 ^ 4))
  | .vperm p d a b m => some (eV p 0x21 d a b (m.val * 2 ^ 4))
  | .vrot p d a k => some (eA p 0x22 d a (k.toNat * 2 ^ 4))
  | .vbcast p d b => some (eA p 0x23 d b 0)
  | .vins p d b i => some (eV p 0x24 d b i 0)
  | .vext p d a b k => some (eV p 0x25 d a b (k.toNat * 2))
  | .vtag p d b => some (eA p 0x26 d b 0)
  | .vmov p d a m => some (eV p 0x27 d a 0 (m.val * 2 ^ 4))
  | .viota p d b => some (eA p 0x28 d b 0)
  | .vseed p d => some (encHead p 0x29 + d.val * 2 ^ 17)
  | .vmask p d a b tt => some (encHead p 0x2A + d.val * 2 ^ 19 + a.val * 2 ^ 16 + b.val * 2 ^ 13 + tt.toNat * 2 ^ 9)
  | .vmaskB p d b => some (encHead p 0x2A + d.val * 2 ^ 19 + 2 ^ 8 + b.val)
  | _ => none

/-- The words of slot X (R102). -/
def encX : Instr → Option Nat
  | .mcall p i m => some (encHead p 0x01 + i.val * 2 ^ 16 + m.toNat * 2 ^ 8)
  | .mcallr p i b => some (encHead p 0x02 + i.val * 2 ^ 16 + b.val * 2 ^ 11)
  | .mpset p m b => some (encHead p 0x03 + m.val * 2 ^ 19 + b.val * 2 ^ 13)
  | .mpsetImm p m i => some (encHead p 0x03 + m.val * 2 ^ 19 + 2 ^ 18 + i.toNat)
  | .mpld p b off => some (encHead p 0x04 + b.val * 2 ^ 17 + off.toNat * 2 ^ 8)
  | .muwr p a u c => some (eA p 0x05 a u (c.toNat * 2 ^ 4))
  | .mrtset p i b => some (encHead p 0x06 + i.val * 2 ^ 16 + b.val * 2 ^ 11)
  | .mselSwap p => some (encHead p 0x07)
  | .mselS0 p => some (encHead p 0x07 + 2 ^ 20)
  | .mselS1 p => some (encHead p 0x07 + 2 * 2 ^ 20)
  | .mstat p g s => some (encHead p 0x08 + eG g * 2 ^ 16 + s.val * 2 ^ 12)
  | _ => none

/-- The words of slot N (R103). -/
def encN : Instr → Option Nat
  | .send p v h r => some (encHead p 0x01 + v.val * 2 ^ 17 + eBool h * 2 ^ 16 + eRoute r)
  | .sends p g r => some (encHead p 0x02 + eG g * 2 ^ 16 + eRoute r)
  | .recv p v h d => some (encHead p 0x03 + v.val * 2 ^ 17 + eBool h * 2 ^ 16 + eDir d * 2 ^ 14)
  | .recvs p g d => some (encHead p 0x04 + eG g * 2 ^ 16 + eDir d * 2 ^ 14)
  | .fwd p a b c => some (encHead p 0x05 + eDir a * 2 ^ 20 + eDir b * 2 ^ 18 + c.toNat * 2 ^ 8)
  | .nbcRow p v h => some (encHead p 0x06 + v.val * 2 ^ 17 + eBool h * 2 ^ 16)
  | .nbcCol p v h => some (encHead p 0x06 + v.val * 2 ^ 17 + eBool h * 2 ^ 16 + 2 ^ 15)
  | .nrmt p op g a v => some (encHead p 0x07 + eG g * 2 ^ 16 + a.val * 2 ^ 11 + v.val * 2 ^ 6 + eOp op * 2 ^ 2)
  | _ => none

/-- The words of slot D (R104). -/
def encD : Instr → Option Nat
  | .xcopy p t b r => some (eDT p 0x01 t b r)
  | .xld p u b v f sz => some (eDL p 0x02 u b v f sz)
  | .xst p u b v f sz => some (eDL p 0x03 u b v f sz)
  | .xatom p op a v f => some (encHead p 0x04 + a.val * 2 ^ 17 + v.val * 2 ^ 12 + f.val * 2 ^ 7 + eOp op * 2 ^ 3)
  | .barinit p b x => some (eA p 0x05 b x 0)
  | .bararr p b x => some (eA p 0x06 b x 0)
  | .baradd p b x => some (eA p 0x07 b x 0)
  | .phaseR p s => some (encHead p 0x08 + 2 ^ 21 + eScope s * 2 ^ 18)
  | .phaseA p s => some (encHead p 0x08 + 2 ^ 20 + eScope s * 2 ^ 18)
  | .phaseRa p s => some (encHead p 0x08 + 2 ^ 21 + 2 ^ 20 + eScope s * 2 ^ 18)
  | .coll p t b r => some (eDT p 0x09 t b r)
  | .launch p s r => some (eA p 0x0A s r 0)
  | .kpost p k b => some (encHead p 0x0B + k.val * 2 ^ 21 + b.val * 2 ^ 16)
  | .kstat p g k s => some (encHead p 0x0C + eG g * 2 ^ 16 + k.val * 2 ^ 15 + s.val * 2 ^ 12)
  | .xpf p a l => some (eA p 0x0D a l 0)
  | .ovl p o f => some (encHead p 0x0E + o.toNat * 2 ^ 14 + f.val * 2 ^ 9)
  | _ => none

/-- The slot word of an instruction; none for a micro-word or an event. -/
def encodeWord (i : Instr) : Option Nat :=
  match encC i with
  | some w => some w
  | none =>
    match encAB i with
    | some w => some w
    | none =>
      match encM i with
      | some w => some w
      | none =>
        match encV i with
        | some w => some w
        | none =>
          match encX i with
          | some w => some w
          | none =>
            match encN i with
            | some w => some w
            | none => encD i

/-- A 64-bit micro-word from its UOP and operand bits (R233). -/
def eMu (uop low : Nat) : Nat := uop * 2 ^ 58 + low

/-- CUR of PADD (R233). -/
def eCursor : Cursor → Nat
  | .mi => 0 | .nj => 1 | .ko => 2

/-- The count of a LOOP micro-word. -/
def eCount : MuCount → Nat
  | .imm n => n.toNat
  | .mp r => r.val * 2 ^ 17 + 2 ^ 16
/-- The amount of a PADD micro-word. -/
def eStride : PaddVal → Nat
  | .imm x => x.toNat
  | .mp h r => eBool h * 2 ^ 23 + r.val * 2 ^ 20 + 2 ^ 19

/-- The micro-word of a micro-operation; none for anything else. -/
def encodeMicro : Instr → Option Nat
  | .muNop n => some (eMu 0x00 n.toNat)
  | .muLda s => some (eMu 0x01 s.val)
  | .muLdb s => some (eMu 0x02 s.val)
  | .muStep a s => some (eMu 0x03 (eBool a * 2 + s.val))
  | .muMask d m => some (eMu 0x04 (m.val * 2 ^ 2 + eBool d))
  | .muScl a b s => some (eMu 0x05 (eBool b * 2 ^ 2 + eBool a * 2 + s.val))
  | .muZero l => some (eMu 0x06 (eBool l))
  | .muFold => some (eMu 0x07 0)
  | .muDrain m => some (eMu 0x08 m.val)
  | .muDrnc m => some (eMu 0x09 m.val)
  | .muXpose o => some (eMu 0x0A (eBool o))
  | .muLoop c => some (eMu 0x0B (eCount c))
  | .muEndl => some (eMu 0x0C 0)
  | .muPadd set c x => some (eMu 0x0D (eStride x + eBool set * 2 ^ 18 + eCursor c * 2 ^ 16))
  | .muChk => some (eMu 0x0E 0)
  | .muHdr a b => some (eMu 0x0F (b.val * 2 ^ 3 + a.val))
  | .muRet => some (eMu 0x10 0)
  | _ => none

/-- The slots that can hold an instruction's word (R97-R104). -/
def Instr.slots : Instr → List SlotId
  | .hint _ _ _ => slotOrder
  | .nop _ => [.A, .B, .M, .V, .X, .N, .D]
  | i =>
    match encodeWord i with
    | none => []
    | some w => slotOrder.filter fun k => (decodeSlot k (BitVec.ofNat 32 w)).toOption == some i

/-! ## The host's words -/

/-- How many operand bits of the word a slot's format fixes: those whose flip makes the slot refuse the word. -/
def specificity (k : SlotId) (w : Nat) : Nat :=
  ((List.range 22).filter fun j =>
    match decodeSlot k (BitVec.ofNat 32 (if bit w j then w - 2 ^ j else w + 2 ^ j)) with
    | .ok _ => false
    | .error _ => true).length

/-- The slots whose format admits the word, each with its instruction and how much of the word that format fixes. -/
def slotReadings (w : Nat) : List (SlotId × Instr × Nat) :=
  slotOrder.filterMap fun k =>
    match decodeSlot k (BitVec.ofNat 32 w) with
    | .ok i => some (k, i, specificity k w)
    | .error _ => none

/-- The reading of a 32-bit word that stands alone: the slot whose format fixes the most bits of it, the lowest index among
equals. The word itself does not name its slot (R86), so this choice is the model's own (log 9). -/
def tableReading (w : Nat) : Option (SlotId × Instr) :=
  match slotReadings w with
  | [] => none
  | x :: xs =>
    let best := xs.foldl (fun (b : SlotId × Instr × Nat) y => if b.2.2 < y.2.2 then y else b) x
    some (best.1, best.2.1)

/-- The instruction that the decoder reads from a word of the opcode table: a 32-bit slot word, or a 64-bit micro-word. -/
def decodeTableWord (nbits w : Nat) : Option Instr :=
  if nbits = 64 then decodeMicro (BitVec.ofNat 64 w)
  else if nbits ≤ 32 then (tableReading (w % 2 ^ 32)).map (·.2)
  else none

end Sys2Proof
end

