-- ==== Sys2Proof/Machine/State.lean ====
section
/-! DEFINITION. The machine's state as plain data, the reasons a step can stop, and the state after reset. INVENTORY.md,
'## State', lists every piece with its rule. One context is in focus: its tables are `ctx`, the isle in focus is `core` and
its other isles stand in `left` and `right` (log 3). -/

namespace Sys2Proof.Machine

/-- Bytes by address, in one canonical form: addresses strictly rising and no zero byte listed. An unlisted address reads as
zero (R51, R258, R267). -/
abbrev Mem := List Host.Cell

/-- Why the machine stops with no next state. -/
inductive Fault
  /-- Raised by an event of a frame that R246 leaves unpopulated (FRAME_ZEROED, FRAME_RETIREMENT). Safe: the spec gives such a
  frame no contents. -/
  | unpopulatedAddress
  deriving DecidableEq, Repr

/-- Why an instruction has no meaning here. -/
inductive Refusal
  /-- Raised by an arm of `exec` that has no meaning yet. Safe. -/
  | notModelled (mnemonic : String)
  deriving DecidableEq, Repr

/-! ## An isle -/

/-- A loop-stack entry (R178). -/
structure LoopEnt where
  start : Nat
  fin : Nat
  count : Nat
  index : Nat
  deriving DecidableEq, Repr

/-- A stream register, field by field (R155); the closed stream has every field zero. -/
structure StreamReg where
  opened : Bool := false
  write : Bool := false
  buf : Buf := .wb
  sph : Bool := false
  row : Nat := 0
  col : Nat := 0
  base : Nat := 0
  tscale : Nat := 0
  moff : Nat := 0
  soff : Nat := 0
  doff : Nat := 0
  stride : Nat := 0
  cols : Nat := 0
  rows : Nat := 0
  kind : Nat := 0
  geom : Nat := 0
  efd : Nat := 0
  deriving DecidableEq, Repr

/-- A network word: half a register with its tag, or a scalar (R273). -/
structure NWord where
  data : BitVec 1024
  tag : W32
  deriving DecidableEq, Repr

/-- A pass-through window (R283): the output and the last rc it is open in. -/
structure FwdWin where
  dout : Dir
  last : Nat
  deriving DecidableEq, Repr

/-- The kinds of a statistics record (R332). -/
inductive EvKind | nv | of | uf | dz | accovf | inexactAlign | lost
  deriving DecidableEq, Repr

/-- When a step of an operation in flight falls: at the end of a region cycle, or of the region cycle that contains an enabled
tick of the context (R378). -/
inductive Due | rc (n : Nat) | tick (n : Nat)
  deriving DecidableEq, Repr

/-- An update of a barrier word (R303, R304): an arrival with a byte announcement, an announcement, a count of bytes moved, a
kite's arrive. -/
inductive BarUpd
  | init (x : W64)
  | arrive (y : Int)
  | add (y : Int)
  | bytes (n : Nat)
  | kite (n : Nat)
  | coll
  deriving DecidableEq, Repr

/-- A buffer read still to come: which bytes, and what is made of them when they have been read (R211). -/
inductive Access
  /-- LD (R216): size in bytes, signedness. -/
  | scalar (g : GReg) (u : Buf) (a size : Nat) (signed : Bool)
  /-- LDV (R217). -/
  | rawVec (r : Fin 32) (u : Buf) (a : Nat)
  /-- LDV.T (R218): element width and the tag that lands. -/
  | tileVec (r : Fin 32) (u : Buf) (a width : Nat) (tag : W32)
  /-- LDIDX (R225): element size, and the enabled elements with their addresses. -/
  | gather (r : Fin 32) (u : Buf) (size : Nat) (elems : List (Nat × Nat))
  /-- HDRCHK (R220). -/
  | header (r : Fin 8) (u : Buf) (a : Nat)
  /-- SREAD (R163): the stream as it stood. -/
  | stream (r : Fin 32) (t : StreamReg)
  /-- LAOP (R223). -/
  | atomic (g : GReg) (u : Buf) (a : Nat) (op : AtomOp) (y : W64)
  /-- The packet read of KPOST (R314), for the operation that posts it. -/
  | packet (op : Nat) (a : Nat)
  /-- The record read of LAUNCH (R309), for the operation that arms the slot. -/
  | record (op : Nat) (a : Nat)
  deriving DecidableEq, Repr

/-- What lands when an operation in flight takes its step. -/
inductive Eff
  | scalar (g : GReg) (x : W64)
  | pred (r : Fin 8) (x : Bool)
  /-- Data under a bit mask of the elements written, the tag where one lands, the events owed (R134, R154). -/
  | vec (r : Fin 32) (x en : V2048) (tag : Option W32) (events : List (EvKind × Nat))
  | mask (r : Fin 8) (x : W64)
  /-- A tag alone (R152). -/
  | tag (r : Fin 32) (x : W32)
  | stream (r : Fin 16) (x : StreamReg)
  | mp (r : Fin 8) (x : W32)
  /-- MPLD (R168): the 32 bytes that fill mp0 to mp7. -/
  | mpLine (x : BitVec 256)
  /-- Bytes that land in a buffer (R211). -/
  | store (u : Buf) (bytes : List (Nat × Byte))
  /-- Bits of a stored row, laid over what the row holds when they land (R62, R164). -/
  | storeBits (u : Buf) (a off n x : Nat)
  /-- An access, and when its result lands after it. -/
  | access (x : Access) (land : Due)
  /-- Lines of a running BCLR (R224): next line, lines left. -/
  | clear (u : Buf) (a lines : Nat)
  /-- Bytes and tag words of the ballast quarter (R221). -/
  | spill (bytes : List (Nat × Byte)) (tag : Option (Fin 16 × W32))
  /-- POSTF (R372): the addition to a flag of the named context. -/
  | post (f : Fin 32) (c : Nat) (n : Nat)
  | sys (r : SysReg) (x : W64)
  /-- The update of an AB barrier at its bank unit (R303); `op` is the operation that owes it, for its deferred fault. -/
  | barrier (a : Nat) (u : BarUpd) (seq : Nat)
  /-- An arriving NRMT at the target's bank unit (R285). -/
  | remote (id : Nat)
  /-- RECV and RECVS empty their latch (R282). -/
  | drainLatch (d : Dir)
  /-- A word held by its clock class before its start (R378): it lands nothing. -/
  | begin_
  /-- FWD opens its window (R283). -/
  | window (din : Dir) (w : FwdWin)
  /-- The oldest statistics record leaves the queue (R377). -/
  | pop
  /-- MSTAT SEL 3 clears ACCOVF (R172). -/
  | clearAccovf
  deriving DecidableEq, Repr

/-- An operation in flight (R47, R323): when its next step falls, its issue number, the word that issued it with RCYCLE at its issue and
the cycle that orders it by issue (R95: RCYCLE, or the handler's cycle in handler mode), and its class in the latency table (R105)
where it has one. -/
structure Flight where
  due : Due
  seq : Nat
  slot : SlotId
  bundle : Nat
  rcyc : Nat
  time : Nat
  cls : Nat
  eff : Eff
  deriving DecidableEq, Repr

/-- A trap found in a region cycle (R321): cause, TADDR, TINFO, slot, ISSUED. -/
structure TrapRec where
  cause : Nat
  addr : Nat
  info : Nat
  slot : Nat
  issued : Bool
  deriving DecidableEq, Repr

/-- A wait that has issued (R371, R375). -/
inductive Wait
  | flag (f : Fin 32) (n : Nat) (sig : Option (Fin 4))
  | barrier (ref : W64) (ph : Nat) (sig : Option (Fin 4)) (met : Bool)
  | yielding (sig : Option (Fin 4))
  deriving DecidableEq, Repr

/-- Why a bundle's issue is held with the clock-enable off, beside the conditions of R38. -/
inductive Hold
  | copyUnitFull | kiteQuota (sock : Nat) | releasePending | handleFetch (idx : Nat) | phaseRead (va : Nat)
  /-- A phase read that waits for a budget or a cap, and has been counted (R384, R387). -/
  | phaseWait (va : Nat)
  deriving DecidableEq, Repr

/-- How the sequencer chooses the next bundle (R179). -/
inductive Next | seq | jump (x : Nat) | lbrk | leave
  deriving DecidableEq, Repr

/-! ## The matrix engine (R227-R244) -/

/-- A row of an accumulator set: the exponent, 128 significands, and the mod-255 residue carried for each of them (R228, R240). -/
structure AccRow where
  e : Int
  s : List W64
  r : List Nat
  deriving DecidableEq, Repr

/-- The binding of a set (R228). -/
structure Binding where
  acc : Nat
  mi : Nat
  nj : Nat
  rows : Nat
  cols : Nat
  deriving DecidableEq, Repr

/-- An accumulator set; rows that are not listed are zero. -/
structure AccSet where
  rows : List (Nat × AccRow) := []
  bind : Option Binding := none
  committed : Bool := false
  deriving DecidableEq, Repr

/-- An exact value: NaN, an infinity, or (-1)^neg x m x 2^e. -/
inductive XVal | nan | inf (neg : Bool) | fin (neg : Bool) (m : Nat) (e : Int)
  deriving DecidableEq, Repr

/-- A staged panel (R236): element values, none outside the tile, with the width of the format and the sparsity code. -/
structure Panel where
  elems : List (List (Option XVal))
  width : Nat
  sparse : Nat
  deriving DecidableEq, Repr

/-- A staging slot (R236): panels, and for each position the block scale times TSCALE. -/
structure Stage where
  a : Option Panel := none
  b : Option Panel := none
  sa : Option (List (List XVal)) := none
  sb : Option (List (List XVal)) := none
  deriving DecidableEq, Repr

/-- The window sums of one K-block (R73), the same before saturation, the elements that saturated, KO, and for every element T mod 255
before saturation (R240). -/
structure Window where
  ko : Nat
  sums : List (List XVal)
  exact : List (List XVal)
  sat : List Nat
  res : List (List Nat)
  deriving DecidableEq, Repr

/-- What the engine has read in the open segment, for a rerun of it (R243): a panel, scales, rows of an accumulator, or an accumulator's
header. -/
inductive Loaded
  | panel (p : Panel)
  | scales (l : List (List XVal))
  | rows (l : List (Nat × AccRow))
  | header (l : List Byte)
  deriving DecidableEq, Repr

/-- What a segment holds back until it commits (R241): writes in their order, bytes counted, the set it has changed, saturation, and
the lowest element of each kind of event with its micro-word; and whether a residue has disagreed in it (R240). -/
structure Segment where
  failed : Bool := false
  writes : List Eff := []
  size : Nat := 0
  dirty : Bool := false
  accovf : Bool := false
  events : List (EvKind × Nat × Nat) := []
  /-- The committed set: whether it is set 1, and its contents. -/
  set : Option (Bool × AccSet) := none
  deriving DecidableEq, Repr

/-- A routine call as it was at issue (R173, R175): entry, START, the snapshot, the handle's index, header and RWB for a record call,
the accumulator's header where it holds data (unread under CONV = 0), and SRSEED. -/
structure Call where
  idx : Nat
  start : Nat
  mp : List W32
  st : List StreamReg
  handle : Option (Nat × BitVec 256 × Nat)
  acc : Option (BitVec 256)
  read : Bool
  seed : W64
  deriving DecidableEq, Repr

/-- A running routine (R231, R235): the panel state, and for each unit the first cycle in which it is idle. -/
structure Routine where
  call : Call
  upc : Nat
  cycle : Nat
  mi : Nat
  nj : Nat
  ko : Nat
  rlim : Nat := 4096
  clim : Nat := 4096
  dlim : Nat := 4096
  xpose : Bool := false
  st : List StreamReg
  acc : Option (BitVec 256)
  read : Bool
  held : Bool
  stage0 : Stage := {}
  stage1 : Stage := {}
  window : Option Window := none
  lastKo : Option Nat := none
  loops : List (Nat × Nat) := []
  seqFree : Nat := 0
  loadFree : Nat := 0
  arrayFree : Nat := 0
  foldFree : Nat := 0
  drainFree : Nat := 0
  /-- First cycle after the loads into slots 0 and 1. -/
  load0 : Nat := 0
  load1 : Nat := 0
  /-- The slot that the latest STEP reads. -/
  stepSlot : Nat := 0
  /-- First cycle in which the latest FOLD has emptied the window. -/
  foldEnd : Nat := 0
  /-- The working contents of the active set. -/
  work : AccSet
  segment : Segment := {}
  /-- A CHK or RET under way: its last cycle, whether it is a RET, and its segment. -/
  pending : Option (Nat × Bool × Segment) := none
  /-- RET has issued. -/
  returned : Bool := false
  logged : List EvKind := []
  /-- What the loads of the segment have delivered, oldest first, and in a rerun what they deliver again (R243). -/
  loads : List Loaded := []
  feed : List Loaded := []
  /-- The micro-word whose breakpoint has been taken (R201). -/
  stopped : Option Nat := none
  deriving DecidableEq, Repr

/-- The state that a segment started from (R242, R243): the routine, and both sets. -/
structure SegStart where
  routine : Routine
  set0 : AccSet
  set1 : AccSet
  deriving DecidableEq, Repr

/-- A rerun of the open segment (R243): which of the two, the first one's signature: a residue sum for each row of the active set, and
the run's cycle count; and the rc at whose end the segment lands. -/
structure Rerun where
  second : Bool
  signature : List Nat × Nat
  due : Nat
  deriving DecidableEq, Repr

/-- A passed segment on its way (R242): the rc at whose end it lands, which holds the end of the last cycle of its CHK or RET (R378), the
bundle and RCYCLE of its call, whether a RET closed it, and the micro-word after that. -/
structure Landing where
  segment : Segment
  due : Nat
  bundle : Nat
  rcyc : Nat
  ret : Bool
  upc : Nat
  deriving DecidableEq, Repr

/-- A word that occupies the engine (R166), as it was at issue. -/
inductive XWord
  | call (c : Call)
  | muwr (src dst n : Nat)
  | mrtset (idx : Fin 64) (x : W64)
  | msel (mode : Nat)
  deriving DecidableEq, Repr

/-- A running or latched engine word: its first rc, its length in rc, and the bundle that issued it. -/
structure XRun where
  word : XWord
  first : Nat
  len : Nat
  bundle : Nat
  rcyc : Nat
  deriving DecidableEq, Repr

/-- The matrix engine of an isle. `replay` is an error of the array, which only the outside can bring about: a residue of the open
segment disagrees (R240), and it says whether the two reruns will be free of errors (R243, log 38). -/
structure Matrix where
  actset : Bool := false
  accovf : Bool := false
  running : Option XRun := none
  latched : Option XRun := none
  done : Nat := 0
  set0 : AccSet := {}
  set1 : AccSet := {}
  routine : Option Routine := none
  staged : List W64 := []
  /-- Passed segments that have still to land, oldest first. -/
  landing : List Landing := []
  replay : Option Bool := none
  /-- What the open segment started from, and the routine at the CHK under way, from which the next one starts (R242, R243). -/
  base : Option SegStart := none
  chk : Option Routine := none
  /-- The loads of the segment that the CHK or RET under way closes (R243). -/
  past : List Loaded := []
  rerun : Option Rerun := none
  /-- MAT cycles of the rc before that the engine has still to run, each by the tick of the rc at which it begins, and the end of its interval:
  it stopped in that rc for a micro-PC breakpoint (R201) or a replay (R243). -/
  owed : Option (List Nat) := none
  deriving DecidableEq, Repr

/-- A record of a collective's completion that waits for its WAITB (R332): the barrier, the issue number of the COLL, the phase of the barrier
in which its arrival counted, once it has, and the record. -/
structure CollRec where
  ref : W64
  seq : Nat
  phase : Option Nat
  record : W64
  deriving DecidableEq, Repr

/-- The state of a context on one isle. -/
structure Isle where
  px : Nat
  py : Nat
  a : Vector W64 32
  b : Vector W64 32
  p : Vector Bool 8
  v : Vector V2048 32
  tag : Vector W32 32
  vm : Vector W64 8
  st : Vector StreamReg 16
  mp : Vector W32 8
  flag : Vector (BitVec 16) 32
  pc : Nat
  handler : Bool
  loops : List LoopEnt
  hloops : List LoopEnt
  calls : List Nat
  hcalls : List Nat
  ended : Bool
  stall : Nat
  /-- How this rc's bundle ends (R179), and the stall count of its slot C word (R93). -/
  next : Next
  nextStall : Nat
  tcause : W64
  taddr : W64
  tslot : W64
  tinfo : W64
  tcause2 : W64
  srseed : W64
  sbmode : BitVec 2
  perf : Vector W64 8
  bkpt : Vector W64 4
  bksup : Bool
  wb : Mem
  ab : Mem
  acb : Mem
  ballast : Mem
  btag : Vector W32 16
  flights : List Flight
  hflights : List Flight
  /-- Handler cycles since the trap (log 11). -/
  htime : Nat
  /-- Whether the handler's bundles 0 and 1 have issued (R328). -/
  hread : Bool × Bool
  /-- The first enabled tick of each class that no word holds (R378). -/
  held : Vector Nat 4
  /-- Receive latches N, E, S, W (R274), and the windows of FWD by input direction (R283). -/
  latch : Vector (Option NWord) 4
  fwd : Vector (Option FwdWin) 4
  mat : Matrix
  rtab : Vector W64 64
  ustore : List W64
  imem : List (Nat × BitVec 256)
  imap : List (Nat × Nat)
  statq : List W64
  /-- Records of collectives that the wait covering them will deliver (R332). -/
  collRecs : List CollRec
  wait : Option Wait
  /-- Device barriers whose phase has been read (R375, log 45). -/
  phases : List (Nat × Nat)
  /-- This rc's trap before issue, its trap after issue, and the deferred fault that its wait raises (R256, R322). -/
  early : Option TrapRec
  late : Option TrapRec
  deferred : Option Nat
  /-- The stall count of a handler's bundle (R93). -/
  hstall : Nat
  /-- RPC as the trap left it, and the bundle that follows if the handler leaves it so (R256). -/
  ret : Option (Nat × Nat)
  /-- The bundle whose wait stands. -/
  waitPc : Nat
  /-- Why this rc's bundle is held; the list of its SAFEPT (R186); the class and divisor of its CLKDIV (R189). -/
  hold : Option Hold
  safe : Option Nat
  clk : Option (ClkClass × Nat)
  /-- Uncorrectable errors: where, and which sector, bundle or entry (R207, log 38). -/
  poison : List (Nat × Nat)
  deriving DecidableEq, Repr

/-- The isle of a context that starts: every register as R51 gives it. -/
def Isle.start (px py pc : Nat) : Isle :=
  { px := px, py := py
    a := Vector.replicate 32 0, b := Vector.replicate 32 0
    p := (Vector.replicate 8 false).set 0 true
    v := Vector.replicate 32 0, tag := Vector.replicate 32 0, vm := Vector.replicate 8 0
    st := Vector.replicate 16 {}, mp := Vector.replicate 8 0, flag := Vector.replicate 32 0
    pc := pc, handler := false, loops := [], hloops := [], calls := [], hcalls := []
    ended := false, stall := 0, next := .seq, nextStall := 0
    tcause := 0, taddr := 0, tslot := 0, tinfo := 0, tcause2 := 0, srseed := 0, sbmode := 0
    perf := Vector.replicate 8 0, bkpt := Vector.replicate 4 0, bksup := false
    wb := [], ab := [], acb := [], ballast := [], btag := Vector.replicate 16 0
    flights := [], hflights := [], htime := 0, hread := (false, false), held := Vector.replicate 4 0
    latch := Vector.replicate 4 none, fwd := Vector.replicate 4 none
    mat := {}, rtab := Vector.replicate 64 0, ustore := [], imem := [], imap := []
    statq := [], collRecs := [], wait := none, phases := [], early := none, late := none, deferred := none, hstall := 0, ret := none, waitPc := pc, hold := none, safe := none, clk := none, poison := [] }

/-! ## A context -/

/-- A declared seam of an image (R108): boundary, axis (true for a row boundary), latency. -/
structure Seam where
  boundary : Nat
  rowAxis : Bool
  latency : Nat
  deriving DecidableEq, Repr

/-- An item of a live-state list (R202). -/
structure LiveItem where
  kind : Nat
  len : Nat
  mask : Nat
  deriving DecidableEq, Repr

/-- An entry of the overlay directory (R203); `isle` is none for 0xFFFF. -/
structure OvlEnt where
  ovl : Nat
  first : Nat
  count : Nat
  isle : Option Nat
  code : Nat
  deriving DecidableEq, Repr

/-- A fault recorded against a context (R256): the operation that owes it and its isle, the flag (number and isle) or barrier
that a wait must name to raise it, and the trap. -/
structure DefFault where
  seq : Nat
  px : Nat
  py : Nat
  flag : Option (Nat × Nat × Nat)
  bar : Option W64
  trap : TrapRec
  deriving DecidableEq, Repr

/-- What a network word carries beside its data: nothing, copies left at each isle (NBC, R284), a remote-atomic request or
its reply (R285). -/
inductive Cargo
  | plain
  | copies
  | request (op : AtomOp) (u : Buf) (a : Nat) (y : W64)
  | reply (g : GReg) (x : W64) (seq : Nat)
  deriving DecidableEq, Repr

/-- A word on a hop (R275, R286): the isle the hop starts at, its direction, the rc in which it occupies the link and at whose
end it reaches the far end, and the rest of its route. -/
structure Trav where
  id : Nat
  word : NWord
  cargo : Cargo
  x : Nat
  y : Nat
  dir : Dir
  due : Nat
  /-- The rest of its route: hops in the direction of the present leg, then in that of the second (R286). -/
  dir1 : Dir
  left1 : Nat
  dir2 : Dir
  left2 : Nat
  ox : Nat
  oy : Nat
  /-- The hops of its whole way to where it lands, which set its class (R106, R275, R283). -/
  hops : Nat
  dest : GReg
  rcyc : Nat
  deriving DecidableEq, Repr

/-- The image a context runs, as its header declares it (R24, R108). -/
structure Image where
  va : Nat := 0
  mclass : Bool := true
  shared : Bool := true
  w : Nat := 1
  h : Nat := 1
  channels : Nat := 1
  id : Nat := 0
  features : Nat := 0
  spdist : Nat := 262144
  entry : Nat := 64
  pref : Nat := 0
  seams : List Seam := []
  footWb : Nat := 0
  footAb : Nat := 0
  footAcb : Nat := 0
  lat : List Nat := []
  live : List (List LiveItem) := []
  ucount : Nat := 0
  rtab : List W64 := []
  ucode : List W64 := []
  tmpl : List (BitVec 512) := []
  ovls : List OvlEnt := []
  deriving DecidableEq, Repr

/-- Where a context stands with its region's selector (R350 CSTATE). -/
inductive CState | ready | waiting | issuing | suspending
  deriving DecidableEq, Repr

/-- What a slot-D operation in the copy unit does (R288). -/
inductive OpKind
  /-- XLD: buffer, address, VA, bytes, next byte. -/
  | xld (u : Buf) (a va n at_ : Nat)
  | xst (u : Buf) (a va n at_ : Nat)
  /-- XATOM: operation, VA, operand, result address, done. -/
  | xatom (op : AtomOp) (va : Nat) (y : W64) (res : Nat) (done : Bool)
  /-- XCOPY: source, destination, template, next row and byte, header phase. -/
  | xcopy (src dst : Nat) (tmpl : BitVec 512) (row col : Nat) (sdoff : Option Nat) (hdr : Option (BitVec 256)) (hdrDone : Bool)
  /-- COLL: template and b[bb]; whether it has joined, and failed its own checks; the result's header, latched as it joins (R80); the sectors
  of its buffers that have passed their budgets, before it joins and again for its result (R384). -/
  | coll (tmpl : BitVec 512) (base : Nat) (joined failed : Bool) (dst : BitVec 256) (n : Nat)
  | launch (slotNo : Nat) (record : List Byte)
  | ovl (ovlid : Nat) (at_ : Nat)
  /-- A device-memory barrier update (R303). -/
  | bar (ref : W64) (u : BarUpd)
  /-- KPOST's own steps (R314): BARADD on CBAR, then the queue. -/
  | kpost (sock : Nat) (bytes : List Byte)
  deriving DecidableEq, Repr

/-- A slot-D operation in flight: who issued it; the flag it posts (number and isle) and the barrier it counts into; the
releases its reports wait for (R291); whether it holds a copy-unit entry (R288); whether its bytes are all moved; the bytes its
barrier has still to be told of. -/
structure Op where
  seq : Nat
  slot : Nat
  px : Nat
  py : Nat
  bundle : Nat
  rcyc : Nat
  kind : OpKind
  flag : Option (Nat × Nat × Nat)
  bar : Option W64
  waitRel : List Nat
  cu : Bool
  finished : Bool
  owed : Nat
  /-- Its next sector waits for a budget or a cap, and has been counted (R384, R387). -/
  held : Bool := false
  /-- The sector that a copy has read and not yet written, the write waiting (R384). -/
  got : Option (List Byte) := none
  deriving DecidableEq, Repr

/-- A resident context (R34, R350). -/
structure Ctx where
  live : Bool := false
  slot : Nat := 0
  rid : Nat := 0
  ctxid : Fin 4 := 0
  asid : Nat := 0
  pid : Nat := 0
  image : Image := {}
  feat : W64 := 0
  rcycle : Nat := 0
  /-- Enabled ticks so far, and for each class the tick at which its divisor took effect (R378). -/
  e : Nat := 0
  eX : Vector Nat 4 := Vector.replicate 4 0
  div : Vector Nat 4 := Vector.replicate 4 1
  tmpl : List (BitVec 512) := []
  faults : List DefFault := []
  /-- Words on the region's network (R276). -/
  words : List Trav := []
  eprio : Nat := 0
  cstate : CState := .ready
  /-- When it became ready, and the signaller that its wait or YIELD expects (R343). -/
  since : Nat := 0
  sig : Option Nat := none
  kctx0 : Option Nat := none
  kctx1 : Option Nat := none
  /-- Packets posted again since the resume (R315). -/
  reposted0 : Nat := 0
  reposted1 : Nat := 0
  /-- The physical bases of its footprints and of its microstore range (R35, R230). -/
  footBase : List Nat := [0, 0, 0]
  ubase : Nat := 0
  /-- At a safe point: its live-state list; rc since the last one; SAFEPOINT_OVERDUE raised; when the request came (R25, R46, R49). -/
  safeList : Option Nat := none
  sinceSafe : Nat := 0
  overdue : Nat := 0
  reqAt : Nat := 0
  /-- Releases not yet performed, each with the operations it waits for (R264, R291). -/
  releases : List (Nat × List Nat) := []
  started : Bool := false
  deriving DecidableEq, Repr

/-- A context out of focus, with all its isles in the order PY x W + PX. -/
structure CtxRec where
  ctx : Ctx
  isles : List Isle
  deriving DecidableEq, Repr

/-- An entry of the region fence table (R349), with the selector's state (R343). -/
structure Region where
  rid : Nat
  mclass : Bool
  pid : Nat
  die : Nat
  ox : Nat
  oy : Nat
  rot : Nat
  w : Nat
  h : Nat
  straits : Nat
  chans : List Nat
  act : Option (Fin 4)
  switchReq : Bool
  preempt : List Nat
  throttled : Bool
  ramp : Bool
  replay : Bool
  /-- The divisors that its class dividers hold (R380). -/
  div : Vector Nat 4 := Vector.replicate 4 1
  deriving DecidableEq, Repr

/-! ## Slot-D operations and kites -/

/-- A kite packet outstanding on a socket (R312, R313). -/
structure Packet where
  kctx : Nat
  seq : Nat
  slot : Nat
  asid : Nat
  px : Nat
  py : Nat
  issue : Nat
  bytes : List Byte
  cbar : Nat
  faulted : Bool
  abandoned : Bool
  /-- Its arrive transaction has come, with this byte count, and waits for a budget or a cap (R316, R384). -/
  ending : Option Nat := none
  /-- Its barrier's sector has waited for an interval, and has been counted (R387). -/
  metered : Bool := false
  deriving DecidableEq, Repr

/-- A kite socket (R311-R319). -/
structure Socket where
  present : Bool
  link : Bool
  frozen : Bool
  vendor : Nat
  device : Nat
  identity : List Byte
  packets : List Packet
  parked : List Packet
  nextSeq : List (Nat × Nat)
  /-- KCTX whose ABANDON is awaited, each with the tick at which its 50 µs are over (R317). -/
  quiesce : List (Nat × Nat)
  /-- What the last tether request was answered with: data, or an error completion. -/
  answer : Option (List Byte)
  /-- The tether requests of which a sector waits for a budget or a cap, each with the number of its sectors that have passed (R384). -/
  tether : List (TetherReq × Nat) := []
  deriving DecidableEq, Repr

/-! ## The launch table and the partitions -/

/-- The states of a launch slot (R335). -/
inductive SlotSt
  | free | writing | armed | ready | placed | running | suspending | suspended | retiring | retired | faulted
  deriving DecidableEq, Repr

/-- A launch slot (R334, R335): the state word's fields, the record bytes 0x08-0x7F, and what the scheduler keeps with it. -/
structure LSlot where
  n : Nat
  st : SlotSt := .free
  rid : Nat := 0
  die : Nat := 0
  ctx : Nat := 0
  eprio : Nat := 0
  freason : Nat := 0
  fcause : Nat := 0
  wfn : Nat := 0
  hreq : Bool := false
  greq : Bool := false
  dreq : Bool := false
  record : Mem := []
  dep0 : Bool := false
  dep1 : Bool := false
  readyAt : Nat := 0
  chosen : Nat := 0
  checked : Bool := false
  /-- A teardown that waits for the kites: its fault record (R330 step 2). -/
  dying : Option (Nat × Nat) := none
  /-- What the loader finds of the image read in ARMED: none in it where it rejects the image (R338). -/
  found : Option (Option Image) := none
  /-- The image that the loader has accepted (R338). -/
  image : Option Image := none
  savedMid : Bool := false
  deriving DecidableEq, Repr

/-- A page's hash as a peer rank has sent it for a step of a job (R405 step 4). -/
structure PeerHash where
  pid : Nat
  rank : Nat
  job : W64
  step : W64
  page : Nat
  hash : BitVec 384
  deriving DecidableEq, Repr

/-- A weight-handle entry as the device holds it (R351): V, RES, key, class, RWB, latched header, TVA, TASID. The tile's bytes lie in the
partition's resident area (R352). -/
structure Handle where
  idx : Nat
  valid : Bool
  res : Bool
  key : Nat
  kmask : Nat
  bclass : Bool
  rwb : Nat
  hdr : BitVec 256
  tva : Nat
  tasid : Nat
  deriving DecidableEq, Repr

/-- A checkpoint or restore command in progress (R404-R408). -/
structure Ckpt where
  op : Nat
  fn : Nat
  desc : List Byte
  phase : Nat
  /-- The next page, as an index. -/
  page : Nat
  /-- Page entries (R406): GPA page, LOC, store index, hash. -/
  entries : List (Nat × Nat × Nat × BitVec 384)
  /-- The next free index of the store. -/
  store : Nat
  /-- When the present phase began. -/
  since : Nat
  /-- The manifest that a restore has read. -/
  manifest : List Byte
  /-- A restore that has stopped or failed and runs RESET: the reason that it ends with, none for ABORT (R407, R408). -/
  ends : Option (Option Nat) := none
  deriving DecidableEq, Repr

/-- A partition (R361, R391-R396). -/
structure Part where
  pid : Nat
  pf : Nat
  capgen : Nat
  isles : List (Nat × Nat × Nat)
  chans : List Nat
  links : Nat
  kctx : Nat
  straits : Nat
  slotBase : Nat
  slotCnt : Nat
  whtBase : Nat
  whtCnt : Nat
  whRes : Nat
  tier2 : Nat
  t2off : Nat
  featOffer : Nat
  featAccept : Nat
  featOpen : Bool
  fnmap : List Nat
  gidBase : Nat
  gidCnt : Nat
  asidBase : Nat
  asidCnt : Nat
  desc : List Byte
  budgetEn : Bool
  budgetPerch : Nat
  msicoal : Nat
  handles : List Handle
  /-- The resident areas of the partition's M-isles and of its B-isles, from their first byte (R352): the isles of one class hold the same
  bytes, which only LOAD writes. -/
  whM : Mem
  whB : Mem
  whtBusy : Option W64
  whtErr : Bool
  whtReason : Nat
  /-- S2ROOT on each die (R250), and the entries of the stage-2 tables that have been written since R391 laid them out: die x 2^40 + PA of the
  entry, and its 64 bits (R251). -/
  s2root : List Nat
  s2 : List (Nat × W64)
  ckpt : Option Ckpt
  ckptErr : Bool
  ckptReason : Nat
  ckptPages : Nat
  ckptAddr : Nat
  resetting : Bool
  deriving DecidableEq, Repr

/-- TDISP states (R401). -/
inductive Tdisp | unlocked | locked | run | error
  deriving DecidableEq, Repr

/-- A host function (R388-R394). -/
structure Fn where
  n : Nat
  pid : Option Nat := none
  drop : Bool := false
  evlost : Bool := false
  pfsel : Nat := 0
  dbgSlot : Nat := 0
  dbgPx : Nat := 0
  dbgPy : Nat := 0
  dbgRid : Nat := 0
  xinvBusy : Bool := false
  xinvErr : Bool := false
  partAddr : Nat := 0
  partBusy : Option (Nat × Nat) := none
  partErr : Bool := false
  partReason : Nat := 0
  evprod : Nat := 0
  evcons : Nat := 0
  evring : List (List Byte) := []
  /-- Messages sent on each vector, and the vectors whose signal is pending while the function is frozen (R397). -/
  msix : Vector Nat 4 := Vector.replicate 4 0
  pend : Vector Bool 4 := Vector.replicate 4 false
  /-- Vectors that the host has masked (R393, log 41). -/
  mask : Vector Bool 4 := Vector.replicate 4 false
  coalescing : Bool := false
  /-- The tick at which the coalescing time is over (R393). -/
  coalAt : Nat := 0
  frozen : Bool := false
  tdisp : Tdisp := .unlocked
  stream : Nat := 0
  spdmPhase : Nat := 0
  spdmLog : List Byte := []
  answer : List Byte := []
  deriving DecidableEq, Repr

/-- A contribution that has reached a collective group (R306): its rank and shape as its template and header give them, who sent it
(slot and isle, or 4,096 + link and rank), and the operation of this device that waits for the result, where it is one's own. -/
structure Contribution where
  gid : Nat
  rank : Nat
  npart : Nat
  op : Nat
  failed : Bool
  header : BitVec 256
  bytes : List Byte
  who : Nat × Nat × Nat
  origin : Option Nat
  deriving DecidableEq, Repr

/-- An overlay kept whole and tagged on an isle after its context retired (R53): image id, overlay number and isle selector (R203), bundles. -/
structure Tagged where
  die : Nat
  col : Nat
  row : Nat
  image : Nat
  ovl : Nat
  isle : Option Nat
  code : List (Nat × BitVec 256)
  deriving DecidableEq, Repr

/-- The whole machine. -/
structure State where
  /-- The isle in focus. -/
  core : Isle
  /-- The context in focus. -/
  ctx : Ctx
  /-- The context's isles before and after the one in focus, nearest first. -/
  left : List Isle
  right : List Isle
  /-- The slot whose word is executing (R86). -/
  slot : SlotId
  /-- The other live contexts. -/
  others : List CtxRec
  regions : List Region
  /-- The contexts, by slot number, that take their next rc in turn (log 4). -/
  turn : List Nat
  /-- Environment events to come, oldest first (log 4). -/
  agenda : List Instr
  ops : List Op
  /-- The operation that took its turn latest (log 4). -/
  opNext : Nat
  /-- The budget interval, in microseconds, whose counters run (R384). -/
  interval : Nat
  /-- The next issue number. -/
  seq : Nat
  /-- The issue number at which the bundles of the present rc begin (log 4). -/
  mark : Nat
  /-- The model's own counter of free values (log 10). -/
  fresh : Nat
  /-- Reference ticks since module reset (R5, log 4). -/
  now : Nat
  /-- Device memory by die and PA (R246), and its sectors with an uncorrectable error (R257). -/
  dram : Mem
  dpoison : List Nat
  slots : List LSlot
  parts : List Part
  /-- The ASID table (R250): ASID, partition, root. -/
  asids : List (Nat × Nat × Nat)
  fns : List Fn
  socks : List Socket
  contribs : List Contribution
  /-- Isles fused off; lasting isles, straits and links; frozen links; retired frames (R331, R397). -/
  fused : List (Nat × Nat × Nat)
  defects : List (Nat × Nat × Nat)
  badStraits : List Nat
  badLinks : List Nat
  frozenLinks : List Nat
  retiredFrames : List Nat
  /-- Corrected errors by unit and tick (R331). -/
  errs : List (ErrUnit × Nat)
  /-- Gated and waking islands (R382). -/
  gated : List (Nat × Nat × Nat)
  waking : List (Nat × Nat × Nat)
  /-- Overlays that stand tagged on isles (R53). -/
  overlays : List Tagged
  /-- The wait-for table, the entries it lost, and the last walk's groups (R359, R360). -/
  waitfor : List (Nat × BitVec 128)
  waitforLost : Nat
  lastWalk : List (List Nat)
  /-- Temperatures by stack (R386), and bytes of the interval by counter (R384). -/
  temps : List (Nat × Nat)
  budgetUse : List (Nat × Nat)
  /-- Host requests of which a sector waits for a cap, each with the sectors that have passed (R385). -/
  hostWaits : List (HostReq × Nat)
  /-- What waits for the next interval at the arbiters, in the order of its arrival: the events that bring it there again (R384, R385). -/
  waits : List Instr
  /-- Firmware version and fused counter, measurements, attestation log (R398-R400). -/
  fwVersion : Nat
  fwFused : Nat
  measured : List (Nat × List Byte)
  attest : List Byte
  /-- Bytes behind the CXL port of each B-die (R246). -/
  cxlBytes : List Nat
  /-- What peer ranks have sent for a checkpoint or restore (R405, R408). -/
  peerPages : List (Nat × Nat × Nat × List Byte)
  peerHashes : List PeerHash
  peerManifest : List (Nat × Nat × W64 × W64)
  /-- What the save areas of suspended contexts hold in layouts of the device's own (R347, log 20). -/
  saved : List CtxRec
  /-- The same for the shards in the safe tier, by the trailing hash of the manifest: slots, by their numbers within the share, and
  contexts (log 20). -/
  shards : List (BitVec 384 × List LSlot × List CtxRec)
  deriving DecidableEq, Repr

/-- The two sockets after reset: empty (R23); a kite shows itself through SOCKET_BRING_UP (log 2). -/
def Socket.empty : Socket :=
  { present := false, link := false, frozen := false, vendor := 0, device := 0, identity := [], packets := [], parked := [],
    nextSeq := [], quiesce := [], answer := none }

/-- The machine right after module reset: no partition, no region, every launch slot FREE and zero (R333), every register of
the idle isle as R51 gives it (log 2). -/
def State.reset : State :=
  { core := Isle.start 0 0 64
    ctx := {}
    left := [], right := [], slot := .C, others := [], regions := [], turn := [], agenda := []
    ops := [], opNext := 0, interval := 0, seq := 0, mark := 0, fresh := 0, now := 0, dram := [], dpoison := []
    slots := [], parts := [], asids := [], fns := [], socks := [Socket.empty, Socket.empty], contribs := []
    fused := [], defects := [], badStraits := [], badLinks := [], frozenLinks := [], retiredFrames := []
    errs := [], gated := [], waking := [], overlays := [], waitfor := [], waitforLost := 0, lastWalk := []
    temps := [], budgetUse := [], hostWaits := [], waits := [], fwVersion := 0, fwFused := 0, measured := [], attest := [], cxlBytes := [824633720832, 824633720832]
    peerPages := [], peerHashes := [], peerManifest := [], saved := [], shards := [] }

end Sys2Proof.Machine
end

