-- ==== Sys2Proof/Machine/Mem.lean ====
section
/-! DEFINITION. Bytes by address in canonical form, little-endian values over them (R3), and byte strings. -/

namespace List

/-- An element put into a sorted list before the first one that it may stand before. -/
def putSorted {α : Type} (le : α → α → Bool) (x : α) : List α → List α
  | [] => [x]
  | y :: t => if le x y then x :: y :: t else y :: putSorted le x t

/-- A list in order; equal elements keep theirs. -/
def sorted {α : Type} (l : List α) (le : α → α → Bool) : List α := l.foldr (putSorted le) []

end List

namespace Sys2Proof.Machine

/-- The byte at an address; an unlisted address reads as zero. -/
def Mem.rd : Mem → Nat → Byte
  | [], _ => 0
  | (k, x) :: t, a => if k = a then x else Mem.rd t a

/-- One byte written, the canonical form kept: a zero byte leaves the list. -/
def Mem.wr : Mem → Nat → Byte → Mem
  | [], a, x => if x = 0 then [] else [(a, x)]
  | (k, y) :: t, a, x =>
    if a < k then (if x = 0 then (k, y) :: t else (a, x) :: (k, y) :: t)
    else if a = k then (if x = 0 then t else (a, x) :: t)
    else (k, y) :: Mem.wr t a x

/-- The canonical form: addresses strictly rising, no zero byte. -/
def Mem.wf : Mem → Bool
  | [] => true
  | [(_, x)] => x != 0
  | (k, x) :: (k', x') :: t => x != 0 && decide (k < k') && Mem.wf ((k', x') :: t)

/-- n bytes from an address. -/
def Mem.bytes (m : Mem) (a : Nat) : Nat → List Byte
  | 0 => []
  | n + 1 => m.rd a :: Mem.bytes m (a + 1) n

/-- A list of addressed bytes written in order: the last write to an address remains. -/
def Mem.wrList (m : Mem) (l : List (Nat × Byte)) : Mem := l.foldl (fun m c => m.wr c.1 c.2) m

/-- A little-endian value from bytes (R3). -/
def ofLe : List Byte → Nat
  | [] => 0
  | x :: t => x.toNat + 256 * ofLe t

/-- The n low bytes of a value, least significant first (R3). -/
def toLe : Nat → Nat → List Byte
  | 0, _ => []
  | n + 1, x => BitVec.ofNat 8 x :: toLe n (x / 256)

/-- Bytes placed at consecutive addresses. -/
def place (a : Nat) : List Byte → List (Nat × Byte)
  | [] => []
  | x :: t => (a, x) :: place (a + 1) t

/-- The value of n bytes at an address (R3). -/
def Mem.rdN (m : Mem) (a n : Nat) : Nat := ofLe (m.bytes a n)

/-- A value written as n bytes at an address (R3). -/
def Mem.wrN (m : Mem) (a n x : Nat) : Mem := m.wrList (place a (toLe n x))

/-- Bytes from a range of addresses set to zero. -/
def Mem.clearRange (m : Mem) (a n : Nat) : Mem := m.filter fun c => !(a ≤ c.1 && c.1 < a + n)

/-- The part of a memory inside a range, moved to start at another address. -/
def Mem.slice (m : Mem) (a n at_ : Nat) : Mem :=
  (m.filter fun c => a ≤ c.1 && c.1 < a + n).map fun c => (c.1 - a + at_, c.2)

/-- Whether all bits of a range of bytes are zero. -/
def allZero (l : List Byte) : Bool := l.all (· == 0)

/-- A two-byte field of a byte string. -/
def le2 (l : List Byte) (o : Nat) : Nat := ofLe ((l.drop o).take 2)
/-- A four-byte field of a byte string. -/
def le4 (l : List Byte) (o : Nat) : Nat := ofLe ((l.drop o).take 4)
/-- An eight-byte field of a byte string. -/
def le8 (l : List Byte) (o : Nat) : Nat := ofLe ((l.drop o).take 8)
/-- One byte of a byte string. -/
def byteAt (l : List Byte) (o : Nat) : Nat := (l.getD o 0).toNat

end Sys2Proof.Machine
end

