-- ==== Sys2Proof/Machine/Operands.lean ====
section
/-! DEFINITION. Operand forms: how a register is read and written (R112-R114, R133, R165), and which registers the words of
each slot read (R94, R107, R115). -/

namespace Sys2Proof

/-- Index of an abstract direction in the order N, E, S, W (R274). -/
def Dir.ix : Dir → Fin 4
  | .n => 0 | .e => 1 | .s => 2 | .w => 3
/-- The opposite direction. -/
def Dir.opp : Dir → Dir
  | .n => .s | .e => .w | .s => .n | .w => .e
/-- The isle one step away in an abstract direction (R26); integers, so that a step off the region shows. -/
def Dir.step (d : Dir) (x y : Int) : Int × Int :=
  match d with
  | .n => (x, y - 1) | .e => (x + 1, y) | .s => (x, y + 1) | .w => (x - 1, y)

/-- The predicate register a word reads; p0 is never written, so it has no producer (R114). -/
def predRead (p : Pred) : List RegName := if p.idx = 0 then [] else [.p p.idx]
/-- A predicate operand read (R115). -/
def pRead (r : Fin 8) : List RegName := if r = 0 then [] else [.p r]
/-- A lane mask read; a VM field of 0 names none (R133). -/
def vmRead (r : Fin 8) : List RegName := if r = 0 then [] else [.vm r]

/-- The registers that a word reads beside its predicate, in the slot that holds it (R94, R107, R115). MCALL's streams under
CONV = 1 are added by its own check (R173). -/
def Instr.sources (k : SlotId) : Instr → List RegName
  | .bri _ _ b => [.b b]
  | .loopr _ _ _ b => [.b b]
  | .waitb _ _ b _ _ => [.b b]
  | .syswr _ _ _ g => [g.name]
  | .add _ _ x y => [clusterReg k x, clusterReg k y]
  | .addi _ _ x _ => [clusterReg k x]
  | .sub _ _ x y => [clusterReg k x, clusterReg k y]
  | .mul _ _ x y => [clusterReg k x, clusterReg k y]
  | .mulh _ _ x y => [clusterReg k x, clusterReg k y]
  | .mulhn _ _ x y => [clusterReg k x, clusterReg k y]
  | .and _ _ x y => [clusterReg k x, clusterReg k y]
  | .andi _ _ x _ => [clusterReg k x]
  | .or _ _ x y => [clusterReg k x, clusterReg k y]
  | .ori _ _ x _ => [clusterReg k x]
  | .xor _ _ x y => [clusterReg k x, clusterReg k y]
  | .xori _ _ x _ => [clusterReg k x]
  | .shl _ _ x y => [clusterReg k x, clusterReg k y]
  | .shr _ _ x y => [clusterReg k x, clusterReg k y]
  | .sar _ _ x y => [clusterReg k x, clusterReg k y]
  | .shli _ _ x _ => [clusterReg k x]
  | .shri _ _ x _ => [clusterReg k x]
  | .sari _ _ x _ => [clusterReg k x]
  | .min _ _ x y => [clusterReg k x, clusterReg k y]
  | .max _ _ x y => [clusterReg k x, clusterReg k y]
  | .minn _ _ x y => [clusterReg k x, clusterReg k y]
  | .maxn _ _ x y => [clusterReg k x, clusterReg k y]
  | .cmp _ _ _ x y => [clusterReg k x, clusterReg k y]
  | .cmpi _ _ _ x _ => [clusterReg k x]
  | .sel _ _ x y ps => [clusterReg k x, clusterReg k y] ++ pRead ps
  | .lui _ d _ => [clusterReg k d]
  | .addw _ _ x y => [clusterReg k x, clusterReg k y]
  | .clz _ _ x => [clusterReg k x]
  | .popc _ _ x => [clusterReg k x]
  | .bext _ _ x _ _ => [clusterReg k x]
  | .bins _ d x _ _ => [clusterReg k d, clusterReg k x]
  | .movx _ _ x => [otherReg k x]
  | .plog _ _ a b _ => pRead a ++ pRead b
  | .ld _ _ _ b _ _ => [.b b]
  | .st _ g _ b _ _ => [g.name, .b b]
  | .ldv _ _ _ b _ => [.b b]
  | .ldvT _ _ _ b _ => [.b b]
  | .stv _ v _ b _ => [.v v, .b b]
  | .stvT _ v _ b _ => [.v v, .b b]
  | .spill _ g _ => [g.name]
  | .spillv _ v _ => [.v v]
  | .sopenR _ _ _ b => [.b b]
  | .sopenW _ _ _ b => [.b b]
  | .sread _ _ t => [.st t]
  | .swrite _ t v => [.st t, .v v]
  | .sseek _ t r c => [.st t, .b r, .b c]
  | .hdrmk _ v _ b _ => [.v v, .b b]
  | .hdrchk _ _ _ b _ => [.b b]
  | .laop _ _ _ _ b v => [.b b, .b v]
  | .bclr _ _ b l => [.b b, .b l]
  | .ldidx _ _ vi _ b _ m => [.v vi, .b b] ++ vmRead m
  | .stidx _ vs vi _ b _ m => [.v vs, .v vi, .b b] ++ vmRead m
  | .vadd _ _ a b m _ _ => [.v a, .v b] ++ vmRead m
  | .vsub _ _ a b m _ _ => [.v a, .v b] ++ vmRead m
  | .vmul _ _ a b m _ _ => [.v a, .v b] ++ vmRead m
  | .vfma _ _ a b c _ => [.v a, .v b, .v c]
  | .vfms _ _ a b c _ => [.v a, .v b, .v c]
  | .vfnma _ _ a b c _ => [.v a, .v b, .v c]
  | .vmax _ _ a b m => [.v a, .v b] ++ vmRead m
  | .vmin _ _ a b m => [.v a, .v b] ++ vmRead m
  | .vabs _ _ a m _ => [.v a] ++ vmRead m
  | .vneg _ _ a m _ => [.v a] ++ vmRead m
  | .vcmp _ _ _ a b m => [.v a, .v b] ++ vmRead m
  | .vsel _ _ a b m => [.v a, .v b] ++ vmRead m
  | .vand _ _ a b m => [.v a, .v b] ++ vmRead m
  | .vor _ _ a b m => [.v a, .v b] ++ vmRead m
  | .vxor _ _ a b m => [.v a, .v b] ++ vmRead m
  | .vnot _ _ a m => [.v a] ++ vmRead m
  | .vshl _ _ a b m => [.v a, .v b] ++ vmRead m
  | .vshr _ _ a b m => [.v a, .v b] ++ vmRead m
  | .vsar _ _ a b m => [.v a, .v b] ++ vmRead m
  | .vcvt _ _ a b m _ _ => [.v a, .b b] ++ vmRead m
  | .vqnt _ _ a sc b _ => [.v a, .v sc, .b b]
  | .vdqnt _ _ a sc b _ => [.v a, .v sc, .b b]
  | .vbscl _ _ a b => [.v a, .b b]
  | .vexp2 _ _ a m _ _ => [.v a] ++ vmRead m
  | .vlog2 _ _ a m _ _ => [.v a] ++ vmRead m
  | .vrcp _ _ a m _ _ => [.v a] ++ vmRead m
  | .vrsq _ _ a m _ _ => [.v a] ++ vmRead m
  | .vdiv _ _ a b m _ _ => [.v a, .v b] ++ vmRead m
  | .vsqrt _ _ a m _ _ => [.v a] ++ vmRead m
  | .vredadd _ _ a m _ _ => [.v a] ++ vmRead m
  | .vredmax _ _ a m => [.v a] ++ vmRead m
  | .vredmin _ _ a m => [.v a] ++ vmRead m
  | .vperm _ _ a b m => [.v a, .v b] ++ vmRead m
  | .vrot _ _ a _ => [.v a]
  | .vbcast _ d b => [.v d, .b b]
  | .vins _ d b i => [.v d, .b b, .b i]
  | .vext _ _ a b _ => [.v a, .v b]
  | .vtag _ _ b => [.b b]
  | .vmov _ _ a m => [.v a] ++ vmRead m
  | .viota _ d b => [.v d, .b b]
  | .vmask _ _ a b _ => vmRead a ++ vmRead b
  | .vmaskB _ _ b => [.b b]
  | .mcall _ _ m => ((List.finRange 8).filter fun j : Fin 8 => m.getLsbD j.val).map .mp
  | .mcallr _ _ b => [.b b]
  | .mpset _ _ b => [.b b]
  | .mpld _ b _ => [.b b]
  | .muwr _ b u _ => [.b b, .b u]
  | .mrtset _ _ b => [.b b]
  | .send _ v _ _ => [.v v]
  | .sends _ g _ => [g.name]
  | .nbcRow _ v _ => [.v v]
  | .nbcCol _ v _ => [.v v]
  | .nrmt _ _ _ a v => [.b a, .b v]
  | .xcopy _ _ b r => [.b b, .b r]
  | .xld _ _ b v _ _ => [.b b, .b v]
  | .xst _ _ b v _ _ => [.b b, .b v]
  | .xatom _ _ a v _ => [.b a, .b v, .b (v + 1)]
  | .barinit _ b x => [.b b, .b x]
  | .bararr _ b x => [.b b, .b x]
  | .baradd _ b x => [.b b, .b x]
  | .coll _ _ b r => [.b b, .b r]
  | .launch _ sl r => [.b sl, .b r]
  | .kpost _ _ b => [.b b]
  | .xpf _ a l => [.b a, .b l]
  | _ => []

/-- The latch a word reads (R282). -/
def Instr.latchRead : Instr → Option Dir
  | .recv _ _ _ d => some d
  | .recvs _ _ d => some d
  | _ => none

/-- A register whose writes are discarded has no producer (R112). -/
def RegName.live : RegName → Bool
  | .a r => r != 0
  | .b r => r != 0
  | _ => true

/-- The index of a clock class in CLKD's order of R198: CTL, MAT, VEC, CPY. -/
def ClkClass.ix : ClkClass → Fin 4
  | .ctl => 0 | .mat => 1 | .vec => 2 | .cpy => 3

/-- The clock class of a slot's engine (R86, R378). -/
def SlotId.cls : SlotId → ClkClass
  | .V => .vec | .X => .mat | .D => .cpy | .C => .ctl | .A => .ctl | .B => .ctl | .M => .ctl | .N => .ctl

end Sys2Proof

namespace Sys2Proof.Machine

/-- a-register n; a0 reads as zero (R112). -/
def Isle.rdA (c : Isle) (r : Fin 32) : W64 := if r = 0 then 0 else c.a[r]
/-- b-register n; b0 reads as zero (R112). -/
def Isle.rdB (c : Isle) (r : Fin 32) : W64 := if r = 0 then 0 else c.b[r]
/-- greg(g) of R111. -/
def Isle.rdG (c : Isle) : GReg → W64
  | .a r => c.rdA r
  | .b r => c.rdB r
/-- A write to a G operand; a0 and b0 discard it (R112). -/
def Isle.wrG (c : Isle) (g : GReg) (x : W64) : Isle :=
  match g with
  | .a r => if r = 0 then c else { c with a := c.a.set r x }
  | .b r => if r = 0 then c else { c with b := c.b.set r x }
/-- p-register n; p0 reads as 1 (R114). -/
def Isle.rdP (c : Isle) (r : Fin 8) : Bool := if r = 0 then true else c.p[r]
/-- A lane mask; vm0 reads as all ones (R133). -/
def Isle.rdVm (c : Isle) (r : Fin 8) : W64 := if r = 0 then BitVec.allOnes 64 else c.vm[r]
/-- pred(w) of R111. -/
def Isle.predTrue (c : Isle) (p : Pred) : Bool := c.rdP p.idx != p.neg
/-- A register of the issuing slot's own cluster (R116). -/
def Isle.rdC (c : Isle) (k : SlotId) (r : Fin 32) : W64 := if k = .B then c.rdB r else c.rdA r
/-- A register of the other cluster (R116). -/
def Isle.rdO (c : Isle) (k : SlotId) (r : Fin 32) : W64 := if k = .B then c.rdA r else c.rdB r
/-- The G code of a register of the slot's own cluster. -/
def ownG (k : SlotId) (r : Fin 32) : GReg := if k = .B then .b r else .a r

/-- The bytes of a data buffer. -/
def Isle.buf (c : Isle) : Buf → Mem
  | .wb => c.wb
  | .ab => c.ab
  | .acb => c.acb
/-- A data buffer replaced. -/
def Isle.setBuf (c : Isle) (u : Buf) (m : Mem) : Isle :=
  match u with
  | .wb => { c with wb := m }
  | .ab => { c with ab := m }
  | .acb => { c with acb := m }

/-- The size of a context's footprint in a buffer (R35). -/
def Image.foot (i : Image) : Buf → Nat
  | .wb => i.footWb
  | .ab => i.footAb
  | .acb => i.footAcb

end Sys2Proof.Machine
end

