-- ==== Sys2Proof/Machine/Ops.lean ====
section
/-! DEFINITION. The shared operations of the machine: focus, region-local time (R37, R378), operations in flight (R47, R94),
landing (R95, R134, R212), what a word does before its effect (R89, R107), raising and taking a trap (R321-R328) and
returning from one (R191, R326). -/

namespace Sys2Proof.Machine

/-! ## Focus -/

/-- The isle in focus changed. -/
def State.onCore (s : State) (f : Isle → Isle) : State := { s with core := f s.core }

/-- The context in focus changed. -/
def State.onCtx (s : State) (f : Ctx → Ctx) : State := { s with ctx := f s.ctx }

/-- The isles of the context in focus, in the order PY x W + PX. -/
def State.isles (s : State) : List Isle := s.left.reverse ++ s.core :: s.right

/-- The isle of index n brought into focus; the focus stays where no such isle exists. -/
def State.focusIsle (s : State) (n : Nat) : State :=
  match (s.isles).drop n with
  | [] => s
  | c :: r => { s with core := c, left := ((s.isles).take n).reverse, right := r }

/-- The index of the isle in focus. -/
def State.isleIx (s : State) : Nat := s.left.length

/-- The number of isles of the context in focus. -/
def State.isleCount (s : State) : Nat := s.left.length + 1 + s.right.length

/-- A function applied on each isle of a list of indices, in order. -/
def State.overIsles (f : State → State) : List Nat → State → State
  | [], s => s
  | n :: ns, s => State.overIsles f ns (f (s.focusIsle n))

/-- A function applied with each isle of the context in focus in turn; the focus returns to where it was. -/
def State.eachIsle (s : State) (f : State → State) : State :=
  (State.overIsles f (List.range s.isleCount) s).focusIsle s.isleIx

/-- The isle at abstract coordinates, by index (R26). -/
def State.ixOf (s : State) (x y : Nat) : Nat := y * s.ctx.image.w + x

/-- Whether abstract coordinates lie in the region (R26). -/
def State.inside (s : State) (x y : Int) : Bool :=
  0 ≤ x && x < s.ctx.image.w && 0 ≤ y && y < s.ctx.image.h

/-- A function applied on the isle at abstract coordinates; the focus returns. -/
def State.atIsle (s : State) (x y : Nat) (f : State → State) : State :=
  (f (s.focusIsle (s.ixOf x y))).focusIsle s.isleIx

/-- The focused context as a record. -/
def State.focusRec (s : State) : CtxRec := { ctx := s.ctx, isles := s.isles }

/-- A context record brought into focus, its first isle in the focus. -/
def State.unpack (s : State) (r : CtxRec) : State :=
  match r.isles with
  | [] => { s with ctx := r.ctx, left := [], right := [] }
  | c :: t => { s with ctx := r.ctx, core := c, left := [], right := t }

/-- The context of a launch slot brought into focus; the context that was in focus joins the others, unless it was none. -/
def State.focusSlot (s : State) (n : Nat) : State :=
  if s.ctx.live && s.ctx.slot == n then s
  else
    match s.others.find? (fun r => r.ctx.slot == n) with
    | none => s
    | some r =>
      let rest := s.others.filter (fun r => r.ctx.slot != n)
      ({ s with others := if s.ctx.live then s.focusRec :: rest else rest }).unpack r

/-- Whether a launch slot has a live context. -/
def State.hasCtx (s : State) (n : Nat) : Bool := (s.ctx.live && s.ctx.slot == n) || s.others.any (fun r => r.ctx.slot == n)

/-- A function applied with the context of a launch slot in focus; the earlier focus returns where its context still lives. -/
def State.withSlot (s : State) (n : Nat) (f : State → State) : State :=
  if s.hasCtx n then
    let old := s.ctx.slot
    let ix := s.isleIx
    let t := f (s.focusSlot n)
    if s.ctx.live && old != n then (t.focusSlot old).focusIsle ix else t
  else s

/-- The context of a launch slot in focus, whether it lives or is suspended; a suspended one stands then beside the live ones. -/
def State.focusKept (s : State) (n : Nat) : State :=
  if s.hasCtx n then s.focusSlot n
  else
    match s.saved.find? (·.ctx.slot == n) with
    | none => s
    | some r =>
      ({ s with others := if s.ctx.live then s.focusRec :: s.others else s.others, saved := s.saved.filter (·.ctx.slot != n) } : State).unpack r

/-- The suspended context in focus put back among the suspended ones, and the live context that was in focus returned to. -/
def State.shelve (t : State) (live : Bool) (old ix : Nat) : State :=
  let u : State := { t with saved := t.focusRec :: t.saved.filter (·.ctx.slot != t.ctx.slot) }
  if live then
    match u.others.find? (·.ctx.slot == old) with
    | some r => (({ u with others := u.others.filter fun r => r.ctx.slot != old } : State).unpack r).focusIsle ix
    | none => u
  else { u with core := Isle.start 0 0 64, ctx := {}, left := [], right := [] }

/-- Every live context, that in focus first. -/
def State.allCtx (s : State) : List Ctx := (if s.ctx.live then [s.ctx] else []) ++ s.others.map (·.ctx)

/-- The live context of a region with a given CTXID. -/
def State.ctxOf (s : State) (rid : Nat) (c : Nat) : Option Ctx := s.allCtx.find? (fun x => x.rid == rid && x.ctxid.val == c)

/-! ## Region-local time (R37, R378) -/

/-- The divisor of a class in the context in focus. -/
def State.divOf (s : State) (k : ClkClass) : Nat := s.ctx.div[k.ix]

/-- The first boundary at or after a tick: a multiple of d counted from e0 (R378). -/
def boundaryFrom (e0 d x : Nat) : Nat := if x ≤ e0 then e0 else e0 + (x - e0 + (d - 1)) / d * d

/-- The tick at which a word of the present slot starts: the first boundary of its class at or after the first tick of the rc
that no earlier word of the class on the isle holds (R378). -/
def State.startTick (s : State) : Nat :=
  let k := s.slot.cls
  boundaryFrom (s.ctx.eX[k.ix]) (s.divOf k) (max s.ctx.e (s.core.held[k.ix]))

/-- The rc that contains a tick, from the present rc on (R378). -/
def State.rcOfTick (s : State) (u : Nat) : Nat := s.ctx.rcycle + (u - s.ctx.e) / s.divOf .ctl

/-- The N2's own latencies of R105, by class. -/
def ownLatency (c : Nat) : Nat :=
  [1, 3, 1, 4, 1, 6, 4, 5, 6, 4, 8, 10, 14, 8, 3, 3, 2].getD c 0

/-- The latency in force for a class (R106): the image's figure, or the device's where the class is under forced interlock. -/
def State.lat (s : State) (c : Nat) : Nat := max (s.ctx.image.lat.getD c 0) (ownLatency c)

/-- Whether a class is under forced interlock for the context (R106). -/
def State.forced (s : State) (c : Nat) : Bool := s.ctx.image.lat.getD c 0 < ownLatency c

/-- When a result of latency L of the present slot lands (R378); in handler mode, in handler time (R327, log 11). -/
def State.dueAfter (s : State) (l : Nat) : Due :=
  let d := s.divOf s.slot.cls
  if s.core.handler then .rc (s.core.htime + (l * d + s.divOf .ctl - 1) / s.divOf .ctl - 1) else .tick (s.startTick + l * d - 1)

/-- The end of the n-th rc from the present one (R211). -/
def State.dueIn (s : State) (n : Nat) : Due := .rc ((if s.core.handler then s.core.htime else s.ctx.rcycle) + n)

/-- Class of an effect whose latency is not one of the latency table's. -/
def noClass : Nat := 99

/-- An operation put in flight: a handler's own results are kept apart (R327). -/
def Isle.push (c : Isle) (f : Flight) : Isle :=
  if c.handler then { c with hflights := c.hflights ++ [f] } else { c with flights := c.flights ++ [f] }

/-- The present word puts an effect in flight, due at a given time. -/
def State.fly (s : State) (d : Due) (cls : Nat) (e : Eff) : State :=
  { s with
    core := s.core.push { due := d, seq := s.seq, slot := s.slot, bundle := s.core.pc, rcyc := s.ctx.rcycle
                          time := if s.core.handler then s.core.htime else s.ctx.rcycle, cls := cls, eff := e }
    seq := s.seq + 1 }

/-- land(reg, value, LAT[c]) of R111. -/
def State.land (s : State) (cls : Nat) (e : Eff) : State := s.fly (s.dueAfter (s.lat cls)) cls e

/-- An effect at the end of the n-th rc from the issue rc. -/
def State.after (s : State) (n : Nat) (e : Eff) : State := s.fly (s.dueIn n) noClass e

/-- An access of slot M in its access rc t + 3, its result after LAT[c] (R211). -/
def State.access (s : State) (cls : Nat) (x : Access) : State := s.fly (s.dueIn 3) cls (.access x (s.dueAfter (s.lat cls)))

/-! ## Reads of registers in flight (R94, R106, R107, R115) -/

/-- The register an effect lands in; MPLD, which lands in every mp register, apart. -/
def Eff.dest : Eff → Option RegName
  | .scalar g _ => some g.name
  | .pred r _ => some (.p r)
  | .vec r _ _ _ _ => some (.v r)
  | .mask r _ => some (.vm r)
  | .tag r _ => some (.v r)
  | .stream r _ => some (.st r)
  | .mp r _ => some (.mp r)
  | .access (.scalar g _ _ _ _) _ => some g.name
  | .access (.rawVec r _ _) _ => some (.v r)
  | .access (.tileVec r _ _ _ _) _ => some (.v r)
  | .access (.gather r _ _ _) _ => some (.v r)
  | .access (.header r _ _) _ => some (.p r)
  | .access (.stream r _) _ => some (.v r)
  | .access (.atomic g _ _ _ _) _ => some g.name
  | _ => none

/-- Whether an effect lands in a register. -/
def Eff.reaches (e : Eff) (r : RegName) : Bool :=
  match e, r with
  | .mpLine _, .mp _ => true
  | _, _ => e.dest == some r

/-- The operations in flight of the isle's present mode (R327). -/
def Isle.inFlight (c : Isle) : List Flight := if c.handler then c.hflights else c.flights

/-- Whether a producer of a register that an earlier bundle issued is in flight, among the classes a test admits: the words of one bundle
read the registers as they stood before it (R8, R87, R94). -/
def State.producing (s : State) (r : RegName) (test : Nat → Bool) : Bool :=
  r.live && s.core.inFlight.any fun f => f.eff.reaches r && decide (f.seq < s.mark) && test f.cls

/-- The isle and latch side at which a word's route ends (R274). -/
def Trav.target (t : Trav) : (Int × Int) × Dir :=
  let p := t.dir.step t.x t.y
  let rec go : Nat → Dir → Int × Int → Int × Int
    | 0, _, q => q
    | n + 1, d, q => go n d (d.step q.1 q.2)
  let p1 := go t.left1 t.dir1 p
  if t.left2 = 0 then (p1, if t.left1 = 0 then t.dir.opp else t.dir1.opp) else (go t.left2 t.dir2 p1, t.dir2.opp)

/-- Distance in hops between two isles of a route. -/
def hopsBetween (x y : Nat) (q : Int × Int) : Nat := ((x : Int) - q.1).natAbs + ((y : Int) - q.2).natAbs

/-- The class of a word that has a number of hops on its way (R106, R275): the further hops' where it has some and that class is under forced
interlock. -/
def State.classOfHops (s : State) (n : Nat) : Nat := if s.forced 16 && decide (1 < n) then 16 else 15

/-- Whether an NRMT of this isle still owes a G register, in a class that a test admits (R106, R285). -/
def State.nrmtOwes (s : State) (r : RegName) (test : Nat → Bool) : Bool :=
  r.live && !s.core.handler && s.ctx.words.any fun t =>
    decide (t.id < s.mark) && t.ox == s.core.px && t.oy == s.core.py && t.dest.name == r &&
      (match t.cargo with
      | .request _ _ _ _ => test (s.classOfHops t.hops)
      | .reply _ _ _ => test (s.classOfHops t.hops)
      | _ => false)

/-- Whether a word in flight is on its way to a latch of the isle, in a class that a test admits (R276). -/
def State.latchOwed (s : State) (d : Dir) (test : Nat → Bool) : Bool :=
  let me : Int × Int := ((s.core.px : Int), (s.core.py : Int))
  s.ctx.words.any fun t =>
    decide (t.id < s.mark) &&
    (match t.cargo with
    | .request _ _ _ _ => false
    | .reply _ _ _ => false
    | .plain => t.target == (me, d) && test (s.classOfHops t.hops)
    | .copies => t.dir.opp == d && test (s.classOfHops (hopsBetween t.ox t.oy me)) && (List.range (t.left1 + 1)).any fun n =>
        (List.range n).foldl (fun (q : Int × Int) _ => t.dir.step q.1 q.2) (t.dir.step t.x t.y) == me)

/-- The registers a word reads when it issues: its predicate, and where that is true its sources. -/
def State.readsOf (s : State) (i : Instr) : List RegName :=
  match i with
  | .hint _ _ _ => []
  | _ =>
    match i.pred? with
    | none => i.sources s.slot
    | some p => predRead p ++ (if s.core.predTrue p then i.sources s.slot else [])

/-- The streams that a CONV = 1 call reads beside the selected mp registers (R173). -/
def State.callStreams (s : State) (idx : Fin 64) (sel : BitVec 8) : List RegName :=
  if s.core.rtab[idx].getLsbD 10 then
    let m (j : Fin 8) (n : Nat) : Nat := if sel.getLsbD j.val then fld (s.core.mp[j]).toNat 0 n else 0
    .st (Fin.ofNat 16 (m 0 4)) :: (if m 1 5 < 16 then [.st (Fin.ofNat 16 (m 1 5))] else [])
  else []

/-- Whether a word reads a register or latch whose producer is in flight, among the classes a test admits. The stream that a record call
reads once its first checks have passed is looked at there (R175). -/
def State.readsInFlight (s : State) (i : Instr) (test : Nat → Bool) : Bool :=
  let extra := match i with
    | .mcall p idx m => if s.core.predTrue p then s.callStreams idx m else []
    | _ => []
  (s.readsOf i ++ extra).any (fun r => s.producing r test || s.nrmtOwes r test) ||
    (match i.latchRead, i.pred? with
      | some d, some p => s.core.predTrue p && s.latchOwed d test
      | _, _ => false)

/-- STALL_SHORT 0x51 under SBMODE 1, in the classes not under forced interlock (R107). -/
def State.stallShort (s : State) (i : Instr) : Bool := s.core.sbmode = 1 && s.readsInFlight i (fun c => !s.forced c)

/-- The bundle waits through an interlock rc for this word (R106, R107, R433). -/
def State.interlocked (s : State) (i : Instr) : Bool :=
  s.readsInFlight i (fun c => s.forced c) || (s.core.sbmode = 2 && s.readsInFlight i (fun _ => true))

/-! ## Raising a trap -/

/-- trap(cause, info) of R111 before issue: the first of the bundle, in slot order, remains (R322). -/
def State.raise (s : State) (cause info addr : Nat) : State :=
  match s.core.early with
  | some _ => s
  | none => { s with core := { s.core with early := some { cause := cause, addr := addr, info := info, slot := s.slot.idx, issued := false } } }

/-- A free value that arises in the context in focus (log 10): it depends on the place in the context's own schedule at which it arises,
the launch slot, the isle, RCYCLE and a bundle, and on nothing that other contexts do (R43); `k` tells the values of one place apart. -/
def State.freeAt (s : State) (rcyc bundle k : Nat) : W64 :=
  Config.freeValue ((((k * 4096 + bundle) * 1024 + s.isleIx) * 4096 + s.ctx.slot) * 2 ^ 64 + rcyc)

/-- A free value of the present rc and the next bundle. -/
def State.free (s : State) (k : Nat) : W64 := s.freeAt s.ctx.rcycle s.core.pc k

/-- A trap before issue whose TADDR the spec leaves open: a free value (log 10). -/
def State.raiseOpen (s : State) (cause info : Nat) : State := s.raise cause info (s.free 0).toNat

/-- Precedence among the traps raised after issue in one rc (R322): BREAKPOINT, then the lower slot. -/
def TrapRec.rank (t : TrapRec) : Nat := if t.cause = 0x11 then 0 else 1 + t.slot

/-- A trap raised after issue; the one that R322 puts first remains. -/
def Isle.raiseLate (c : Isle) (t : TrapRec) : Isle :=
  match c.late with
  | none => { c with late := some t }
  | some u => if t.rank < u.rank then { c with late := some t } else c

/-- A trap of the present word after its bundle has issued, TADDR left open by the spec (log 10). -/
def State.raiseAfterOpen (s : State) (cause info : Nat) : State :=
  s.onCore (·.raiseLate { cause := cause, addr := (s.free 0).toNat, info := info, slot := s.slot.idx, issued := true })

/-- A trap of the present word after its bundle has issued. -/
def State.raiseAfter (s : State) (cause info addr : Nat) : State :=
  s.onCore (·.raiseLate { cause := cause, addr := addr, info := info, slot := s.slot.idx, issued := true })

/-- A deferred fault raised by a wait of this bundle: it comes after every other fault of the bundle (R256, R322). -/
def State.raiseDeferred (s : State) (seq : Nat) : State := { s with core := { s.core with deferred := some seq } }

/-- The bundle's issue is held with the clock-enable off (R288, R312, R372). -/
def State.holdIssue (s : State) (h : Hold) : State :=
  match s.core.hold with
  | some _ => s
  | none => { s with core := { s.core with hold := some h } }

/-- The class cycle a word of slots V, X or D holds (R378), and the wait before its start where it is held. -/
def State.holdClass (s : State) : State :=
  if s.core.handler || s.slot.cls = .ctl then s
  else
    let u := s.startTick
    let k := s.slot.cls
    let d := s.divOf k
    let t := if s.ctx.e + s.divOf .ctl ≤ u then s.fly (.tick (u - 1)) noClass .begin_ else s
    { t with core := { t.core with held := t.core.held.set k.ix (u + d) } }

/-- What every slot word does before its own effect: the SBMODE 1 check, then the predicate (R89, R107, R115). A word of slots
V, X or D whose predicate is true holds its class cycle. -/
def State.issue (s : State) (i : Instr) (p : Pred) (body : State → State) : State :=
  if s.stallShort i then s.raise 0x05 0x51 s.core.pc
  else if s.core.predTrue p then (body s).holdClass
  else s

/-! ## Taking a trap and returning (R321-R328) -/

/-- TSLOT's bits: RPC, ISSUED, SLOT (R196). -/
def tslotOf (rpc : Nat) (issued : Bool) (slot : Nat) : W64 := BitVec.ofNat 64 (rpc % 4096 * 65536 + (if issued then 8 else 0) + slot)

/-- TSLOT.RPC (R196). -/
def rpcOf (w : W64) : Nat := fld w.toNat 16 12

/-- An isle takes a trap (R327): the trap registers are written and TCAUSE2 cleared, a1 and a2 go to the handler section
(R222), and bundle 0 of the trap page is next with empty handler stacks (R176). `rpc` is the value TSLOT.RPC takes, `resume` the
bundle that follows if the handler leaves it unchanged (R256). -/
def Isle.takeTrap (c : Isle) (t : TrapRec) (rpc resume : Nat) : Isle :=
  { c with
    tcause := BitVec.ofNat 64 t.cause, taddr := BitVec.ofNat 64 t.addr, tinfo := BitVec.ofNat 64 t.info
    tslot := tslotOf rpc t.issued t.slot, tcause2 := 0
    ballast := (c.ballast.wrN 3072 8 (c.a[1]).toNat).wrN 3080 8 (c.a[2]).toNat
    handler := true, pc := 0, hloops := [], hcalls := [], hflights := [], htime := 0, hread := (false, false), hstall := 0, ret := some (rpc, resume)
    early := none, late := none, deferred := none, next := .seq, nextStall := 0 }

/-- An isle leaves handler mode (R191, R222, R326, R329): a1 and a2 come back from the handler section and normal mode resumes
at TSLOT.RPC; a standing wait outlives the handler where RPC is as the trap left it, and ends otherwise (R256). The results that
were in flight are still in `flights`, at the rc their schedule gave them. Breakpoint matching is suppressed for the first bundle that
issues where the cause was BREAKPOINT 0x01, whatever traps come before that bundle issues. -/
def Isle.leaveTrap (c : Isle) : Isle :=
  let same := (c.ret.map (·.1)) == some (rpcOf c.tslot)
  { c with
    a := (c.a.set 1 (BitVec.ofNat 64 (c.ballast.rdN 3072 8))).set 2 (BitVec.ofNat 64 (c.ballast.rdN 3080 8))
    handler := false, pc := if same then (c.ret.map (·.2)).getD (rpcOf c.tslot) else rpcOf c.tslot
    wait := if same then c.wait else none
    hloops := [], hcalls := [], hflights := [], ret := none, next := .seq, nextStall := 0
    bksup := c.bksup || decide (fld c.tcause.toNat 0 8 = 0x11 ∧ fld c.tinfo.toNat 0 8 = 0x01) }

/-! ## Statistics records (R332) -/

/-- KIND's code (R332). -/
def EvKind.code : EvKind → Nat
  | .nv => 1 | .of => 2 | .uf => 3 | .dz => 4 | .accovf => 5 | .inexactAlign => 6 | .lost => 15

/-- A record's bits (R332). -/
def statRecord (k : EvKind) (slot bundle upc elem rcyc : Nat) : W64 :=
  BitVec.ofNat 64 (k.code * 2 ^ 60 + slot * 2 ^ 57 + bundle % 4096 * 2 ^ 45 + upc % 1024 * 2 ^ 35 + elem % 65536 * 2 ^ 19 + rcyc % 2 ^ 19)

/-- A record arrives at the queue (R332): appended while fewer than 63 are held, else counted in a LOST record. -/
def statArrive (q : List W64) (r : W64) : List W64 :=
  if q.length < 63 then q ++ [r]
  else
    match q.getLast? with
    | some l =>
      if fld l.toNat 60 4 = 15 then
        let n := fld l.toNat 19 16
        q.dropLast ++ [if n < 65535 then BitVec.ofNat 64 (l.toNat + 2 ^ 19) else l]
      else q ++ [BitVec.ofNat 64 (15 * 2 ^ 60 + fld r.toNat 35 25 * 2 ^ 35 + 2 ^ 19 + fld r.toNat 0 19)]
    | none => q ++ [r]

/-- A performance counter event (R387): every counter whose EVSEL names it counts, modulo 2^56. -/
def Isle.count (c : Isle) (ev n : Nat) : Isle :=
  { c with perf := c.perf.map fun w =>
      if fld w.toNat 56 8 = ev then BitVec.ofNat 64 (ev * 2 ^ 56 + (fld w.toNat 0 56 + n) % 2 ^ 56) else w }

/-- A record that arrives at the isle's statistics queue (R332); EVSEL 0x06 counts it where the queue grows, not where it is dropped (R387). -/
def Isle.record (c : Isle) (r : W64) : Isle :=
  let d : Isle := { c with statq := statArrive c.statq r }
  if c.statq.length < d.statq.length then d.count 0x06 1 else d

end Sys2Proof.Machine
end

