-- ==== Sys2Proof/Machine/Flags.lean ====
section
/-! DEFINITION. Conditions and predicate results of the scalar clusters (R125, R127), and the atomic operations of R96, R223. -/

namespace Sys2Proof.Machine

/-- The conditions of CMP and CMPI on two 64-bit patterns (R125). -/
def condHolds (c : Cond) (x y : W64) : Bool :=
  match c with
  | .eq => x == y
  | .ne => x != y
  | .lt => decide (x.toInt < y.toInt)
  | .ge => decide (y.toInt ≤ x.toInt)
  | .ltu => decide (x.toNat < y.toNat)
  | .geu => decide (y.toNat ≤ x.toNat)

/-- A truth table's bit: TT[2a + b] (R96). -/
def truth (tt : BitVec 4) (a b : Bool) : Bool := tt.getLsbD ((if a then 2 else 0) + (if b then 1 else 0))

/-- The smaller of two patterns read as signed numbers (R119). -/
def minS (x y : W64) : W64 := if x.toInt ≤ y.toInt then x else y
/-- The larger of two patterns read as signed numbers (R119). -/
def maxS (x y : W64) : W64 := if x.toInt ≤ y.toInt then y else x
/-- The smaller of two patterns read as unsigned numbers (R119). -/
def minU (x y : W64) : W64 := if x.toNat ≤ y.toNat then x else y
/-- The larger of two patterns read as unsigned numbers (R119). -/
def maxU (x y : W64) : W64 := if x.toNat ≤ y.toNat then y else x

/-- new := old op y (R223). -/
def atomic (op : AtomOp) (old y : W64) : W64 :=
  match op with
  | .add => old + y
  | .and => old &&& y
  | .or => old ||| y
  | .xor => old ^^^ y
  | .min => minS old y
  | .max => maxS old y
  | .minn => minU old y
  | .maxn => maxU old y
  | .swap => y

/-- The present word's slot as its outcome: a meaning always answers with a next state. -/
abbrev Out := Host.Outcome State Fault Refusal

end Sys2Proof.Machine
end

