-- ==== Sys2Proof/Machine/Control.lean ====
section
/-! DEFINITION. The words of slot C other than waits, and the sequencer (R176-R192, R377). -/

namespace Sys2Proof.Machine

/-- What a C word does before its effect: its stall count applies whether its predicate holds or not (R89, R93). -/
def State.issueC (s : State) (i : Instr) (p : Pred) (n : Fin 16) (body : State → State) : State :=
  { s with core := { s.core with nextStall := n.val } }.issue i p body

/-- INSTR_ILLEGAL with a reason of R91 or R181 found at issue: TADDR is the bundle index. -/
def State.illegal (s : State) (reason : Nat) : State := s.raise 0x01 reason s.core.pc

/-- The loop stack of the present mode, top first (R176, R178). -/
def Isle.loopStack (c : Isle) : List LoopEnt := if c.handler then c.hloops else c.loops
/-- The loop stack of the present mode replaced. -/
def Isle.setLoops (c : Isle) (l : List LoopEnt) : Isle := if c.handler then { c with hloops := l } else { c with loops := l }
/-- The call stack of the present mode, top first (R176, R178). -/
def Isle.callStack (c : Isle) : List Nat := if c.handler then c.hcalls else c.calls
/-- The call stack of the present mode replaced. -/
def Isle.setCalls (c : Isle) (l : List Nat) : Isle := if c.handler then { c with hcalls := l } else { c with calls := l }
/-- Depth of the loop stack: six entries, two in handler mode (R176, R178). -/
def Isle.loopDepth (c : Isle) : Nat := if c.handler then 2 else 6
/-- Depth of the call stack: eight entries, two in handler mode (R176, R178). -/
def Isle.callDepth (c : Isle) : Nat := if c.handler then 2 else 8

/-- The next bundle set by the present C word. -/
def State.goto (s : State) (n : Next) : State := { s with core := { s.core with next := n } }

/-- The loop-end test of R179 at bundle P: the next bundle and the stack that remains. -/
def loopEnd (p : Nat) : List LoopEnt → Nat × List LoopEnt
  | [] => (p + 1, [])
  | e :: t =>
    if e.fin = p then
      (if e.index + 1 < e.count then (e.start, { e with index := e.index + 1 } :: t) else loopEnd p t)
    else (p + 1, e :: t)

/-- The sequencer's choice after the bundle at PC (R179); its stall count follows (R93). An isle that has ended stays, but for its handler. -/
def Isle.advance (c : Isle) : Isle :=
  if c.ended && !c.handler then c
  else
    let c := if c.handler then { c with hstall := c.nextStall } else { c with stall := c.nextStall, waitPc := c.pc }
    match c.next with
    | .jump x => { c with pc := x, next := .seq, nextStall := 0 }
    | .lbrk =>
      (match c.loopStack with
      | [] => { c with next := .seq, nextStall := 0 }
      | e :: t => { c.setLoops t with pc := e.fin + 1, next := .seq, nextStall := 0 })
    | .leave => c
    | .seq =>
      let (x, l) := loopEnd c.pc c.loopStack
      { c.setLoops l with pc := x, next := .seq, nextStall := 0 }

/-- Whether an operation of the isle in focus is an exposed-latency result in flight (R47, R373). An update of an AB barrier that has not landed
counts as one: R47's list does not name it, and R373 says that a wait which such an update precedes is no safe point (DEDUCED, log 80). -/
def State.exposed (s : State) : Bool :=
  (s.core.flights.any fun f => match f.eff with | .remote _ => false | _ => true) || s.core.mat.running.isSome || s.core.mat.latched.isSome ||
    s.ctx.words.any fun t =>
      t.ox == s.core.px && t.oy == s.core.py &&
        (match t.cargo with | .request _ _ _ _ => true | .reply _ _ _ => true | _ => false)

/-- NOP of slot C (R90, R93). -/
def execNopC (p : Pred) (n : Fin 16) (s : State) : Out := .next (s.issueC (.nopC p n) p n id)

/-- BR (R183). -/
def execBr (p : Pred) (n : Fin 16) (tgt : BitVec 12) (s : State) : Out :=
  .next (s.issueC (.br p n tgt) p n (·.goto (.jump tgt.toNat)))

/-- BRI (R181, R183). -/
def execBri (p : Pred) (n : Fin 16) (bs : Fin 32) (s : State) : Out :=
  .next (s.issueC (.bri p n bs) p n fun s =>
    let x := (s.core.rdB bs).toNat
    if modeRange s.core.handler x then s.goto (.jump x) else s.illegal 0x09)

/-- CALL (R181, R183). -/
def execCall (p : Pred) (n : Fin 16) (tgt : BitVec 12) (s : State) : Out :=
  .next (s.issueC (.call p n tgt) p n fun s =>
    if s.core.callDepth ≤ s.core.callStack.length then s.illegal 0x07
    else { s with core := s.core.setCalls ((s.core.pc + 1) :: s.core.callStack) }.goto (.jump tgt.toNat))

/-- RET (R181, R183). -/
def execRet (p : Pred) (n : Fin 16) (s : State) : Out :=
  .next (s.issueC (.ret p n) p n fun s =>
    match s.core.callStack with
    | [] => s.illegal 0x08
    | x :: t =>
      if modeRange s.core.handler x then { s with core := s.core.setCalls t }.goto (.jump x) else s.illegal 0x09)

/-- A loop entry pushed after the issue-time checks of R181 and R184. -/
def State.pushLoop (s : State) (len count : Nat) : State :=
  let p := s.core.pc
  let l := s.core.loopStack
  if (match l with | [] => false | e :: _ => decide (e.fin < p + len)) || l.any (fun e => e.fin == p) then s.illegal 0x09
  else if count = 0 then s.goto (.jump (p + len + 1))
  else if s.core.loopDepth ≤ l.length then s.illegal 0x07
  else { s with core := s.core.setLoops ({ start := p + 1, fin := p + len, count := count, index := 0 } :: l) }

/-- LOOP (R184). -/
def execLoop (p : Pred) (n : Fin 16) (lenM1 : BitVec 8) (cntM1 : BitVec 10) (s : State) : Out :=
  .next (s.issueC (.loop p n lenM1 cntM1) p n (·.pushLoop (lenM1.toNat + 1) (cntM1.toNat + 1)))

/-- LOOPR (R181, R184): a count of 0 pushes nothing and passes the body over. -/
def execLoopr (p : Pred) (n : Fin 16) (lenM1 : BitVec 8) (bs : Fin 32) (s : State) : Out :=
  .next (s.issueC (.loopr p n lenM1 bs) p n fun s =>
    let x := (s.core.rdB bs).toNat
    if 2 ^ 32 ≤ x then s.illegal 0x0B else s.pushLoop (lenM1.toNat + 1) x)

/-- LBRK (R179, R185). -/
def execLbrk (p : Pred) (n : Fin 16) (s : State) : Out :=
  .next (s.issueC (.lbrk p n) p n fun s => if s.core.loopStack.isEmpty then s.illegal 0x08 else s.goto .lbrk)

/-- SAFEPT (R45, R91, R186): the rc that every isle gives to SAFEPT is judged when it closes. -/
def execSafept (p : Pred) (n : Fin 16) (list : Fin 16) (s : State) : Out :=
  .next (s.issueC (.safept p n list) p n fun s =>
    if s.exposed then s.illegal 0x06 else { s with core := { s.core with safe := some list.val } })

/-- END (R52, R187). -/
def execEndC (p : Pred) (n : Fin 16) (s : State) : Out :=
  .next (s.issueC (.endC p n) p n fun s => { s with core := { s.core with ended := true } })

/-- TRAP (R190): its bundle issues, then the software cause is raised. -/
def execTrap (p : Pred) (n : Fin 16) (code : BitVec 8) (s : State) : Out :=
  .next (s.issueC (.trap p n code) p n (·.raiseAfterOpen code.toNat 0))

/-- TRET (R191, R327): the isle leaves once no result of a handler bundle is in flight. -/
def execTret (p : Pred) (n : Fin 16) (s : State) : Out :=
  .next (s.issueC (.tret p n) p n (·.goto .leave))

/-- BRK (R190). -/
def execBrk (p : Pred) (n : Fin 16) (s : State) : Out :=
  .next (s.issueC (.brk p n) p n (·.raiseAfterOpen 0x11 0x02))

/-- CLKDIV (R189): every isle's word is compared when the bundle issues. -/
def execClkdiv (p : Pred) (n : Fin 16) (cls : ClkClass) (divM1 : Fin 8) (s : State) : Out :=
  .next (s.issueC (.clkdiv p n cls divM1) p n fun s =>
    if s.exposed then s.illegal 0x06 else { s with core := { s.core with clk := some (cls, divM1.val) } })

/-- Size of an isle's AB (R204). -/
def Image.abSize (i : Image) : Nat := if i.mclass then 2097152 else 8388608

/-- A system register's value (R195-R198). -/
def State.sysRead (s : State) : SysReg → W64
  | .tcause => s.core.tcause
  | .taddr => s.core.taddr
  | .tslot => s.core.tslot
  | .tinfo => s.core.tinfo
  | .tcause2 => s.core.tcause2
  | .regbase => BitVec.ofNat 64 (s.ctx.image.abSize - 57344 + 10240 * s.ctx.ctxid.val)
  | .ctxid => BitVec.ofNat 64 s.ctx.ctxid.val
  | .asid => BitVec.ofNat 64 s.ctx.asid
  | .px => BitVec.ofNat 64 s.core.px
  | .py => BitVec.ofNat 64 s.core.py
  | .pw => BitVec.ofNat 64 s.ctx.image.w
  | .ph => BitVec.ofNat 64 s.ctx.image.h
  | .rcycle => BitVec.ofNat 64 s.ctx.rcycle
  | .clkd => BitVec.ofNat 64 ((s.divOf .ctl - 1) + (s.divOf .mat - 1) * 16 + (s.divOf .vec - 1) * 256 + (s.divOf .cpy - 1) * 4096)
  | .sbmode => s.core.sbmode.zeroExtend 64
  | .feat => s.ctx.feat
  | .srseed => s.core.srseed
  | .bkpt n => s.core.bkpt[n]
  | .perf n => s.core.perf[n]

/-- SYSRD (R192): the value before the bundle issued. -/
def execSysrd (p : Pred) (n : Fin 16) (g : GReg) (sys : SysReg) (s : State) : Out :=
  .next (s.issueC (.sysrd p n g sys) p n fun s => s.land 0 (.scalar g (s.sysRead sys)))

/-- SYSWR (R192): the write lands at the end of the issue rc. -/
def execSyswr (p : Pred) (n : Fin 16) (sys : SysReg) (g : GReg) (s : State) : Out :=
  .next (s.issueC (.syswr p n sys g) p n fun s => s.after 0 (.sys sys (s.core.rdG g)))

/-- What a landed SYSWR leaves, field by field (R7, R192, R196, R198, R199). -/
def Isle.sysWrite (c : Isle) (r : SysReg) (x : W64) : Isle :=
  match r with
  | .tslot =>
    if c.handler then { c with tslot := (c.tslot &&& ~~~ 0x000000000FFF0000#64) ||| (x &&& 0x000000000FFF0000#64) } else c
  | .sbmode => if fld x.toNat 0 2 = 3 then c else { c with sbmode := x.truncate 2 }
  | .srseed => { c with srseed := x }
  | .bkpt n => { c with bkpt := c.bkpt.set n (x &&& ~~~ 0x000000000003F000#64) }
  | .perf n => { c with perf := c.perf.set n x }
  | _ => c

/-- STATPOP (R377): the oldest record, which leaves at the end of the rc; an empty queue gives 0. -/
def execStatpop (p : Pred) (n : Fin 16) (g : GReg) (s : State) : Out :=
  .next (s.issueC (.statpop p n g) p n fun s =>
    match s.core.statq with
    | [] => s.land 0 (.scalar g 0)
    | x :: _ => (s.land 0 (.scalar g x)).after 0 .pop)

end Sys2Proof.Machine
end

