-- ==== Sys2Proof/Machine/Translate.lean ====
section
/-! DEFINITION. Device memory and its two translation stages (R246-R258, R391). A byte of device memory is kept under its die
and PA: die x 2^40 + PA. Stage-1 tables are bytes of it; the stage-2 tables of a partition are the 64-bit entries that R391 lays out
and those written since, at places of their own (log 14). -/

namespace Sys2Proof.Machine

/-- A translation fault: cause and TINFO (R255). -/
abbrev XFault := Nat × Nat

/-- Where an access lands: the key of its first byte, the place of the stage-2 leaf (die x 2^40 + PA), and whether it maps 512 MiB. A `bad`
place is that of a table sector with an uncorrectable error, which ends the walk (R257). -/
structure Place where
  key : Nat
  pid : Nat
  leaf : Nat
  big : Bool
  bad : Bool := false
  deriving DecidableEq, Repr

/-- The die and die-local PA of a channel in pool order, M pool first (R246, R349). -/
def channelBase (c : Nat) : Nat × Nat :=
  if c < 256 then (c / 64, c % 64 * 2 ^ 31) else (4 + (c - 256) / 128, (c - 256) % 128 * 2 ^ 31)

/-- A partition of the machine by number. -/
def State.part (s : State) (pid : Nat) : Option Part := s.parts.find? (fun p => p.pid == pid)

/-- A partition changed. -/
def State.onPart (s : State) (pid : Nat) (f : Part → Part) : State :=
  { s with parts := s.parts.map fun p => if p.pid == pid then f p else p }

/-- The channels of a partition on a die, in ascending pool order (R391). -/
def Part.chansOn (p : Part) (die : Nat) : List Nat := (p.chans.sorted (· ≤ ·)).filter fun c => (channelBase c).1 == die

/-- Base PA of the second-tier window (R246). -/
def tierBase : Nat := 0x4000000000

/-- Half of the second tier that a partition is granted, in whole 512 MiB pages (R391). -/
def Part.half (p : Part) : Nat := p.tier2 / 2 / 2 ^ 29 * 2 ^ 29

/-- Whether a PA of a die is populated (R246). -/
def State.populated (s : State) (die pa : Nat) : Bool :=
  if die < 4 then pa < 0x2000000000
  else pa < tierBase || pa < tierBase + s.cxlBytes.getD (die - 4) 0

/-- The channel at a PA of a die, in pool order, M pool first; none for the second tier (R246). -/
def channelAt (die pa : Nat) : Option Nat :=
  if die < 4 then some (die * 64 + pa / 2 ^ 31) else if pa < tierBase then some (256 + (die - 4) * 128 + pa / 2 ^ 31) else none

/-- Whether a PA of a die lies in a channel or a second-tier range that was given to a partition at its creation (R391, R395). -/
def Part.given (p : Part) (die pa : Nat) : Bool :=
  match channelAt die pa with
  | some c => p.chans.contains c
  | none => decide (tierBase + p.t2off ≤ pa ∧ pa < tierBase + p.t2off + p.half)

/-- Whether the ownership table of a die names a partition for a PA (R247): what it was given, of the second tier only where TIER2 is
accepted (R362). -/
def Part.owns (p : Part) (die pa : Nat) : Bool := p.given die pa && ((channelAt die pa).isSome || bit p.featAccept 2)

/-! ## Stage-2 tables (R250, R251, R391) -/

/-- A table entry: ADDR and the flag bits (R251). -/
def entryWord (addr flags : Nat) : W64 := BitVec.ofNat 64 (addr * 65536 + flags)

/-- Flags of a leaf that is readable, writable and awaits zeroing: V, L, R, W, Z. -/
def freshLeaf : Nat := 0x8F

/-- PA[39:16] of table n of a partition on a die: 0 the level-0 table at S2ROOT, 1 the level-1 table, 2 + k the level-2 table below entry k of
level 1 (log 14). -/
def Part.tableFrame (p : Part) (die n : Nat) : Nat := p.s2root.getD die 0 + n

/-- Where entry ix of table n on a die lies: die x 2^40 + PA. -/
def Part.entryAt (p : Part) (die n ix : Nat) : Nat := die * 2 ^ 40 + p.tableFrame die n * 65536 + 8 * ix

/-- Where the leaf of a 64 KiB page of a die lies, by die-relative GPA[44:16]. -/
def Part.leafAt (p : Part) (die page : Nat) : Nat := p.entryAt die (2 + page / 8192) (page % 8192)

/-- An entry as R391 lays it out: the channels at 2 GiB each, but for their top 64 MiB, and the second tier in 512 MiB pages. -/
def Part.laidOut (p : Part) (die n ix : Nat) : W64 :=
  let tier (k : Nat) : Bool := decide (4 ≤ die ∧ tierBase / 2 ^ 29 ≤ k ∧ k < (tierBase + p.half) / 2 ^ 29)
  let chan (k : Nat) : Bool := decide (k / 4 < (p.chans.filter fun c => (channelBase c).1 == die).length)
  match n with
  | 0 => if ix = 0 ∧ (chan 0 || (decide (4 ≤ die) && p.half != 0)) then entryWord (p.tableFrame die 1) 1 else 0
  | 1 =>
    if tier ix then entryWord ((ix * 2 ^ 29 + p.t2off) / 65536) freshLeaf
    else if chan ix then entryWord (p.tableFrame die (2 + ix)) 1
    else 0
  | k + 2 =>
    match (p.chansOn die)[k / 4]? with
    | some c => if !tier k && k % 4 * 8192 + ix < 31744 then entryWord ((channelBase c).2 / 65536 + k % 4 * 8192 + ix) freshLeaf else 0
    | none => 0

/-- The entry at a place of a die's stage-2 tables: as written last, else as R391 lays it out. -/
def Part.s2Word (p : Part) (k : Nat) : W64 :=
  match p.s2.find? (·.1 == k) with
  | some w => w.2
  | none =>
    let die := k / 2 ^ 40
    let frame := k % 2 ^ 40 / 65536
    let root := p.s2root.getD die 0
    if root ≤ frame then p.laidOut die (frame - root) (k % 65536 / 8) else 0

/-- An entry written by the management complex. -/
def Part.setS2 (p : Part) (k : Nat) (w : W64) : Part := { p with s2 := (k, w) :: p.s2.filter (·.1 != k) }

/-- What makes an entry of either stage malformed at a level, its flags KT and Z apart (R251). -/
def badForm (e lvl : Nat) : Bool :=
  let leaf := bit e 1
  fld e 48 16 != 0 || fld e 8 8 != 0 || bit e 6 || bit e 4 || (lvl == 0 && leaf) || (lvl == 2 && !leaf) ||
    (leaf && lvl == 1 && fld e 16 13 != 0) || (!leaf && (bit e 7 || bit e 5 || bit e 3 || bit e 2))

/-- The stage-2 entry (R253) of an address in a table of a level: its place and the entry, or reason and level. -/
def Part.look2 (p : Part) (die rel lvl frame : Nat) : Except (Nat × Nat) (Nat × Nat) :=
  let ix := if lvl = 0 then fld rel 42 3 else if lvl = 1 then fld rel 29 13 else fld rel 16 13
  let k := die * 2 ^ 40 + frame * 65536 + 8 * ix
  let e := (p.s2Word k).toNat
  if !bit e 0 then .error (0x61, lvl)
  else if badForm e lvl || bit e 5 || fld e 40 8 != 0 then .error (0x62, lvl)
  else .ok (k, e)

/-- The stage-2 walk (R253) from a level on, `n` levels left below: the leaf's level, place and entry, or reason and level. -/
def Part.walk2 (p : Part) (die rel : Nat) : Nat → Nat → Nat → Except (Nat × Nat) (Nat × Nat × Nat)
  | 0, lvl, frame =>
    (match p.look2 die rel lvl frame with
    | .error r => .error r
    | .ok (k, e) => if bit e 1 then .ok (lvl, k, e) else .error (0x62, lvl))
  | n + 1, lvl, frame =>
    (match p.look2 die rel lvl frame with
    | .error r => .error r
    | .ok (k, e) => if bit e 1 then .ok (lvl, k, e) else Part.walk2 p die rel n (lvl + 1) (fld e 16 24))

/-- Stage 2 of a partition (R253, R247): the place, or reason and level. -/
def State.stage2 (s : State) (p : Part) (gpa : Nat) (rd wr : Bool) : Except (Nat × Nat) Place :=
  let die := gpa / 2 ^ 45 % 8
  let rel := gpa % 2 ^ 45
  if 6 ≤ die then .error (0x64, 0)
  else
    match p.walk2 die rel 2 0 (p.s2root.getD die 0) with
    | .error r => .error r
    | .ok (lvl, k, e) =>
      let pa := fld e 16 24 * 65536 + rel % (if lvl = 1 then 2 ^ 29 else 2 ^ 16)
      if (rd && !bit e 2) || (wr && !bit e 3) then .error (0x69, lvl)
      else if !s.populated die pa then .error (0x65, lvl)
      else if !p.owns die pa then .error (0x6B, lvl)
      else .ok { key := die * 2 ^ 40 + pa, pid := p.pid, leaf := k, big := lvl = 1 }

/-! ## Device memory (R257, R258) -/

/-- Whether a leaf has Z = 1 (R258). -/
def State.awaitsZero (s : State) (pl : Place) : Bool :=
  match s.part pl.pid with
  | some p => (p.s2Word pl.leaf).getLsbD 7
  | none => false

/-- The first key of the frame of a place, and its length. -/
def Place.frame (pl : Place) : Nat := if pl.big then pl.key / 2 ^ 29 * 2 ^ 29 else pl.key / 65536 * 65536
/-- The bytes of the frame of a place. -/
def Place.size (pl : Place) : Nat := if pl.big then 2 ^ 29 else 65536

/-- A frame zeroed, its sectors good again, and its leaf written with Z = 0 (R258), before the access that met it. -/
def State.zeroFrame (s : State) (pl : Place) : State :=
  if s.awaitsZero pl then
    { s with
      dram := s.dram.clearRange pl.frame pl.size
      dpoison := s.dpoison.filter fun k => !(pl.frame ≤ k * 32 && k * 32 < pl.frame + pl.size) }.onPart pl.pid fun p =>
        p.setS2 pl.leaf (p.s2Word pl.leaf &&& ~~~0x80)
  else s

/-- The frames of a list of places zeroed where that is due. -/
def State.zeroFrames (s : State) (l : List Place) : State := l.foldl State.zeroFrame s

/-- n bytes at a place: a frame that awaits zeroing reads as zero (R258). -/
def State.devRead (s : State) (pl : Place) (n : Nat) : List Byte :=
  if s.awaitsZero pl then List.replicate n 0 else s.dram.bytes pl.key n

/-- Bytes written at a place, after its zeroing where that is due (R258). -/
def State.devWrite (s : State) (pl : Place) (l : List Byte) : State :=
  let s := s.zeroFrame pl
  { s with dram := s.dram.wrList (place pl.key l) }

/-- Whether a place's sector holds an uncorrectable error (R257); a frame that awaits zeroing is zeroed first. -/
def State.poisoned (s : State) (pl : Place) : Bool := pl.bad || (s.dpoison.contains (pl.key / 32) && !s.awaitsZero pl)

/-- The frame of a place, as a unit of the error counts (R331). -/
def Place.unit (pl : Place) : ErrUnit := .frame (pl.key / 2 ^ 40) (pl.key % 2 ^ 40 / 65536)

/-! ## Both stages -/

/-- TINFO of a translation fault (R255). -/
def xInfo (reason level stage : Nat) (wr kite : Bool) (gpa : Nat) : Nat :=
  reason + level * 2 ^ 8 + stage * 2 ^ 10 + (if wr then 2 ^ 11 else 0) + (if kite then 2 ^ 12 else 0) +
    (if stage = 1 then gpa / 2 ^ 16 % 2 ^ 32 * 2 ^ 32 else 0)

/-- The cause of a translation reason (R255). -/
def xCause (reason : Nat) : Nat := if reason < 0x68 then 0x09 else 0x0A

/-- Stage 2 with its fault as R255 gives it. -/
def State.viaStage2 (s : State) (p : Part) (gpa : Nat) (rd wr kite : Bool) : Except XFault Place :=
  match s.stage2 p gpa rd wr with
  | .ok pl => .ok pl
  | .error (r, l) => .error (xCause r, xInfo r l 1 wr kite gpa)

/-- The access that a walk is for: VA, whether it writes, whether it also reads, whether it came through the tether. -/
structure Asked where
  va : Nat
  wr : Bool
  rd : Bool
  kite : Bool
  deriving DecidableEq, Repr

/-- The stage-1 entry (R252) of an access in the table at a GPA: the place of the entry, and the place that a leaf gives the access or the
GPA of the next table. -/
def State.look1 (s : State) (p : Part) (q : Asked) (lvl t : Nat) : List Place × Except XFault (Place ⊕ Nat) :=
  let ix := if lvl = 0 then fld q.va 42 10 else if lvl = 1 then fld q.va 29 13 else fld q.va 16 13
  match s.viaStage2 p (t + 8 * ix) true false q.kite with
  | .error f => ([], .error f)
  | .ok pl =>
    let e := ofLe (s.devRead pl 8)
    let fail (r : Nat) : List Place × Except XFault (Place ⊕ Nat) := ([pl], .error (xCause r, xInfo r lvl 0 q.wr q.kite 0))
    if s.poisoned pl then ([pl], .ok (.inl { pl with bad := true }))
    else if !bit e 0 then fail 0x60
    else if badForm e lvl || bit e 7 then fail 0x62
    else if !bit e 1 then ([pl], .ok (.inr (fld e 16 32 * 65536)))
    else if (q.rd && !bit e 2) || (q.wr && !bit e 3) then fail 0x68
    else if q.kite && !bit e 5 then fail 0x6A
    else
      ([pl], (s.viaStage2 p (fld e 16 32 * 65536 + q.va % (if lvl = 1 then 2 ^ 29 else 2 ^ 16)) q.rd q.wr q.kite).map .inl)

/-- The stage-1 walk (R252) from a level on, `n` levels left below: the places of the table entries that it reads, and what it finds. -/
def State.walk (s : State) (p : Part) (q : Asked) : Nat → Nat → Nat → List Place × Except XFault Place
  | 0, lvl, t =>
    (match s.look1 p q lvl t with
    | (l, .error f) => (l, .error f)
    | (l, .ok (.inl pl)) => (l, .ok pl)
    | (l, .ok (.inr _)) => (l, .error (xCause 0x62, xInfo 0x62 lvl 0 q.wr q.kite 0)))
  | n + 1, lvl, t =>
    (match s.look1 p q lvl t with
    | (l, .error f) => (l, .error f)
    | (l, .ok (.inl pl)) => (l, .ok pl)
    | (l, .ok (.inr t)) => let r := State.walk s p q n (lvl + 1) t; (l ++ r.1, r.2))

/-- Both stages (R252, R253) in an address space that must be of the partition: the table entries read, and the place of the VA. -/
def State.lookup (s : State) (asid pid : Nat) (q : Asked) : List Place × Except XFault Place :=
  if 2 ^ 52 ≤ q.va then ([], .error (0x09, xInfo 0x64 0 0 q.wr q.kite 0))
  else
    match s.asids.find? (fun a => a.1 == asid), s.part pid with
    | some a, some p =>
      if a.2.1 = pid then s.walk p q 2 0 (a.2.2 * 65536) else ([], .error (0x09, xInfo 0x63 0 0 q.wr q.kite 0))
    | _, _ => ([], .error (0x09, xInfo 0x63 0 0 q.wr q.kite 0))

/-- The place of a VA, or its fault. -/
def State.translate (s : State) (asid pid : Nat) (q : Asked) : Except XFault Place := (s.lookup asid pid q).2

/-- An access made: every frame that it or its walk meets with Z = 1 is zeroed (R258). -/
def State.touch (s : State) (asid pid : Nat) (q : Asked) : State :=
  let r := s.lookup asid pid q
  s.zeroFrames (r.1 ++ match r.2 with | .ok pl => [pl] | .error _ => [])

/-- A context's access of a VA (R252, R254): whether it reads, whether it writes. -/
def Asked.ctx (va : Nat) (rd wr : Bool) : Asked := { va := va, wr := wr, rd := rd, kite := false }

/-- A context's read of a VA (R254). -/
def State.ctxRead (s : State) (c : Ctx) (va : Nat) : Except XFault Place := s.translate c.asid c.pid (.ctx va true false)

/-- A context's write to a VA (R254). -/
def State.ctxWrite (s : State) (c : Ctx) (va : Nat) : Except XFault Place := s.translate c.asid c.pid (.ctx va false true)

/-- A context's read-modify-write of a VA (R252). -/
def State.ctxModify (s : State) (c : Ctx) (va : Nat) : Except XFault Place := s.translate c.asid c.pid (.ctx va true true)

/-- An access of the context in focus made (R258). -/
def State.ctxTouch (s : State) (va : Nat) (rd wr : Bool) : State := s.touch s.ctx.asid s.ctx.pid (.ctx va rd wr)

/-- Why bytes of a VA could not be reached: a translation fault, or an uncorrectable error (R255, R257), and where. -/
inductive VaFault | xlate (f : XFault) (va : Nat) | ecc (va : Nat) (u : ErrUnit)
  deriving DecidableEq, Repr

/-- The unit that an uncorrectable error counts against (R257, R331). -/
def VaFault.unit : VaFault → Option ErrUnit
  | .xlate _ _ => none
  | .ecc _ u => some u

/-- The addresses of n bytes at which a page begins, and the first. -/
def pageStarts (va n : Nat) : List Nat :=
  if n = 0 then []
  else va :: ((List.range (n / 65536 + 1)).map fun k => (va / 65536 + 1 + k) * 65536).filter fun a => decide (a < va + n)

/-- The frames that n bytes of an access meet from its VA on, zeroed where that is due (R258). -/
def State.touchAll (s : State) (asid pid : Nat) (q : Asked) (n : Nat) : State :=
  (pageStarts q.va n).foldl (fun s a => s.touch asid pid { q with va := a }) s

/-- The same for a read. -/
def State.touchVa (s : State) (asid pid va n : Nat) : State := s.touchAll asid pid (.ctx va true false) n

/-- n bytes from a VA on through an address space, each byte translated (R252). -/
def State.readVa (s : State) (asid pid : Nat) : Nat → Nat → Except VaFault (List Byte)
  | _, 0 => .ok []
  | va, n + 1 =>
    match s.translate asid pid (.ctx va true false) with
    | .error f => .error (.xlate f va)
    | .ok pl =>
      if s.poisoned pl then .error (.ecc va pl.unit)
      else
        match State.readVa s asid pid (va + 1) n with
        | .error f => .error f
        | .ok l => .ok (s.devRead pl 1 ++ l)

/-- Bytes written from a VA on through an address space: the state with the bytes before the first that cannot be written. -/
def State.writeVa (s : State) (asid pid : Nat) : Nat → List Byte → State × Option VaFault
  | _, [] => (s, none)
  | va, x :: t =>
    let r := s.lookup asid pid (.ctx va false true)
    let s := s.zeroFrames r.1
    match r.2 with
    | .error f => (s, some (.xlate f va))
    | .ok pl => if pl.bad then (s, some (.ecc va pl.unit)) else State.writeVa (s.devWrite pl [x]) asid pid (va + 1) t

/-! ## Guest-physical accesses (R254) -/

/-- The places of n bytes from a GPA on; none where stage 2 refuses one. -/
def State.gpaPlaces (s : State) (p : Part) (wr : Bool) : Nat → Nat → Option (List Place)
  | _, 0 => some []
  | gpa, n + 1 =>
    match s.stage2 p gpa (!wr) wr with
    | .error _ => none
    | .ok pl => (State.gpaPlaces s p wr (gpa + 1) n).map fun l => pl :: l

/-- n bytes of a partition's guest-physical memory, or the unit of the uncorrectable error that it meets, none where stage 2 refuses it. -/
def State.readGpa (s : State) (p : Part) : Nat → Nat → Except (Option ErrUnit) (List Byte)
  | _, 0 => .ok []
  | gpa, n + 1 =>
    match s.stage2 p gpa true false with
    | .error _ => .error none
    | .ok pl =>
      if s.poisoned pl then .error (some pl.unit)
      else
        match State.readGpa s p (gpa + 1) n with
        | .error u => .error u
        | .ok l => .ok (s.devRead pl 1 ++ l)

/-- The frames of n bytes that are read from a GPA on, zeroed where that is due (R258). -/
def State.touchGpa (s : State) (p : Part) (gpa n : Nat) : State :=
  (pageStarts gpa n).foldl (fun s a => match s.stage2 p a true false with | .ok pl => s.zeroFrame pl | .error _ => s) s

/-- Bytes written at places. -/
def State.writePlaces : List (Place × Byte) → State → State
  | [], s => s
  | (pl, x) :: t, s => State.writePlaces t (s.devWrite pl [x])

end Sys2Proof.Machine
end

