-- ==== Sys2Proof/Machine/Regions.lean ====
section
/-! DEFINITION. Placement geometry (R26-R31), the latency of a hop (R31, R275), and the memory-side byte budgets and caps
(R383-R386). -/

namespace Sys2Proof.Machine

/-- The coordinates of a W x H rectangle in the order PY x W + PX. -/
def rectangle (w h : Nat) : List (Nat × Nat) := (List.range h).flatMap fun y => (List.range w).map fun x => (x, y)

/-- The physical grid isle of abstract isle (x, y) of a W x H image at an origin under rotation k (R28): column, row. -/
def physGrid (ox oy k w h x y : Nat) : Nat × Nat :=
  match k with
  | 0 => (ox + x, oy + y)
  | 1 => (ox + (h - 1 - y), oy + x)
  | 2 => (ox + (w - 1 - x), oy + (h - 1 - y))
  | _ => (ox + y, oy + (w - 1 - x))

/-- The die and die-local column and row of a grid isle (R12, R27); a B-class grid is the die itself. -/
def dieOf (mclass : Bool) (die col row : Nat) : Nat × Nat × Nat :=
  if mclass then (col / 12 + row / 8 * 2, col % 12, row % 8) else (die, col, row)

/-- The physical isle of an abstract isle of a region. -/
def Region.phys (r : Region) (x y : Nat) : Nat × Nat × Nat :=
  let g := physGrid r.ox r.oy r.rot r.w r.h x y
  dieOf r.mclass r.die g.1 g.2

/-- A region of the machine by number. -/
def State.region (s : State) (rid : Nat) : Option Region := s.regions.find? (·.rid == rid)

/-- A region changed. -/
def State.onRegion (s : State) (rid : Nat) (f : Region → Region) : State :=
  { s with regions := s.regions.map fun r => if r.rid == rid then f r else r }

/-- The physical isle of the isle in focus. -/
def State.here (s : State) : Option (Nat × Nat × Nat) := (s.region s.ctx.rid).map fun r => r.phys s.core.px s.core.py

/-- The declared latency of the seam that a hop from (x, y) crosses, if it crosses one (R31, R108). -/
def Image.seamAt (i : Image) (x y : Nat) (d : Dir) : Option Nat :=
  let (row, b) : Bool × Nat := match d with
    | .n => (true, y)
    | .s => (true, y + 1)
    | .w => (false, x)
    | .e => (false, x + 1)
  (i.seams.find? fun m => m.rowAxis == row && m.boundary == b).map (·.latency)

/-- The isle in focus as a unit of the error counts (R331). -/
def State.isleUnit (s : State) : ErrUnit :=
  match s.here with
  | some (d, c, r) => .isle d c r
  | none => .isle 6 0 0

/-- Its array as a unit (R243, R331). -/
def State.arrayUnit (s : State) : ErrUnit :=
  match s.here with
  | some (d, c, r) => .array d c r
  | none => .array 6 0 0

/-- The isle that an error of a unit counts against, in its memories or its array (R331). -/
def wholeUnit : ErrUnit → ErrUnit
  | .array d c r => .isle d c r
  | .isle d c r => .isle d c r
  | .frame d f => .frame d f
  | .strait k => .strait k
  | .link k => .link k
  | .socket k => .socket k

/-- The latency of a hop from (x, y): class 15 for the first of a word, class 16 for a further one, the seam's where it crosses one
(R106, R275). -/
def State.hop (s : State) (first : Bool) (x y : Nat) (d : Dir) : Nat :=
  (s.ctx.image.seamAt x y d).getD (s.lat (if first then 15 else 16))

/-! ## Budgets and caps -/

/-- The cap of a channel at a temperature of its stack (R385). -/
def capOf (t : Nat) : Nat := if t < 85 then 1000000 else if t < 95 then 900000 else if t < 105 then 750000 else 500000

/-- The channel of a place; none for the second tier (R246). -/
def Place.channel (pl : Place) : Option Nat := channelAt (pl.key / 2 ^ 40) (pl.key % 2 ^ 40)

/-- What a key has used, or holds, in the present interval: regions by RID, channels from 1,024 on, caps of stacks from 4,096 on. -/
def State.used (s : State) (k : Nat) : Option Nat := (s.budgetUse.find? (·.1 == k)).map (·.2)

/-- One more sector counted. -/
def State.spend (s : State) (k : Nat) : State :=
  { s with budgetUse := (k, (s.used k).getD 0 + 32) :: s.budgetUse.filter (·.1 != k) }

/-- PERCH (R383): 0 reads as 32. -/
def Part.perch (p : Part) : Nat := if p.budgetPerch = 0 then 32 else p.budgetPerch

/-- A sector at the arbiter of its channel (R385), whoever asks for it: counted where the cap lets it pass, none where it waits for the next
interval. -/
def State.channelIn (s : State) (pl : Place) : Option State :=
  match pl.channel with
  | some c => if (s.used (1024 + c)).getD 0 + 32 ≤ (s.used (4096 + c / 32)).getD 1000000 then some (s.spend (1024 + c)) else none
  | none => some s

/-- A sector of the context in focus at its memory-side arbiters (R384, R385): counted where the region's budget and the channel's
cap lets it pass, none where it waits for the next interval. -/
def State.letIn (s : State) (pl : Place) : Option State :=
  let okRegion := match s.part s.ctx.pid, s.region s.ctx.rid with
    | some p, some r => !p.budgetEn || decide ((s.used r.rid).getD 0 + 32 ≤ p.perch * r.chans.length)
    | _, _ => true
  if okRegion then (s.spend s.ctx.rid).channelIn pl else none

/-- Sectors admitted one after another by an arbiter, as far as the interval lets them pass: the state, and how many have passed (R384). -/
def State.admitBy (f : State → Place → Option State) (s : State) : List Place → State × Nat
  | [] => (s, 0)
  | pl :: t =>
    match f s pl with
    | none => (s, 0)
    | some u => let r := State.admitBy f u t; (r.1, r.2 + 1)

/-- The same for sectors of the context in focus. -/
def State.pass (s : State) (l : List Place) : State × Nat := s.admitBy State.letIn l

/-- The sectors of a list of places, each once. -/
def sectorsOf (l : List Place) : List Place :=
  l.foldl (fun acc p => if acc.any fun q => q.key / 32 == p.key / 32 then acc else acc ++ [p]) []

end Sys2Proof.Machine
end

