-- ==== Sys2Proof/Machine/Sync.lean ====
section
/-! DEFINITION. Flags, transaction barriers, waits and releases (R263-R268, R291-R293, R302-R305, R366-R376), and the words
WAITF, POSTF, WAITB and YIELD. -/

namespace Sys2Proof.Machine

/-! ## Barrier references and words (R292, R374) -/

/-- Where a barrier lies (R292): an AB footprint address of the isle, or a VA. -/
inductive BarRef | ab (a : Nat) | dm (va : Nat)
  deriving DecidableEq, Repr

/-- The barrier that a reference names; none where it is malformed (R292). -/
def barRef (x : W64) : Option BarRef :=
  let n := x.toNat
  if n % 16 ≠ 0 then none
  else if 2 ^ 63 ≤ n then (if fld n 24 39 = 0 then some (.ab (fld n 0 24)) else none)
  else if 2 ^ 52 ≤ n then none
  else some (.dm n)

/-- A barrier word, field by field (R374); `sig` holds bits [127:96]. -/
structure BarW where
  phase : Nat
  pend : Nat
  init : Nat
  bytes : Int
  scope : Nat
  sig : Nat
  deriving DecidableEq, Repr

/-- A barrier word from its 128 bits (R374). -/
def BarW.ofNat (w : Nat) : BarW :=
  { phase := fld w 0 4, pend := fld w 4 20, init := fld w 24 20, bytes := sext (fld w 44 48) 48, scope := fld w 92 4, sig := fld w 96 32 }

/-- The 128 bits of a barrier word (R374). -/
def BarW.toNat (b : BarW) : Nat :=
  b.phase + b.pend * 2 ^ 4 + b.init * 2 ^ 24 + wrap b.bytes 48 * 2 ^ 44 + b.scope * 2 ^ 92 + b.sig * 2 ^ 96

/-- Completion of the phase where nothing is pending (R304). -/
def BarW.settle (b : BarW) : BarW :=
  if b.pend = 0 ∧ b.bytes = 0 then { b with phase := (b.phase + 1) % 16, pend := b.init } else b

/-- Whether a byte count is inside its 48 bits (R297 reason 0x82). -/
def bytesFit (x : Int) : Bool := -(2 ^ 47) ≤ x && x < 2 ^ 47

/-- BARADD's update, or reason 0x82 (R303). -/
def BarW.announce (b : BarW) (y : Int) : Except Nat BarW :=
  if bytesFit (b.bytes + y) then .ok ({ b with bytes := b.bytes + y } : BarW).settle else .error 0x82

/-- BARARR's update, or its reason (R303). -/
def BarW.arrive (b : BarW) (y : Int) : Except Nat BarW :=
  if b.pend = 0 then .error 0x81
  else if bytesFit (b.bytes + y) then .ok ({ b with bytes := b.bytes + y, pend := b.pend - 1 } : BarW).settle
  else .error 0x82

/-- The word that BARINIT writes from b[bx] (R302). -/
def barInit (x : W64) : BarW :=
  { phase := 0, pend := fld x.toNat 0 20, init := fld x.toNat 0 20, bytes := 0, scope := fld x.toNat 20 4, sig := fld x.toNat 32 32 }

/-- BARINIT's own checks: reasons 0x83 and 0x84 (R297). -/
def barInitFault (ab : Bool) (x : W64) : Option Nat :=
  let b := barInit x
  if b.init = 0 ∨ 2 < b.scope then some 0x83 else if ab = (b.scope != 0) then some 0x84 else none

/-- Whether a barrier's SCOPE suits its place and the update (R297 reason 0x84). -/
def scopeSuits (ab : Bool) (u : BarUpd) (scope : Nat) : Bool :=
  if ab then scope == 0
  else
    match u with
    | .coll => scope == 2
    | _ => scope == 1 || scope == 2

/-- One update of a barrier, in one atomic step (R303, R304): the new word, or the reason of BARRIER_MISUSE. -/
def barUpdate (ab : Bool) (u : BarUpd) (b : BarW) : Except Nat BarW :=
  match u with
  | .init x => (match barInitFault ab x with | some r => .error r | none => .ok (barInit x))
  | .arrive y => if scopeSuits ab u b.scope then b.arrive y else .error 0x84
  | .add y => if scopeSuits ab u b.scope then b.announce y else .error 0x84
  | .bytes n => if scopeSuits ab u b.scope then b.announce (-(n : Int)) else .error 0x84
  | .kite n => if scopeSuits ab u b.scope then b.arrive (-(n : Int)) else .error 0x84
  | .coll => if scopeSuits ab u b.scope then b.arrive 0 else .error 0x84

/-- Whether a barrier at a phase has reached phase `ph` (R375). -/
def phaseReached (phase ph : Nat) : Bool := (phase + 16 - ph) % 16 ≤ 7

/-! ## Faults recorded against a context (R256, R293) -/

/-- BARRIER_MISUSE (R321). -/
def causeBarrier : Nat := 0x0C

/-- A fault recorded against the context in focus. -/
def State.record (s : State) (f : DefFault) : State := s.onCtx fun c => { c with faults := c.faults ++ [f] }

/-- A fault of an operation recorded against its context, the first that it has (R256): TSLOT.SLOT is 0 when a wait raises it. -/
def State.recordOp (s : State) (o : Op) (cause info addr : Nat) : State :=
  if s.ctx.faults.any (·.seq == o.seq) then s
  else s.record { seq := o.seq, px := o.px, py := o.py, flag := o.flag, bar := o.bar,
                  trap := { cause := cause, addr := addr, info := info, slot := 0, issued := false } }

/-- Recorded faults that a wait of the isle in focus on a flag names, lowest-issued operation first (R256). -/
def State.flagFaults (s : State) (f : Fin 32) : List DefFault :=
  (s.ctx.faults.filter fun d => d.flag == some (f.val, s.core.px, s.core.py)).sorted fun x y => x.seq ≤ y.seq

/-- Recorded faults that a wait of the isle in focus on a barrier names (R256): an AB barrier is one isle's own. -/
def State.barFaults (s : State) (ref : W64) : List DefFault :=
  (s.ctx.faults.filter fun d =>
    d.bar == some ref && (!ref.getLsbD 63 || (d.px == s.core.px && d.py == s.core.py))).sorted fun x y => x.seq ≤ y.seq

/-- A context that must be torn down at once: the teardown is the next step of the machine (R257, R330). -/
def State.doom (s : State) (slot fcause freason : Nat) : State := { s with agenda := .teardown slot fcause freason :: s.agenda }

/-- The context in focus is torn down for a cause whose TINFO the spec leaves open: FREASON is a free value (R338, log 10). -/
def State.lose (s : State) (cause : Nat) : State := s.doom s.ctx.slot cause ((s.free 1).toNat % 256)

/-- An uncorrectable error makes its unit lasting at once (R331): as eight corrected ones would. -/
def State.uncorrectable (s : State) (u : ErrUnit) : State :=
  { s with errs := List.replicate 8 (u, s.now) ++ s.errs, agenda := s.agenda ++ [.correctedError u] }

/-- The context in focus is torn down for an uncorrectable error of a unit (R257). -/
def State.loseFor (s : State) (u : ErrUnit) : State := (s.uncorrectable u).lose 0x0E

/-- An uncorrectable error that a compute port of the isle in focus meets (R207, R230): TSLOT names the slot of the access, TADDR where it
was made, and the context is torn down. -/
def State.loseAt (s : State) (k : SlotId) (addr : Nat) : State :=
  (s.onCore fun c => { c with tcause := 0x0E, taddr := BitVec.ofNat 64 addr, tslot := tslotOf c.pc true k.idx }).loseFor s.isleUnit

/-- The same for one that the context meets at a VA (R257): TADDR holds the VA. -/
def State.loseVa (s : State) (va : Nat) (u : ErrUnit) : State :=
  (s.onCore fun c => { c with tcause := 0x0E, taddr := BitVec.ofNat 64 va }).loseFor u

/-- An uncorrectable error that no context meets, counted against its unit where there is one (R257, R331). -/
def State.blame (s : State) : Option ErrUnit → State
  | none => s
  | some u => s.uncorrectable u

/-! ## Updates of barriers -/

/-- Two bytes of a record of a slot and its other fields (R334). -/
def LSlot.bytes (x : LSlot) : List Byte := x.record.bytes 0 128

/-- The partition of a launch slot (R333). -/
def State.partOfSlot (s : State) (n : Nat) : Option Part := s.parts.find? fun p => p.slotBase ≤ n && n < p.slotBase + p.slotCnt

/-- The place and awaited phase of dependence k of a slot (R334, R339). -/
def State.dependence (s : State) (x : LSlot) (k : Nat) : Option (Except XFault Place × Nat) :=
  let l := x.bytes
  let va := le8 l (0x28 + 8 * k)
  if va = 0 then none
  else
    match s.partOfSlot x.n with
    | none => none
    | some p => some (s.translate (le2 l 0x10) p.pid (.ctx va true false), fld (byteAt l 0x17) (4 * k) 4)

/-- An armed slot takes note of a phase that a barrier has reached (R339). -/
def State.seesPhase (s : State) (key phase : Nat) (x : LSlot) : LSlot :=
  let seen (k : Nat) : Bool :=
    match s.dependence x k with
    | some (.ok pl, ph) => pl.key == key && ph == phase
    | _ => false
  if x.st = .armed ∧ x.checked then { x with dep0 := x.dep0 || seen 0, dep1 := x.dep1 || seen 1 } else x

/-- A barrier word written in device memory; where the update completed a phase, the armed slots see it (R339). -/
def State.barWrite (s : State) (pl : Place) (old new : BarW) : State :=
  let t := s.devWrite pl (toLe 16 new.toNat)
  if old.phase = new.phase then t else { t with slots := t.slots.map fun x => t.seesPhase pl.key new.phase x }

/-- What came of an update of a device-memory barrier. -/
inductive BarDone | ok (s : State) | misuse (reason : Nat) | xfault (f : XFault) | uncorrectable (u : ErrUnit)

/-- Whether an update writes its barrier without reading it (R302). -/
def BarUpd.blind : BarUpd → Bool
  | .init _ => true
  | .arrive _ => false
  | .add _ => false
  | .bytes _ => false
  | .kite _ => false
  | .coll => false

/-- The access that an update of a barrier makes (R252, R303). -/
def BarUpd.asked (u : BarUpd) (va : Nat) (kite : Bool) : Asked := { va := va, wr := true, rd := !u.blind, kite := kite }

/-- The place of a device-memory barrier for an update (R252, R303). -/
def State.barPlace (s : State) (asid pid va : Nat) (kite : Bool) (u : BarUpd) : Except XFault Place := s.translate asid pid (u.asked va kite)

/-- The sector of a barrier's update at its arbiters, the context that pays in focus: none where it waits for the next interval (R384). -/
def State.barLetIn (s : State) (asid pid va : Nat) (kite : Bool) (u : BarUpd) : Option State :=
  match s.barPlace asid pid va kite u with
  | .ok pl => s.letIn pl
  | .error _ => some s

/-- An update of a device-memory barrier in one atomic step at its controller (R303, R304), through an address space. -/
def State.barAt (s : State) (asid pid va : Nat) (kite : Bool) (u : BarUpd) : BarDone :=
  let init := u.blind
  match s.barPlace asid pid va kite u with
  | .error f => .xfault f
  | .ok pl =>
    if pl.bad || (s.poisoned pl && !init) then .uncorrectable pl.unit
    else
      let old := BarW.ofNat (ofLe (s.devRead pl 16))
      match barUpdate false u old with
      | .error r => .misuse r
      | .ok new => .ok (s.barWrite pl (if init then { old with phase := new.phase } else old) new)

/-- An update of an AB barrier of the isle in focus by its bank unit (R303): the new state, or the reason of its misuse. -/
def State.barHere (s : State) (a : Nat) (u : BarUpd) : Except Nat State :=
  match barUpdate true u (BarW.ofNat (s.core.ab.rdN a 16)) with
  | .error r => .error r
  | .ok b => .ok { s with core := { s.core with ab := s.core.ab.wrN a 16 b.toNat } }

/-- Whether an operation's update of the barrier it names waits for the next interval (R384). -/
def State.barHeld (s : State) (ref : W64) (u : BarUpd) : Bool :=
  match barRef ref with
  | some (.dm va) => (s.barLetIn s.ctx.asid s.ctx.pid va false u).isNone
  | _ => false

/-- An operation's update of the barrier it names, its context and isle in focus: true where it was made. A failure is recorded
(R293, R303); an uncorrectable error ends the context (R257). -/
def State.opBar (s : State) (o : Op) (ref : W64) (u : BarUpd) : State × Bool :=
  match barRef ref with
  | none => (s, true)
  | some (.ab a) =>
    (match s.barHere a u with
    | .ok t => (t, true)
    | .error r => (s.recordOp o causeBarrier r ref.toNat, false))
  | some (.dm va) =>
    let s := s.touch s.ctx.asid s.ctx.pid (u.asked va false)
    match ((s.barLetIn s.ctx.asid s.ctx.pid va false u).getD s).barAt s.ctx.asid s.ctx.pid va false u with
    | .ok t => (t, true)
    | .misuse r => (s.recordOp o causeBarrier r ref.toNat, false)
    | .xfault f => (s.recordOp o f.1 f.2 va, false)
    | .uncorrectable u => (s.loseVa va u, false)

/-! ## Flags (R366-R368, R372) -/

/-- FLAG_OVERFLOW (R321). -/
def causeFlag : Nat := 0x13

/-- An addition to a flag of an isle: none where it would pass 65,535 (R368). -/
def Isle.addFlag (c : Isle) (f : Fin 32) (n : Nat) : Option Isle :=
  let x := (c.flag[f]).toNat + n
  if x ≤ 65535 then some { c with flag := c.flag.set f (BitVec.ofNat 16 x) } else none

/-- A slot-D operation's post of 1 to a flag of its context (R291); one that would overflow is recorded (R368). -/
def State.opPost (s : State) (o : Op) : State :=
  match o.flag with
  | none => s
  | some (f, x, y) =>
    let ff := Fin.ofNat 32 f
    s.atIsle x y fun s =>
      match s.core.addFlag ff 1 with
      | some c => { s with core := c }
      | none => s.recordOp o causeFlag (0x91 + f * 2 ^ 8 + s.ctx.ctxid.val * 2 ^ 13) 1

/-- The flag of a context of the region that is live on the isle in focus, by CTXID. -/
def State.flagOf (s : State) (c : Nat) (f : Fin 32) : Option (BitVec 16) :=
  if c = s.ctx.ctxid.val then some s.core.flag[f]
  else
    match s.others.find? (fun r => r.ctx.rid == s.ctx.rid && r.ctx.ctxid.val == c) with
    | none => none
    | some r => (r.isles[s.isleIx]?).map fun i => i.flag[f]

/-- A POSTF's addition to a flag of a context of the region on the isle in focus (R367, R372). -/
def State.postTo (s : State) (c : Nat) (f : Fin 32) (n : Nat) : State :=
  if c = s.ctx.ctxid.val then (match s.core.addFlag f n with | some i => { s with core := i } | none => s)
  else
    { s with others := s.others.map fun r =>
        if r.ctx.rid == s.ctx.rid && r.ctx.ctxid.val == c then
          { r with isles := r.isles.modify s.isleIx fun i => (i.addFlag f n).getD i }
        else r }

/-! ## Releases (R264, R291, R372) -/

/-- Whether an operation writes device memory for the context (R264). -/
def Op.writesDm (o : Op) : Bool :=
  match o.kind with
  | .xst _ _ _ _ _ => true
  | .xatom _ _ _ _ _ => true
  | .xcopy _ _ t _ _ _ _ _ => fld t.toNat 6 2 == 0
  | .coll _ _ _ _ _ _ => true
  | .bar _ _ => true
  | .kpost _ _ => true
  | .xld _ _ _ _ _ => false
  | .launch _ _ => false
  | .ovl _ _ => false

/-- Whether an operation reads device memory for the context (R267). -/
def Op.readsDm (o : Op) : Bool :=
  match o.kind with
  | .xld _ _ _ _ _ => true
  | .xatom _ _ _ _ _ => true
  | .xcopy _ _ t _ _ _ _ _ => fld t.toNat 4 2 == 0
  | .coll _ _ _ _ _ _ => true
  | .xst _ _ _ _ _ => false
  | .bar _ _ => false
  | .kpost _ _ => false
  | .launch _ _ => false
  | .ovl _ _ => false

/-- Whether an operation makes accesses that happens-before orders (R263, R266). -/
def Op.usesDm (o : Op) : Bool := o.readsDm || o.writesDm

/-- A release of the context in focus (R264): it covers the writes of the operations issued before it, and (DEDUCED, log 81) their reads, which
happen before what the release orders (R266, R267). -/
def State.release (s : State) : State :=
  let l := (s.ops.filter fun o => o.slot == s.ctx.slot && o.usesDm).map (·.seq)
  if l.isEmpty then s else { s.onCtx fun c => { c with releases := c.releases ++ [(s.seq, l)] } with seq := s.seq + 1 }

/-- Whether every release that an operation's reports wait for has been performed, its context in focus (R291). -/
def State.mayReport (s : State) (o : Op) : Bool := o.waitRel.all fun r => s.ctx.releases.all fun x => x.1 != r

/-- An operation changed. -/
def State.setOp (s : State) (o : Op) : State := { s with ops := s.ops.map fun x => if x.seq == o.seq then o else x }

/-- An operation that has performed its last effect, or stopped at a fault, leaves the copy unit; the releases that waited for
its writes go on without it (R264, R288, R293). Its context is in focus. -/
def State.dropOp (s : State) (o : Op) : State :=
  { s.onCtx fun c => { c with releases := (c.releases.map fun r => (r.1, r.2.filter (· != o.seq))).filter fun r => !r.2.isEmpty } with
    ops := s.ops.filter fun x => x.seq != o.seq }

/-- An operation stops at a fault, which is recorded (R256, R293). -/
def State.stopOp (s : State) (o : Op) (cause info addr : Nat) : State := (s.recordOp o cause info addr).dropOp o

/-- The event of an operation's turn: a sector moved, or its end (R289-R293). -/
def Op.event (o : Op) : Instr :=
  match o.kind with
  | .xld _ _ _ _ _ => if o.finished then .asyncOperationComplete o.seq else .asyncSectorTransfer o.seq
  | .xst _ _ _ _ _ => if o.finished then .asyncOperationComplete o.seq else .asyncSectorTransfer o.seq
  | .xcopy _ _ _ _ _ _ _ _ => if o.finished then .asyncOperationComplete o.seq else .asyncSectorTransfer o.seq
  | .xatom _ _ _ _ done => if done then .asyncOperationComplete o.seq else .asyncSectorTransfer o.seq
  | .coll _ _ joined _ _ _ => if joined then .collComplete o.seq else .asyncSectorTransfer o.seq
  | .launch _ _ => .launchReachesTable o.seq
  | .ovl _ _ => .ovlComplete o.seq
  | .bar _ _ => .asyncOperationComplete o.seq
  | .kpost _ _ => .asyncOperationComplete o.seq

/-- What an event asks for waits at its arbiter for the next interval, behind what came before it (R384, R385). -/
def State.await (s : State) (i : Instr) : State := if s.waits.contains i then s else { s with waits := s.waits ++ [i] }

/-- An operation's next sector waits for a budget or a cap (R384): EVSEL 0x14 counts it once, on the isle in focus (R387). -/
def State.holdSector (s : State) (o : Op) : State :=
  ((if s.ops.any fun x => x.seq == o.seq && x.held then s else { s with core := s.core.count 0x14 1 }).setOp { o with held := true }).await o.event

/-- A slot-D operation in flight from the present word (R288). -/
def State.newOp (s : State) (k : OpKind) (flag : Option (Nat × Nat × Nat)) (bar : Option W64) (cu : Bool) : State :=
  { s with
    ops := s.ops ++ [{ seq := s.seq, slot := s.ctx.slot, px := s.core.px, py := s.core.py, bundle := s.core.pc, rcyc := s.ctx.rcycle,
                       kind := k, flag := flag, bar := bar, waitRel := s.ctx.releases.map (·.1), cu := cu, finished := false, owed := 0 }]
    seq := s.seq + 1
    core := if cu then s.core.count 0x04 1 else s.core }

/-! ## Waits (R370, R371, R375, R376) -/

/-- The signaller's slot for a context number of the region (R359). -/
def State.slotOfCtx (s : State) (c : Nat) : Option Nat := (s.ctxOf s.ctx.rid c).map (·.slot)

/-- A barrier reference's walk made, by a wait of the context in focus (R258). -/
def State.refTouch (s : State) (ref : W64) : State :=
  match barRef ref with
  | some (.dm va) => s.ctxTouch va true false
  | _ => s

/-- What a WAITB finds (R376). -/
inductive BarLook
  | phase (b : BarW)
  /-- The isle holds no value for the barrier: it is read first (R375). -/
  | fetch (va : Nat)
  | fault (cause info addr : Nat)
  | recorded (seq : Nat)
  | uncorrectable (va : Nat) (u : ErrUnit)
  /-- An uncorrectable sector of the isle's AB (R207). -/
  | spoilt (a : Nat)

/-- The checks of R376, in order, and the barrier as the isle in focus holds it. -/
def State.lookBar (s : State) (ref : W64) : BarLook :=
  match barRef ref with
  | none => .fault causeBarrier 0x80 ref.toNat
  | some r =>
    let out := match r with
      | .ab a => decide (s.ctx.image.foot .ab < a + 16)
      | .dm _ => false
    if out then .fault 8 0x37 (fld ref.toNat 0 24)
    else
      match s.barFaults ref with
      | d :: _ => .recorded d.seq
      | [] =>
        match r with
        | .ab a =>
          let b := BarW.ofNat (s.core.ab.rdN a 16)
          if s.core.poison.contains (1, a / 32) then .spoilt a
          else if b.scope = 0 then .phase b else .fault causeBarrier 0x84 ref.toNat
        | .dm va =>
          match s.ctxRead s.ctx va with
          | .error f => .fault f.1 f.2 va
          | .ok pl =>
            if s.core.phases.all (·.1 != va) then .fetch va
            else if s.poisoned pl then .uncorrectable va pl.unit
            else
              let b := BarW.ofNat (ofLe (s.devRead pl 16))
              if b.scope = 1 ∨ b.scope = 2 then .phase b else .fault causeBarrier 0x84 ref.toNat

/-- A barrier named by a WAITB becomes the one named latest; at most sixteen values are held (R375). -/
def Isle.holdPhase (c : Isle) (va key : Nat) : Isle :=
  { c with phases := ((va, key) :: c.phases.filter (·.1 != va)).take 16 }

/-- Whether the standing wait of the isle in focus is satisfied (R371, R375). -/
def State.waitMet (s : State) : Bool :=
  match s.core.wait with
  | none => true
  | some (.flag f n _) => n ≤ (s.core.flag[f]).toNat
  | some (.barrier ref ph _ met) =>
    met || (match s.lookBar ref with
      | .phase b => phaseReached b.phase ph
      | _ => false)
  | some (.yielding _) => true

/-- Whether a satisfied WAITB for phase `ph` of a barrier covers a collective: its arrival counted into a phase that the wait has waited for. -/
def CollRec.covered (r : CollRec) (ref : W64) (ph : Nat) : Bool :=
  r.ref == ref && match r.phase with
    | some p => phaseReached ph ((p + 1) % 16)
    | none => false

/-- The records of the collectives that a WAITB covers appended to an isle's queue, in the order in which the COLLs issued. -/
def Isle.takeColl (c : Isle) (ref : W64) (ph : Nat) : Isle :=
  ((c.collRecs.filter fun r => r.covered ref ph).sorted fun x y => decide (x.seq ≤ y.seq)).foldl (fun c r => c.record r.record)
    { c with collRecs := c.collRecs.filter fun r => !r.covered ref ph }

/-- The records of a collective become visible in the rc in which the first WAITB covering it is satisfied (R332), whichever isle's it is; an AB
barrier is one isle's own. -/
def State.showColl (s : State) (ref : W64) (ph : Nat) : State :=
  if ref.getLsbD 63 then s.onCore (·.takeColl ref ph)
  else if s.isles.all (·.collRecs.isEmpty) then s
  else s.eachIsle (·.onCore (·.takeColl ref ph))

/-- A satisfied wait is consumed on the isle in focus (R371, R375). -/
def State.consume (s : State) : State :=
  match s.core.wait with
  | some (.flag f n _) =>
    { s with core := { s.core with wait := none, flag := s.core.flag.set f (s.core.flag[f] - BitVec.ofNat 16 n) } }
  | some (.barrier ref ph _ _) => ({ s with core := { s.core with wait := none } } : State).showColl ref ph
  | _ => { s with core := { s.core with wait := none } }

/-- The first recorded fault, or the fault of R376, that a standing wait of the isle in focus meets (R256, R376): the trap, and
the operation whose record it is. -/
def State.waitFault (s : State) : Option (TrapRec × Option Nat) :=
  let told (d : DefFault) : Option (TrapRec × Option Nat) := some ({ d.trap with slot := 0, issued := true }, some d.seq)
  match s.core.wait with
  | some (.flag f _ _) => (s.flagFaults f).head?.bind told
  | some (.barrier ref _ _ _) =>
    (match s.lookBar ref with
    | .recorded _ => (s.barFaults ref).head?.bind told
    | .fault c i a => some ({ cause := c, addr := a, info := i, slot := 0, issued := true }, none)
    | _ => none)
  | _ => none

/-- WAITF (R369, R371): a recorded fault that names the flag is raised whatever the count; else the wait stands until the boundary at
which it and every other wait of the region is satisfied. -/
def execWaitf (p : Pred) (n : Fin 16) (f : Fin 32) (sig : Option (Fin 4)) (cnt : BitVec 10) (s : State) : Out :=
  .next (s.issueC (.waitf p n f sig cnt) p n fun s =>
    match s.flagFaults f with
    | d :: _ => s.raiseDeferred d.seq
    | [] => { s with core := { s.core with wait := some (.flag f cnt.toNat sig) } })

/-- POSTF (R368, R372): held until every earlier release of the context is performed; a post that would overflow traps. -/
def execPostf (p : Pred) (n : Fin 16) (f : Fin 32) (sig : Option (Fin 4)) (cnt : BitVec 10) (s : State) : Out :=
  .next (s.issueC (.postf p n f sig cnt) p n fun s =>
    let c := (sig.getD s.ctx.ctxid).val
    if !s.ctx.releases.isEmpty then s.holdIssue .releasePending
    else
      match s.flagOf c f with
      | none => s
      | some x =>
        if 65535 < x.toNat + cnt.toNat then s.raise causeFlag (0x90 + f.val * 2 ^ 8 + c * 2 ^ 13) cnt.toNat
        else s.after 0 (.post f c cnt.toNat))

/-- WAITB (R375, R376). -/
def execWaitb (p : Pred) (n : Fin 16) (bbar : Fin 32) (sig : Option (Fin 4)) (ph : Fin 16) (s : State) : Out :=
  .next (s.issueC (.waitb p n bbar sig ph) p n fun s =>
    let ref := s.core.rdB bbar
    let s := s.refTouch ref
    match s.lookBar ref with
    | .fault c i a => s.raise c i a
    | .recorded q => s.raiseDeferred q
    | .fetch va => s.holdIssue (.phaseRead va)
    | .uncorrectable va u => s.loseVa va u
    | .spoilt a => s.loseAt s.slot a
    | .phase b =>
      let c := match s.core.phases.find? (·.1 == ref.toNat) with
        | some v => s.core.holdPhase v.1 v.2
        | none => s.core
      { s with core := { c with wait := some (.barrier ref ph.val sig (phaseReached b.phase ph.val)) } })

/-- YIELD (R188): the region freezes after the bundle until the selector resumes the context. -/
def execYieldC (p : Pred) (n : Fin 16) (sig : Option (Fin 4)) (s : State) : Out :=
  .next (s.issueC (.yieldC p n sig) p n fun s => { s with core := { s.core with wait := some (.yielding sig) } })

end Sys2Proof.Machine
end

