-- ==== Sys2Proof/Machine/Numbers.lean ====
section
/-! DEFINITION. Number formats (R56-R63), exact values, rounding and conversion (R68-R71, R432), the stochastic bits (R70), and
the exact roots, exponentials and logarithms that R140 rounds once. -/

namespace Sys2Proof.Machine

/-! ## Formats -/

/-- A well-formed element format, read from EFD[23:0] (R56, R57, R63). -/
structure Fmt where
  width : Nat
  isInt : Bool
  signed : Bool
  ex : Nat
  man : Nat
  bias : Int
  spec : Nat
  wide : Bool
  acc : Bool
  deriving DecidableEq, Repr

/-- A wide format (R63). -/
def wideFmt : Nat → Option Fmt
  | 0x000010 => some { width := 16, isInt := false, signed := true, ex := 5, man := 10, bias := 15, spec := 2, wide := true, acc := false }
  | 0x001010 => some { width := 16, isInt := false, signed := true, ex := 8, man := 7, bias := 127, spec := 2, wide := true, acc := false }
  | 0x002011 => some { width := 32, isInt := false, signed := true, ex := 8, man := 23, bias := 127, spec := 2, wide := true, acc := false }
  | 0x003011 => some { width := 32, isInt := true, signed := true, ex := 0, man := 0, bias := 0, spec := 0, wide := true, acc := false }
  | 0x004010 => some { width := 16, isInt := true, signed := true, ex := 0, man := 0, bias := 0, spec := 0, wide := true, acc := false }
  | 0x005012 => some { width := 64, isInt := true, signed := true, ex := 0, man := 0, bias := 0, spec := 0, wide := true, acc := true }
  | 0x006012 => some { width := 64, isInt := true, signed := true, ex := 0, man := 0, bias := 0, spec := 0, wide := true, acc := false }
  | _ => none

/-- The format of EFD[23:0]; none where it is malformed (R57). -/
def fmtOf (efd : Nat) : Option Fmt :=
  let width := fld efd 0 5
  let ex := fld efd 5 3
  let sign := fld efd 8 1
  let spec := fld efd 9 2
  let int := fld efd 11 1
  if 2 ≤ width ∧ width ≤ 8 then
    if fld efd 12 4 ≠ 0 then none
    else if int = 1 then
      if ex = 0 ∧ spec = 0 ∧ fld efd 16 8 = 0 ∧ 1 + sign ≤ width then
        some { width := width, isInt := true, signed := sign = 1, ex := 0, man := 0, bias := 0, spec := 0, wide := false, acc := false }
      else none
    else if 1 ≤ ex ∧ ex + sign ≤ width ∧ spec ≠ 3 ∧ (spec = 2 → 2 ≤ ex) then
      some { width := width, isInt := false, signed := sign = 1, ex := ex, man := width - ex - sign, bias := sext (fld efd 16 8) 8,
             spec := spec, wide := false, acc := false }
    else none
  else wideFmt (efd % 2 ^ 24)

/-- The lane width code of a format (R129). -/
def Fmt.lw (f : Fmt) : Nat := if f.width = 16 then 1 else if f.width = 32 then 2 else if f.width = 64 then 3 else 0

/-- FP16, BF16 and FP32: F of R136. -/
def Fmt.isF (f : Fmt) : Bool := f.wide && !f.isInt
/-- INT16, INT32, INT64 and every narrow integer: I of R136. -/
def Fmt.isI (f : Fmt) : Bool := f.isInt && !f.acc

/-- The scale formats as formats (R64): E8M0 apart. -/
def ue4m3 : Fmt := { width := 7, isInt := false, signed := false, ex := 4, man := 3, bias := 7, spec := 1, wide := false, acc := false }
/-- FP16 (R63). -/
def fp16 : Fmt := { width := 16, isInt := false, signed := true, ex := 5, man := 10, bias := 15, spec := 2, wide := true, acc := false }
/-- BF16 (R63). -/
def bf16 : Fmt := { width := 16, isInt := false, signed := true, ex := 8, man := 7, bias := 127, spec := 2, wide := true, acc := false }

/-- The value of a code (R58-R60, R63); an ACC64 code is its bare significand. -/
def valueOf (f : Fmt) (code : Nat) : XVal :=
  let c := code % 2 ^ f.width
  if f.isInt then
    let x := if f.signed then sext c f.width else (c : Int)
    .fin (x < 0) x.natAbs 0
  else
    let m := fld c 0 f.man
    let e := fld c f.man f.ex
    let neg := f.signed && bit c (f.width - 1)
    let top := 2 ^ f.ex - 1
    if f.spec = 2 ∧ e = top then (if m = 0 then .inf neg else .nan)
    else if f.spec = 1 ∧ e = top ∧ m = 2 ^ f.man - 1 then .nan
    else if e = 0 then .fin neg m (1 - f.bias - f.man)
    else .fin neg (m + 2 ^ f.man) ((e : Int) - f.bias - f.man)

/-- The value of a scale code (R64). -/
def scaleValue (sfmt code : Nat) : XVal :=
  match sfmt with
  | 0 => .fin false 1 0
  | 1 => if code % 256 = 255 then .nan else .fin false 1 ((code % 256 : Nat) - 127 : Int)
  | 2 => if 128 ≤ code % 256 then .nan else valueOf ue4m3 code
  | _ => valueOf fp16 code

/-- The value of a TSCALE field (R66, R73): 0x0000 stands for 1.0, with the factor and weight of BF16's 1.0. -/
def tscaleValue (t : Nat) : XVal := valueOf bf16 (if t = 0 then 0x3F80 else t)

/-- The code of the canonical NaN; none where the format holds none (R63, R432). -/
def Fmt.nanCode (f : Fmt) : Option Nat :=
  if f.isInt then none
  else if f.spec = 1 then some (2 ^ (f.ex + f.man) - 1)
  else if f.spec = 2 ∧ 1 ≤ f.man then some ((2 ^ f.ex - 1) * 2 ^ f.man + 2 ^ (f.man - 1))
  else none

/-- The sign bit of a float code. -/
def Fmt.signBit (f : Fmt) (neg : Bool) : Nat := if f.signed ∧ neg then 2 ^ (f.width - 1) else 0

/-- The code of the largest finite magnitude (R59). -/
def Fmt.maxCode (f : Fmt) : Nat :=
  if f.spec = 2 then (2 ^ f.ex - 1) * 2 ^ f.man - 1
  else if f.spec = 1 then 2 ^ (f.ex + f.man) - 2
  else 2 ^ (f.ex + f.man) - 1

/-! ## Exact values -/

/-- An integer as an exact value. -/
def XVal.ofInt (x : Int) (e : Int) : XVal := .fin (x < 0) x.natAbs e

/-- The sign of a value. -/
def XVal.neg : XVal → Bool
  | .nan => false
  | .inf n => n
  | .fin n _ _ => n

/-- Whether a value is NaN. -/
def XVal.isNan : XVal → Bool
  | .nan => true
  | _ => false

/-- Whether a value is zero. -/
def XVal.isZero : XVal → Bool
  | .fin _ m _ => m == 0
  | _ => false

/-- The value with the opposite sign. -/
def XVal.flip : XVal → XVal
  | .nan => .nan
  | .inf n => .inf !n
  | .fin n m e => .fin (!n) m e

/-- The value's magnitude. -/
def XVal.mag : XVal → XVal
  | .nan => .nan
  | .inf _ => .inf false
  | .fin _ m e => .fin false m e

/-- The signed coefficient of a finite value at an exponent at or below its own. -/
def coef (n : Bool) (m : Nat) (e at_ : Int) : Int :=
  let x : Int := (m * 2 ^ (e - at_).toNat : Nat)
  if n then -x else x

/-- The exact sum. Two zeros of one sign keep it, any other zero sum is positive (log 12). -/
def XVal.add : XVal → XVal → XVal
  | .nan, _ => .nan
  | _, .nan => .nan
  | .inf a, .inf b => if a = b then .inf a else .nan
  | .inf a, _ => .inf a
  | _, .inf b => .inf b
  | .fin n1 m1 e1, .fin n2 m2 e2 =>
    let e := min e1 e2
    let x := coef n1 m1 e1 e + coef n2 m2 e2 e
    if x = 0 then .fin (n1 && n2) 0 0 else .ofInt x e

/-- The exact product. -/
def XVal.mul : XVal → XVal → XVal
  | .nan, _ => .nan
  | _, .nan => .nan
  | .inf a, .inf b => .inf (a != b)
  | .inf a, .fin n m _ => if m = 0 then .nan else .inf (a != n)
  | .fin n m _, .inf b => if m = 0 then .nan else .inf (n != b)
  | .fin n1 m1 e1, .fin n2 m2 e2 => .fin (n1 != n2) (m1 * m2) (e1 + e2)

/-- Whether the first of two values, neither NaN, is less than the second; -0 equals +0. -/
def XVal.lt : XVal → XVal → Bool
  | .nan, _ => false
  | _, .nan => false
  | .inf a, .inf b => a && !b
  | .inf a, _ => a
  | _, .inf b => !b
  | .fin n1 m1 e1, .fin n2 m2 e2 =>
    let e := min e1 e2
    decide (coef n1 m1 e1 e < coef n2 m2 e2 e)

/-- Whether two values, neither NaN, are equal; -0 equals +0. -/
def XVal.eqv (a b : XVal) : Bool := !a.isNan && !b.isNan && !a.lt b && !b.lt a

/-! ## Positive reals, read by their scaled floors -/

/-- A positive real x, given by k to (floor(x 2^k), whether x 2^k is that integer). -/
abbrev PosReal := Int → Nat × Bool

/-- m times 2^e. -/
def dyadic (m : Nat) (e : Int) : PosReal := fun k =>
  let t := e + k
  if 0 ≤ t then (m * 2 ^ t.toNat, true) else (m / 2 ^ (-t).toNat, m % 2 ^ (-t).toNat == 0)

/-- a / b times 2^e. -/
def ratio (a b : Nat) (e : Int) : PosReal := fun k =>
  let t := e + k
  if 0 ≤ t then (a * 2 ^ t.toNat / b, a * 2 ^ t.toNat % b == 0) else (a / (b * 2 ^ (-t).toNat), a % (b * 2 ^ (-t).toNat) == 0)

/-- Newton's iteration towards the integer square root, from above. -/
def isqrtGo : Nat → Nat → Nat → Nat
  | 0, _, x => x
  | f + 1, n, x =>
    let y := (x + n / x) / 2
    if y < x then isqrtGo f n y else x

/-- The integer square root. -/
def isqrt (n : Nat) : Nat := if n = 0 then 0 else isqrtGo 200 n (2 ^ (Nat.log2 n / 2 + 1))

/-- The square root of a positive real. -/
def rootOf (g : PosReal) : PosReal := fun k =>
  let (n, ex) := g (2 * k)
  let r := isqrt n
  (r, ex && r * r == n)

/-- 2^(2^-1), 2^(2^-2), ...: the n-th repeated root of 2, times 2^512, rounded down. -/
def roots : Nat → List Nat
  | 0 => []
  | n + 1 =>
    match roots n with
    | [] => [isqrt (2 * 2 ^ 1024)]
    | x :: t => isqrt (x * 2 ^ 512) :: x :: t

/-- 2^f times 2^512 rounded down, for f = b / 2^n: the product of the roots that b's bits name. -/
def pow2Frac (b n : Nat) : Nat :=
  ((List.range n).zip (roots n)).foldl (fun acc c => if bit b c.1 then acc * c.2 / 2 ^ 512 else acc) (2 ^ 512)

/-- 2^x for a finite x (R140). The value is exact where x is an integer and irrational elsewhere; beyond 4,096 in magnitude x
is taken as that bound, outside every format (log 13). -/
def pow2 (neg : Bool) (m : Nat) (e : Int) : PosReal :=
  let n := (-e).toNat
  let x : Int := coef neg m e (min e 0)
  let i : Int := max (-4096) (min 4096 (x / 2 ^ n))
  let b : Nat := (x % 2 ^ n).toNat
  if b = 0 then dyadic 1 i
  else
    let y := pow2Frac b n
    fun k => ((dyadic y (i - 512) k).1, false)

/-- The n leading fraction bits of log2(y / 2^w), for y / 2^w in [1, 2): repeated squaring, rounded down. -/
def log2Bits : Nat → Nat → Nat → Nat → Nat
  | 0, _, _, acc => acc
  | n + 1, w, y, acc =>
    let z := y * y / 2 ^ w
    if 2 * 2 ^ w ≤ z then log2Bits n w (z / 2) (2 * acc + 1) else log2Bits n w z (2 * acc)

/-- The magnitude of log2(m 2^e) and its sign, for m above zero (R140): exact where m is a power of two. -/
def log2Of (m : Nat) (e : Int) : Bool × PosReal :=
  let l := Nat.log2 m
  let i : Int := e + l
  if m = 2 ^ l then (i < 0, dyadic i.natAbs 0)
  else
    let fr (k : Nat) : Nat := let w := 2 * k + 256; log2Bits k w (m * 2 ^ w / 2 ^ l) 0
    if 0 ≤ i then
      (false, fun k => let j := (max k 1).toNat; ((i.toNat * 2 ^ j + fr j) / 2 ^ ((j : Int) - k).toNat, false))
    else
      (true, fun k => let j := (max k 1).toNat
        ((((-i - 1).toNat + 1) * 2 ^ j - fr j - 1) / 2 ^ ((j : Int) - k).toNat, false))

/-! ## Rounding (R68, R70) -/

/-- The stochastic bits r of R70: c the RCYCLE at issue, i the isle, e the element index. -/
def srBits (seed : W64) (c i e : Nat) : Nat :=
  let x : W64 := BitVec.ofNat 64 (c * 2 ^ 33 + i * 2 ^ 24 + e)
  let z : W64 := seed ^^^ (x * 0x9E3779B97F4A7C15#64)
  let z : W64 := (z ^^^ (z >>> 30)) * 0xBF58476D1CE4E5B9#64
  let z : W64 := (z ^^^ (z >>> 27)) * 0x94D049BB133111EB#64
  let z : W64 := z ^^^ (z >>> 31)
  z.toNat / 2 ^ 32

/-- A positive real rounded to a multiple of 2^q: the multiple, and whether it is inexact. For a negative number `neg` is set,
so that R70's upper neighbour is that of smaller magnitude. A tie of RNE goes to the even multiple; in a format with no mantissa bit,
where no neighbour has the even mantissa, that is the model's choice (log 53). -/
def roundTo (g : PosReal) (neg : Bool) (q : Int) (rm : Rm) (r : Nat) : Nat × Bool :=
  let (f, ex) := g (33 - q)
  let n := f / 2 ^ 33
  let fr := f % 2 ^ 33
  let inexact := fr ≠ 0 || !ex
  let up := match rm with
    | .rne => 2 ^ 32 < fr || (fr == 2 ^ 32 && (!ex || n % 2 == 1))
    | .rtz => false
    | .rna => 2 ^ 32 ≤ fr
    | .sr =>
      inexact && (if neg then !(r < 2 ^ 32 - (fr / 2 + (if fr % 2 = 1 || !ex then 1 else 0))) else r < fr / 2)
  (if up then n + 1 else n, inexact)

/-- floor(log2 x) of a positive real, at least -400. -/
def floorLog (g : PosReal) : Int :=
  let f := (g 400).1
  if f = 0 then -400 else (Nat.log2 f : Int) - 400

/-- How a conversion rounds: mode, saturation, and the stochastic bits of the element. -/
structure RMode where
  rm : Rm
  sat : Bool
  r : Nat
  deriving DecidableEq, Repr

/-- A NaN result (R63, R69, R432): the format's own, without an event unless one is called for, else +0 with NV. -/
def nanResult (f : Fmt) (ev : Option EvKind) : Nat × Option EvKind :=
  match f.nanCode with
  | some c => (c, ev)
  | none => (0, some .nv)

/-- The result for an overflow or an infinite x (R69). `trunc` is set for a finite overflow under RTZ. -/
def overflowResult (f : Fmt) (neg sat trunc : Bool) : Nat × Option EvKind :=
  let big := f.signBit neg + f.maxCode
  if sat then (big, some .of)
  else if f.spec = 2 then (if trunc then big else f.signBit neg + (2 ^ f.ex - 1) * 2 ^ f.man, some .of)
  else if f.spec = 1 then ((f.nanCode).getD 0, some .of)
  else (big, some .of)

/-- convert() of a nonzero real of given sign into a float format (R68-R70). -/
def floatCode (f : Fmt) (neg : Bool) (g : PosReal) (m : RMode) : Nat × Option EvKind :=
  if neg ∧ ¬ f.signed then (if m.sat then (0, some .nv) else nanResult f (some .nv))
  else
    let emin : Int := 1 - f.bias
    let l := floorLog g
    let q := max l emin - f.man
    let (n, inexact) := roundTo g neg q m.rm m.r
    let tiny := l < emin
    let tooBig := match valueOf f f.maxCode with
      | .fin _ mm me => XVal.lt (.fin false mm me) (.fin false n q)
      | _ => true
    if tooBig then overflowResult f neg m.sat (m.rm = .rtz)
    else
      let ev := if tiny ∧ inexact then some EvKind.uf else none
      if n < 2 ^ f.man then (f.signBit neg + n, ev)
      else if n = 2 ^ (f.man + 1) then (f.signBit neg + (q + 1 + f.man + f.bias).toNat * 2 ^ f.man, ev)
      else (f.signBit neg + (q + f.man + f.bias).toNat * 2 ^ f.man + (n - 2 ^ f.man), ev)

/-- The range of an integer format (R60, R63). -/
def Fmt.range (f : Fmt) : Int × Int :=
  if f.signed then (-(2 ^ (f.width - 1) : Int), 2 ^ (f.width - 1) - 1) else (0, 2 ^ f.width - 1)

/-- An integer clamped to a format's range (R68): the code, and OF where it lies outside. -/
def clampInt (f : Fmt) (x : Int) : Nat × Option EvKind :=
  let (lo, hi) := f.range
  if x < lo then (wrap lo f.width, some .of) else if hi < x then (wrap hi f.width, some .of) else (wrap x f.width, none)

/-- convert(x, efd, rm, sat) of R111: the code and the event, for the sign and magnitude of a real. -/
def convertReal (f : Fmt) (neg : Bool) (g : PosReal) (m : RMode) : Nat × Option EvKind :=
  if f.isInt then
    let (n, _) := roundTo g neg 0 m.rm m.r
    clampInt f (if neg then -(n : Int) else n)
  else floatCode f neg g m

/-- convert() of an exact value (R68, R69). -/
def convert (f : Fmt) (x : XVal) (m : RMode) : Nat × Option EvKind :=
  match x with
  | .nan => if f.isInt then (0, some .nv) else nanResult f none
  | .inf neg =>
    if f.isInt then (let (lo, hi) := f.range; (wrap (if neg then lo else hi) f.width, some .of))
    else if neg ∧ ¬ f.signed then (if m.sat then (0, some .nv) else nanResult f (some .nv))
    else overflowResult f neg m.sat false
  | .fin neg k e =>
    if k = 0 then (if f.isInt then (0, none) else (f.signBit neg, none)) else convertReal f neg (dyadic k e) m

end Sys2Proof.Machine
end

