-- ==== Sys2Proof/Machine/Tiles.lean ====
section
/-! DEFINITION. Tile headers and vector tags: the fields (R77, R81), the CRC (R78), the checks of R82 step by step, the layout of
data, scales and metadata (R62, R65, R67, R72, R157), and a register as elements (R129). -/

namespace Sys2Proof.Machine

/-! ## The header -/

/-- A tile header, field by field (R77); `rsv` says that a reserved bit of it or of its EFD is nonzero. -/
structure Hdr where
  magic : Nat := 0xA7
  ver : Nat := 1
  kind : Nat := 0
  rsv : Bool := false
  efd : Nat := 0
  sfmt : Nat := 0
  bsize : Nat := 0
  baxis : Nat := 0
  splace : Nat := 0
  sparse : Nat := 0
  rows : Nat := 1
  cols : Nat := 1
  stride : Nat := 0
  doff : Nat := 32
  soff : Nat := 0
  moff : Nat := 0
  tscale : Nat := 0
  check : Nat := 0
  deriving DecidableEq, Repr

/-- The header of 32 bytes read as a number (R77). -/
def Hdr.ofNat (w : Nat) : Hdr :=
  { magic := fld w 0 8, ver := fld w 8 4, kind := fld w 12 4
    rsv := fld w 16 16 != 0 || fld w 76 20 != 0 || fld w 56 8 != 0
    efd := fld w 32 32, sfmt := fld w 64 4, bsize := fld w 68 2, baxis := fld w 70 1, splace := fld w 71 1, sparse := fld w 72 4
    rows := fld w 96 16, cols := fld w 112 16, stride := fld w 128 32, doff := fld w 160 32
    soff := fld w 192 16, moff := fld w 208 16, tscale := fld w 224 16, check := fld w 240 16 }

/-- w2[11:0] as a stream register latches it (R155 GEOM). -/
def Hdr.geom (h : Hdr) : Nat := h.sfmt + h.bsize * 16 + h.baxis * 64 + h.splace * 128 + h.sparse * 256

/-- The header fields that a stream register holds (R155). -/
def Hdr.ofStream (t : StreamReg) : Hdr :=
  { kind := t.kind, efd := t.efd, sfmt := fld t.geom 0 4, bsize := fld t.geom 4 2, baxis := fld t.geom 6 1, splace := fld t.geom 7 1
    sparse := fld t.geom 8 4, rows := t.rows, cols := t.cols, stride := t.stride, doff := t.doff, soff := t.soff, moff := t.moff
    tscale := t.tscale }

/-- One byte enters the CRC of R78, most significant bit first. -/
def crcByte (c : BitVec 16) (x : Byte) : BitVec 16 :=
  (List.range 8).foldl (fun c _ => if c.getLsbD 15 then (c <<< 1) ^^^ 0x1021#16 else c <<< 1) (c ^^^ (x.zeroExtend 16 <<< 8))

/-- crc16 of R111 and R78. -/
def crc16 (l : List Byte) : Nat := (l.foldl crcByte 0xFFFF#16).toNat

/-- Block size from its code (R77 BSIZE). -/
def blockOf (code : Nat) : Nat := 16 * 2 ^ code

/-- Smallest multiple of 32 at or above x. -/
def pad32 (x : Nat) : Nat := (x + 31) / 32 * 32

/-- x / y rounded up. -/
def ceilDiv (x y : Nat) : Nat := (x + y - 1) / y

/-- Group size, values kept, bits per index of sparsity codes 1-3 (R67). -/
def groupOf : Nat → Option (Nat × Nat × Nat)
  | 1 => some (4, 2, 2)
  | 2 => some (4, 1, 2)
  | 3 => some (8, 4, 3)
  | _ => none

/-- The number of stored rows (R67). -/
def Hdr.storedRows (h : Hdr) : Nat :=
  match groupOf h.sparse with
  | some (g, k, _) => if h.baxis = 1 then h.rows / g * k else h.rows
  | none => h.rows

/-- The bits a stored row needs at least (R62, R67, R72). -/
def Hdr.rowBits (h : Hdr) (f : Fmt) : Nat :=
  if h.kind = 3 then ceilDiv h.cols 128 * 1056 * 8
  else
    match groupOf h.sparse with
    | some (g, k, _) => if h.baxis = 1 then h.cols * f.width else h.cols / g * k * f.width
    | none => if h.sparse = 4 then 0 else if h.sparse = 5 then h.cols * 4 else h.cols * f.width

/-- The shape, stride, offset and group constraints (R67, R77, R79): reason 0x12 where this is false. -/
def Hdr.shapeOk (h : Hdr) (f : Fmt) : Bool :=
  1 ≤ h.rows && h.rows ≤ 4096 && 1 ≤ h.cols && h.cols ≤ 4096 && h.stride % 32 == 0 && h.doff % 32 == 0 && 32 ≤ h.doff &&
    decide (h.rowBits f ≤ h.stride * 8) && (h.sfmt == 0 || !f.wide) && (h.sparse == 0 || (!f.wide && h.kind == 0)) &&
    (match groupOf h.sparse with
      | some (g, _, _) => (if h.baxis = 1 then h.rows else h.cols) % g == 0
      | none => !(h.sparse == 4 && h.baxis == 1))

/-- The causes of R82 (R321). -/
def causeHdr : Nat := 2
def causeMismatch : Nat := 3
def causeCombo : Nat := 4

/-- A failure of R82: cause, operand position, reason. -/
abbrev Fail := Nat × Nat × Nat

/-- A failure where a condition holds. -/
def failIf (c : Bool) (cause pos reason : Nat) : Option Fail := if c then some (cause, pos, reason) else none

/-- TINFO of a failure (R82). -/
def Fail.info (f : Fail) : Nat := f.2.1 * 256 + f.2.2

/-- Step 2 of R82 on a header of 32 bytes. -/
def hdrIntact (pos : Nat) (l : List Byte) : Option Fail :=
  let h := Hdr.ofNat (ofLe l)
  failIf (h.magic != 0xA7) causeHdr pos 0x01 <|> failIf (h.ver != 1) causeHdr pos 0x02 <|> failIf h.rsv causeHdr pos 0x03 <|>
    failIf (crc16 (l.take 30) != h.check) causeHdr pos 0x04

/-- Whether a TSCALE is infinite or NaN (R66). -/
def tscaleBad (t : Nat) : Bool :=
  match valueOf bf16 t with
  | .fin _ _ _ => false
  | _ => true

/-- Step 3 of R82 on a header, up to the operation's own requirements. -/
def hdrValid (pos : Nat) (h : Hdr) : Option Fail :=
  failIf (4 < h.kind || 3 < h.sfmt || 5 < h.sparse) causeCombo pos 0x11 <|>
    match fmtOf h.efd with
    | none => some (causeCombo, pos, 0x10)
    | some f => failIf (tscaleBad h.tscale) causeCombo pos 0x16 <|> failIf (!h.shapeOk f) causeCombo pos 0x12

/-- Steps 2 and 3 of R82 on 32 header bytes. -/
def hdrCheck (pos : Nat) (l : List Byte) : Option Fail := hdrIntact pos l <|> hdrValid pos (Hdr.ofNat (ofLe l))

/-- The header as a number, its CHECK excepted (R77). -/
def Hdr.body (h : Hdr) : Nat :=
  h.magic + h.ver * 2 ^ 8 + h.kind * 2 ^ 12 + h.efd * 2 ^ 32 + h.geom * 2 ^ 64 + h.rows * 2 ^ 96 + h.cols * 2 ^ 112 +
    h.stride * 2 ^ 128 + h.doff * 2 ^ 160 + h.soff * 2 ^ 192 + h.moff * 2 ^ 208 + h.tscale * 2 ^ 224

/-- The 32 bytes of a header that the device writes, with CHECK computed (R78, R84). -/
def Hdr.image (h : Hdr) : List Byte :=
  let l := toLe 30 h.body
  l ++ toLe 2 (crc16 l)

/-- What a header the device writes would fail (R85): COMBO_UNSUPPORTED with the reason it would have met, position 3. -/
def Hdr.unwritable (h : Hdr) : Option Fail := (hdrValid 3 h).map fun f => (causeCombo, 3, f.2.2)

/-- The smallest valid STRIDE (R84). -/
def Hdr.minStride (h : Hdr) (f : Fmt) : Nat := pad32 (ceilDiv (h.rowBits f) 8)

/-! ## Layout -/

/-- Number of scales (R65). -/
def Hdr.scaleCount (h : Hdr) : Nat :=
  let b := blockOf h.bsize
  if h.baxis = 1 then ceilDiv h.rows b * h.cols else h.rows * ceilDiv h.cols b

/-- Bytes of one scale (R64). -/
def scaleBytes (sfmt : Nat) : Nat := if sfmt = 3 then 2 else 1

/-- Offset of the scale array from the header (R65). -/
def Hdr.scaleStart (h : Hdr) : Nat := if h.splace = 1 then h.soff * 32 else h.doff + h.storedRows * h.stride

/-- Index of the scale of a position (R65). -/
def Hdr.scaleIndex (h : Hdr) (r c : Nat) : Nat :=
  let b := blockOf h.bsize
  if h.baxis = 1 then r / b * h.cols + c else r * ceilDiv h.cols b + c / b

/-- Metadata rows and their bits, before padding (R67). -/
def Hdr.metaRows (h : Hdr) : Nat × Nat :=
  match groupOf h.sparse with
  | some (g, k, n) => if h.baxis = 1 then (h.rows / g, h.cols * k * n) else (h.rows, h.cols / g * k * n)
  | none => if h.sparse = 4 then (h.rows, h.cols) else if h.sparse = 5 then (1, 128) else (0, 0)

/-- Bytes from one metadata row to the next (R67). -/
def Hdr.metaStride (h : Hdr) : Nat := pad32 (ceilDiv h.metaRows.2 8)

/-- Bytes of the data area from the header (R173). -/
def Hdr.dataEnd (h : Hdr) : Nat := h.doff + h.storedRows * h.stride

/-- The whole extent of a tile from its header: data, scales and metadata (R160). -/
def Hdr.extent (h : Hdr) : Nat :=
  max h.dataEnd (max (if h.sfmt = 0 then 0 else h.scaleStart + h.scaleCount * scaleBytes h.sfmt)
    (if h.sparse = 0 then 0 else h.moff * 32 + h.metaRows.1 * h.metaStride))

/-- n bits of a memory from a bit offset after an address (R62). -/
def Mem.rdBits (m : Mem) (a off n : Nat) : Nat :=
  let lo := off / 8
  m.rdN (a + lo) (ceilDiv (off % 8 + n) 8) / 2 ^ (off % 8) % 2 ^ n

/-- The bytes that change when n bits at a bit offset after an address take a value (R62). -/
def Mem.wrBits (m : Mem) (a off n x : Nat) : List (Nat × Byte) :=
  let lo := off / 8
  let k := ceilDiv (off % 8 + n) 8
  let old := m.rdN (a + lo) k
  let sh := off % 8
  let mask := (2 ^ n - 1) * 2 ^ sh
  place (a + lo) (toLe k ((old - (old &&& mask)) + x % 2 ^ n * 2 ^ sh))

/-- Byte address and bit offset of element (r, c) of a dense tile, and its bits (R157). -/
def Hdr.elemAt (h : Hdr) (f : Fmt) (base r c : Nat) : Nat × Nat × Nat :=
  let row := base + h.doff + r * h.stride
  if h.kind = 3 then (row + 1056 * (c / 128) + 32 + 8 * (c % 128), 0, 64)
  else (row, c * f.width, f.width)

/-- The code of element (r, c) of a dense tile. -/
def Hdr.elem (h : Hdr) (f : Fmt) (m : Mem) (base r c : Nat) : Nat :=
  let (a, o, n) := h.elemAt f base r c
  m.rdBits a o n

/-- The code of scale i (R65). -/
def Hdr.scale (h : Hdr) (m : Mem) (base i : Nat) : Nat :=
  m.rdN (base + h.scaleStart + i * scaleBytes h.sfmt) (scaleBytes h.sfmt)

/-- The value kept for position `at_` of a group: the last index that names it (R67). -/
def groupPick (m : Mem) (metaAddr bitOff n : Nat) (k at_ : Nat) : Option Nat :=
  (List.range k).foldl (fun acc j => if m.rdBits metaAddr (bitOff + j * n) n = at_ then some j else acc) none

/-- The code of logical element (r, c) of any tile, decompressed; none where the position decodes to exact zero (R67, R210). -/
def Hdr.code (h : Hdr) (f : Fmt) (m : Mem) (base r c : Nat) : Option Nat :=
  let md := base + h.moff * 32
  match groupOf h.sparse with
  | some (g, k, n) =>
    if h.baxis = 1 then
      (groupPick m (md + r / g * h.metaStride) (c * k * n) n k (r % g)).map fun j =>
        m.rdBits (base + h.doff + (r / g * k + j) * h.stride) (c * f.width) f.width
    else
      (groupPick m (md + r * h.metaStride) (c / g * k * n) n k (c % g)).map fun j =>
        m.rdBits (base + h.doff + r * h.stride) ((c / g * k + j) * f.width) f.width
  | none =>
    if h.sparse = 4 then
      let row := md + r * h.metaStride
      if m.rdBits row c 1 = 1 then
        let i := (List.range c).foldl (fun acc j => acc + m.rdBits row j 1) 0
        if (i + 1) * f.width ≤ h.stride * 8 then some (m.rdBits (base + h.doff + r * h.stride) (i * f.width) f.width) else none
      else none
    else if h.sparse = 5 then
      some ((m.rd (md + m.rdBits (base + h.doff + r * h.stride) (c * 4) 4)).toNat % 2 ^ f.width)
    else some (h.elem f m base r c)

/-- A header with the smallest STRIDE for its shape (R84). -/
def Hdr.packed (h : Hdr) : Hdr :=
  match fmtOf h.efd with
  | some f => { h with stride := h.minStride f }
  | none => h

/-- The accumulator header inferred for a product (R84). -/
def Hdr.accumulator (rows cols : Nat) : Hdr :=
  ({ kind := 3, efd := 0x5012, rows := rows, cols := cols, tscale := 0x3F80 } : Hdr).packed

/-! ## Tags (R81) -/

/-- EFD[23:0] of a tag. -/
def tagEfd (t : W32) : Nat := fld t.toNat 0 24
/-- SREG of a tag. -/
def tagSreg (t : W32) : Bool := t.getLsbD 24
/-- SCL of a tag. -/
def tagScl (t : W32) : Bool := t.getLsbD 25
/-- Lane width code of a tag. -/
def tagLw (t : W32) : Nat := fld t.toNat 26 2
/-- SFMT of a tag. -/
def tagSfmt (t : W32) : Nat := fld t.toNat 28 2
/-- SBLK of a tag. -/
def tagSblk (t : W32) : Nat := fld t.toNat 30 2

/-- A tag from its fields (R81). -/
def mkTag (efd lw : Nat) (scl sreg : Bool) (sfmt sblk : Nat) : W32 :=
  BitVec.ofNat 32 (efd % 2 ^ 24 + (if sreg then 2 ^ 24 else 0) + (if scl then 2 ^ 25 else 0) + lw * 2 ^ 26 + sfmt * 2 ^ 28 + sblk * 2 ^ 30)

/-- The tag of a scale register for a scale format and block size (R132). -/
def scaleTag (sfmt sblk : Nat) : W32 := if sfmt = 3 then mkTag 0x10 1 true true sfmt sblk else mkTag 0x808 0 true true sfmt sblk

/-- The tag that LDV.T takes from a header (R84, R218): EFD and LW, and SCL, SFMT and SBLK where SFMT is nonzero (R65). -/
def headerTag (h : Hdr) : W32 :=
  mkTag h.efd (((fmtOf h.efd).map Fmt.lw).getD 0) (h.sfmt != 0) false h.sfmt (if h.sfmt = 0 then 0 else h.bsize)

/-- The tag that a data access of a stream lands (R163): a KIND 3 stream gives ACC64. -/
def streamTag (h : Hdr) : W32 :=
  if h.kind = 3 then mkTag 0x5012 3 false false 0 0 else headerTag h

/-- Consistency of a tag (R81). -/
def tagConsistent (t : W32) (f : Fmt) : Bool :=
  tagLw t == f.lw && (tagSfmt t != 0) == tagScl t &&
    (!tagSreg t || (match tagSfmt t with
      | 0 => true
      | 3 => tagEfd t == 0x10
      | _ => tagEfd t == 0x808))

/-- Step 3 of R82 on a tag, up to the operation's own requirements; `raw` says whether a raw tag is accepted (R130). -/
def tagCheck (pos : Nat) (t : W32) (raw : Bool) : Option Fail :=
  if t = 0 then failIf (!raw) causeCombo pos 0x10
  else
    match fmtOf (tagEfd t) with
    | none => some (causeCombo, pos, 0x10)
    | some f => failIf (!tagConsistent t f) causeCombo pos 0x17

/-- The format of a tag that has passed its check; a raw tag is read as bytes (R130). -/
def tagFmt (t : W32) : Fmt :=
  ((fmtOf (tagEfd t))).getD { width := 8, isInt := true, signed := false, ex := 0, man := 0, bias := 0, spec := 0, wide := false, acc := false }

/-! ## A register as elements (R129) -/

/-- Lane bits of a lane width code. -/
def laneBits (lw : Nat) : Nat := 8 * 2 ^ lw

/-- Elements of a register under a lane width code. -/
def laneCount (lw : Nat) : Nat := 256 / 2 ^ lw

/-- The element width W of R129: WIDTH of a narrow format, the lane of a wide one, 8 for a raw register. -/
def tagWidth (t : W32) : Nat := (tagFmt t).width

/-- Element e of a register, its lane taken whole. -/
def lane (x : V2048) (lw e : Nat) : Nat := x.toNat / 2 ^ (laneBits lw * e) % 2 ^ laneBits lw

/-- The lanes of a register. -/
def lanes (x : V2048) (lw : Nat) : List Nat := (List.range (laneCount lw)).map (lane x lw)

/-- A list of lane values joined, the first lowest. -/
def joinLanes (l : Nat) : List Nat → Nat
  | [] => 0
  | x :: t => x % 2 ^ l + 2 ^ l * joinLanes l t

/-- A register from lane values. -/
def ofLanes (lw : Nat) (l : List Nat) : V2048 := BitVec.ofNat 2048 (joinLanes (laneBits lw) l)

/-- The bits of the lanes that a list of element enables names. -/
def laneMask (lw : Nat) (en : List Bool) : V2048 := ofLanes lw (en.map fun b => if b then 2 ^ laneBits lw - 1 else 0)

/-- Whether a lane mask enables element e (R133). -/
def enabled (m : W64) (lw e : Nat) : Bool := m.getLsbD (e * laneBits lw / 32)

/-- A register from 256 bytes. -/
def ofBytes (l : List Byte) : V2048 := BitVec.ofNat 2048 (ofLe l)

/-- The 256 bytes of a register. -/
def toBytes (x : V2048) : List Byte := toLe 256 x.toNat

end Sys2Proof.Machine
end

