-- ==== Sys2Proof/Machine/MemUnit.lean ====
section
/-! DEFINITION. The words of slot M that reach the buffers and the ballast (R211-R225). Checks run at issue; the bytes move in the
access rc (R211). -/

namespace Sys2Proof.Machine

/-- A b-register operand as an unsigned address (R208). -/
def State.b (s : State) (r : Fin 32) : Nat := (s.core.rdB r).toNat

/-- The alignment check, then the footprint check (R208, R215), then the rest of the word. -/
def State.bounded (s : State) (u : Buf) (a n al : Nat) (k : State → State) : State :=
  if a % al ≠ 0 then s.raise 8 0x36 a else if s.ctx.image.foot u < a + n then s.raise 8 0x37 a else k s

/-- Code of a buffer among the isle's memories that hold uncorrectable sectors: 3 is the ballast, 4 IMEM by bundle, 5 the microstore by
micro-word, 6 the resident area of WB from its first byte (R207, R230, R352). -/
def bufCode : Buf → Nat
  | .wb => 0 | .ab => 1 | .acb => 2

/-- Whether an uncorrectable sector of one of the isle's memories lies among n bytes (R207). -/
def Isle.spoilt (c : Isle) (code a n : Nat) : Bool := n != 0 && c.poison.any fun p => p.1 == code && a / 32 ≤ p.2 && p.2 ≤ (a + n - 1) / 32

/-- Whether n bytes of a data buffer meet an uncorrectable sector (R207). -/
def Isle.spoiled (c : Isle) (u : Buf) (a n : Nat) : Bool := c.spoilt (bufCode u) a n

/-- The first byte among n of one of the isle's memories that an uncorrectable sector holds (R207). -/
def Isle.firstSpoilt (c : Isle) (code a n : Nat) : Option Nat :=
  if c.spoilt code a n then
    (((List.range (n / 32 + 2)).map fun k => a / 32 + k).find? fun q => c.poison.contains (code, q)).map fun q => max a (32 * q)
  else none

/-- The first byte of a list of ranges of the isle's memories, each with its code, that an uncorrectable sector holds (R207). -/
def Isle.spoiltIn (c : Isle) (l : List (Nat × Nat × Nat)) : Option Nat :=
  if c.poison.isEmpty then none else l.findSome? fun r => c.firstSpoilt r.1 r.2.1 r.2.2

/-- A sector whose every byte is written holds good data again (R207). -/
def Isle.healed (c : Isle) (code : Nat) (l : List (Nat × Byte)) : Isle :=
  { c with poison := c.poison.filter fun p => !(p.1 == code && (List.range 32).all fun i => l.any (·.1 == 32 * p.2 + i)) }

/-- Bytes that land in a data buffer. -/
def Isle.stores (c : Isle) (u : Buf) (l : List (Nat × Byte)) : Isle := (c.setBuf u ((c.buf u).wrList l)).healed (bufCode u) l

/-- A read through a compute port at issue: an uncorrectable sector ends the context (R207). -/
def State.reading (s : State) (u : Buf) (a n : Nat) (k : State → State) : State :=
  match s.core.firstSpoilt (bufCode u) a n with
  | some x => s.loseAt s.slot x
  | none => k s

/-- Class that marks the running result of a chain of atomic operations on a word (R213). -/
def chainClass : Nat := 98

/-- Order of issue (R95, R212): cycle, then slot, then number. -/
def Flight.before (f g : Flight) : Bool :=
  decide (f.time < g.time) ||
    (f.time == g.time && (decide (f.slot.idx < g.slot.idx) || (f.slot.idx == g.slot.idx && decide (f.seq ≤ g.seq))))

/-- Whether a flight is the running result of a chain on a word. -/
def Flight.chains (f : Flight) (u : Buf) (a : Nat) : Bool :=
  f.cls == chainClass &&
    (match f.eff with
    | .store v ((b, _) :: _) => v == u && b == a
    | _ => false)

/-- A word as the next operation of its chain finds it (R213). -/
def State.chainWord (s : State) (u : Buf) (a : Nat) : W64 :=
  match s.core.inFlight.find? (·.chains u a) with
  | some f => (match f.eff with | .store _ l => BitVec.ofNat 64 (ofLe (l.map (·.2))) | _ => 0)
  | none => BitVec.ofNat 64 ((s.core.buf u).rdN a 8)

/-- The flights of the isle's present mode changed. -/
def Isle.onFlights (c : Isle) (f : List Flight → List Flight) : Isle :=
  if c.handler then { c with hflights := f c.hflights } else { c with flights := f c.flights }

/-- A link added to a chain: the last result is the one that lands, and counts as a write by the latest-issued of its operations
(R213). -/
def Isle.chain (c : Isle) (u : Buf) (a : Nat) (f : Flight) : Isle :=
  let g := match c.inFlight.find? (·.chains u a) with
    | some o => if f.before o then { f with seq := o.seq, slot := o.slot, rcyc := o.rcyc, time := o.time, bundle := o.bundle } else f
    | none => f
  c.onFlights fun l => l.filter (fun x => !x.chains u a) ++ [g]

/-- A failure of R82 on a header at an address, else the rest of the word (R80, R82). -/
def State.passing (s : State) (f : Option Fail) (addr : Nat) (k : State → State) : State :=
  match f with
  | some f => s.raise f.1 f.info addr
  | none => k s

/-- A failure of R82 on register tags, else the rest of the word: the manual names no TADDR for it (log 10). -/
def State.tagsPassing (s : State) (f : Option Fail) (k : State → State) : State :=
  match f with
  | some f => s.raiseOpen f.1 f.info
  | none => k s

/-- The 32 bytes of the header at an address. -/
def State.hdrBytes (s : State) (u : Buf) (a : Nat) : List Byte := (s.core.buf u).bytes a 32

/-- Access size of SZ in bytes (R100). -/
def szBytes (sz : Fin 8) : Nat := 2 ^ (sz.val % 4)

/-- The tile requirements of LDV.T, STV.T and SREAD on a header (R84, R163, R218), in the order of R82. -/
def tileFit (pos : Nat) (h : Hdr) : Option Fail :=
  failIf (h.sparse != 0 || (h.tscale != 0 && h.tscale != 0x3F80)) causeCombo pos 0x14 <|>
    failIf (h.kind != 0 && h.kind != 3) causeMismatch pos 0x20

/-- Whether a register tag pairs with a tile header on a store of data (R84, R164, R218). SBLK is compared with BSIZE where SFMT is 0
too, as those rules ask of every pair, though R65 calls BSIZE ignored there (log 57). -/
def tagPairs (t : W32) (h : Hdr) : Bool :=
  !tagSreg t && tagEfd t == h.efd && tagSfmt t == h.sfmt && tagSblk t == h.bsize

/-- Bytes of an LDV.T or STV.T window (R218). -/
def windowBytes (f : Fmt) : Nat := if f.wide then 256 else 32 * f.width

/-- Elements of s bytes that LDIDX or STIDX moves (R225): element number and address, for the enabled ones. -/
def State.indexed (s : State) (vi : Fin 32) (ba : Fin 32) (esz : Fin 4) (vm : Fin 8) : List (Nat × Nat) :=
  let n := 2 ^ esz.val
  ((List.range (min 64 (256 / n))).filter fun e => (s.core.rdVm vm).getLsbD e).map fun e =>
    (e, s.b ba + n * lane s.core.v[vi] 2 e)

/-- The first element of a gather or scatter that fails its check, with its reason (R225). -/
def State.indexFault (s : State) (u : Buf) (n : Nat) (l : List (Nat × Nat)) : Option (Nat × Nat × Nat) :=
  l.findSome? fun (e, a) => if a % n ≠ 0 then some (0x36, e, a) else if s.ctx.image.foot u < a + n then some (0x37, e, a) else none

/-- A gather or scatter whose elements pass, or its trap (R208, R225). -/
def State.gathered (s : State) (u : Buf) (n : Nat) (l : List (Nat × Nat)) (k : State → State) : State :=
  match s.indexFault u n l with
  | some (r, e, a) => s.raise 8 (e * 256 + r) a
  | none => k s

/-- LD (R216). -/
def execLd (p : Pred) (g : GReg) (u : Buf) (ba : Fin 32) (sz : Fin 8) (off : BitVec 6) (s : State) : Out :=
  .next (s.issue (.ld p g u ba sz off) p fun s =>
    let n := szBytes sz
    let a := s.b ba + off.toNat * n
    s.bounded u a n n fun s => s.access 3 (.scalar g u a n (4 ≤ sz.val)))

/-- ST (R216). -/
def execSt (p : Pred) (g : GReg) (u : Buf) (ba : Fin 32) (sz : Fin 8) (off : BitVec 6) (s : State) : Out :=
  .next (s.issue (.st p g u ba sz off) p fun s =>
    let n := szBytes sz
    let a := s.b ba + off.toNat * n
    s.bounded u a n n fun s => s.after 3 (.store u (place a (toLe n (s.core.rdG g).toNat))))

/-- LDV with T = 0 (R217). -/
def execLdv (p : Pred) (vd : Fin 32) (u : Buf) (ba : Fin 32) (off : BitVec 9) (s : State) : Out :=
  .next (s.issue (.ldv p vd u ba off) p fun s =>
    let a := s.b ba + 32 * off.toNat
    s.bounded u a 256 32 fun s => s.access 3 (.rawVec vd u a))

/-- STV with T = 0 (R217). -/
def execStv (p : Pred) (vs : Fin 32) (u : Buf) (ba : Fin 32) (off : BitVec 9) (s : State) : Out :=
  .next (s.issue (.stv p vs u ba off) p fun s =>
    let a := s.b ba + 32 * off.toNat
    s.bounded u a 256 32 fun s => s.after 3 (.store u (place a (toBytes s.core.v[vs]))))

/-- LDV.T (R218). -/
def execLdvT (p : Pred) (vd : Fin 32) (u : Buf) (ba : Fin 32) (off : BitVec 9) (s : State) : Out :=
  .next (s.issue (.ldvT p vd u ba off) p fun s =>
    let base := s.b ba
    s.bounded u base 32 32 fun s => s.reading u base 32 fun s =>
      let l := s.hdrBytes u base
      let h := Hdr.ofNat (ofLe l)
      s.passing (hdrCheck 0 l <|> tileFit 0 h) base fun s =>
        let f := tagFmt (BitVec.ofNat 32 (h.efd % 2 ^ 24))
        let d := base + h.doff + 32 * off.toNat
        s.bounded u d (windowBytes f) 1 fun s =>
          s.access 3 (.tileVec vd u d (if f.wide then 8 else f.width) (headerTag h)))

/-- STV.T (R218). -/
def execStvT (p : Pred) (vs : Fin 32) (u : Buf) (ba : Fin 32) (off : BitVec 9) (s : State) : Out :=
  .next (s.issue (.stvT p vs u ba off) p fun s =>
    let base := s.b ba
    s.bounded u base 32 32 fun s =>
      let t := s.core.tag[vs]
      s.tagsPassing (tagCheck 0 t false) fun s => s.reading u base 32 fun s =>
        let l := s.hdrBytes u base
        let h := Hdr.ofNat (ofLe l)
        s.passing (hdrCheck 3 l <|> tileFit 3 h <|> failIf (!tagPairs t h) causeMismatch 3 0x26) base fun s =>
          let f := tagFmt t
          let d := base + h.doff + 32 * off.toNat
          s.bounded u d (windowBytes f) 1 fun s =>
            let x := if f.wide then s.core.v[vs].toNat else joinLanes f.width (lanes s.core.v[vs] 0)
            s.after 3 (.store u (place d (toLe (windowBytes f) x))))

/-- FILL (R221): the quarter as it stands at issue. -/
def execFill (p : Pred) (g : GReg) (off : BitVec 9) (s : State) : Out :=
  .next (s.issue (.fill p g off) p fun s =>
    if let some x := s.core.firstSpoilt 3 (8 * off.toNat) 8 then s.loseAt s.slot x
    else s.land 4 (.scalar g (BitVec.ofNat 64 (s.core.ballast.rdN (8 * off.toNat) 8))))

/-- SPILL (R221): the slot's tag word stays. -/
def execSpill (p : Pred) (g : GReg) (off : BitVec 9) (s : State) : Out :=
  .next (s.issue (.spill p g off) p fun s =>
    s.after 0 (.spill (place (8 * off.toNat) (toLe 8 (s.core.rdG g).toNat)) none))

/-- FILLV (R221): bytes and tag word of the slot. -/
def execFillv (p : Pred) (vd : Fin 32) (off : Fin 16) (s : State) : Out :=
  .next (s.issue (.fillv p vd off) p fun s =>
    if let some x := s.core.firstSpoilt 3 (256 * off.val) 256 then s.loseAt s.slot x
    else s.land 4 (.vec vd (ofBytes (s.core.ballast.bytes (256 * off.val) 256)) (BitVec.allOnes 2048) (some s.core.btag[off]) []))

/-- SPILLV (R221). -/
def execSpillv (p : Pred) (vs : Fin 32) (off : Fin 16) (s : State) : Out :=
  .next (s.issue (.spillv p vs off) p fun s =>
    s.after 0 (.spill (place (256 * off.val) (toBytes s.core.v[vs])) (some (off, s.core.tag[vs]))))

/-- HDRMK (R219): bytes 30 and 31 are the CRC; a header that would fail R85 is not written. -/
def execHdrmk (p : Pred) (vs : Fin 32) (u : Buf) (ba : Fin 32) (off : BitVec 9) (s : State) : Out :=
  .next (s.issue (.hdrmk p vs u ba off) p fun s =>
    let a := s.b ba + 32 * off.toNat
    s.bounded u a 32 32 fun s =>
      let l := (toBytes s.core.v[vs]).take 30
      let l := l ++ toLe 2 (crc16 l)
      s.passing ((hdrCheck 3 l).map fun f => (causeCombo, 3, f.2.2)) a fun s => s.after 3 (.store u (place a l)))

/-- HDRCHK (R220). -/
def execHdrchk (p : Pred) (pd : Fin 8) (u : Buf) (ba : Fin 32) (off : BitVec 9) (s : State) : Out :=
  .next (s.issue (.hdrchk p pd u ba off) p fun s =>
    let a := s.b ba + 32 * off.toNat
    s.bounded u a 32 32 fun s => s.access 3 (.header pd u a))

/-- LAOP (R213, R223). -/
def execLaop (p : Pred) (op : AtomOp) (g : GReg) (u : Buf) (ba bv : Fin 32) (s : State) : Out :=
  .next (s.issue (.laop p op g u ba bv) p fun s =>
    s.bounded u (s.b ba) 8 8 fun s => s.access 3 (.atomic g u (s.b ba) op (s.core.rdB bv)))

/-- Whether a BCLR of the isle is still running (R224). -/
def Isle.clearing (c : Isle) : Bool :=
  (c.flights ++ c.hflights).any fun f =>
    match f.eff with
    | .clear _ _ _ => true
    | _ => false

/-- BCLR (R224). The spec orders neither STALL_SHORT against the address checks nor names TADDR for a length that is no multiple of 256: the model
raises STALL_SHORT first, and TADDR holds b[BA] (DESIGN CHOICE, log 78). -/
def execBclr (p : Pred) (u : Buf) (ba bl : Fin 32) (s : State) : Out :=
  .next (s.issue (.bclr p u ba bl) p fun s =>
    if s.core.clearing then s.raise 5 0x53 s.core.pc
    else if s.b bl % 256 ≠ 0 then s.raise 8 0x36 (s.b ba)
    else s.bounded u (s.b ba) (s.b bl) 256 fun s =>
      if s.b bl = 0 then s else s.after 3 (.clear u (s.b ba) (s.b bl / 256)))

/-- LDIDX (R225). -/
def execLdidx (p : Pred) (vd vi : Fin 32) (u : Buf) (ba : Fin 32) (esz : Fin 4) (vm : Fin 8) (s : State) : Out :=
  .next (s.issue (.ldidx p vd vi u ba esz vm) p fun s =>
    let l := s.indexed vi ba esz vm
    s.gathered u (2 ^ esz.val) l fun s => s.access 3 (.gather vd u (2 ^ esz.val) l))

/-- STIDX (R225): of two elements at one address the higher remains. -/
def execStidx (p : Pred) (vs vi : Fin 32) (u : Buf) (ba : Fin 32) (esz : Fin 4) (vm : Fin 8) (s : State) : Out :=
  .next (s.issue (.stidx p vs vi u ba esz vm) p fun s =>
    let n := 2 ^ esz.val
    let l := s.indexed vi ba esz vm
    s.gathered u n l fun s =>
      s.after 3 (.store u (l.flatMap fun (e, a) => place a (toLe n (lane s.core.v[vs] esz.val e)))))

end Sys2Proof.Machine
end

