-- ==== Sys2Proof/Machine/Streams.lean ====
section
/-! DEFINITION. The stream words of slot M (R155-R164). -/

namespace Sys2Proof.Machine

/-- Lane width code of a stream's elements (R157). A KIND 3 stream holds significands, so LW is 3 whatever EFD it has latched (R163, log
58). -/
def streamLw (h : Hdr) : Nat := if h.kind = 3 then 3 else ((fmtOf h.efd).map Fmt.lw).getD 0

/-- Elements of a chunk that lie inside the tile at the cursor (R157). -/
def StreamReg.inside (t : StreamReg) : Nat := min (laneCount (streamLw (.ofStream t))) (t.cols - t.col)

/-- Scales of the scale access at the cursor: first index and count (R157). -/
def StreamReg.scales (t : StreamReg) : Nat × Nat :=
  let b := blockOf (Hdr.ofStream t).bsize
  (t.row * ceilDiv t.cols b + t.col / b, ceilDiv t.inside b)

/-- The cursor after an access (R157, R163). -/
def StreamReg.advance (t : StreamReg) : StreamReg :=
  if !t.sph && (Hdr.ofStream t).sfmt != 0 then { t with sph := true }
  else
    let col := t.col + laneCount (streamLw (.ofStream t))
    let (r, c) := if t.cols ≤ col then (t.row + 1, 0) else (t.row, col)
    { t with sph := false, row := if t.rows ≤ r then 0 else r, col := c }

/-- SOPEN.r and SOPEN.w (R160). -/
def State.sopen (s : State) (i : Instr) (p : Pred) (wr : Bool) (t : Fin 16) (u : Buf) (ba : Fin 32) : State :=
  s.issue i p fun s =>
    let base := s.b ba
    if base % 32 ≠ 0 ∨ s.ctx.image.foot u < base + 32 then s.raise 8 0x33 base
    else s.reading u base 32 fun s =>
      let l := s.hdrBytes u base
      let h := Hdr.ofNat (ofLe l)
      s.passing (hdrCheck 0 l) base fun s =>
        if s.ctx.image.foot u < base + h.extent then s.raise 8 0x33 base
        else if h.kind = 4 then s.raise causeMismatch 0x20 base
        else if wr ∧ ¬ ((h.kind = 0 ∨ h.kind = 3) ∧ h.sparse = 0) then s.raise causeCombo 0x14 base
        else
          s.land 3 (.stream t
            { opened := true, write := wr, buf := u, base := base, tscale := h.tscale, moff := h.moff, soff := h.soff, doff := h.doff,
              stride := h.stride, cols := h.cols, rows := h.rows, kind := h.kind, geom := h.geom, efd := h.efd })

/-- SOPEN.r (R160). -/
def execSopenR (p : Pred) (t : Fin 16) (u : Buf) (ba : Fin 32) (s : State) : Out :=
  .next (s.sopen (.sopenR p t u ba) p false t u ba)

/-- SOPEN.w (R160). -/
def execSopenW (p : Pred) (t : Fin 16) (u : Buf) (ba : Fin 32) (s : State) : Out :=
  .next (s.sopen (.sopenW p t u ba) p true t u ba)

/-- SCLOSE (R161). -/
def execSclose (p : Pred) (t : Fin 16) (s : State) : Out :=
  .next (s.issue (.sclose p t) p fun s => s.after 0 (.stream t {}))

/-- SREAD (R163). -/
def execSread (p : Pred) (vd : Fin 32) (t : Fin 16) (s : State) : Out :=
  .next (s.issue (.sread p vd t) p fun s =>
    let r := s.core.st[t]
    if !r.opened then s.raise 8 0x30 t.val
    else if r.write then s.raise 8 0x31 t.val
    else
      let h := Hdr.ofStream r
      s.passing (hdrValid 0 h <|> failIf (h.sfmt != 0 && h.baxis == 1) causeCombo 0 0x14 <|> tileFit 0 h) r.base fun s =>
        (s.access 5 (.stream vd r)).after 0 (.stream t r.advance))

/-- The bytes or bits that a SWRITE writes at its cursor: those of R157 that lie inside the tile (R164). -/
def streamStore (r : StreamReg) (x : V2048) : Eff :=
  let h := Hdr.ofStream r
  if r.sph then
    let (i, k) := r.scales
    let n := scaleBytes h.sfmt
    .store r.buf (place (r.base + h.scaleStart + i * n) (toLe (min k (h.scaleCount - i) * n) x.toNat))
  else if h.kind = 3 then
    .store r.buf ((List.range r.inside).flatMap fun e =>
      let (a, _, _) := h.elemAt fp16 r.base r.row (r.col + e)
      place a (toLe 8 (lane x 3 e)))
  else
    let f := tagFmt (BitVec.ofNat 32 (h.efd % 2 ^ 24))
    .storeBits r.buf (r.base + h.doff + r.row * h.stride) (r.col * f.width) (r.inside * f.width)
      (joinLanes f.width ((lanes x f.lw).take r.inside))

/-- SWRITE (R164). -/
def execSwrite (p : Pred) (t : Fin 16) (vs : Fin 32) (s : State) : Out :=
  .next (s.issue (.swrite p t vs) p fun s =>
    let r := s.core.st[t]
    let tg := s.core.tag[vs]
    if !r.opened then s.raise 8 0x30 t.val
    else if !r.write then s.raise 8 0x31 t.val
    else
      s.tagsPassing (tagCheck 0 tg false) fun s =>
        let h := Hdr.ofStream r
        let fits := if r.sph then tagSreg tg && tagSfmt tg == h.sfmt && tagSblk tg == h.bsize else tagPairs tg h
        s.passing (failIf (!fits) causeMismatch 3 0x26) r.base fun s =>
          (s.after 3 (streamStore r s.core.v[vs])).after 0 (.stream t r.advance))

/-- SSEEK (R162). -/
def execSseek (p : Pred) (t : Fin 16) (brow bcol : Fin 32) (s : State) : Out :=
  .next (s.issue (.sseek p t brow bcol) p fun s =>
    let r := s.core.st[t]
    let h := Hdr.ofStream r
    if !r.opened then s.raise 8 0x30 t.val
    else if r.rows ≤ s.b brow ∨ r.cols ≤ s.b bcol ∨ (h.sfmt ≠ 0 ∧ s.b bcol % blockOf h.bsize ≠ 0) then s.raise 8 0x32 t.val
    else s.after 0 (.stream t { r with row := s.b brow, col := s.b bcol, sph := false }))

end Sys2Proof.Machine
end

