-- ==== Sys2Proof/Machine/Matrix.lean ====
section
/-! DEFINITION. Slot X and the matrix engine (R165-R175, R227-R230): the words, the engine's intervals and its latch, the exact
arithmetic of a K-block and of a fold (R73-R75). -/

namespace Sys2Proof.Machine

/-- OPERAND_ACCESS (R321). -/
def causeOperand : Nat := 0x0B
/-- STALL_SHORT (R321). -/
def causeStall : Nat := 5

/-! ## Accumulator rows and sets (R72, R74, R228) -/

/-- UNCORRECTABLE (R321). -/
def causeEcc : Nat := 0x0E

/-- The residue of a significand, a signed integer, modulo 255 (R228, R240, log 68). -/
def residue (x : W64) : Nat := (x.toInt % 255).toNat

/-- A row with the residues of its significands. -/
def AccRow.of (e : Int) (s : List W64) : AccRow := { e := e, s := s, r := s.map residue }

/-- Whether every significand of a row agrees with the residue carried for it (R240). -/
def AccRow.sound (r : AccRow) : Bool := r.s.map residue == r.r

/-- Whether every significand of a set agrees with its residue. -/
def AccSet.sound (t : AccSet) : Bool := t.rows.all fun x => x.2.sound

/-- A row of zeros. -/
def AccRow.zero : AccRow := .of 0 (List.replicate 128 0)

/-- The significand that stands for NaN (R72). -/
def accNan : W64 := 0x8000000000000000#64

/-- Row i of a set. -/
def AccSet.row (t : AccSet) (i : Nat) : AccRow := ((t.rows.find? (·.1 == i)).map (·.2)).getD AccRow.zero

/-- Address of group g of row r of an accumulator (R72). -/
def accAddr (base : Nat) (h : Hdr) (r g : Nat) : Nat := base + h.doff + r * h.stride + 1056 * g

/-- A group of an accumulator row as it lies in ACB (R72). -/
def readGroup (m : Mem) (a : Nat) : AccRow :=
  .of (sext (m.rdN a 2) 16) ((List.range 128).map fun j => BitVec.ofNat 64 (m.rdN (a + 32 + 8 * j) 8))

/-- Rows MI to MI + 127 of group NJ / 128 of an accumulator; what lies outside it is zero (R236). -/
def loadRows (m : Mem) (base : Nat) (h : Hdr) (mi nj : Nat) : List (Nat × AccRow) :=
  if ceilDiv h.cols 128 ≤ nj / 128 then []
  else ((List.range 128).filter fun i => mi + i < h.rows).map fun i => (i, readGroup m (accAddr base h (mi + i) (nj / 128)))

/-- The bytes of ACB that such a load reads, each range with the memory's code (R207). -/
def rowRanges (base : Nat) (h : Hdr) (mi nj : Nat) : List (Nat × Nat × Nat) :=
  if ceilDiv h.cols 128 ≤ nj / 128 then []
  else ((List.range 128).filter fun i => mi + i < h.rows).map fun i => (bufCode .acb, accAddr base h (mi + i) (nj / 128), 1056)

/-- m x 2^sh rounded to an integer, ties to even (R74). -/
def roundEven (m : Nat) (sh : Int) : Nat :=
  if 0 ≤ sh then m * 2 ^ sh.toNat
  else
    let d := 2 ^ (-sh).toNat
    let q := m / d
    let r := m % d
    if d < 2 * r ∨ (2 * r = d ∧ q % 2 = 1) then q + 1 else q

/-- floor(log2 |x|) of a nonzero finite value. -/
def XVal.log2? : XVal → Option Int
  | .fin _ m e => if m = 0 then none else some (e + Nat.log2 m)
  | _ => none

/-- The greatest of a list of integers. -/
def maxOf : List Int → Option Int
  | [] => none
  | x :: t => some (match maxOf t with | some y => max x y | none => x)

/-- The significand of an exact value at an exponent (R74), and whether it clamps. -/
def significand (v : XVal) (e2 : Int) : W64 × Bool :=
  match v with
  | .fin neg m e =>
    let q := roundEven m (e - e2)
    let lim := 2 ^ 63 - 1
    let k := min q lim
    (BitVec.ofInt 64 (if neg then -(k : Int) else k), lim < q)
  | _ => (accNan, false)

/-- The values S x 2^E of a row (R72). -/
def AccRow.values (r : AccRow) : List XVal := r.s.map fun x => if x = accNan then .nan else .ofInt x.toInt r.e

/-- A row of exact values in one exponent (R74), with whether the exponent clamps at 32,767 and the elements whose significands
clamp. `e` is the exponent that stands where every value is zero or NaN. -/
def packRow (e : Int) (v : List XVal) : AccRow × Bool × List Nat :=
  let e2 := match maxOf (v.filterMap XVal.log2?) with
    | none => e
    | some l => l - 61
  let ovf := decide (32767 < e2)
  let e2 := max (-32768) (min 32767 e2)
  let s := v.map fun x => significand x e2
  (.of e2 (s.map (·.1)), ovf, ((List.range 128).zip s).filterMap fun x => if x.2.2 then some x.1 else none)

/-- The fold of block sums into a row (R74). -/
def foldRow (r : AccRow) (t : List XVal) : AccRow × Bool × List Nat :=
  packRow r.e ((r.values.zip t).map fun x => x.1.add x.2)

/-- 2^e modulo 255, by 2^x mod 255 = 2^(x mod 8) (R240). -/
def weight255 (e : Int) : Nat := 2 ^ (e % 8).toNat

/-- The residue of m x 2^e; none for what is not finite (R240). -/
def XVal.residue255 : XVal → Option Nat
  | .fin n m e => some ((coef n m e e * weight255 e) % 255).toNat
  | _ => none

/-- The check of a FOLD for one element (R240): the exact sum that the fold makes, which is q x 2^E2 plus the remainder it discards, against
S x 2^E + T x 2^L from the residues that are carried; `t` is the block sum before saturation. A NaN has no residue. -/
def foldAgrees (e : Int) (s : XVal) (rs : Nat) (t : XVal) (rt : Nat) : Bool :=
  match (s.add t).residue255, t with
  | some x, .fin _ _ l => x == (rs * weight255 e + rt * weight255 l) % 255
  | _, _ => true

/-- The check of a FOLD for a row. -/
def AccRow.foldsSound (r : AccRow) (t : List XVal) (rt : List Nat) : Bool :=
  ((r.values.zip r.r).zip (t.zip rt)).all fun x => foldAgrees r.e x.1.1 x.1.2 x.2.1 x.2.2

/-- The product of two factors of a term; one that is not finite makes the block NaN (R75). -/
def factorMul (a b : XVal) : XVal :=
  match a, b with
  | .fin _ _ _, .fin _ _ _ => a.mul b
  | _, _ => .nan

/-- The end of T's range (R73). -/
def sumLimit : Int := 2 ^ 95 - 1

/-- T x 2^L with T inside its 96 bits (R73). -/
def clamp95 : XVal → XVal
  | .fin n m l => if (m : Int) ≤ sumLimit ∨ (n ∧ m = 2 ^ 95) then .fin n m l else .fin n sumLimit.toNat l
  | x => x

/-- The sum of the terms of one output element in one K-block (R73), T x 2^L before saturation, and T mod 255 (R240). A term without a
factor is masked (R237). -/
def blockSum (a b : List (Option XVal)) : XVal × Nat :=
  let terms := (a.zip b).filterMap fun x =>
    match x.1, x.2 with
    | some u, some v => some (factorMul u v)
    | _, _ => none
  if terms.any XVal.isNan then (.nan, 0)
  else
    let live := terms.filterMap fun x =>
      match x with
      | .fin n m e => if m = 0 then none else some (n, m, e)
      | _ => none
    match live with
    | [] => (.fin false 0 0, 0)
    | (_, _, e0) :: _ =>
      let l := live.foldl (fun acc x => min acc x.2.2) e0
      let t := live.foldl (fun (acc : Int) x => acc + coef x.1 x.2.1 x.2.2 l) 0
      (.ofInt t l, (t % 255).toNat)

/-! ## Intervals (R166, R232) -/

/-- The set that ACTSET names. -/
def Matrix.active (m : Matrix) : AccSet := if m.actset then m.set1 else m.set0
/-- The set that ACTSET does not name. -/
def Matrix.drainSet (m : Matrix) : AccSet := if m.actset then m.set0 else m.set1

/-- K-block size from its code (R165). -/
def kblock (mp3 : W32) : Nat := 16 * 2 ^ fld mp3.toNat 0 2

/-- The operand streams and parameters of a call by number. -/
def Call.arg (c : Call) (i : Nat) : Nat := (c.mp.getD i 0).toNat
/-- The A stream of a call. -/
def Call.aStream (c : Call) : StreamReg := c.st.getD (fld (c.arg 0) 0 4) {}
/-- The B stream of a call; none for the handle operand. -/
def Call.bStream (c : Call) : Option StreamReg :=
  match c.handle with
  | some _ => none
  | none => if fld (c.arg 1) 0 5 < 16 then some (c.st.getD (fld (c.arg 1) 0 5) {}) else some {}

/-- A routine at the start of its call (R235). DESIGN CHOICE (log 79): no KO folded in an earlier call is remembered (R236). -/
def Call.routine (c : Call) (active : AccSet) : Routine :=
  { call := c, upc := c.start, cycle := 0, mi := c.aStream.row, ko := c.aStream.col
    nj := match c.bStream with | some b => b.col | none => 0
    st := c.st, acc := c.acc, read := c.read, held := c.acc.isSome, work := active }

/-- The engine with a routine that begins, and with it its first segment (R241). -/
def Matrix.starts (m : Matrix) (r : Routine) : Matrix :=
  { m with routine := some r, base := some { routine := r, set0 := m.set0, set1 := m.set1 }, chk := none, rerun := none, owed := none }

/-- A word takes the idle engine (R166, R173). -/
def Isle.startX (c : Isle) (x : XRun) : Isle :=
  let m := { c.mat with running := some x }
  match x.word with
  | .call k => { c with mat := m.starts (k.routine m.active) }
  | _ => { c with mat := m }

/-- The MUWR of the isle in focus that starts in a given rc: its range of AB (R169). -/
def Isle.muwrIn (c : Isle) (rc : Nat) : Option (Nat × Nat) :=
  match c.mat.running with
  | some x => (match x.word with | .muwr src _ n => if x.first = rc then some (src, n) else none | _ => none)
  | none => none

/-- An MUWR that starts in a given rc reads its words from AB (R169); an uncorrectable sector among them ends the context (R207). -/
def State.stageMuwr (s : State) (rc : Nat) : State :=
  match s.core.muwrIn rc with
  | none => s
  | some (src, n) =>
    match s.core.firstSpoilt (bufCode .ab) src (8 * n) with
    | some x => s.loseAt .X x
    | none => s.onCore fun c =>
      { c with mat := { c.mat with staged := (List.range n).map fun j => BitVec.ofNat 64 (c.ab.rdN (src + 8 * j) 8) } }

/-- An occupying word after its own checks: it starts, waits in the latch, or finds the latch full (R166). -/
def State.occupy (s : State) (w : XWord) (len : Nat) : State :=
  if s.core.mat.latched.isSome then s.raise causeStall 0x52 s.core.pc
  else
    let c := s.core.count 0x03 1
    let x : XRun := { word := w, first := s.rcOfTick s.startTick, len := len, bundle := s.core.pc, rcyc := s.ctx.rcycle }
    if c.mat.running.isNone then ({ s with core := c.startX x } : State).stageMuwr s.ctx.rcycle
    else { s with core := { c with mat := { c.mat with latched := some x } } }

/-- The micro-PC at which the end of the interval stops a call (R232): that of a routine which has not ended, or of one whose RET is still in
its last cycle (R378). -/
def Matrix.unended (m : Matrix) : Option Nat :=
  (m.routine.map (·.upc)) <|> (m.landing.find? (·.ret)).map (·.upc)

/-- The end of the interval of the running word at the end of an rc: what it leaves, the trap of a routine that has not ended (R232),
and the start of a latched word in the next rc. -/
def Isle.intervalEnd (c : Isle) (rc : Nat) : Isle :=
  match c.mat.running with
  | none => c
  | some x =>
    if x.first + x.len ≤ rc + 1 then
      let m := { c.mat with running := none, done := c.mat.done + 1 }
      let c := match x.word with
        | .msel k => { c with mat := { m with actset := if k = 0 then !m.actset else k = 2 } }
        | .mrtset i w => { c with mat := m, rtab := c.rtab.set i w }
        | .muwr _ dst n =>
          { c with
            mat := { m with staged := [] }
            ustore := c.ustore.take dst ++ m.staged ++ c.ustore.drop (dst + n)
            poison := c.poison.filter fun p => !(p.1 == 5 && dst ≤ p.2 && p.2 < dst + n) }
        | .call _ =>
          match m.unended with
          | none => { c with mat := m }
          | some u =>
            ({ c with mat := { m with routine := none, landing := [] } } : Isle).raiseLate
              { cause := causeStall, addr := u, info := 0x50 + u * 2 ^ 18, slot := 5, issued := true }
      match c.mat.latched with
      | none => c
      | some y => ({ c with mat := { c.mat with latched := none } } : Isle).startX { y with first := rc + 1 }
    else c

/-- ENGINE_INTERVAL_END (R232): the engine of the isle in focus at the end of the present rc; an MUWR that starts in the next one reads its words
(R169). -/
def execEngineIntervalEnd (s : State) : Out :=
  .next (({ s with core := s.core.intervalEnd s.ctx.rcycle } : State).stageMuwr (s.ctx.rcycle + 1))

/-- The header of the accumulator at an ACB address; none where it is empty (R173 step 4). -/
def accHeader (acb : Mem) (a : Nat) : Option Hdr :=
  let h := Hdr.ofNat (acb.rdN a 32)
  if h.magic = 0xA7 ∧ h.kind = 3 then some h else none

/-- A set reloaded from its bound region (R229). -/
def AccSet.reload (t : AccSet) (acb : Mem) : AccSet :=
  match t.bind with
  | none => { t with rows := [] }
  | some b =>
    match accHeader acb b.acc with
    | some h => { t with rows := loadRows acb b.acc h b.mi b.nj }
    | none => { t with rows := [] }

/-- The writes of a segment laid over the isle's buffers. -/
def Isle.writesLand (c : Isle) (l : List Eff) : Isle :=
  l.foldl (fun (c : Isle) e =>
    match e with
    | .store u l => c.stores u l
    | .storeBits u a off n x => c.stores u ((c.buf u).wrBits a off n x)
    | _ => c) c

/-- The isle as the engine finds it in a MAT cycle: with the writes of the segments that have passed by the end of the cycle before (R236,
R242), which the other units see from the end of an rc. -/
def Isle.engineView (c : Isle) : Isle := c.mat.landing.foldl (fun c l => c.writesLand l.segment.writes) c

/-- Both sets reloaded, as whenever a context resumes (R229). -/
def Isle.reloadSets (c : Isle) : Isle :=
  { c with mat := { c.mat with set0 := c.mat.set0.reload c.acb, set1 := c.mat.set1.reload c.acb } }

/-! ## Words that do not occupy the engine -/

/-- MPSET with a register (R167). -/
def execMpset (p : Pred) (mp : Fin 8) (bs : Fin 32) (s : State) : Out :=
  .next (s.issue (.mpset p mp bs) p fun s => s.after 0 (.mp mp ((s.core.rdB bs).truncate 32)))

/-- MPSET with an immediate (R167). -/
def execMpsetImm (p : Pred) (mp : Fin 8) (imm : BitVec 16) (s : State) : Out :=
  .next (s.issue (.mpsetImm p mp imm) p fun s => s.after 0 (.mp mp (imm.zeroExtend 32)))

/-- The alignment and footprint checks of reason 0x33 (R159). -/
def State.inBuf (s : State) (u : Buf) (a n al : Nat) (k : State → State) : State :=
  if a % al ≠ 0 ∨ s.ctx.image.foot u < a + n then s.raise 8 0x33 a else k s

/-- MPLD (R168): the bytes as they stand at issue, landed after 4 rc. -/
def execMpld (p : Pred) (ba : Fin 32) (off : BitVec 9) (s : State) : Out :=
  .next (s.issue (.mpld p ba off) p fun s =>
    let a := s.b ba + 32 * off.toNat
    s.inBuf .ab a 32 32 fun s => s.reading .ab a 32 fun s =>
      s.after 3 (.mpLine (BitVec.ofNat 256 (s.core.ab.rdN a 32))))

/-- The engine's state that MSTAT reads (R172). -/
def State.engineState (s : State) (k : Fin 16) : W64 :=
  let m := s.core.mat
  let rest (x : Option XRun) (f : XRun → Nat) : Nat := (x.map f).getD 0
  BitVec.ofNat 64
    (if k = 1 then rest m.running (fun x => x.first + x.len - s.ctx.rcycle) + rest m.latched (·.len)
     else if k = 2 then m.done
     else (if m.running.isSome then 1 else 0) + (if m.latched.isSome then 2 else 0) + (if m.actset then 4 else 0) +
       (if m.accovf then 8 else 0))

/-- MSTAT (R172). -/
def execMstat (p : Pred) (g : GReg) (sel : Fin 16) (s : State) : Out :=
  .next (s.issue (.mstat p g sel) p fun s =>
    let t := s.land 3 (.scalar g (s.engineState sel))
    if sel = 3 then t.after 0 .clearAccovf else t)

/-! ## Words that occupy it -/

/-- MUWR (R169). -/
def execMuwr (p : Pred) (ba bu : Fin 32) (cntM1 : BitVec 8) (s : State) : Out :=
  .next (s.issue (.muwr p ba bu cntM1) p fun s =>
    let n := cntM1.toNat + 1
    s.inBuf .ab (s.b ba) (8 * n) 8 fun s =>
      if s.core.ustore.length < s.b bu + n then s.raise 8 0x35 (s.b bu)
      else s.occupy (.muwr (s.b ba) (s.b bu) n) (ceilDiv n 4 + 4))

/-- The bits of a routine-table entry that a write keeps (R170). -/
def entryBits (x : W64) : W64 := x &&& 0x00000000FFFF07FF#64

/-- MRTSET (R170). -/
def execMrtset (p : Pred) (idx : Fin 64) (bs : Fin 32) (s : State) : Out :=
  .next (s.issue (.mrtset p idx bs) p fun s => s.occupy (.mrtset idx (entryBits (s.core.rdB bs))) 1)

/-- MSEL.swap (R171). -/
def execMselSwap (p : Pred) (s : State) : Out := .next (s.issue (.mselSwap p) p (·.occupy (.msel 0) 1))
/-- MSEL.s0 (R171). -/
def execMselS0 (p : Pred) (s : State) : Out := .next (s.issue (.mselS0 p) p (·.occupy (.msel 1) 1))
/-- MSEL.s1 (R171). -/
def execMselS1 (p : Pred) (s : State) : Out := .next (s.issue (.mselS1 p) p (·.occupy (.msel 2) 1))

/-- A check of a call that fails: cause, TINFO, TADDR. -/
abbrev CallFault := Nat × Nat × Nat

/-- A failed check of a call: an uncorrectable error ends the context (R207), every other one traps. -/
def State.callFails (s : State) (f : CallFault) : State :=
  if f.1 = causeEcc then s.loseAt s.slot f.2.2 else s.raise f.1 f.2.1 f.2.2

/-- An entry of the routine table (R170): COUNT, CONV, START, after step 1 of R173; `conv` says that CONV = 1 is required. -/
def State.callEntry (s : State) (idx : Fin 64) (conv : Bool) : Except CallFault (Nat × Bool × Nat) :=
  let e := (s.core.rtab[idx]).toNat
  if fld e 16 16 = 0 ∨ (conv ∧ !bit e 10) then .error (8, 0x34, idx.val)
  else if s.core.ustore.length ≤ fld e 0 10 then .error (8, 0x35, fld e 0 10)
  else .ok (fld e 16 16, bit e 10, fld e 0 10)

/-- An open read stream of a snapshot by number (R173 step 2). -/
def readStream (st : List StreamReg) (n : Nat) : Except CallFault StreamReg :=
  if 16 ≤ n then .error (8, 0x30, n)
  else
    let t := st.getD n {}
    if !t.opened then .error (8, 0x30, n) else if t.write then .error (8, 0x31, n) else .ok t

/-- The bytes of the accumulator that a call infers, header included (R173 step 4). -/
def inferredExtent (rows cols : Nat) : Nat := 32 + rows * ceilDiv cols 128 * 1056

/-- Steps 3 and 4 of R173: the accumulator's header where it holds data. -/
def State.callAcc (s : State) (mp2 rows cols : Nat) : Except CallFault (Option (BitVec 256)) :=
  let foot := s.ctx.image.foot .acb
  if mp2 % 32 ≠ 0 ∨ foot < mp2 + 32 then .error (8, 0x33, mp2)
  else
    match s.core.firstSpoilt (bufCode .acb) mp2 32 with
    | some x => .error (causeEcc, 0, x)
    | none =>
      let l := s.hdrBytes .acb mp2
      let h := Hdr.ofNat (ofLe l)
      if h.magic = 0xA7 ∧ h.kind = 3 then
        match hdrCheck 2 l with
        | some f => .error (f.1, f.info, mp2)
        | none => if foot < mp2 + h.dataEnd then .error (8, 0x33, mp2) else .ok (some (BitVec.ofNat 256 (ofLe l)))
      else if foot < mp2 + inferredExtent rows cols then .error (8, 0x33, mp2)
      else .ok none

/-- What R84 asks of the A operand of a matrix accumulate on its own (R82 step 3). -/
def aRole (h : Hdr) (kb : Nat) : Option Fail :=
  match fmtOf h.efd with
  | none => some (causeCombo, 0, 0x10)
  | some f =>
    failIf f.wide causeCombo 0 0x13 <|> failIf (h.sparse != 0 || (h.sfmt != 0 && h.baxis == 1)) causeCombo 0 0x14 <|>
      failIf (h.sfmt != 0 && kb % blockOf h.bsize != 0) causeCombo 0 0x15

/-- What R84 asks of the B operand on its own: the groups of codes 1-3 and the scales lie on axis 1. -/
def bRole (h : Hdr) (kb : Nat) : Option Fail :=
  match fmtOf h.efd with
  | none => some (causeCombo, 1, 0x10)
  | some f =>
    failIf f.wide causeCombo 1 0x13 <|>
      failIf (((groupOf h.sparse).isSome && h.baxis == 0) || (h.sfmt != 0 && h.baxis == 0)) causeCombo 1 0x14 <|>
      failIf (h.sfmt != 0 && kb % blockOf h.bsize != 0) causeCombo 1 0x15

/-- Step 5 of R173: the pairing of R84, with TADDR the header of the operand at the position reported. -/
def callPairing (a b : Hdr) (acc : Option (BitVec 256)) (kb aAddr bAddr mp2 : Nat) : Option CallFault :=
  let f := aRole a kb <|> bRole b kb <|> failIf (a.kind != 0) causeMismatch 0 0x20 <|> failIf (b.kind != 0) causeMismatch 1 0x20 <|>
    failIf (a.cols != b.rows) causeMismatch 1 0x21 <|>
    (match acc with
      | some w => let h := Hdr.ofNat w.toNat; failIf (h.rows != a.rows || h.cols != b.cols) causeMismatch 3 0x22
      | none => none)
  f.map fun f => (f.1, f.info, if f.2.1 = 0 then aAddr else if f.2.1 = 1 then bAddr else mp2)

/-- The snapshot and checks of MCALL (R173): COUNT and the call. Under CONV = 1 the bits of mp0 and mp1 that R165 calls zero are ignored
(log 61). -/
def State.mcallLook (s : State) (idx : Fin 64) (pmask : BitVec 8) : Except CallFault (Nat × Call) :=
  match s.callEntry idx false with
  | .error f => .error f
  | .ok (count, conv, start) =>
    let mp := (List.finRange 8).map fun i : Fin 8 => if pmask.getLsbD i.val then s.core.mp[i] else 0
    let st := s.core.st.toList
    let c : Call :=
      { idx := idx.val, start := start, mp := mp, st := st, handle := none, acc := none, read := false, seed := s.core.srseed }
    let mp2 := c.arg 2
    if conv then
      match readStream st (fld (c.arg 0) 0 4), readStream st (fld (c.arg 1) 0 5) with
      | .error f, _ => .error f
      | _, .error f => .error f
      | .ok a, .ok b =>
        match s.callAcc mp2 a.rows b.cols with
        | .error f => .error f
        | .ok acc =>
          match callPairing (.ofStream a) (.ofStream b) acc (kblock (c.mp.getD 3 0)) a.base b.base mp2 with
          | some f => .error f
          | none => .ok (count, { c with acc := acc, read := true })
    else if mp2 % 32 ≠ 0 ∨ s.ctx.image.foot .acb < mp2 + 32 then .error (8, 0x33, mp2)
    else .ok (count, c)

/-- MCALL (R173). -/
def execMcall (p : Pred) (idx : Fin 64) (pmask : BitVec 8) (s : State) : Out :=
  .next (s.issue (.mcall p idx pmask) p fun s =>
    match s.mcallLook idx pmask with
    | .error f => s.callFails f
    | .ok (count, c) => s.occupy (.call c) count)

/-- The bits of an operand record's body that are reserved (R174). -/
def recordReserved (w : Nat) : Bool := fld w 4 28 != 0 || fld w 52 12 != 0 || fld w 114 14 != 0

/-- Step 3 of R175 on the 64 bytes of a record. STRIDE, DOFF and TSCALE are held to R82 alone, and the body lies at byte 32 whatever DOFF
says (log 62). -/
def recordCheck (l : List Byte) : Option Fail :=
  let h := Hdr.ofNat (ofLe (l.take 32))
  hdrCheck 0 (l.take 32) <|> failIf (h.kind != 4) causeMismatch 0 0x20 <|> failIf (h.rows != 1 || h.cols != 8) causeMismatch 0 0x22 <|>
    failIf (h.efd != 0x3011) causeMismatch 0 0x23 <|> failIf (recordReserved (ofLe (l.drop 32))) causeHdr 0 0x03

/-- What MCALLR finds: a fault, an entry that the RFU must fetch or that a command holds (R352, R354), or the call. -/
inductive RecordLook | fault (f : CallFault) | hold (idx : Nat) | call (count : Nat) (c : Call)

/-- Steps 6 and 7 of R175, with the handle's tile as B. -/
def State.recordCall (s : State) (idx count start body : Nat) (h : Handle) : RecordLook :=
  let st := s.core.st.toList
  match readStream st (fld body 0 4) with
  | .error f => .fault f
  | .ok ta =>
    let mp2 := fld body 64 32
    let hb := Hdr.ofNat h.hdr.toNat
    let mp : List W32 :=
      [BitVec.ofNat 32 (fld body 0 4), 16, BitVec.ofNat 32 mp2, BitVec.ofNat 32 (fld body 112 2), BitVec.ofNat 32 (fld body 128 32),
       BitVec.ofNat 32 (fld body 160 32), BitVec.ofNat 32 (fld body 192 32), BitVec.ofNat 32 (fld body 224 32)]
    match s.callAcc mp2 ta.rows hb.cols with
    | .error f => .fault f
    | .ok acc =>
      match callPairing (.ofStream ta) hb acc (kblock (mp.getD 3 0)) ta.base h.rwb mp2 with
      | some f => .fault f
      | none =>
        .call count { idx := idx, start := start, mp := mp, st := st, handle := some (h.idx, h.hdr, h.rwb), acc := acc, read := true
                      seed := s.core.srseed }

/-- A record that has passed steps 1 to 5 of R175: COUNT, START, the record's body and the handle. -/
structure OpenRecord where
  count : Nat
  start : Nat
  body : Nat
  handle : Handle
  deriving DecidableEq, Repr

/-- Steps 1 to 5 of R175: the record, or what they find. -/
def State.recordOpen (s : State) (idx : Fin 64) (br : Fin 32) : Except RecordLook OpenRecord :=
  match s.callEntry idx true with
  | .error f => .error (.fault f)
  | .ok (count, _, start) =>
    let a := s.b br
    if a % 32 ≠ 0 ∨ s.ctx.image.foot .ab < a + 64 then .error (.fault (8, 0x33, a))
    else if let some x := s.core.firstSpoilt (bufCode .ab) a 64 then .error (.fault (causeEcc, 0, x))
    else
      let l := s.core.ab.bytes a 64
      match recordCheck l with
      | some f => .error (.fault (f.1, f.info, a))
      | none =>
        let body := ofLe (l.drop 32)
        let ix := fld body 32 20
        match s.part s.ctx.pid with
        | none => .error (.fault (causeOperand, 0x41, a))
        | some p =>
          if !bit p.featAccept 3 ∨ p.whtCnt ≤ ix then .error (.fault (causeOperand, 0x41, a))
          else if (p.whtBusy.map fun w => fld w.toNat 0 20) = some ix then .error (.hold ix)
          else
            match p.handles.find? (·.idx == ix) with
            | none => .error (.hold ix)
            | some h =>
              if !(h.valid && h.res && (h.bclass != s.ctx.image.mclass)) then .error (.fault (causeOperand, 0x41, a))
              else if (Nat.xor (fld body 96 16) h.key) &&& h.kmask ≠ 0 then .error (.fault (causeOperand, 0x40, a))
              else .ok { count := count, start := start, body := body, handle := h }

/-- The checks of MCALLR in the order of R175. -/
def State.mcallrLook (s : State) (idx : Fin 64) (br : Fin 32) : RecordLook :=
  match s.recordOpen idx br with
  | .error f => f
  | .ok r => s.recordCall idx.val r.count r.start r.body r.handle

/-- Whether a record call that passes steps 1 to 5 reads an A stream whose producer is in flight, among the classes a test admits (R107,
R175): step 6 is the first to read it. -/
def State.recordInFlight (s : State) (idx : Fin 64) (br : Fin 32) (test : Nat → Bool) : Bool :=
  match s.recordOpen idx br with
  | .ok r => s.producing (.st (Fin.ofNat 16 (fld r.body 0 4))) test
  | .error _ => false

/-- STALL_SHORT 0x51 for the A stream of a record call (R107). -/
def State.recordShort (s : State) (idx : Fin 64) (br : Fin 32) : Bool := s.core.sbmode = 1 && s.recordInFlight idx br (fun c => !s.forced c)

/-- Whether the bundle waits through an interlock rc for the A stream of a record call (R106, R107). -/
def State.recordInterlocked (s : State) (i : Instr) : Bool :=
  match i with
  | .mcallr p idx br =>
    s.core.predTrue p && (s.recordInFlight idx br (fun c => s.forced c) || (s.core.sbmode = 2 && s.recordInFlight idx br (fun _ => true)))
  | _ => false

/-- MCALLR (R174, R175, R352, R354). -/
def execMcallr (p : Pred) (idx : Fin 64) (br : Fin 32) (s : State) : Out :=
  .next (s.issue (.mcallr p idx br) p fun s =>
    if s.recordShort idx br then s.raise causeStall 0x51 s.core.pc
    else
      match s.mcallrLook idx br with
      | .fault f => s.callFails f
      | .hold i => s.holdIssue (.handleFetch i)
      | .call count c => s.occupy (.call c) count)

/-- WHT_ENTRY_FETCH (R352): the device holds an entry that no LOAD has made valid; the bundles that waited for it are due again. -/
def execWhtEntryFetch (pid idx : Nat) (s : State) : Out :=
  let fetched (p : Part) : Part :=
    if p.handles.any (·.idx == idx) then p
    else { p with handles := p.handles ++
      [{ idx := idx, valid := false, res := false, key := 0, kmask := 0, bclass := false, rwb := 0, hdr := 0, tva := 0, tasid := 0 }] }
  let busy := ((s.part pid).bind (·.whtBusy)).map (fun w => fld w.toNat 0 20) == some idx
  let free (c : Isle) : Isle := if c.hold = some (.handleFetch idx) && !busy then { c with hold := none } else c
  let s := s.onPart pid fetched
  let s := { s with others := s.others.map fun r => if r.ctx.pid == pid then { r with isles := r.isles.map free } else r }
  .next (if s.ctx.pid = pid then s.eachIsle fun s => { s with core := free s.core } else s)

end Sys2Proof.Machine
end

