-- ==== Sys2Proof/Machine/VecOps.lean ====
section
/-! DEFINITION. What the words of slot V do to one element (R135-R150), the checks their sources make (R82, R84, R130, R131), and how
a result lands (R134, R154). -/

namespace Sys2Proof.Machine

/-- The result of one element: its code and the event it raised. -/
abbrev Elem := Nat × Option EvKind

/-! ## Checks -/

/-- A source of a reduction (R84, R130, R131, R135): tag, then format. -/
def formatSource (pos : Nat) (t : W32) (ok : Fmt → Bool) : Option Fail :=
  tagCheck pos t false <|> failIf (!ok (tagFmt t)) causeCombo pos 0x13

/-- A source of VQNT or VBSCL (R84, R146, R147): a wide float whose SCL is 0. -/
def plainSource (pos : Nat) (t : W32) : Option Fail := formatSource pos t Fmt.isF <|> failIf (tagScl t) causeCombo pos 0x14

/-- An elementwise source (R84, R130, R131, R135): tag, then format, then SCL and SREG. -/
def arithSource (pos : Nat) (t : W32) (ok : Fmt → Bool) : Option Fail :=
  formatSource pos t ok <|> failIf (tagScl t || tagSreg t) causeCombo pos 0x14

/-- A source of a word whose formats exclude ACC64 alone (R131). -/
def notAcc (pos : Nat) (t : W32) : Option Fail := tagCheck pos t false <|> failIf (tagFmt t).acc causeCombo pos 0x13

/-- Equal lane widths against the first source (R82, R84). -/
def pairLw (pos : Nat) (t u : W32) : Option Fail := failIf (tagLw t != tagLw u) causeMismatch pos 0x24

/-- Equal EFDs against the first source (R82, R84). -/
def pairEfd (pos : Nat) (t u : W32) : Option Fail := failIf (tagEfd t != tagEfd u) causeMismatch pos 0x23

/-- The formats F and I of R136. -/
def isFI (f : Fmt) : Bool := f.isF || f.isI
/-- F, INT16, INT32 and INT64 (R136). -/
def isWideFI (f : Fmt) : Bool := f.wide && !f.acc

/-! ## Elements -/

/-- An integer result: wrapped or clamped, OF where it lies outside the range (R135, R154). -/
def intResult (f : Fmt) (x : Int) (sat : Bool) : Elem :=
  let (lo, hi) := f.range
  if lo ≤ x ∧ x ≤ hi then (wrap x f.width, none) else if sat then clampInt f x else (wrap x f.width, some .of)

/-- An integer code's value. -/
def intOf (f : Fmt) (c : Nat) : Int := if f.signed then sext c f.width else ((c % 2 ^ f.width : Nat) : Int)

/-- A floating result from operands none of which was NaN, or one (R135). -/
def floatResult (f : Fmt) (anyNan : Bool) (x : XVal) (m : RMode) : Elem :=
  match x with
  | .nan => nanResult f (if anyNan then none else some .nv)
  | x => convert f x m

/-- VADD, VSUB and VMUL on one element (R137). -/
def addElem (f : Fmt) (m : RMode) (x y : Nat) : Elem :=
  if f.isInt then intResult f (intOf f x + intOf f y) m.sat
  else
    let a := valueOf f x
    let b := valueOf f y
    floatResult f (a.isNan || b.isNan) (a.add b) m

/-- VSUB on one element (R137). -/
def subElem (f : Fmt) (m : RMode) (x y : Nat) : Elem :=
  if f.isInt then intResult f (intOf f x - intOf f y) m.sat
  else
    let a := valueOf f x
    let b := valueOf f y
    floatResult f (a.isNan || b.isNan) (a.add b.flip) m

/-- VMUL on one element (R137). -/
def mulElem (f : Fmt) (m : RMode) (x y : Nat) : Elem :=
  if f.isInt then intResult f (intOf f x * intOf f y) m.sat
  else
    let a := valueOf f x
    let b := valueOf f y
    floatResult f (a.isNan || b.isNan) (a.mul b) m

/-- VFMA, VFMS and VFNMA on one element (R139): the product's sign and the addend's sign may turn. -/
def fmaElem (f : Fmt) (m : RMode) (negP negC : Bool) (x y z : Nat) : Elem :=
  let a := valueOf f x
  let b := valueOf f y
  let c := valueOf f z
  let p := a.mul b
  let made := p.isNan && !a.isNan && !b.isNan
  let p := if negP then p.flip else p
  let c := if negC then c.flip else c
  floatResult f (!made && (a.isNan || b.isNan || c.isNan)) (p.add c) m

/-- The code of a result that is one of an instruction's operands: W bits (R129), a NaN canonical (R63). -/
def canonical (f : Fmt) (x : Nat) : Nat :=
  if !f.isInt && (valueOf f x).isNan then (f.nanCode).getD 0 else x % 2 ^ f.width

/-- The larger or the smaller of two codes (R138), cut to the element's W bits (R129). -/
def pickElem (f : Fmt) (larger : Bool) (x y : Nat) : Nat :=
  canonical f <| if f.isInt then
    if larger then (if intOf f x < intOf f y then y else x) else (if intOf f y < intOf f x then y else x)
  else
    let a := valueOf f x
    let b := valueOf f y
    if a.isNan then (if b.isNan then (f.nanCode).getD 0 else y)
    else if b.isNan then x
    else
      let less := a.lt b || (!b.lt a && a.neg && !b.neg)
      let more := b.lt a || (!a.lt b && b.neg && !a.neg)
      if larger then (if less then y else x) else (if more then y else x)

/-- VABS on one element (R138). -/
def absElem (f : Fmt) (sat : Bool) (x : Nat) : Elem :=
  if f.isInt then intResult f (intOf f x).natAbs sat
  else if (valueOf f x).isNan then nanResult f none
  else (x % 2 ^ (f.width - 1), none)

/-- VNEG on one element (R138). -/
def negElem (f : Fmt) (sat : Bool) (x : Nat) : Elem :=
  if f.isInt then intResult f (-(intOf f x)) sat
  else if (valueOf f x).isNan then nanResult f none
  else ((x + 2 ^ (f.width - 1)) % 2 ^ f.width, none)

/-- A rounded positive real of given sign, or a special value that R140 lists, as an element. -/
def special (f : Fmt) (x : XVal) (ev : Option EvKind) : Elem :=
  match x with
  | .nan => nanResult f ev
  | .inf n => (f.signBit n + (2 ^ f.ex - 1) * 2 ^ f.man, ev)
  | .fin n _ _ => (f.signBit n, ev)

/-- VDIV (R140). -/
def divElem (f : Fmt) (m : RMode) (x y : Nat) : Elem :=
  match valueOf f x, valueOf f y with
  | .nan, _ => special f .nan none
  | _, .nan => special f .nan none
  | .inf _, .inf _ => special f .nan (some .nv)
  | .inf a, .fin b _ _ => special f (.inf (a != b)) none
  | .fin a _ _, .inf b => special f (.fin (a != b) 0 0) none
  | .fin a ma ea, .fin b mb eb =>
    if mb = 0 then (if ma = 0 then special f .nan (some .nv) else special f (.inf (a != b)) (some .dz))
    else if ma = 0 then special f (.fin (a != b) 0 0) none
    else convertReal f (a != b) (ratio ma mb (ea - eb)) m

/-- VSQRT (R140). -/
def sqrtElem (f : Fmt) (m : RMode) (x : Nat) : Elem :=
  match valueOf f x with
  | .nan => special f .nan none
  | .inf n => if n then special f .nan (some .nv) else special f (.inf false) none
  | .fin n k e =>
    if k = 0 then special f (.fin n 0 0) none
    else if n then special f .nan (some .nv)
    else convertReal f false (rootOf (dyadic k e)) m

/-- VEXP2 (R140). -/
def exp2Elem (f : Fmt) (m : RMode) (x : Nat) : Elem :=
  match valueOf f x with
  | .nan => special f .nan none
  | .inf n => if n then special f (.fin false 0 0) none else special f (.inf false) none
  | .fin n k e => convertReal f false (if k = 0 then dyadic 1 0 else pow2 n k e) m

/-- VLOG2 (R140). -/
def log2Elem (f : Fmt) (m : RMode) (x : Nat) : Elem :=
  match valueOf f x with
  | .nan => special f .nan none
  | .inf n => if n then special f .nan (some .nv) else special f (.inf false) none
  | .fin n k e =>
    if k = 0 then special f (.inf true) (some .dz)
    else if n then special f .nan (some .nv)
    else
      let (neg, g) := log2Of k e
      if k = 2 ^ Nat.log2 k ∧ e + Nat.log2 k = 0 then special f (.fin false 0 0) none else convertReal f neg g m

/-- VRCP (R140). -/
def rcpElem (f : Fmt) (m : RMode) (x : Nat) : Elem :=
  match valueOf f x with
  | .nan => special f .nan none
  | .inf n => special f (.fin n 0 0) none
  | .fin n k e => if k = 0 then special f (.inf n) (some .dz) else convertReal f n (ratio 1 k (-e)) m

/-- VRSQ (R140): the square root of 1/x. -/
def rsqElem (f : Fmt) (m : RMode) (x : Nat) : Elem :=
  match valueOf f x with
  | .nan => special f .nan none
  | .inf n => if n then special f .nan (some .nv) else special f (.fin false 0 0) none
  | .fin n k e =>
    if k = 0 then special f (.inf n) (some .dz)
    else if n then special f .nan (some .nv)
    else convertReal f false (rootOf (ratio 1 k (-e))) m

/-- Whether a VCMP condition holds for two elements (R141). -/
def cmpElem (f : Fmt) (c : VCond) (x y : Nat) : Bool :=
  let a := if f.isInt then XVal.ofInt (intOf f x) 0 else valueOf f x
  let b := if f.isInt then XVal.ofInt (intOf f y) 0 else valueOf f y
  if a.isNan || b.isNan then c == .ne || c == .un
  else
    match c with
    | .eq => a.eqv b
    | .ne => !a.eqv b
    | .lt => a.lt b
    | .le => !b.lt a
    | .gt => b.lt a
    | .ge => !a.lt b
    | .un => false

/-- A shift of a W-bit element (R143). -/
def shiftElem (left arith : Bool) (w x s : Nat) : Nat :=
  if left then (if w ≤ s then 0 else x * 2 ^ s % 2 ^ w)
  else if arith then wrap (sext x w / 2 ^ s) w
  else x / 2 ^ s

/-- convert(x / s) of R147: a zero or NaN scale makes the quotient NaN. -/
def quantElem (f : Fmt) (x s : XVal) (m : RMode) : Elem :=
  match x, s with
  | .nan, _ => convert f .nan m
  | _, .nan => convert f .nan m
  | .inf _, .inf _ => convert f .nan m
  | .inf a, .fin b k _ => convert f (if k = 0 then .nan else .inf (a != b)) m
  | .fin a _ _, .inf b => convert f (.fin (a != b) 0 0) m
  | .fin a ma ea, .fin b mb eb =>
    if mb = 0 then convert f .nan m
    else if ma = 0 then convert f (.fin (a != b) 0 0) m
    else convertReal f (a != b) (ratio ma mb (ea - eb)) m

/-- A positive real rounded upward into a float format (R146): above the largest finite, that value and OF. -/
def scaleUp (f : Fmt) (g : PosReal) : Elem :=
  let emin : Int := 1 - f.bias
  let l := floorLog g
  let q := max l emin - f.man
  let (k, ex) := g (-q)
  let n := if ex then k else k + 1
  let big := match valueOf f f.maxCode with
    | .fin _ mm me => XVal.lt (.fin false mm me) (.fin false n q)
    | _ => true
  if big then (f.maxCode, some .of)
  else if n < 2 ^ f.man then (n, if ex then none else some .uf)
  else
    let ev := if l < emin ∧ ¬ ex then some EvKind.uf else none
    if n = 2 ^ (f.man + 1) then ((q + 1 + f.man + f.bias).toNat * 2 ^ f.man, ev)
    else ((q + f.man + f.bias).toNat * 2 ^ f.man + (n - 2 ^ f.man), ev)

/-- The smallest k with r at most 2^k, for r = a / b times 2^e. -/
def ceilLog (a b : Nat) (e : Int) : Int :=
  let g := ratio a b e
  let l := floorLog g
  let (n, ex) := g (-l)
  if n = 1 ∧ ex then l else l + 1

/-- The largest finite value of a format (R146). -/
def Fmt.largest (f : Fmt) : Nat × Int :=
  if f.isInt then (f.range.2.toNat, 0)
  else
    match valueOf f f.maxCode with
    | .fin _ m e => (m, e)
    | _ => (1, 0)

/-- The code of 1.0 in a scale format (R146). -/
def scaleOne (sfmt : Nat) : Nat := if sfmt = 1 then 127 else if sfmt = 2 then 0x38 else 0x3C00
/-- The NaN code of a scale format (R64, R146). -/
def scaleNan (sfmt : Nat) : Nat := if sfmt = 1 then 0xFF else if sfmt = 2 then 0x7F else 0x7E00

/-- amax / F of R146, as a coefficient, a divisor and an exponent. Where F is 0 the manual states no quotient: a free value (log 54). -/
def blockQuotient (m : Nat) (e : Int) (target : Fmt) : Nat × Nat × Int :=
  let (fm, fe) := target.largest
  if fm = 0 then (let q := Config.overZero m e; (q.1, 1, q.2)) else (m, fm, e - fe)

/-- The scale of one block (R146). -/
def blockScale (sfmt : Nat) (target : Fmt) (xs : List XVal) : Elem :=
  if xs.any (fun x => match x with | .fin _ _ _ => false | _ => true) then (scaleNan sfmt, some .nv)
  else
    let top := xs.foldl (fun a x => if a.lt x.mag then x.mag else a) (.fin false 0 0)
    match top with
    | .fin _ m e =>
      if m = 0 then (scaleOne sfmt, none)
      else
        let (a, b, x) := blockQuotient m e target
        if sfmt = 1 then ((127 + min (max (ceilLog a b x) (-127)) 127).toNat, none)
        else scaleUp (if sfmt = 2 then ue4m3 else fp16) (ratio a b x)
    | _ => (scaleNan sfmt, some .nv)

/-! ## Reductions (R149) -/

/-- One level of the tree: nodes joined in pairs; `w` is the number of elements below each node, j the pair. -/
def treeLevel (comb : Nat → Nat → Nat → Elem) (w : Nat) : Nat → List (Option Nat) → List (Option Nat) × List EvKind
  | _, [] => ([], [])
  | _, [x] => ([x], [])
  | j, x :: y :: t =>
    let (r, evs) := treeLevel comb w (j + 1) t
    match x, y with
    | none, y => (y :: r, evs)
    | x, none => (x :: r, evs)
    | some a, some b =>
      let (c, ev) := comb (2 * j * w) a b
      (some c :: r, ev.toList ++ evs)

/-- The whole tree over at most 2^fuel elements. -/
def tree (comb : Nat → Nat → Nat → Elem) : Nat → Nat → List (Option Nat) → Option Nat × List EvKind
  | 0, _, l => (l.getD 0 none, [])
  | k + 1, w, l =>
    let (r, e1) := treeLevel comb w 0 l
    let (x, e2) := tree comb k (2 * w) r
    (x, e1 ++ e2)

/-! ## Landing -/

/-- The result of VREDADD and the events of its nodes (R149): floats round at every node of the tree, integers once at the root. -/
def redAdd (f : Fmt) (m : Nat → RMode) (sat : Bool) (l : List (Option Nat)) : Nat × List EvKind :=
  if f.isInt then
    let (x, ev) := intResult f ((l.filterMap id).foldl (fun a c => a + intOf f c) 0) sat
    (x, ev.toList)
  else
    let (x, evs) := tree (fun e a b => addElem f (m e) a b) 8 1 l
    (canonical f (x.getD 0), evs)

/-- The result of VREDMAX and VREDMIN (R149): the choice of R138 at every node of the tree. -/
def redPick (f : Fmt) (larger : Bool) (l : List (Option Nat)) : Nat :=
  canonical f (((tree (fun _ a b => (pickElem f larger a b, none)) 8 1 l).1).getD 0)

/-- The events of a result, one of each kind, with the lowest element that raised it (R71, R154). The order of the kinds is the
model's choice (log 55). -/
def eventsOf (l : List (Nat × Option EvKind)) : List (EvKind × Nat) :=
  [EvKind.nv, .of, .uf, .dz].filterMap fun k => (l.find? fun x => x.2 == some k).map fun x => (k, x.1)

/-- A vector result (R134): the elements that are present, the tag, the events owed. -/
def State.landVec (s : State) (cls : Nat) (vd : Fin 32) (lw : Nat) (l : List (Option Elem)) (tag : W32) : State :=
  s.land cls (.vec vd (ofLanes lw (l.map fun x => (x.map (·.1)).getD 0)) (laneMask lw (l.map Option.isSome)) (some tag)
    (eventsOf ((l.zipIdx).map fun (x, e) => (e, x.bind (·.2)))))

/-- The rounding of element e of the present word (R70, R135). -/
def State.rmode (s : State) (rm : Rm) (sat : Bool) (e : Nat) : RMode :=
  { rm := rm, sat := sat
    r := if rm = .sr then srBits s.core.srseed s.ctx.rcycle (s.core.py * s.ctx.image.w + s.core.px) e else 0 }

/-- The enabled elements of a result, computed by position (R133, R135). -/
def State.each (s : State) (vm : Fin 8) (lw : Nat) (f : Nat → Elem) : List (Option Elem) :=
  (List.range (laneCount lw)).map fun e => if enabled (s.core.rdVm vm) lw e then some (f e) else none

/-- A target from b[BT] (R144): tag and part. -/
def State.target (s : State) (bt : Fin 32) : W32 × Nat := ((s.core.rdB bt).truncate 32, fld (s.b bt) 32 2)

/-- The source position of a destination position of a conversion (R144). -/
def partOf (ns nd q e : Nat) : Option Nat :=
  if ns ≤ nd then
    let base := q % (nd / ns) * ns
    if base ≤ e ∧ e < base + ns then some (e - base) else none
  else some (q % (ns / nd) * nd + e)

end Sys2Proof.Machine
end

