-- ==== Sys2Proof/Machine/Reduce.lean ====
section
/-! DEFINITION. Collectives apart from their issue (R306-R308, R357): a participant's contribution, and the reductions. -/

namespace Sys2Proof.Machine

/-- Whether a template is a well-formed collective template (R355, R357). -/
def collTmplOk (t : BitVec 512) : Bool :=
  let f (lo n : Nat) : Nat := fld t.toNat lo n
  f 0 4 == 2 && f 6 2 != 3 && f 8 56 == 0 && f 64 272 == 0 && decide (1 ≤ f 352 16) && decide (f 336 16 ≤ f 352 16)

/-- OP of a collective template. -/
def collOp (t : BitVec 512) : Nat := fld t.toNat 4 2
/-- GID of a collective template. -/
def collGid (t : BitVec 512) : Nat := fld t.toNat 368 32
/-- NPART + 1 of a collective template. -/
def collParts (t : BitVec 512) : Nat := fld t.toNat 352 16 + 1
/-- RANK of a collective template. -/
def collRank (t : BitVec 512) : Nat := fld t.toNat 336 16
/-- PASID of a collective template. -/
def collPasid (t : BitVec 512) : Nat := fld t.toNat 400 16
/-- VA of the contribution's header. -/
def collSrc (t : BitVec 512) (base : Nat) : Nat := wrap (sext (fld t.toNat 464 48) 48 + base) 64
/-- VA of the result's header. -/
def collDst (t : BitVec 512) (base : Nat) : Nat := wrap (sext (fld t.toNat 416 48) 48 + base) 64

/-- The header checks of a participant (R84, R306) in R82's order: the source at position 0 with what its role asks, the result at position 3,
then the pairing. -/
def collHdrFault (op : Nat) (src dst : List Byte) : Option Fail :=
  let a := Hdr.ofNat (ofLe src)
  let b := Hdr.ofNat (ofLe dst)
  let role (pos : Nat) (h : Hdr) : Option Fail := failIf (op != 3 && !((fmtOf h.efd).map (·.wide)).getD false) causeCombo pos 0x13
  let kind := if op = 3 then 3 else 0
  hdrCheck 0 src <|> role 0 a <|> hdrCheck 3 dst <|> role 3 b <|> failIf (a.kind != kind) causeMismatch 0 0x20 <|>
    failIf (b.kind != kind) causeMismatch 3 0x20 <|> failIf (a.rows != b.rows || a.cols != b.cols) causeMismatch 3 0x22 <|>
    failIf (op != 3 && a.efd != b.efd) causeMismatch 3 0x23

/-- A VA fault of an operation, recorded; an uncorrectable error ends the context (R256, R257). -/
def State.vaTrouble (s : State) (o : Op) : VaFault → State
  | .xlate f va => s.recordOp o f.1 f.2 va
  | .ecc va u => s.loseVa va u

/-- A participant joins its collective (R306): it reads and checks its headers and gives its contribution; one that fails its checks
joins as failed, its fault recorded. The context and isle of the operation are in focus. -/
def State.joinColl (s : State) (o : Op) (t : BitVec 512) (base : Nat) : State :=
  let src := collSrc t base
  let dst := collDst t base
  let rd (va n : Nat) := s.readVa s.ctx.asid s.ctx.pid va n
  let c : Contribution :=
    { gid := collGid t, rank := collRank t, npart := collParts t, op := collOp t, failed := true, header := 0, bytes := []
      who := (o.slot, o.px, o.py), origin := some o.seq }
  let join (s : State) (c : Contribution) (h : BitVec 256) : State :=
    ({ s with contribs := s.contribs ++ [c] } : State).setOp { o with kind := .coll t base true c.failed h 0 }
  match rd src 32, rd dst 32 with
  | .error f, _ => join (s.vaTrouble o f) c 0
  | _, .error f => join (s.vaTrouble o f) c 0
  | .ok a, .ok b =>
    match collHdrFault (collOp t) a b with
    | some f => join (s.recordOp o f.1 f.info (if f.2.1 = 3 then dst else src)) c 0
    | none =>
      match rd src (Hdr.ofNat (ofLe a)).dataEnd with
      | .error f => join (s.vaTrouble o f) c 0
      | .ok l =>
        join s { c with failed := false, header := BitVec.ofNat 256 (ofLe a), bytes := l }
          (BitVec.ofNat 256 (ofLe (if collOp t = 3 then b else a)))

/-- The VA of sector n of a buffer's rows, none past the last. -/
def Hdr.rowSector (h : Hdr) (base n : Nat) : Option Nat :=
  let k := ceilDiv (h.rowBits (tagFmt (BitVec.ofNat 32 (h.efd % 2 ^ 24)))) 256
  if n < h.storedRows * k then some (base + h.doff + n / k * h.stride + n % k * 32) else none

/-- The VA of sector n that a participant reads before it joins: both headers, then its contribution's rows. -/
def State.collSector (s : State) (t : BitVec 512) (base : Nat) : Nat → Option Nat
  | 0 => some (collSrc t base)
  | 1 => some (collDst t base)
  | n + 2 =>
    match s.readVa s.ctx.asid s.ctx.pid (collSrc t base) 32, s.readVa s.ctx.asid s.ctx.pid (collDst t base) 32 with
    | .ok a, .ok b => if (collHdrFault (collOp t) a b).isNone then (Hdr.ofNat (ofLe a)).rowSector (collSrc t base) n else none
    | _, _ => none

/-- A participant's step before it joins: one more sector passes its arbiters (R384), or, all of them passed, it joins. -/
def State.collRead (s : State) (o : Op) (t : BitVec 512) (base n : Nat) : State :=
  match s.collSector t base n with
  | none => s.joinColl o t base
  | some va =>
    let s := s.ctxTouch va true false
    match s.ctxRead s.ctx va with
    | .error _ => s.joinColl o t base
    | .ok pl =>
      match s.letIn pl with
      | none => s.holdSector o
      | some u => u.setOp { o with kind := .coll t base false false 0 (n + 1) }

/-! ## Reductions -/

/-- The aligned exact sum of one group of 128 columns (R307): V[j], and whether alignment discarded a nonzero bit. -/
def alignedSum (parts : List AccRow) : List XVal × Bool :=
  let live := parts.filter fun r => r.s.any fun x => x != 0 && x != accNan
  let top := (maxOf (live.map (·.e))).getD 0
  let shifted (r : AccRow) (j : Nat) : Int × Bool :=
    let x := (r.s.getD j 0).toInt
    let d : Int := (2 ^ (top - r.e).toNat : Nat)
    (x / d, x % d != 0)
  let col (j : Nat) : XVal × Bool :=
    if parts.any fun r => r.s.getD j 0 == accNan then (.nan, false)
    else
      let l := live.map fun r => shifted r j
      (.ofInt (l.foldl (fun a x => a + x.1) 0) top, l.any (·.2))
  let l := (List.range 128).map col
  (l.map (·.1), l.any (·.2))

/-- One group of the exact sum (R74, R307): the row, INEXACT_ALIGN, and whether R74 clamps. -/
def exactGroup (parts : List AccRow) : AccRow × Bool × Bool :=
  let v := alignedSum parts
  let p := packRow 0 v.1
  (p.1, v.2, p.2.1 || !p.2.2.isEmpty)

/-- One element of operations 0 to 2 (R308): the exact sum rounded once under RNE or saturated, or the choice of R138. The
elements are their codes' values: R308 says nothing of a TSCALE, and the model leaves it out (log 60). -/
def reduceElem (op : Nat) (f : Fmt) (l : List Nat) : Elem :=
  match op with
  | 0 =>
    if f.isInt then clampInt f (l.foldl (fun a x => a + intOf f x) 0)
    else
      let v := l.map (valueOf f)
      let x := match v with
        | [] => .fin false 0 0
        | y :: t => t.foldl XVal.add y
      floatResult f (v.any XVal.isNan) x { rm := .rne, sat := false, r := 0 }
  | _ =>
    match l with
    | [] => (0, none)
    | y :: t => (t.foldl (pickElem f (op = 1)) y, none)

/-- The lowest row that met an event, for each kind that any row met. -/
def rowEvents (kinds : List EvKind) (l : List (Nat × List EvKind)) : List (EvKind × Nat) :=
  kinds.filterMap fun k => (l.find? fun x => x.2.contains k).map fun x => (k, x.1)

/-- The result of a collective: bytes by offset from the result's header, laid out by that header, and the records owed (R307,
R308, R332). `parts` holds each participant's header and bytes. -/
def reduction (op : Nat) (dst : Hdr) (parts : List (Hdr × Mem)) : List (Nat × List Byte) × List (EvKind × Nat) :=
  if op = 3 then
    let groups := (List.range dst.rows).flatMap fun r => (List.range (ceilDiv dst.cols 128)).map fun g =>
      (r, g, exactGroup (parts.map fun p => readGroup p.2 (accAddr 0 p.1 r g)))
    (groups.map fun x =>
      let row := x.2.2.1
      let sig := (List.range 128).flatMap fun j => toLe 8 (if 128 * x.2.1 + j < dst.cols then (row.s.getD j 0).toNat else 0)
      (accAddr 0 dst x.1 x.2.1, toLe 2 (wrap row.e 16) ++ List.replicate 30 0 ++ sig),
     rowEvents [.inexactAlign, .accovf] (groups.map fun x =>
      (x.1, (if x.2.2.2.1 then [.inexactAlign] else []) ++ (if x.2.2.2.2 then [.accovf] else []))))
  else
    let f := tagFmt (BitVec.ofNat 32 (dst.efd % 2 ^ 24))
    let rows := (List.range dst.rows).map fun r =>
      (r, (List.range dst.cols).map fun c => reduceElem op f (parts.map fun p => p.1.elem f p.2 0 r c))
    (rows.map fun x => (dst.doff + x.1 * dst.stride, x.2.flatMap fun e => toLe (f.width / 8) e.1),
     rowEvents [.nv, .of, .uf] (rows.map fun x => (x.1, x.2.filterMap (·.2))))

end Sys2Proof.Machine
end

