-- ==== Sys2Proof/Machine/Block.lean ====
section
/-! DEFINITION. The save area of a suspended context as it is written (R48, R178, R193, R202, R286, R347): its live state, block by block. What
the manual leaves to an internal layout stays with the device (log 20). -/

namespace Sys2Proof.Machine

/-! ## Live state (R48, R202) -/

/-- The items of the list that a safe point names; none for list 0, which holds everything. -/
abbrev Live := Option (List LiveItem)

/-- The list of a number. -/
def Image.liveList (i : Image) (n : Nat) : Live := if n = 0 then none else some (i.live.getD (n - 1) [])

/-- Whether register or flag n of a KIND is live. -/
def liveReg (l : Live) (kind n : Nat) : Bool :=
  match l with
  | none => true
  | some items => items.any fun x => x.kind == kind && bit x.mask n

/-- The ranges of a footprint that are live: address and length. -/
def liveRanges (l : Live) (kind len : Nat) : List (Nat × Nat) :=
  match l with
  | none => [(0, len)]
  | some items => (items.filter (·.kind == kind)).map fun x => (x.mask, 256 * x.len)

/-- Bytes at an offset of a block. -/
abbrev Chunk := Nat × List Byte

/-- Values of n bytes each from an offset on, where they are live. -/
def chunks (l : Live) (kind off n : Nat) (x : List Nat) : List Chunk :=
  ((List.range x.length).filter (liveReg l kind)).map fun i => (off + n * i, toLe n (x.getD i 0))

/-! ## Stream registers (R155) -/

/-- The 256 bits of a stream register. -/
def StreamReg.toNat (t : StreamReg) : Nat :=
  t.efd + t.geom * 2 ^ 32 + t.kind * 2 ^ 44 + t.rows * 2 ^ 48 + t.cols * 2 ^ 64 + t.stride * 2 ^ 80 + t.doff * 2 ^ 112 + t.soff * 2 ^ 144 +
    t.moff * 2 ^ 160 + t.tscale * 2 ^ 176 + t.base * 2 ^ 192 + t.col * 2 ^ 224 + t.row * 2 ^ 236 + (if t.sph then 2 ^ 251 else 0) +
    bufCode t.buf * 2 ^ 252 + (if t.write then 2 ^ 254 else 0) + (if t.opened then 2 ^ 255 else 0)

/-! ## The register space (R193) -/

/-- A loop-stack entry's 128 bits (R178). -/
def LoopEnt.toNat (e : LoopEnt) : Nat := e.start % 4096 + e.fin % 4096 * 2 ^ 32 + e.count % 2 ^ 32 * 2 ^ 64 + e.index % 2 ^ 32 * 2 ^ 96

/-- A loop-stack entry from its bits. -/
def LoopEnt.ofNat (w : Nat) : LoopEnt := { start := fld w 0 12, fin := fld w 32 12, count := fld w 64 32, index := fld w 96 32 }

/-- The values of a list in n places, zero beyond its end. -/
def padded (n : Nat) (l : List Nat) : List Nat := (List.range n).map fun i => l.getD i 0

/-- Values of n bytes each at an offset. -/
def table (off n : Nat) (x : List Nat) : Chunk := (off, x.flatMap (toLe n))

/-- The word at 0x25B0: stack depths, PC, ACTSET and ACCOVF. -/
def Isle.seqWord (c : Isle) : Nat :=
  c.loops.length % 8 + c.calls.length % 16 * 2 ^ 8 + c.pc % 4096 * 2 ^ 16 + (if c.mat.actset then 2 ^ 28 else 0) + (if c.mat.accovf then 2 ^ 29 else 0)

/-- The register space of the isle in focus (R193). DESIGN CHOICE (log 76): the entries of the call stack stand outermost first, as those of the
loop stack do. -/
def State.regSpace (s : State) (l : Live) : List Chunk :=
  let c := s.core
  let bits := ((List.range 8).map fun i => if liveReg l 2 i && c.rdP (Fin.ofNat 8 i) then 2 ^ i else 0).sum
  let preds := if (List.range 8).any (liveReg l 2) then [(0x22E0, toLe 1 bits ++ List.replicate 31 0)] else []
  chunks l 0 0 8 (c.a.toList.map (·.toNat)) ++ chunks l 1 0x100 8 (c.b.toList.map (·.toNat)) ++
    chunks l 3 0x200 256 (c.v.toList.map (·.toNat)) ++ chunks l 3 0x2200 4 (c.tag.toList.map (·.toNat)) ++
    chunks l 4 0x2280 8 (c.vm.toList.map (·.toNat)) ++ chunks l 6 0x22C0 4 (c.mp.toList.map (·.toNat)) ++
    preds ++ chunks l 5 0x2300 32 (c.st.toList.map (·.toNat)) ++
    chunks l 7 0x2500 2 (c.flag.toList.map (·.toNat)) ++
    [table 0x2540 16 (padded 6 (c.loops.reverse.map (·.toNat))), table 0x25A0 2 (padded 8 c.calls.reverse), (0x25B0, toLe 8 c.seqWord),
      (0x25B8, List.replicate 8 0),
      table 0x25C0 8 ((List.range 48).map fun n => match sysOf n with | some r => (s.sysRead r).toNat | none => 0),
      (0x2740, List.replicate 192 0)]

/-! ## The drain area (R286) -/

/-- An entry of the drain area: REM, the side it reaches the isle by, the word, and the rest of its route. -/
structure Drained where
  rem : Nat
  side : Dir
  word : NWord
  dir1 : Dir
  step1 : Nat
  dir2 : Dir
  step2 : Nat
  deriving DecidableEq, Repr

/-- The 1,280 bits of an entry. -/
def Drained.toNat (d : Drained) : Nat :=
  d.word.data.toNat + d.word.tag.toNat * 2 ^ 1024 + d.rem * 2 ^ 1056 + d.side.ix.val * 2 ^ 1072 + d.dir1.ix.val * 2 ^ 1074 + d.step1 * 2 ^ 1076 +
    d.dir2.ix.val * 2 ^ 1081 + d.step2 * 2 ^ 1083

/-- A direction from its code (R96). -/
def dirOf (n : Nat) : Dir := match n with | 0 => .n | 1 => .e | 2 => .s | _ => .w

/-- An entry from its bits. -/
def Drained.ofNat (w : Nat) : Drained :=
  { rem := fld w 1056 16, side := dirOf (fld w 1072 2), word := { data := BitVec.ofNat 1024 w, tag := BitVec.ofNat 32 (fld w 1024 32) }
    dir1 := dirOf (fld w 1074 2), step1 := fld w 1076 5, dir2 := dirOf (fld w 1081 2), step2 := fld w 1083 5 }

/-- The words that drain at the isle in focus: its full latches, and the words on hops that end at it, in the order of R286. -/
def State.drains (s : State) : List Drained :=
  let latched := [Dir.n, .e, .s, .w].filterMap fun d =>
    (s.core.latch[d.ix]).map fun w => ({ rem := 0, side := d, word := w, dir1 := .n, step1 := 0, dir2 := .n, step2 := 0 } : Drained)
  let hops := (s.ctx.words.filter fun t => decide (s.ctx.rcycle ≤ t.due) && t.dir.step t.x t.y == ((s.core.px : Int), (s.core.py : Int))).map fun t =>
    ({ rem := t.due + 1 - s.ctx.rcycle, side := t.dir.opp, word := t.word, dir1 := t.dir1, step1 := t.left1, dir2 := t.dir2, step2 := t.left2 } :
      Drained)
  (latched ++ hops).sorted fun x y => decide (x.rem < y.rem) || (x.rem == y.rem && decide (x.side.ix ≤ y.side.ix))

/-- A window record (R286). -/
def windowRecord (rc : Nat) : Option FwdWin → Nat
  | some w => if rc ≤ w.last then 1 + w.dout.ix.val * 4 + (w.last + 1 - rc) % 2048 * 2 ^ 16 else 0
  | none => 0

/-- A window from its record; one with no rc remaining is closed. -/
def windowOf (rc w : Nat) : Option FwdWin :=
  if bit w 0 && fld w 16 11 != 0 then some { dout := dirOf (fld w 2 2), last := rc + fld w 16 11 - 1 } else none

/-- The drain area of the isle in focus. -/
def State.drainArea (s : State) : List Chunk :=
  let l := s.drains.take 25
  [(0x2800, toLe 1 l.length ++ List.replicate 7 0), table 0x2808 8 (s.core.fwd.toList.map (windowRecord s.ctx.rcycle)),
    (0x2828, List.replicate 56 0), table 0x2860 160 (l.map (·.toNat))]

/-! ## The rest of the context state (R347) -/

/-- A set's binding in 12 bytes; zero where there is none. -/
def bindingOf : Option Binding → Nat
  | some b => b.acc % 2 ^ 32 + b.mi % 65536 * 2 ^ 32 + b.nj % 65536 * 2 ^ 48 + b.rows % 65536 * 2 ^ 64 + b.cols % 65536 * 2 ^ 80
  | none => 0

/-- A set from its saved binding; its rows are reloaded when the context resumes (R229). -/
def AccSet.ofBinding (w : Nat) : AccSet :=
  if w = 0 then {}
  else { bind := some { acc := fld w 0 32, mi := fld w 32 16, nj := fld w 48 16, rows := fld w 64 16, cols := fld w 80 16 }, committed := true }

/-- The faults recorded against a context as its save area holds them: in an internal layout (R347), which nothing in the model knows
(log 20). -/
def faultBytes (l : List DefFault) : List Byte :=
  let code (d : DefFault) : List Nat :=
    [d.seq, d.px, d.py, d.trap.cause, d.trap.addr, d.trap.info] ++ (match d.flag with | some f => [1, f.1, f.2.1, f.2.2] | none => [0]) ++
      match d.bar with
      | some r => [1, r.toNat]
      | none => [0]
  (List.range 768).map (Config.faultLayout (l.map code))

/-- The parts that are always saved beside register space (R48, R347). -/
def State.fixedParts (s : State) : List Chunk :=
  let c := s.core
  s.drainArea ++
    [(0x3800, c.ballast.bytes 0 4096), table 0x4800 4 (c.btag.toList.map (·.toNat)), table 0x4840 8 (padded 64 (c.statq.map (·.toNat))),
      table 0x4A40 8 (c.rtab.toList.map (·.toNat)),
      (0x4C40, toLe 8 ((if c.mat.actset then 1 else 0) + (if c.mat.accovf then 2 else 0)) ++ toLe 24 (bindingOf c.mat.set0.bind) ++
        toLe 32 (bindingOf c.mat.set1.bind)),
      table 0x4C80 2 ((List.range 64).map fun p => match c.imap.find? (·.1 == p) with | some m => 0x8000 + m.2 % 256 | none => 0),
      (0x4D00, faultBytes s.ctx.faults), table 0x5000 64 (padded 256 (s.ctx.tmpl.map (·.toNat))), table 0x9000 8 (c.ustore.map (·.toNat)), (0xB000, List.replicate 4096 0)]

/-- Length of an isle's block (R347). -/
def Image.blockSize (i : Image) : Nat := 49152 + i.footWb + i.footAb + i.footAcb

/-- Where a footprint begins in a block. -/
def Image.blockFoot (i : Image) : Buf → Nat
  | .wb => 49152
  | .ab => 49152 + i.footWb
  | .acb => 49152 + i.footWb + i.footAb

/-- The live ranges of the footprints. -/
def State.footParts (s : State) (l : Live) : List Chunk :=
  [(8, Buf.wb), (9, .ab), (10, .acb)].flatMap fun k =>
    (liveRanges l k.1 (s.ctx.image.foot k.2)).map fun r => (s.ctx.image.blockFoot k.2 + r.1, (s.core.buf k.2).bytes r.1 r.2)

/-- What is written in the block of the isle in focus. -/
def State.saveBlock (s : State) (l : Live) : List Chunk := s.regSpace l ++ s.fixedParts ++ s.footParts l

/-- Chunks written from a VA on through the context's address space; false where a write fails, an uncorrectable error then counted against its
frame (R257, R331). -/
def State.writeChunks (base : Nat) : List Chunk → State → State × Bool
  | [], s => (s, true)
  | c :: t, s =>
    match s.writeVa s.ctx.asid s.ctx.pid (base + c.1) c.2 with
    | (u, none) => State.writeChunks base t u
    | (u, some f) => (u.blame f.unit, false)

/-- The blocks of a list of isles written. -/
def State.writeBlocks (l : Live) (save : Nat) : List Nat → State → State × Bool
  | [], s => (s, true)
  | n :: ns, s =>
    let t := s.focusIsle n
    match State.writeChunks (save + n * s.ctx.image.blockSize) (t.saveBlock l) t with
    | (u, true) => State.writeBlocks l save ns u
    | (u, false) => (u, false)

/-- Whether every page of the save area is mapped readable and writable (R347). -/
def State.saveMapped (s : State) (save : Nat) : Bool :=
  (List.range (ceilDiv (s.isleCount * s.ctx.image.blockSize) 65536)).all fun p =>
    match s.ctxModify s.ctx (save + 65536 * p) with
    | .ok _ => true
    | .error _ => false

/-- The bytes of a block that have changed, chunk by chunk. -/
def changedBytes (old new : List Chunk) : List Chunk :=
  (old.zip new).flatMap fun x =>
    ((List.range x.2.2.length).filter fun i => x.1.2.getD i 0 != x.2.2.getD i 0).map fun i => (x.2.1 + i, [x.2.2.getD i 0])

/-- What an operation has changed in a suspended context written to its save area, block by block (R42, R344): the contexts before and after
are `old` and the one in focus; false where a write fails. -/
def State.patchBlocks (l : Live) (save : Nat) (old : State) : List Nat → State → State × Bool
  | [], s => (s, true)
  | n :: ns, s =>
    let t := s.focusIsle n
    match State.writeChunks (save + n * s.ctx.image.blockSize) (changedBytes ((old.focusIsle n).saveBlock l) (t.saveBlock l)) t with
    | (u, true) => State.patchBlocks l save old ns u
    | (u, false) => (u, false)

/-- The save area of the context in focus written (R344 step 5); false where it fails. -/
def State.writeSave (s : State) (save : Nat) : State × Bool :=
  let ix := s.isleIx
  if s.saveMapped save then
    let (t, ok) := State.writeBlocks (s.ctx.image.liveList (s.ctx.safeList.getD 0)) save (List.range s.isleCount) s
    (t.focusIsle ix, ok)
  else (s, false)


end Sys2Proof.Machine
end

