-- ==== Sys2Proof/Machine/Copy.lean ====
section
/-! DEFINITION. Slot D and the copy unit (R288-R305, R309, R310, R355, R356): the words, and the events by which an operation
moves a sector, ends, or frees its entry. -/

namespace Sys2Proof.Machine

/-! ## Issue -/

/-- The checks of a VA at issue: bits [63:52], then alignment (R296). -/
def State.vaPassing (s : State) (va al : Nat) (wr : Bool) (k : State → State) : State :=
  if 2 ^ 52 ≤ va then s.raise 9 (xInfo 0x64 0 0 wr false 0) va else if va % al ≠ 0 then s.raise 8 0x36 va else k s

/-- The checks of a barrier reference at issue: its form, and an AB barrier's footprint (R292, R296, R297). -/
def State.refPassing (s : State) (ref : W64) (k : State → State) : State :=
  match barRef ref with
  | none => s.raise causeBarrier 0x80 ref.toNat
  | some (.ab a) => s.bounded .ab a 16 16 k
  | some (.dm _) => k s

/-- The barrier that a BBAR field names; a field of 0 names none (R292). -/
def State.barOf (s : State) (bbar : Fin 32) : Option W64 := if bbar = 0 then none else some (s.core.rdB bbar)

/-- The checks of a BBAR operand that may name no barrier. -/
def State.barPassing (s : State) (bbar : Fin 32) (k : State → State) : State :=
  match s.barOf bbar with
  | none => k s
  | some ref => s.refPassing ref k

/-- The entries that stand in the copy unit of the isle in focus: those of every context of its region at its place (R34, R288). -/
def State.copyEntries (s : State) : Nat :=
  let here := (s.allCtx.filter (·.rid == s.ctx.rid)).map fun (c : Ctx) => c.slot
  (s.ops.filter fun o => o.cu && o.px == s.core.px && o.py == s.core.py && (o.slot == s.ctx.slot || here.contains o.slot)).length

/-- A word that takes a copy-unit entry issues while its isle holds fewer than 48 (R288). -/
def State.entering (s : State) (k : State → State) : State :=
  if 48 ≤ s.copyEntries then s.holdIssue .copyUnitFull else k s

/-- A flag of the isle in focus, as an operation names it. -/
def State.flagHere (s : State) (f : Fin 32) : Option (Nat × Nat × Nat) := some (f.val, s.core.px, s.core.py)

/-- The access rc t + 3 of a slot-D word, counted from its start (R211, R303, R378). -/
def State.dAccess (s : State) : Due := .rc (s.rcOfTick s.startTick + 3)

/-- Bytes moved by XLD and XST (R104 SZ). -/
def xferBytes (sz : Fin 8) : Nat := [8, 32, 256, 1024, 4096].getD sz.val 8

/-- XLD and XST at issue (R298). -/
def State.transfer (s : State) (i : Instr) (p : Pred) (load : Bool) (u : Buf) (bbuf bva f : Fin 32) (sz : Fin 8) : State :=
  s.issue i p fun s =>
    let n := xferBytes sz
    let al := if n = 8 then 8 else 32
    let a := s.b bbuf
    let va := s.b bva
    s.bounded u a n al fun s => s.vaPassing va al (!load) fun s => s.entering fun s =>
      s.newOp (if load then .xld u a va n 0 else .xst u a va n 0) (s.flagHere f) none true

/-- XLD (R298). -/
def execXld (p : Pred) (u : Buf) (bbuf bva f : Fin 32) (sz : Fin 8) (s : State) : Out :=
  .next (s.transfer (.xld p u bbuf bva f sz) p true u bbuf bva f sz)

/-- XST (R298). -/
def execXst (p : Pred) (u : Buf) (bbuf bva f : Fin 32) (sz : Fin 8) (s : State) : Out :=
  .next (s.transfer (.xst p u bbuf bva f sz) p false u bbuf bva f sz)

/-- XATOM (R299). -/
def execXatom (p : Pred) (op : AtomOp) (bva bv f : Fin 32) (s : State) : Out :=
  .next (s.issue (.xatom p op bva bv f) p fun s =>
    let va := s.b bva
    let res := s.b (bv + 1)
    s.vaPassing va 8 true fun s => s.bounded .ab res 8 8 fun s => s.entering fun s =>
      s.newOp (.xatom op va (s.core.rdB bv) res false) (s.flagHere f) none true)

/-- BARINIT, BARARR and BARADD at issue (R295-R297, R302, R303): an AB barrier in the access rc, a device-memory barrier by an
operation. -/
def State.barWord (s : State) (i : Instr) (p : Pred) (bbar : Fin 32) (u : BarUpd) (rel : Bool) : State :=
  s.issue i p fun s =>
    let ref := s.core.rdB bbar
    s.refPassing ref fun s =>
      match barRef ref with
      | some (.ab a) =>
        (match (match u with | .init x => barInitFault true x | _ => none) with
        | some r => s.raise causeBarrier r ref.toNat
        | none => (if rel then s.release else s).fly s.dAccess noClass (.barrier a u (if rel then s.release else s).seq))
      | _ => s.entering fun s => (if rel then s.release else s).newOp (.bar ref u) none (some ref) true

/-- BARINIT (R302). -/
def execBarinit (p : Pred) (bbar bx : Fin 32) (s : State) : Out :=
  .next (s.barWord (.barinit p bbar bx) p bbar (.init (s.core.rdB bx)) false)

/-- BARARR (R303): a release at the barrier's SCOPE. -/
def execBararr (p : Pred) (bbar bx : Fin 32) (s : State) : Out :=
  .next (s.barWord (.bararr p bbar bx) p bbar (.arrive (sext (s.b bx) 48)) true)

/-- BARADD (R303). -/
def execBaradd (p : Pred) (bbar bx : Fin 32) (s : State) : Out :=
  .next (s.barWord (.baradd p bbar bx) p bbar (.add (sext (s.b bx) 48)) false)

/-- PHASE.r (R305). -/
def execPhaseR (p : Pred) (sc : Scope) (s : State) : Out := .next (s.issue (.phaseR p sc) p (·.release))

/-- PHASE.a (R305): every access of the model is performed in its own step, so nothing that the acquire must observe is still
to be seen. -/
def execPhaseA (p : Pred) (sc : Scope) (s : State) : Out := .next (s.issue (.phaseA p sc) p id)

/-- PHASE.ra (R305): the release, then the acquire. -/
def execPhaseRa (p : Pred) (sc : Scope) (s : State) : Out := .next (s.issue (.phaseRa p sc) p (·.release))

/-- XPF (R300): no visible effect. -/
def execXpf (p : Pred) (bva blen : Fin 32) (s : State) : Out := .next (s.issue (.xpf p bva blen) p id)

/-- OVL (R310). -/
def execOvl (p : Pred) (ovlid : BitVec 8) (f : Fin 32) (s : State) : Out :=
  .next (s.issue (.ovl p ovlid f) p fun s =>
    if ovlid = 0 ∨ !(s.ctx.image.ovls.any fun o => o.ovl == ovlid.toNat && (o.isle.getD s.isleIx == s.isleIx))
    then s.raise 1 0x0F s.core.pc
    else s.entering fun s => s.newOp (.ovl ovlid.toNat 0) (s.flagHere f) none true)

/-- LAUNCH (R309): the record is read in the access rc; it is a release. -/
def execLaunch (p : Pred) (bslot brec : Fin 32) (s : State) : Out :=
  .next (s.issue (.launch p bslot brec) p fun s =>
    let a := s.b brec
    let n := s.b bslot
    s.bounded .ab a 128 32 fun s =>
      if (s.partOfSlot n).map (·.pid) ≠ some s.ctx.pid then s.raise 0x0A (xInfo 0x6C 0 0 false false 0) n
      else s.entering fun s =>
        let t := s.release
        (t.newOp (.launch n []) none none true).fly s.dAccess noClass (.access (.record t.seq a) s.dAccess))

/-! ### XCOPY (R301, R355, R356) -/

/-- A field of a template. -/
def tmplFld (t : BitVec 512) (lo n : Nat) : Nat := fld t.toNat lo n

/-- Whether a template is a well-formed copy template (R355). -/
def copyTmplOk (t : BitVec 512) : Bool :=
  tmplFld t 0 4 == 1 && tmplFld t 30 34 == 0 && tmplFld t 64 224 == 0 && tmplFld t 8 2 != 3

/-- HMODE of a copy template. -/
def tmplHmode (t : BitVec 512) : Nat := tmplFld t 8 2
/-- NROWS + 1 of a copy template. -/
def tmplRows (t : BitVec 512) : Nat := tmplFld t 336 16 + 1
/-- Bytes of a row of a copy template. -/
def tmplRowBytes (t : BitVec 512) : Nat := 32 * (tmplFld t 320 16 + 1)
/-- SSTRIDE. -/
def tmplSstride (t : BitVec 512) : Nat := tmplFld t 384 32
/-- DSTRIDE. -/
def tmplDstride (t : BitVec 512) : Nat := tmplFld t 352 32
/-- A signed 48-bit offset with b[bb] added where its BADD bit is set, modulo 2^64. -/
def tmplBase (t : BitVec 512) (lo badd : Nat) (bb : Nat) : Nat :=
  wrap (sext (tmplFld t lo 48) 48 + (if tmplFld t badd 1 = 1 then (bb : Int) else 0)) 64

/-- The template of an index: entries past the image's count are zero (R355). -/
def State.template (s : State) (tidx : BitVec 8) : BitVec 512 := s.ctx.tmpl.getD tidx.toNat 0

/-- The buffer that a SRC or DST code names; 0 is device memory (R355). -/
def sideBuf : Nat → Option Buf
  | 1 => some .wb
  | 2 => some .ab
  | 3 => some .acb
  | _ => none

/-- The checks of one side of a copy at issue (R296, R301): the header where one is taken, and every row. -/
def State.sidePassing (s : State) (side base hdr off stride n bytes : Nat) (wr : Bool) (k : State → State) : State :=
  let first := (base + off) % 2 ^ 64
  match sideBuf side with
  | none => s.vaPassing base 32 wr fun s => if 1 < n ∧ stride % 32 ≠ 0 then s.raise 8 0x36 (first + stride) else k s
  | some u =>
    s.bounded u base hdr 32 fun s => s.bounded u first bytes 32 fun s =>
      if 1 < n then s.bounded u (first + stride) bytes 32 fun s => s.bounded u (first + (n - 1) * stride) bytes 32 k else k s

/-- The source header's DOFF as a copy from a buffer finds it at issue (R356), where R296 checks its rows. DESIGN CHOICE (log 71): the data is
placed by this reading, though the header itself is checked and kept as the first sector finds it. -/
def State.headerDoff (s : State) (t : BitVec 512) (src : Nat) : Option Nat :=
  (sideBuf (tmplFld t 4 2)).map fun u => if tmplHmode t = 0 then 0 else (Hdr.ofNat ((s.core.buf u).rdN src 32)).doff

/-- XCOPY (R301). -/
def execXcopy (p : Pred) (tidx : BitVec 8) (bb bbar : Fin 32) (s : State) : Out :=
  .next (s.issue (.xcopy p tidx bb bbar) p fun s =>
    let t := s.template tidx
    let src := tmplBase t 464 10 (s.b bb)
    let dst := tmplBase t 416 11 (s.b bb)
    let h := tmplHmode t
    let fx := (s.core.px : Int) + sext (tmplFld t 18 6) 6
    let fy := (s.core.py : Int) + sext (tmplFld t 24 6) 6
    if !copyTmplOk t then s.raise 8 0x34 tidx.toNat
    else s.barPassing bbar fun s =>
      let sd := s.headerDoff t src
      s.sidePassing (tmplFld t 4 2) src (if h = 0 then 0 else 32) (sd.getD 0) (tmplSstride t) (tmplRows t) (tmplRowBytes t) false fun s =>
        s.sidePassing (tmplFld t 6 2) dst (if h = 2 then 32 else 0) (if h = 2 then 32 else 0) (tmplDstride t) (tmplRows t)
          (tmplRowBytes t) true fun s =>
          if tmplFld t 12 1 = 1 ∧ !s.inside fx fy then s.raiseOpen 6 0x73
          else s.entering fun s =>
            s.newOp (.xcopy src dst t 0 0 sd none false)
              (if tmplFld t 12 1 = 1 then some (tmplFld t 13 5, fx.toNat, fy.toNat) else none) (s.barOf bbar) true)

/-! ## Sectors -/

/-- What an operation's access of one sector gives: the bytes, a wait for the next interval (R384), a fault, an uncorrectable error. -/
inductive Got | bytes (s : State) (l : List Byte) | held | xfault (f : XFault) (va : Nat) | ecc (a : Nat) (u : ErrUnit)

/-- Bytes written through the fill port of the isle in focus (R206, R290); a whole sector's error code is written anew. -/
def State.fill (s : State) (u : Buf) (a : Nat) (l : List Byte) : State :=
  s.onCore fun c =>
    { c.setBuf u ((c.buf u).wrList (place a l)) with
      poison := if l.length = 32 then c.poison.filter (· != (bufCode u, a / 32)) else c.poison }

/-- n bytes of a side: device memory by VA, or a buffer through the fill port. -/
def State.take (s : State) (side a n : Nat) : Got :=
  match sideBuf side with
  | none =>
    (match s.ctxRead s.ctx a with
    | .error f => .xfault f a
    | .ok pl =>
      if s.poisoned pl then .ecc a pl.unit
      else match s.letIn pl with
        | none => .held
        | some t => .bytes (t.ctxTouch a true false) (s.devRead pl n))
  | some u => if s.core.spoiled u a n then .ecc a s.isleUnit else .bytes s ((s.core.buf u).bytes a n)

/-- Bytes put to a side. -/
def State.put (s : State) (side a : Nat) (l : List Byte) : Got :=
  match sideBuf side with
  | none =>
    (match s.ctxWrite s.ctx a with
    | .error f => .xfault f a
    | .ok pl =>
      if pl.bad then .ecc a pl.unit
      else match s.letIn pl with
      | none => .held
      | some t =>
        let t := (t.ctxTouch a false true).devWrite pl l
        .bytes (if l.length = 32 then { t with dpoison := t.dpoison.filter (· != pl.key / 32) } else t) [])
  | some u => .bytes (s.fill u a l) []

/-- What follows an access of an operation's sector (R256, R257, R384); a sector that its interval does not let pass changes nothing but
the counters of EVSEL 0x14. -/
def State.onGot (s : State) (o : Op) (g : Got) (k : State → List Byte → State) : State :=
  match g with
  | .bytes t l => k t l
  | .held => s.holdSector o
  | .xfault f va => (s.ctxTouch va true false).stopOp o f.1 f.2 va
  | .ecc a u => s.loseVa a u

/-- Bytes that an operation has moved, counted into its barrier as soon as its releases allow (R291); a count that the barrier refuses
stops the operation. -/
def State.moved (s : State) (o : Op) (n : Nat) : State :=
  match o.bar with
  | none => s.setOp o
  | some ref =>
    if s.mayReport o && !s.barHeld ref (.bytes (o.owed + n)) then
      let (t, ok) := s.opBar o ref (.bytes (o.owed + n))
      if ok then t.setOp { o with owed := 0 } else t.dropOp o
    else s.setOp { o with owed := o.owed + n }

/-- A function applied with the context of a launch slot in focus, whether it lives or is suspended (R42): what changes in a suspended one is
written to its save area, and a write that fails there tears it down (R344). -/
def State.withKept (s : State) (n : Nat) (f : State → State) : State :=
  if s.hasCtx n then s.withSlot n f
  else if s.saved.all (·.ctx.slot != n) then s
  else
    let a := s.focusKept n
    let save := ((s.slots.find? (·.n == n)).map fun x => x.record.rdN 0x38 8).getD 0
    let t := f a
    let (u, ok) := State.patchBlocks (a.ctx.image.liveList (a.ctx.safeList.getD 0)) save a (List.range a.isleCount) t
    let v := (u.focusIsle 0).shelve s.ctx.live s.ctx.slot s.isleIx
    if ok then v else v.doom n 0 0x06

/-- The function applied to an operation with its context and isle in focus. -/
def State.withOp (s : State) (q : Nat) (f : Op → State → State) : State :=
  match s.ops.find? (·.seq == q) with
  | none => s
  | some o => s.withKept o.slot fun s => s.atIsle o.px o.py (f o)

/-- The header that a copy writes at its destination (R356). -/
def rewrittenHdr (t : BitVec 512) (h : Hdr) : Hdr :=
  { h with
    rows := if tmplFld t 304 16 = 0 then h.rows else tmplFld t 304 16
    cols := if tmplFld t 288 16 = 0 then h.cols else tmplFld t 288 16
    stride := tmplDstride t, doff := 32, soff := 0, moff := 0 }

/-- The checks of a copy on its source header, and on the header it is to write (R85, R356). -/
def copyHdrFault (t : BitVec 512) (l : List Byte) : Option Fail :=
  let h := Hdr.ofNat (ofLe l)
  hdrCheck 0 l <|>
    (if tmplHmode t = 2 then failIf (h.sfmt != 0 || h.sparse != 0) causeCombo 0 0x14 <|> (rewrittenHdr t h).unwritable else none)

/-- One sector of a copy (R301, R356): the header's check, then the data row by row, then the header rewritten. -/
def State.copyStep (s : State) (o : Op) (src dst : Nat) (t : BitVec 512) (row col : Nat) (sd : Option Nat) (hdr : Option (BitVec 256))
    (hdrDone : Bool) : State :=
  let h := tmplHmode t
  let ss := tmplFld t 4 2
  let ds := tmplFld t 6 2
  if h ≠ 0 ∧ hdr = none then
    s.onGot o (s.take ss src 32) fun s l =>
      match copyHdrFault t l with
      | some f => s.stopOp o f.1 f.info (if f.2.1 = 3 then dst else src)
      | none => s.setOp { o with kind := .xcopy src dst t row col sd (some (BitVec.ofNat 256 (ofLe l))) hdrDone }
  else if row < tmplRows t then
    let off := match sd with
      | some d => d
      | none => if h = 0 then 0 else (Hdr.ofNat ((hdr.getD 0).toNat)).doff
    let from_ := (src + off + row * tmplSstride t + col) % 2 ^ 64
    let to_ := (dst + (if h = 2 then 32 else 0) + row * tmplDstride t + col) % 2 ^ 64
    let read : Got := match o.got with
      | some l => .bytes s l
      | none => s.take ss from_ 32
    s.onGot o read fun t1 l => t1.onGot { o with got := some l } (t1.put ds to_ l) fun t2 _ =>
      let (row', col') := if col + 32 < tmplRowBytes t then (row, col + 32) else (row + 1, 0)
      t2.moved { o with kind := .xcopy src dst t row' col' sd hdr hdrDone, finished := decide (row' = tmplRows t ∧ h ≠ 2), got := none } 32
  else
    s.onGot o (s.put ds dst (rewrittenHdr t (Hdr.ofNat ((hdr.getD 0).toNat))).image) fun s _ =>
      s.moved { o with kind := .xcopy src dst t row col sd hdr true, finished := true } 32

/-- One sector of an operation, its context and isle in focus (R289, R291). -/
def State.sectorStep (s : State) (o : Op) : State :=
  if o.finished then s
  else
    match o.kind with
    | .xld u a va n k =>
      s.onGot o (s.take 0 (va + k) (min 32 (n - k))) fun s l =>
        (s.fill u (a + k) l).setOp { o with kind := .xld u a va n (k + 32), finished := decide (n ≤ k + 32) }
    | .xst u a va n k =>
      s.onGot o (s.take (bufCode u + 1) (a + k) (min 32 (n - k))) fun s l => s.onGot o (s.put 0 (va + k) l) fun s _ =>
        s.setOp { o with kind := .xst u a va n (k + 32), finished := decide (n ≤ k + 32) }
    | .xatom op va y res _ =>
      (match s.ctxModify s.ctx va with
      | .error f => (s.ctxTouch va true true).stopOp o f.1 f.2 va
      | .ok pl =>
        if s.poisoned pl then s.loseVa va pl.unit
        else match s.letIn pl with
          | none => s.holdSector o
          | some t =>
            let old := BitVec.ofNat 64 (ofLe (s.devRead pl 8))
            (((t.ctxTouch va true true).devWrite pl (toLe 8 (atomic op old y).toNat)).fill .ab res (toLe 8 old.toNat)).setOp
              { o with kind := .xatom op va y res true, finished := true })
    | .xcopy src dst t row col sd hdr d => s.copyStep o src dst t row col sd hdr d
    | .coll t base joined _ _ n => if joined then s else s.collRead o t base n
    | .launch _ _ => s
    | .ovl _ _ => s
    | .bar _ _ => s
    | .kpost _ _ => s

/-- ASYNC_SECTOR_TRANSFER (R291). An operation accesses device memory once the releases that its context issued before it are performed: what
the context accessed before them is then ordered before it (R264-R267). -/
def execAsyncSectorTransfer (op : Nat) (s : State) : Out :=
  .next (s.withOp op fun o s => if o.usesDm && !s.mayReport o then s else s.sectorStep { o with held := false })

/-- The end of an operation that moves bytes or updates a barrier (R291): what its barrier has still to be told, then its flag. -/
def State.finishOp (o : Op) (s : State) : State :=
  let held := !s.mayReport o
  match o.kind with
  | .bar ref u =>
    let free := match u with
      | .init _ => true
      | _ => false
    if held && !free then s else if s.barHeld ref u then s.holdSector o else let (t, _) := s.opBar o ref u; t.dropOp o
  | .coll _ _ _ _ _ _ => s
  | .launch _ _ => s
  | .ovl _ _ => s
  | .kpost _ _ => s
  | _ =>
    if held || !o.finished then s
    else
      match o.bar with
      | none => (s.opPost o).dropOp o
      | some ref =>
        if o.owed ≠ 0 ∧ s.barHeld ref (.bytes o.owed) then s.holdSector o
        else
        let (t, ok) := if o.owed = 0 then (s, true) else s.opBar o ref (.bytes o.owed)
        if ok then (t.opPost o).dropOp o else t.dropOp o

/-! ## Overlays (R203, R226, R310) -/

/-- The pages that an overlay takes; page 0 is the trap page, which only overlay 0 loads (R226). -/
def OvlEnt.pages (e : OvlEnt) : List Nat :=
  ((List.range ((e.first + e.count - 1) / 64 - e.first / 64 + 1)).map (· + e.first / 64)).filter fun p => e.ovl == 0 || p != 0

/-- Bundles from bytes, the first at an index. -/
def bundlesOf (ix : Nat) : Nat → List Byte → List (Nat × BitVec 256)
  | 0, _ => []
  | n + 1, l => (ix, BitVec.ofNat 256 (ofLe (l.take 32))) :: bundlesOf (ix + 1) n (l.drop 32)

/-- An overlay's pages mapped on an isle with its bundles (R226): what those pages held is gone. -/
def Isle.mapOverlay (c : Isle) (e : OvlEnt) (code : List (Nat × BitVec 256)) : Isle :=
  { c with
    imem := c.imem.filter (fun b => !e.pages.contains (b.1 / 64)) ++ code.filter fun b => e.pages.contains (b.1 / 64)
    imap := c.imap.filter (fun m => !e.pages.contains m.1) ++ e.pages.map fun p => (p, e.ovl) }

/-- An overlay as it stands tagged on the isle in focus (R53). -/
def State.keptOverlay (s : State) (e : OvlEnt) : Option Tagged :=
  s.here.bind fun h =>
    s.overlays.find? fun t => (t.die, t.col, t.row) == h && t.image == s.ctx.image.id && t.ovl == e.ovl && t.isle == e.isle

/-- The bundles of an overlay for the isle in focus: those kept tagged on it (R53), else those of the image, read through the context's
ASID. -/
def State.overlayCode (s : State) (e : OvlEnt) : Except VaFault (List (Nat × BitVec 256)) :=
  match s.keptOverlay e with
  | some t => .ok t.code
  | none => (s.readVa s.ctx.asid s.ctx.pid (s.ctx.image.va + e.code) (32 * e.count)).map fun l => bundlesOf e.first e.count l

/-- The frames that an overlay's bundles are read from, zeroed where that is due (R258). -/
def State.overlayTouch (s : State) (e : OvlEnt) : State := s.touchVa s.ctx.asid s.ctx.pid (s.ctx.image.va + e.code) (32 * e.count)

/-- The sectors that an overlay's bundles are read from: none where the isle has kept them. -/
def State.overlaySectors (s : State) (e : OvlEnt) : List Place :=
  if s.keptOverlay e |>.isSome then []
  else (List.range e.count).filterMap fun k => (s.ctxRead s.ctx (s.ctx.image.va + e.code + 32 * k)).toOption

/-- OVL_COMPLETE (R310): once every sector of its bundles has passed its arbiters (R384), the map switches in the same step as the post. -/
def State.ovlEnd (o : Op) (s : State) : State :=
  match o.kind with
  | .ovl id past =>
    if !s.mayReport o then s
    else
      (match s.ctx.image.ovls.find? (fun e => e.ovl == id && (e.isle.getD s.isleIx == s.isleIx)) with
      | none => s
      | some e =>
        match s.overlayCode e with
        | .error (.xlate f va) => (s.overlayTouch e).stopOp o f.1 f.2 va
        | .error (.ecc va u) => (s.overlayTouch e).loseVa va u
        | .ok code =>
          let todo := (s.overlaySectors e).drop past
          let (t, k) := s.pass todo
          let o' := { o with kind := .ovl id (past + k), held := o.held && k = 0 }
          if k = todo.length then ((({ t with core := t.core.mapOverlay e code } : State).overlayTouch e).opPost o).dropOp o
          else (t.setOp o').holdSector o')
  | _ => s

/-- OVL_COMPLETE (R310). -/
def execOvlComplete (op : Nat) (s : State) : Out := .next (s.withOp op State.ovlEnd)

/-! ## Held bundles -/

/-- Whether what holds the isle's bundle has passed (R288, R312, R372). -/
def State.holdOver (s : State) : Bool :=
  match s.core.hold with
  | some .copyUnitFull => decide (s.copyEntries < 48)
  | some (.kiteQuota k) =>
    (match (if k = 0 then s.ctx.kctx0 else s.ctx.kctx1), s.socks[k]? with
    | some c, some x =>
      decide ((x.packets.filter fun p => p.kctx == c).length + (s.ops.filter fun o =>
        o.slot == s.ctx.slot && (match o.kind with | .kpost j _ => j == k | _ => false)).length < 16)
    | _, _ => true)
  | some .releasePending => s.ctx.releases.isEmpty
  | some (.handleFetch _) => false
  | some (.phaseRead _) => false
  | some (.phaseWait _) => false
  | none => true

/-- COPY_UNIT_ENTRY_FREE (R288): the bundles of the context in focus whose hold has passed are due again. -/
def execCopyUnitEntryFree (s : State) : Out :=
  .next (s.eachIsle fun s => if s.holdOver then { s with core := { s.core with hold := none } } else s)

/-- BARRIER_PHASE_READ (R375): each isle of the context that waits for this barrier's value holds it and issues its bundle, once its read has
passed the arbiters (R384). A walk that fails is found by the wait itself. -/
def execBarrierPhaseRead (slot va : Nat) (s : State) : Out :=
  .next (s.withSlot slot fun s => s.eachIsle fun s =>
    if s.core.hold = some (.phaseRead va) ∨ s.core.hold = some (.phaseWait va) then
      match s.ctxRead s.ctx va with
      | .error _ => let t := s.ctxTouch va true false; { t with core := { t.core with hold := none } }
      | .ok pl =>
        match (s.ctxTouch va true false).letIn pl with
        | some t => { t with core := { t.core.holdPhase va pl.key with hold := none } }
        | none =>
          (if s.core.hold = some (.phaseRead va) then { s with core := { s.core.count 0x14 1 with hold := some (.phaseWait va) } }
          else s).await (.barrierPhaseRead slot va)
    else s)

end Sys2Proof.Machine
end

