-- ==== Sys2Proof/Machine/Collective.lean ====
section
/-! DEFINITION. The word COLL, a collective's completion on a participant, and the transfers of peer devices (R254, R306-R308, R357,
R362). -/

namespace Sys2Proof.Machine

/-- Whether a partition holds a fabric group (R361). -/
def Part.holdsGroup (p : Part) (gid : Nat) : Bool := p.gidBase ≤ gid && decide (gid < p.gidBase + p.gidCnt)

/-- Whether a group serves the context in focus (R357, R362): granted, and without FABRIC all on this module. -/
def State.groupServes (s : State) (gid : Nat) : Bool :=
  match s.part s.ctx.pid with
  | some p => p.holdsGroup gid && (bit p.featAccept 1 || !Config.groupSpans gid)
  | none => false

/-- COLL (R306, R357): the template with its RANK, the barrier reference, then the VAs of both headers (R79, R296). -/
def execColl (p : Pred) (tidx : BitVec 8) (bb bbar : Fin 32) (s : State) : Out :=
  .next (s.issue (.coll p tidx bb bbar) p fun s =>
    let t := s.template tidx
    let base := s.b bb
    if !(collTmplOk t && s.groupServes (collGid t)) then s.raise 8 0x34 tidx.toNat
    else s.barPassing bbar fun s => s.vaPassing (collSrc t base) 32 false fun s => s.vaPassing (collDst t base) 32 true fun s =>
      s.entering fun s => s.newOp (.coll t base false false 0 0) none (s.barOf bbar) true)

/-- The collective that is next to complete on a group: the oldest contributions, one of each participant, as many as the first of
them expects; none while some are missing. -/
def nextColl (gid : Nat) (l : List Contribution) : Option (List Contribution) :=
  let mine := l.filter (·.gid == gid)
  match mine with
  | [] => none
  | c :: _ =>
    let got := mine.foldl (fun acc x => if acc.length < c.npart ∧ !acc.any (·.who == x.who) then acc ++ [x] else acc) ([] : List Contribution)
    if got.length < c.npart then none else some got

/-- Whether participants agree (R297 reason 0x86): distinct ranks, one operation, shape and EFD. -/
def collAgrees (g : List Contribution) : Bool :=
  match g with
  | [] => true
  | c :: t =>
    let key (x : Contribution) := let h := Hdr.ofNat x.header.toNat; (x.op, x.npart, h.rows, h.cols, h.efd)
    (g.map (·.rank)).Nodup && t.all fun x => decide (key x = key c)

/-- A function applied on the operation behind a contribution of this device, with its context and isle in focus. -/
def State.onMember (s : State) (c : Contribution) (f : Op → State → State) : State :=
  match c.origin with
  | some q => s.withOp q f
  | none => s

/-- A participant of a collective that fails (R306): 0x86 for one whose own checks passed; its operation ends. -/
def failMember (failed : Bool) (o : Op) (s : State) : State :=
  (if failed then s else s.recordOp o causeBarrier 0x86 ((o.bar.getD 0).toNat)).dropOp o

/-- The VA of the next sector of a participant's result that has not passed its arbiters: for operations 0 to 2 the header first. -/
def Op.resultSector (o : Op) : Option Nat :=
  match o.kind with
  | .coll t base true _ dst n =>
    let h := Hdr.ofNat dst.toNat
    if collOp t = 3 then h.rowSector (collDst t base) n
    else if n = 0 then some (collDst t base)
    else h.rowSector (collDst t base) (n - 1)
  | _ => none

/-- The place of that sector, for a write through PASID; none where there is none, or where the write will meet a fault. -/
def State.resultPlace (s : State) (o : Op) : Option Place :=
  match o.kind, o.resultSector with
  | .coll t _ _ _ _ _, some va =>
    (match s.translate (collPasid t) s.ctx.pid (.ctx va false true) with
    | .ok pl => some pl
    | .error _ => none)
  | _, _ => none

/-- One more sector of a participant's result passes its arbiters (R384). -/
def payResult (o : Op) (s : State) : State :=
  match o.kind, s.resultPlace o with
  | .coll t base j f dst n, some pl =>
    (match s.letIn pl with
    | none => s.holdSector o
    | some u => u.setOp { o with kind := .coll t base j f dst (n + 1), held := false })
  | _, _ => s

/-- What a collective writes for a participant (R306-R308): the chunks from the result's header on, and its records. Operations 0 to 2 give it
the header of its first buffer, its contribution (R84, log 67). -/
def collResult (g : List Contribution) (t : BitVec 512) (dst : BitVec 256) : List (Nat × List Byte) × List (EvKind × Nat) :=
  let parts := g.map fun c => (Hdr.ofNat c.header.toNat, Mem.wrList [] (place 0 c.bytes))
  let r := reduction (collOp t) (Hdr.ofNat dst.toNat) parts
  (if collOp t = 3 then r.1 else (0, toLe 32 dst.toNat) :: r.1, r.2)

/-- A participant's result written through PASID, and the fault that stops it. -/
def State.writeResult (s : State) (g : List Contribution) (o : Op) : State × Option VaFault :=
  match o.kind with
  | .coll t base _ _ dst _ =>
    (collResult g t dst).1.foldl (fun acc x =>
      match acc.2 with
      | some _ => acc
      | none => acc.1.writeVa (collPasid t) s.ctx.pid ((collDst t base + x.1) % 2 ^ 64) x.2) (s, none)
  | _ => (s, none)

/-- A participant receives the result (R306-R308, R357): its buffer is written, and its records wait for the wait that covers the collective
(R332). -/
def giveResult (g : List Contribution) (o : Op) (s : State) : State :=
  match o.kind with
  | .coll t _ _ _ dst _ =>
    let recs := (collResult g t dst).2.map fun e =>
      ({ ref := o.bar.getD 0, seq := o.seq, phase := none, record := statRecord e.1 7 o.bundle 0 e.2 o.rcyc } : CollRec)
    ((s.writeResult g o).1.onCore fun c => { c with collRecs := c.collRecs ++ recs }).setOp { o with finished := true, held := false }
  | _ => s

/-- A participant whose result cannot be written (R306): its own fault, or 0x86 where another's is the one that stops the collective. -/
def failResult (g : List Contribution) (o : Op) (s : State) : State :=
  match (s.writeResult g o).2 with
  | some f => (s.vaTrouble o f).dropOp o
  | none => failMember false o s

/-- The phase of a barrier as it stands, the isle of its operation in focus. -/
def State.phaseNow (s : State) (ref : W64) : Option Nat :=
  match barRef ref with
  | some (.ab a) => some (BarW.ofNat (s.core.ab.rdN a 16)).phase
  | some (.dm va) =>
    (match s.ctxRead s.ctx va with
    | .ok pl => some (BarW.ofNat (ofLe (s.devRead pl 16))).phase
    | .error _ => none)
  | none => none

/-- The arrival of a participant whose result is written, once its releases allow (R291, R306): its records belong to the phase in which it
counts. -/
def collArrive (o : Op) (s : State) : State :=
  if !s.mayReport o then s
  else
    match o.bar with
    | none => s.dropOp o
    | some ref =>
      let u : BarUpd := match barRef ref with
        | some (.ab _) => .arrive 0
        | _ => .coll
      if s.barHeld ref u then s.holdSector o
      else
        let p := s.phaseNow ref
        ((s.opBar o ref u).1.dropOp o).onCore fun c =>
          { c with collRecs := c.collRecs.map fun r => if r.seq == o.seq then { r with phase := p } else r }

/-- A function applied for each of a list of participants. -/
def State.members (f : Contribution → Op → State → State) : List Contribution → State → State
  | [], s => s
  | c :: t, s => State.members f t (s.onMember c (f c))

/-- The participant of this device whose result's next sector has still to pass its arbiters. -/
def State.unpaid (s : State) (g : List Contribution) : Option Contribution :=
  g.find? fun c => match c.origin.bind fun q => s.ops.find? (·.seq == q) with
    | some o => ((s.focusKept o.slot).resultPlace o).isSome
    | none => false

/-- Whether the result of every participant of this device can be written. -/
def State.writable (s : State) (g : List Contribution) : Bool :=
  g.all fun c => match c.origin.bind fun q => s.ops.find? (·.seq == q) with
    | some o => ((s.focusKept o.slot).writeResult g o).2.isNone
    | none => true

/-- COLL_COMPLETE (R306): where every contribution has arrived and every sector of the results has passed its arbiters, the results of this
device's participants are written in one step, or none where one of them cannot be; a participant's arrival follows in this event where its
result stands. -/
def State.collEnd (op : Nat) (s : State) : State :=
  match s.ops.find? (·.seq == op) with
  | none => s
  | some o =>
    match o.kind with
    | .coll t _ true _ _ _ =>
      if o.finished then s.withOp op collArrive
      else
        (match nextColl (collGid t) s.contribs with
        | none => s
        | some g =>
          if !g.any (·.origin == some op) then s
          else
            let t := { s with contribs := s.contribs.filter fun c => !g.contains c }
            if g.any (·.failed) || !collAgrees g then State.members (fun c => failMember c.failed) g t
            else match s.unpaid g with
              | some c => s.onMember c payResult
              | none =>
                if !s.writable g then State.members (fun _ => failResult g) g t
                else (State.members (fun _ => giveResult g) g t).withOp op fun o s => if o.finished then collArrive o s else s)
    | _ => s

/-- COLL_COMPLETE (R306). -/
def execCollComplete (op : Nat) (s : State) : Out := .next (s.collEnd op)

/-- The partition that owns a fabric link (R22). -/
def State.ownerOfLink (s : State) (k : Nat) : Option Part := s.parts.find? fun p => bit p.links k

/-- PEER_ACCESS (R254, R306): a peer device's transfer of a collective. One that names a group or an ASID not granted to the link's
partition is a breach (R397). The target buffer is translated here through both stages; a fault is recorded for the participant whose
template names that ASID. -/
def execPeerAccess (r : PeerReq) (s : State) : Out :=
  .next (if s.frozenLinks.contains r.link || s.badLinks.contains r.link then s
    else
      match s.ownerOfLink r.link with
      | none => { s with agenda := .fabricLinkBreach r.link :: s.agenda }
      | some p =>
        if !(p.holdsGroup r.gid && bit p.featAccept 1 && decide (p.asidBase ≤ r.asid ∧ r.asid < p.asidBase + p.asidCnt)) then
          { s with agenda := .fabricLinkBreach r.link :: s.agenda }
        else
          let c : Contribution :=
            { gid := r.gid, rank := r.rank, npart := r.npart, op := r.op, failed := r.failed, header := r.header, bytes := r.bytes
              who := (4096 + r.link, r.rank, r.src), origin := none }
          let t := ({ s with contribs := s.contribs ++ [c] } : State).touch r.asid p.pid (.ctx r.va false true)
          let told (f : Op → State → State) : State :=
            match s.ops.find? (fun o => match o.kind with | .coll k _ _ _ _ _ => collGid k == r.gid && collPasid k == r.asid | _ => false) with
            | some o => t.withOp o.seq f
            | none => t
          match s.translate r.asid p.pid (.ctx r.va false true) with
          | .ok pl => if pl.bad then told fun _ s => s.loseVa r.va pl.unit else t
          | .error f => told fun o s => s.recordOp o f.1 f.2 r.va)

end Sys2Proof.Machine
end

