-- ==== Sys2Proof/Machine/Notify.lean ====
section
/-! DEFINITION. How the device speaks to the host: a function's state, its MSI-X vectors, its error bit, and the event ring of a
partition's physical function (R388, R389, R393, R394). -/

namespace Sys2Proof.Machine

/-- A function by number; one that is not listed stands as after module reset. -/
def State.fn (s : State) (n : Nat) : Fn := (s.fns.find? (·.n == n)).getD { n := n }

/-- A function changed. -/
def State.onFn (s : State) (n : Nat) (f : Fn → Fn) : State :=
  if s.fns.any (·.n == n) then { s with fns := s.fns.map fun x => if x.n == n then f x else x }
  else { s with fns := s.fns ++ [f { n := n }] }

/-- A physical function (R388). -/
def isPf (n : Nat) : Bool := n == 0 || n == 64

/-- A vector's signal at a function: sent, or kept pending while the vector is masked or the function frozen (R393, R397). -/
def Fn.signal (f : Fn) (v : Fin 4) : Fn :=
  if f.frozen || f.mask[v] then { f with pend := f.pend.set v true }
  else { f with msix := f.msix.set v (f.msix[v] + 1), pend := f.pend.set v false }

/-- A message on a vector of a function. -/
def State.message (s : State) (n : Nat) (v : Fin 4) : State := s.onFn n (·.signal v)

/-- A write or command of a function was dropped (R389): vector 3 follows where DROP sets. -/
def State.dropped (s : State) (n : Nat) : State :=
  if (s.fn n).drop then s else (s.onFn n fun f => { f with drop := true }).message n 3

/-- A completion signalled to a function on vector 0 (R346, R393): with a coalescing time the first pending one starts the timer. -/
def State.completion (s : State) (n : Nat) (coal : Nat) : State :=
  if coal = 0 then s.message n 0 else if (s.fn n).coalescing then s
  else s.onFn n fun f => { f with coalescing := true, coalAt := s.now + coal * 2000 }

/-- Whether a signal of a vector is pending and may be sent (R393, R397). -/
def Fn.sendable (f : Fn) (v : Fin 4) : Bool := f.pend[v] && !f.mask[v] && !f.frozen

/-- The pending signals sent whose vector is not masked (R393). -/
def Fn.sendPending (f : Fn) : Fn :=
  { f with
    pend := Vector.ofFn fun v : Fin 4 => f.pend[v] && !f.sendable v
    msix := Vector.ofFn fun v : Fin 4 => f.msix[v] + (if f.sendable v then 1 else 0) }

/-- MSIX_COALESCE_TIMER (R393): one message covers every completion that came in meanwhile. With it go the signals that were pending on a vector
since unmasked. -/
def execMsixCoalesceTimer (fn : Nat) (s : State) : Out :=
  let t := if (s.fn fn).coalescing ∧ (s.fn fn).coalAt ≤ s.now then (s.onFn fn fun f => { f with coalescing := false }).message fn 0 else s
  .next (if [0, 1, 2, 3].any (t.fn fn).sendable then t.onFn fn Fn.sendPending else t)

/-! ## Host requests that wait (R264, R385) -/

/-- What waits at the arbiters for the next interval, without some of it. -/
def State.unwait (s : State) (p : Instr → Bool) : State := { s with waits := s.waits.filter fun i => !p i }

/-- Whether a host write waits, of those that hold of a test. -/
def State.hostWrites (s : State) (p : HostReq → Bool) : Bool := s.hostWaits.any fun w => w.1.write.isSome && p w.1

/-- The host port of a function (R388). -/
def portOf (fn : Nat) : Nat := fn / 64

/-- Whether an event is a request of one of some functions that may stand in the queue of its port. -/
def hostEvent (p : Nat → Bool) : Instr → Bool
  | .hostMemoryRequest r => p r.fn
  | .slotSet fn _ _ => p fn
  | .suspend fn _ => p fn
  | .resume fn _ => p fn
  | .kill fn _ => p fn
  | .hostRecordWrite fn _ _ _ => p fn
  | _ => false

/-- A write to a launch slot goes behind the host writes that wait on its port: the state word's write releases them (R264). -/
def State.inOrder (s : State) (fn : Nat) (i : Instr) (k : State → State) : State :=
  if !(s.fn fn).frozen && s.hostWrites fun r => portOf r.fn == portOf fn then { s with waits := s.waits ++ [i] } else k s

/-- What waits of a function's requests is refused when the function is frozen (R397). -/
def State.refuseWaits (s : State) (fn : Nat) : State :=
  ({ s with hostWaits := s.hostWaits.filter (·.1.fn != fn) } : State).unwait (hostEvent (· == fn))

/-- An event entry (R394). -/
def eventEntry (kind pid : Nat) (payload : List Byte) : List Byte :=
  toLe 1 kind ++ toLe 1 pid ++ List.replicate 6 0 ++ (payload ++ List.replicate 24 0).take 24

/-- An event of a partition written to the ring of its physical function, with vector 1 (R393, R394). -/
def State.event (s : State) (pid kind : Nat) (payload : List Byte) : State :=
  match s.part pid with
  | none => s
  | some p =>
    let f := s.fn p.pf
    if f.evcons + 64 ≤ f.evprod then s.onFn p.pf fun f => { f with evlost := true }
    else
      (s.onFn p.pf fun f =>
        { f with
          evring := ((f.evring ++ List.replicate 64 []).take 64).set (f.evprod % 64) (eventEntry kind pid payload)
          evprod := f.evprod + 1 }).message p.pf 1

/-- A function applied for every partition of a list. -/
def State.eachPart (f : Part → State → State) : List Part → State → State
  | [], s => s
  | p :: t, s => State.eachPart f t (f p s)

end Sys2Proof.Machine
end

