-- ==== Sys2Proof/Machine/Kite.lean ====
section
/-! DEFINITION. The kite sockets (R311-R320): KPOST and KSTAT, the end of an operation in flight, and what a kite does. -/

namespace Sys2Proof.Machine

/-- KITE_FAULT (R321). -/
def causeKite : Nat := 0x0D

/-- A socket changed. -/
def State.onSock (s : State) (k : Nat) (f : Socket → Socket) : State := { s with socks := s.socks.modify k f }

/-- A socket by number. -/
def State.sock (s : State) (k : Nat) : Socket := (s.socks[k]?).getD Socket.empty

/-- The KCTX that a context holds on a socket (R312). -/
def Ctx.kctx (c : Ctx) (k : Nat) : Option Nat := if k = 0 then c.kctx0 else c.kctx1

/-- A packet's words as KPOST checks them (R313, R314): the reserved and HW bits, and CBAR[63:52]. -/
def packetBad (w : Nat) : Bool := fld w 0 8 != 1 || fld w 8 56 != 0 || fld w 496 16 != 0 || fld w 436 12 != 0

/-- KPOST operations of the context in focus on a socket that have not reached the queue. -/
def State.posting (s : State) (k : Nat) : List Op :=
  s.ops.filter fun o => o.slot == s.ctx.slot && (match o.kind with | .kpost j _ => j == k | _ => false)

/-- KPOST (R314): a release at device scope; it waits where 16 packets of its KCTX are outstanding (R312). -/
def execKpost (p : Pred) (sock : Fin 2) (bpkt : Fin 32) (s : State) : Out :=
  .next (s.issue (.kpost p sock bpkt) p fun s =>
    let a := s.b bpkt
    s.bounded .ab a 64 32 fun s =>
      let x := s.sock sock.val
      match s.ctx.kctx sock.val with
      | none => s.raiseOpen causeKite 0x88
      | some c =>
        if !x.present || x.frozen then s.raiseOpen causeKite 0x88
        else s.reading .ab a 64 fun s =>
          let w := s.core.ab.rdN a 64
          if packetBad w then s.raiseOpen causeKite 0x8B
          else if 16 ≤ (x.packets.filter fun q => q.kctx == c).length + (s.posting sock.val).length then s.holdIssue (.kiteQuota sock.val)
          else
            let t := s.release
            (t.newOp (.kpost sock.val []) none (some (BitVec.ofNat 64 (fld w 384 64))) false).fly s.dAccess noClass
              (.access (.packet t.seq a) s.dAccess))

/-- What KSTAT lands (R315). -/
def State.kstatOf (s : State) (k sel : Nat) : W64 :=
  let x := s.sock k
  let mine := s.ctx.kctx k
  BitVec.ofNat 64
    (match sel with
    | 0 => (if x.present then 1 else 0) + (if x.link then 2 else 0) + (if x.frozen then 4 else 0) + (if mine.isSome then 8 else 0)
    | 1 => (match mine with | some c => (x.packets.filter fun q => q.kctx == c).length + (s.posting k).length | none => 0)
    | 2 => if k = 0 then s.ctx.reposted0 else s.ctx.reposted1
    | _ => x.vendor % 2 ^ 32 + x.device % 2 ^ 32 * 2 ^ 32)

/-- KSTAT (R315). -/
def execKstat (p : Pred) (g : GReg) (sock : Fin 2) (sel : Fin 8) (s : State) : Out :=
  .next (s.issue (.kstat p g sock sel) p fun s => s.land 3 (.scalar g (s.kstatOf sock.val sel.val)))

/-! ## Faults of packets -/

/-- A fault of a packet recorded against its context (R293, R316): one KITE_FAULT for each packet. -/
def State.packetFault (s : State) (k : Nat) (q : Packet) (cause info addr : Nat) : State :=
  if q.abandoned || (cause == causeKite && q.faulted) then s
  else
    let t := s.withSlot q.slot fun s => s.record
      { seq := q.issue, px := q.px, py := q.py, flag := none, bar := some (BitVec.ofNat 64 q.cbar)
        trap := { cause := cause, addr := addr, info := info, slot := 0, issued := false } }
    if cause = causeKite then
      t.onSock k fun x => { x with packets := x.packets.map fun y => if y.kctx == q.kctx && y.seq == q.seq then { y with faulted := true } else y }
    else t

/-- A fault recorded for each of a list of packets. -/
def State.packetFaults (k cause info : Nat) : List Packet → State → State
  | [], s => s
  | q :: t, s => State.packetFaults k cause info t (s.packetFault k q cause info q.seq)

/-- Whether a partition holds a kite context on a socket (R361). -/
def Part.onSocket (p : Part) (k : Nat) : Bool := fld p.kctx (16 * k) 16 != 0

/-- Whether an event is a transaction of a socket's kite. -/
def kiteEvent (k : Nat) : Instr → Bool
  | .tetherRequest r => r.sock == k
  | .kiteArrive j _ _ _ _ => j == k
  | _ => false

/-- Index of the measurement of a kite's firmware (R398). -/
def kiteIndex (sock : Nat) : Nat := 6 + 2 * sock

/-- A kite is frozen and its socket reset (R319, R397): every packet outstanding records 0x8C, its identity and measured firmware enter
the attestation log, and the partitions that use the socket are told. -/
def State.freezeKite (s : State) (k : Nat) : State :=
  let x := s.sock k
  if !x.present || x.frozen then s
  else
    let t := State.packetFaults k causeKite 0x8C x.packets s
    let fw := ((s.measured.find? (·.1 == kiteIndex k)).map (·.2)).getD []
    let t := { (t.onSock k fun x => { x with frozen := true, link := false, packets := [], quiesce := [], tether := [] }).unwait (kiteEvent k) with
      attest := t.attest ++ x.identity ++ fw }
    State.eachPart (fun p s => if p.onSocket k then s.event p.pid 5 (toLe 1 1 ++ toLe 1 k) else s) s.parts t

/-- The outstanding packet that a kite names (R316): one that its arrive has ended is no longer outstanding. -/
def State.packetOf (s : State) (k kctx seq16 : Nat) : Option Packet :=
  (s.sock k).packets.find? fun q => q.kctx == kctx && q.seq % 65536 == seq16 && q.ending.isNone

/-- The packet of a tether request: outstanding, or ended by an arrive that this request's held write keeps waiting (R316, R384). -/
def State.packetFor (s : State) (r : TetherReq) : Option Packet :=
  s.packetOf r.sock r.kctx r.seq16 <|>
    if (s.sock r.sock).tether.any (·.1 == r) then
      (s.sock r.sock).packets.find? fun q => q.kctx == r.kctx && q.seq % 65536 == r.seq16
    else none

/-- The packet whose arrive transaction has come and waits for its interval (R384). -/
def State.endingPacket (s : State) (k kctx seq16 bytes : Nat) : Option Packet :=
  (s.sock k).packets.find? fun q => q.kctx == kctx && q.seq % 65536 == seq16 && q.ending == some bytes

/-- Whether a tether request names a packet of its socket. -/
def Packet.named (q : Packet) (r : TetherReq) : Bool := r.kctx == q.kctx && r.seq16 == q.seq % 65536

/-- The tether requests of a packet that wait are forgotten: it has ended (R316, R319). -/
def State.dropTether (s : State) (k : Nat) (q : Packet) : State :=
  (s.onSock k fun x => { x with tether := x.tether.filter fun w => !q.named w.1 }).unwait fun i => match i with
    | .tetherRequest r => r.sock == k && q.named r
    | _ => false

/-- A packet leaves its socket, and with it the requests for it that wait. -/
def State.endPacket (s : State) (k : Nat) (q : Packet) : State :=
  (s.onSock k fun x => { x with packets := x.packets.filter fun y => !(y.kctx == q.kctx && y.seq == q.seq) }).dropTether k q

/-! ## KPOST's own steps, and the end of an operation -/

/-- The HW fields of a packet filled (R313, R314). -/
def filled (l : List Byte) (kctx asid seq : Nat) : List Byte :=
  let b := toLe 62 (ofLe (l.take 62) + kctx * 2 ^ 8 + asid % 65536 * 2 ^ 16 + seq % 2 ^ 32 * 2 ^ 32)
  b ++ toLe 2 (crc16 b)

/-- A packet of the context in focus enters the queue of its socket (R313). -/
def State.enqueue (s : State) (o : Op) (k kctx : Nat) (l : List Byte) : State :=
  let x := s.sock k
  let n := ((x.nextSeq.find? (·.1 == kctx)).map (·.2)).getD 0
  let q : Packet :=
    { kctx := kctx, seq := n, slot := o.slot, asid := s.ctx.asid, px := o.px, py := o.py, issue := o.seq
      bytes := filled l kctx s.ctx.asid n, cbar := le8 l 48, faulted := false, abandoned := false }
  let t := s.onSock k fun x =>
    { x with packets := x.packets ++ [q], nextSeq := (kctx, (n + 1) % 2 ^ 32) :: x.nextSeq.filter (·.1 != kctx) }
  if x.frozen then (t.packetFault k q causeKite 0x8C n).endPacket k q else t

/-- KPOST after its issue (R314): the packet has been read; once its release is performed, CBYTES are announced on CBAR and the packet
enters the queue, in the order of the posts. -/
def State.postStep (o : Op) (s : State) : State :=
  match o.kind with
  | .kpost k l =>
    if l.length ≠ 64 ∨ !s.mayReport o ∨ (s.posting k).any (fun p => decide (p.seq < o.seq)) then s
    else
      (match s.ctx.kctx k with
      | none => s.dropOp o
      | some c =>
        let u : BarUpd := .add (ofLe ((l.drop 56).take 6))
        if (barRef (BitVec.ofNat 64 (le8 l 48))).isNone then s.stopOp o causeBarrier 0x80 (le8 l 48)
        else if s.barHeld (BitVec.ofNat 64 (le8 l 48)) u then s.holdSector o
        else
          let (t, ok) := s.opBar o (BitVec.ofNat 64 (le8 l 48)) u
          if ok then (t.enqueue o k c l).dropOp o else t.dropOp o)
  | _ => s

/-- ASYNC_OPERATION_COMPLETE (R291, R303, R314). -/
def execAsyncOperationComplete (op : Nat) (s : State) : Out :=
  .next (s.withOp op fun o s => match o.kind with
    | .kpost _ _ => s.postStep o
    | _ => s.finishOp o)

/-! ## What a kite does -/

/-- A tether access of a VA (R254, R316). -/
def Asked.tether (va : Nat) (wr : Bool) : Asked := { va := va, wr := wr, rd := !wr, kite := true }

/-- The places of n bytes of a tether access, or its fault. -/
def State.tetherPlaces (s : State) (asid pid : Nat) (wr : Bool) : Nat → Nat → Except XFault (List Place)
  | _, 0 => .ok []
  | va, n + 1 =>
    match s.translate asid pid (.tether va wr) with
    | .error f => .error f
    | .ok pl =>
      match State.tetherPlaces s asid pid wr (va + 1) n with
      | .error f => .error f
      | .ok l => .ok (pl :: l)

/-- The sectors of a tether request at their arbiters, on the context whose packet it names (R384): the state, and whether all have passed. Those
that have passed are kept with a request that waits, and EVSEL 0x14 counts the one that waits once (R387). -/
def State.tetherPays (s : State) (r : TetherReq) (q : Packet) (l : List Place) : State × Bool :=
  let forget (s : State) : State := s.onSock r.sock fun x => { x with tether := x.tether.filter (·.1 != r) }
  if !s.hasCtx q.slot then (forget s, true)
  else
    let past := ((s.sock r.sock).tether.find? (·.1 == r)).map (·.2)
    let todo := (sectorsOf l).drop (past.getD 0)
    let k := ((s.focusSlot q.slot).pass todo).2
    let t := forget (s.withSlot q.slot fun s => (s.pass todo).1)
    if k = todo.length then (t, true)
    else
      let u := if past.isNone || k != 0 then t.withSlot q.slot fun s => s.atIsle q.px q.py (·.onCore (·.count 0x14 1)) else t
      ((u.onSock r.sock fun x => { x with tether := x.tether ++ [(r, past.getD 0 + k)] }).await (.tetherRequest r), false)

/-- TETHER_REQUEST (R254, R316, R319): attributed to an outstanding packet, translated, then served or answered with an error
completion. One that a budget or a cap holds (R384) comes to its arbiters again at the next interval, and is served where all its sectors have
passed. -/
def execTetherRequest (r : TetherReq) (s : State) : Out :=
  let x := s.sock r.sock
  .next (if !x.present || x.frozen then s
    else
      match s.packetFor r with
      | none => s.freezeKite r.sock
      | some q =>
        if q.asid ≠ r.asid ∨ !r.wellFormed then s.freezeKite r.sock
        else
          let pid := ((s.partOfSlot q.slot).map (·.pid)).getD 0
          let refuse (s : State) : State := s.onSock r.sock fun x => { x with answer := none, tether := x.tether.filter (·.1 != r) }
          let n := match r.write with
            | some l => l.length
            | none => r.len
          let s := s.touchAll r.asid pid (.tether r.va r.write.isSome) n
          match s.tetherPlaces r.asid pid r.write.isSome r.va n with
          | .error f => refuse (s.packetFault r.sock q causeKite (0x89 + f.2 % 256 * 256) q.seq)
          | .ok l =>
            match l.find? fun pl => pl.bad || (r.write.isNone && s.poisoned pl) with
            | some pl => refuse (s.withSlot q.slot fun s => s.loseVa r.va pl.unit)
            | none =>
              let (t, ok) := s.tetherPays r q l
              if !ok then t
              else
                match r.write with
                | some b => (State.writePlaces (l.zip b) t).onSock r.sock fun x => { x with answer := some [] }
                | none => t.onSock r.sock fun x => { x with answer := some (l.flatMap fun p => s.devRead p 1) })

/-- The update of a packet's barrier waits for the next interval of its context's region, or of the channel (R384). -/
def State.arriveHeld (s : State) (q : Packet) (pid bytes : Nat) : Bool :=
  s.hasCtx q.slot && ((s.focusSlot q.slot).barLetIn q.asid pid q.cbar true (.kite bytes)).isNone

/-- A write of a packet waits for an interval. -/
def State.writesWait (s : State) (k : Nat) (q : Packet) : Bool := (s.sock k).tether.any fun w => q.named w.1 && w.1.write.isSome

/-- A packet's arrive transaction waits: for the packet's writes (R316), or for its own sector, which EVSEL 0x14 counts once (R384, R387). -/
def State.arriveWaits (s : State) (k : Nat) (q : Packet) (bytes : Nat) (own : Bool) : State :=
  let t := if own && !q.metered then s.withSlot q.slot fun s => s.atIsle q.px q.py (·.onCore (·.count 0x14 1)) else s
  (t.onSock k fun x =>
    { x with packets := x.packets.map fun y =>
        if y.kctx == q.kctx && y.seq == q.seq then { y with ending := some bytes, metered := y.metered || own } else y }).await
    (.kiteArrive k q.kctx (q.seq % 65536) q.cbar bytes)

/-- KITE_ARRIVE (R316, R319): the packet ends, and its barrier counts the bytes and the arrival once the packet's writes are performed and as soon
as the barrier's sector may pass (R384), also while its context is being torn down (R317, R330). -/
def execKiteArrive (sock kctx seq16 cbar bytes : Nat) (s : State) : Out :=
  let x := s.sock sock
  .next (if !x.present || x.frozen then s
    else
      match s.packetOf sock kctx seq16 <|> s.endingPacket sock kctx seq16 bytes with
      | none => s.freezeKite sock
      | some q =>
        let pid := ((s.partOfSlot q.slot).map (·.pid)).getD 0
        if q.cbar ≠ cbar then s.freezeKite sock
        else if s.writesWait sock q then s.arriveWaits sock q bytes false
        else if s.arriveHeld q pid bytes then s.arriveWaits sock q bytes true
        else
          let s := s.touch q.asid pid ((BarUpd.kite bytes).asked cbar true)
          let s := s.withSlot q.slot fun s => (s.barLetIn q.asid pid cbar true (.kite bytes)).getD s
          (match s.barAt q.asid pid cbar true (.kite bytes) with
          | .ok t => t
          | .misuse r => s.packetFault sock q causeBarrier r cbar
          | .xfault f => s.packetFault sock q causeKite (0x89 + f.2 % 256 * 256) q.seq
          | .uncorrectable u => s.withSlot q.slot fun s => s.loseVa cbar u).endPacket sock q)

/-- FAULT_PACKET (R313, R316): the packet ends with the kite's code in TINFO[63:32]. -/
def execFaultPacket (sock kctx seq16 code : Nat) (s : State) : Out :=
  let x := s.sock sock
  .next (if !x.present || x.frozen then s
    else
      match s.packetOf sock kctx seq16 with
      | none => s.freezeKite sock
      | some q => (s.packetFault sock q causeKite (0x8A + code % 2 ^ 32 * 2 ^ 32) q.seq).endPacket sock q)

/-- ABANDON (R313, R317-R319): the answer to QUIESCE. Every packet of the KCTX has ended or is listed; those of a context that lives on
wait to be posted again, those of one torn down are discarded. -/
def execAbandon (sock kctx : Nat) (seqs : List Nat) (s : State) : Out :=
  let x := s.sock sock
  let mine := x.packets.filter fun q => q.kctx == kctx && q.ending.isNone
  let gone (r : TetherReq) : Bool := mine.any fun q => q.named r
  .next (if !x.present || x.frozen then s
    else if !(x.quiesce.any (·.1 == kctx)) || 16 < seqs.length || !(seqs.all fun n => mine.any fun q => q.seq % 65536 == n) ||
        !(mine.all fun q => seqs.contains (q.seq % 65536)) then s.freezeKite sock
    else
      (s.unwait fun i => match i with | .tetherRequest r => r.sock == sock && gone r | _ => false).onSock sock fun x =>
        { x with
          quiesce := x.quiesce.filter (·.1 != kctx)
          packets := x.packets.filter fun q => q.kctx != kctx || q.ending.isSome
          tether := x.tether.filter fun w => !gone w.1
          parked := x.parked ++ mine.filter fun q => !q.abandoned })

/-- KITE_QUIESCE_TIMEOUT (R317, R319). -/
def execKiteQuiesceTimeout (sock : Nat) (s : State) : Out :=
  .next (if (s.sock sock).quiesce.all fun q => decide (s.now < q.2) then s else s.freezeKite sock)

/-- SOCKET_BRING_UP (R319, R399): the management complex brings a socket up, with the kite that it finds there, and measures its firmware. -/
def execSocketBringUp (sock vendor device : Nat) (identity : List Byte) (s : State) : Out :=
  .next
    ({ s with
      measured := (kiteIndex sock, Config.kiteMeasurement s.fresh) :: s.measured.filter (·.1 != kiteIndex sock)
      fresh := s.fresh + 1 }.onSock sock fun x =>
        { x with present := true, link := true, frozen := false, vendor := vendor, device := device, identity := identity })

/-! ## Quiesce and resumption -/

/-- QUIESCE for the KCTX that the context in focus holds on a socket (R317); `drop` marks its packets as those of a teardown (R318). -/
def State.quiesceOne (s : State) (k : Nat) (drop : Bool) : State :=
  match s.ctx.kctx k with
  | none => s
  | some c =>
    s.onSock k fun x =>
      if !x.present || x.frozen then { x with parked := if drop then x.parked.filter fun q => q.slot != s.ctx.slot else x.parked }
      else
        { x with
          quiesce := if x.quiesce.any (·.1 == c) then x.quiesce else x.quiesce ++ [(c, s.now + 100000)]
          packets := x.packets.map fun q => if q.kctx == c then { q with abandoned := q.abandoned || drop } else q
          parked := if drop then x.parked.filter fun q => q.slot != s.ctx.slot else x.parked }

/-- QUIESCE on each socket. -/
def State.quiesceAll (s : State) (drop : Bool) : State := (s.quiesceOne 0 drop).quiesceOne 1 drop

/-- Whether an ABANDON is still awaited for the context in focus (R317, R344). -/
def State.awaitsAbandon (s : State) : Bool :=
  [0, 1].any fun k => match s.ctx.kctx k with | some c => (s.sock k).quiesce.any (·.1 == c) | none => false

/-- Packets posted again into their socket, unchanged (R318); one posted again at a frozen socket is outstanding there, and records 0x8C as those
that the freeze found (R319, log 33). -/
def State.repostAll (k : Nat) : List Packet → State → State
  | [], s => s
  | q :: t, s =>
    let s := s.onSock k fun x => { x with packets := x.packets ++ [q] }
    State.repostAll k t (if (s.sock k).frozen then (s.packetFault k q causeKite 0x8C q.seq).endPacket k q else s)

/-- The abandoned packets of the context in focus posted again on a socket, in ascending SEQ (R318): its KCTX is the one that they carry. -/
def State.repostOne (s : State) (k : Nat) : State :=
  match s.ctx.kctx k with
  | none => s
  | some _ =>
    let l := ((s.sock k).parked.filter fun q => q.slot == s.ctx.slot).sorted fun a b => decide (a.seq ≤ b.seq)
    let t := s.onSock k fun x => { x with parked := x.parked.filter fun q => q.slot != s.ctx.slot }
    (State.repostAll k l t).onCtx fun x => if k = 0 then { x with reposted0 := l.length } else { x with reposted1 := l.length }

/-- Every abandoned packet of the context in focus posted again (R318). -/
def State.repost (s : State) : State := (s.repostOne 0).repostOne 1

end Sys2Proof.Machine
end

