-- ==== Sys2Proof/Machine/Network.lean ====
section
/-! DEFINITION. Slot N and the network (R273-R285): the words, the events of a word at the far end of a hop, and the remote
atomics. -/

namespace Sys2Proof.Machine

/-- FENCE (R321). -/
def causeFence : Nat := 6
/-- LINK_COLLISION (R321). -/
def causeLink : Nat := 7

/-- The first step of a leg that leaves the region, from integer coordinates: its direction (R279), and where the leg ends. -/
def State.walkLeg (s : State) (d : Dir) : Nat → Int × Int → Option Dir × (Int × Int)
  | 0, q => (none, q)
  | n + 1, q =>
    let q' := d.step q.1 q.2
    if s.inside q'.1 q'.2 then State.walkLeg s d n q' else (some d, q')

/-- The direction of the first step of a two-leg route that leaves the region, where one does. -/
def State.leaves (s : State) (d1 : Dir) (n1 : Nat) (d2 : Dir) (n2 : Nat) : Option Dir :=
  let a := s.walkLeg d1 n1 ((s.core.px : Int), (s.core.py : Int))
  match a.1 with
  | some d => some d
  | none => (s.walkLeg d2 n2 a.2).1

/-- FENCE at the issuing isle (R279): the manual names no TADDR (log 10). -/
def State.fence (s : State) (reason : Nat) (d : Dir) : State := s.raiseOpen causeFence (reason + d.ix.val * 2 ^ 8)

/-- A word on the first hop of its route (R275). -/
def State.launchWord (s : State) (w : NWord) (cargo : Cargo) (d1 : Dir) (n1 : Nat) (d2 : Dir) (n2 : Nat) (g : GReg) : State :=
  let t : Trav :=
    { id := s.seq, word := w, cargo := cargo, x := s.core.px, y := s.core.py, dir := d1
      due := s.ctx.rcycle + s.hop true s.core.px s.core.py d1 - 1, dir1 := d1, left1 := n1 - 1, dir2 := d2, left2 := n2
      ox := s.core.px, oy := s.core.py, hops := n1 + n2, dest := g, rcyc := s.ctx.rcycle }
  { s.onCtx fun c => { c with words := c.words ++ [t] } with seq := s.seq + 1 }

/-- Half h of a register with its tag (R273). -/
def State.half (s : State) (v : Fin 32) (h : Bool) : NWord :=
  { data := (if h then s.core.v[v] >>> 1024 else s.core.v[v]).truncate 1024, tag := s.core.tag[v] }

/-- A scalar word (R273). -/
def scalarWord (x : W64) : NWord := { data := x.zeroExtend 1024, tag := 0 }

/-- A send along a route after its fence check (R279, R281). -/
def State.sendOn (s : State) (w : NWord) (r : Route) : State :=
  match s.leaves r.dir1 r.step1.val r.dir2 r.step2.val with
  | some d => s.fence 0x70 d
  | none => ({ s with core := s.core.count 0x05 1 } : State).launchWord w .plain r.dir1 r.step1.val r.dir2 r.step2.val (.a 0)

/-- SEND (R281). -/
def execSend (p : Pred) (vs : Fin 32) (h : Bool) (r : Route) (s : State) : Out :=
  .next (s.issue (.send p vs h r) p fun s => s.sendOn (s.half vs h) r)

/-- SENDS (R281). -/
def execSends (p : Pred) (g : GReg) (r : Route) (s : State) : Out :=
  .next (s.issue (.sends p g r) p fun s => s.sendOn (scalarWord (s.core.rdG g)) r)

/-- The word a latch gives: an empty latch reads as zero data and the raw tag (R282). -/
def State.latchWord (s : State) (d : Dir) : NWord := (s.core.latch[d.ix]).getD { data := 0, tag := 0 }

/-- RECV (R282). -/
def execRecv (p : Pred) (vd : Fin 32) (h : Bool) (dir : Dir) (s : State) : Out :=
  .next (s.issue (.recv p vd h dir) p fun s =>
    let w := s.latchWord dir
    let low : V2048 := (BitVec.allOnes 1024).zeroExtend 2048
    let x : V2048 := w.data.zeroExtend 2048
    (s.after 0 (.vec vd (if h then x <<< 1024 else x) (if h then low <<< 1024 else low) (some w.tag) [])).after 0 (.drainLatch dir))

/-- RECVS (R282). -/
def execRecvs (p : Pred) (g : GReg) (dir : Dir) (s : State) : Out :=
  .next (s.issue (.recvs p g dir) p fun s =>
    (s.after 0 (.scalar g ((s.latchWord dir).data.truncate 64))).after 0 (.drainLatch dir))

/-- FWD (R283): the window is open from the issue rc on. -/
def execFwd (p : Pred) (din dout : Dir) (cntM1 : BitVec 10) (s : State) : Out :=
  .next (s.issue (.fwd p din dout cntM1) p fun s =>
    match s.leaves dout 1 dout 0 with
    | some d => s.fence 0x71 d
    | none => s.after 0 (.window din { dout := dout, last := s.ctx.rcycle + cntM1.toNat }))

/-- The isles of the region beyond the isle in focus in a direction. -/
def State.beyond (s : State) (d : Dir) : Nat :=
  match d with
  | .n => s.core.py
  | .s => s.ctx.image.h - 1 - s.core.py
  | .e => s.ctx.image.w - 1 - s.core.px
  | .w => s.core.px

/-- One word of a broadcast for each direction that has an isle beyond the sender (R284). -/
def State.broadcast (s : State) (w : NWord) : List Dir → State
  | [] => s
  | d :: t =>
    State.broadcast
      (if s.beyond d = 0 then s
       else ({ s with core := s.core.count 0x05 1 } : State).launchWord w .copies d (s.beyond d) d 0 (.a 0)) w t

/-- NBC row (R284). -/
def execNbcRow (p : Pred) (vs : Fin 32) (h : Bool) (s : State) : Out :=
  .next (s.issue (.nbcRow p vs h) p fun s => s.broadcast (s.half vs h) [.e, .w])

/-- NBC col (R284). -/
def execNbcCol (p : Pred) (vs : Fin 32) (h : Bool) (s : State) : Out :=
  .next (s.issue (.nbcCol p vs h) p fun s => s.broadcast (s.half vs h) [.n, .s])

/-- The buffer of a BUF code (R96). -/
def bufOf : Nat → Option Buf
  | 0 => some .wb
  | 1 => some .ab
  | 2 => some .acb
  | _ => none

/-- NRMT (R285). -/
def execNrmt (p : Pred) (op : AtomOp) (g : GReg) (ba bv : Fin 32) (s : State) : Out :=
  .next (s.issue (.nrmt p op g ba bv) p fun s =>
    let w := s.b ba
    let dx := sext (fld w 32 6) 6
    let dy := sext (fld w 40 6) 6
    let a := fld w 0 24
    match bufOf (fld w 24 2) with
    | none => s.raise 8 0x3A w
    | some u =>
      if fld w 46 18 ≠ 0 ∨ fld w 38 2 ≠ 0 ∨ fld w 26 6 ≠ 0 ∨ (dx = 0 ∧ dy = 0) then s.raise 8 0x3A w
      else s.bounded u a 8 8 fun s =>
        let dh : Dir := if 0 < dx then .e else .w
        let dv : Dir := if 0 < dy then .s else .n
        match s.leaves dh dx.natAbs dv dy.natAbs with
        | some d => s.fence 0x72 d
        | none =>
          let c := Cargo.request op u a (s.core.rdB bv)
          let s := { s with core := s.core.count 0x05 1 }
          if dx = 0 then s.launchWord { data := 0, tag := 0 } c dv dy.natAbs dv 0 g
          else s.launchWord { data := 0, tag := 0 } c dh dx.natAbs dv dy.natAbs g)

/-! ## The end of a hop -/

/-- A LINK_COLLISION event of the isle in the rc that ends (R278): the first of one rc is raised, and TINFO gathers every event of the
rc on the isle. `link` distinguishes a collision at an output from a latch overrun. -/
def Isle.linkEvent (c : Isle) (link : Bool) (d : Dir) (rc : Nat) : Isle :=
  let k := d.ix.val
  let fresh : TrapRec := { cause := causeLink, addr := rc, info := 0, slot := 6, issued := true }
  let t := match c.late with
    | some t => if t.cause = causeLink then t else fresh
    | none => fresh
  let was (lo i : Nat) : Bool := bit t.info (lo + i) || (i == k && lo == (if link then 10 else 14))
  let links := (List.range 4).filter (was 10)
  let latches := (List.range 4).filter (was 14)
  let bits := (links.map fun i => 2 ^ (10 + i)).sum + (latches.map fun i => 2 ^ (14 + i)).sum
  let first := match links with
    | i :: _ => 0x78 + i * 2 ^ 8
    | [] => 0x79 + (latches.headD 0) * 2 ^ 8
  let t := { t with info := first + bits }
  match c.late with
  | some u => if u.cause = causeLink then { c with late := some t } else c.raiseLate t
  | none => { c with late := some t }

/-- A word put on one more hop (R275, R283): it occupies the link in the rc at whose end it arrives. -/
def State.onward (s : State) (t : Trav) : State := s.onCtx fun c => { c with words := c.words ++ [t] }

/-- The latch of a side takes a word; a word that was in it is lost, with LINK_COLLISION 0x79 (R278). -/
def State.putWord (s : State) (t : Trav) (side : Dir) (rc : Nat) : State :=
  let c := if (s.core.latch[side.ix]).isSome then s.core.linkEvent false side rc else s.core
  { s with core := { c with latch := c.latch.set side.ix (some t.word) } }

/-- A word lands at the isle in focus in the latch of a side, or meets that side's window and goes on one further hop, which is then its
present and only leg (R274, R278, R283, R286). -/
def State.landWord (s : State) (t : Trav) (side : Dir) (rc : Nat) : State :=
  match s.core.fwd[side.ix] with
  | some w =>
    if rc ≤ w.last then
      { s.onward { t with id := s.seq, cargo := .plain, x := s.core.px, y := s.core.py, dir := w.dout,
                          due := rc + s.hop false s.core.px s.core.py w.dout, dir1 := w.dout, left1 := 0, dir2 := w.dout, left2 := 0
                          hops := t.hops + 1 } with seq := s.seq + 1 }
    else s.putWord t side rc
  | none => s.putWord t side rc

/-- A word's next hop where its route goes on: the rest of its leg, then its second leg (R275, R276). -/
def Trav.next? (t : Trav) (x y : Nat) : Option Trav :=
  if 0 < t.left1 then some { t with x := x, y := y, dir := t.dir1, left1 := t.left1 - 1 }
  else if 0 < t.left2 then some { t with x := x, y := y, dir := t.dir2, dir1 := t.dir2, left1 := t.left2 - 1, left2 := 0 }
  else none

/-- A word at the far end of its hop, the isle there in focus, at the end of an rc (R275, R284, R285). A request that has reached its
target waits there for its bank unit and is on no hop. -/
def State.atFarEnd (t : Trav) (rc : Nat) (s : State) : State :=
  let side := t.dir.opp
  let go (n : Trav) : State := s.onward { n with due := rc + s.hop false n.x n.y n.dir }
  match t.cargo with
  | .copies =>
    let s' := match t.next? s.core.px s.core.py with
      | some n => go n
      | none => s
    s'.landWord { t with hops := hopsBetween t.ox t.oy (s.core.px, s.core.py) } side rc
  | .plain => (match t.next? s.core.px s.core.py with | some n => go n | none => s.landWord t side rc)
  | .request _ _ _ _ =>
    (match t.next? s.core.px s.core.py with
    | some n => go n
    | none =>
      { s.onward { t with x := s.core.px, y := s.core.py, due := 0 } with
        core := { s.core with flights := s.core.flights ++
          [{ due := .rc (rc + 1), seq := t.id, slot := .N, bundle := 0, rcyc := t.rcyc, time := t.rcyc, cls := noClass
             eff := .remote t.id }] } })
  | .reply g x q =>
    match t.next? s.core.px s.core.py with
    | some n => go n
    | none =>
      { s with core := { s.core with flights := s.core.flights ++
          [{ due := .rc rc, seq := q, slot := .N, bundle := 0, rcyc := t.rcyc, time := t.rcyc, cls := noClass, eff := .scalar g x }] } }

/-- Words that occupy the link of a word in the same rc, itself among them (R278). -/
def State.onLink (s : State) (t : Trav) : List Trav :=
  s.ctx.words.filter fun u => u.x == t.x && u.y == t.y && u.dir == t.dir && u.due == t.due

/-- NETWORK_WORD_ARRIVAL (R275): the word of an identifier reaches the far end of its hop at the end of the present rc. Two words on one
link are both lost, with LINK_COLLISION 0x78 at the isle where the link starts. -/
def State.wordArrives (s : State) (id : Nat) : State :=
  match s.ctx.words.find? (fun t => t.id == id && t.due == s.ctx.rcycle) with
  | none => s
  | some t =>
    let l := s.onLink t
    let s' := s.onCtx fun c => { c with words := c.words.filter fun u => !(l.any (· == u)) }
    if 1 < l.length then s'.atIsle t.x t.y fun s => { s with core := s.core.linkEvent true t.dir s.ctx.rcycle }
    else
      let q := t.dir.step t.x t.y
      s'.atIsle q.1.toNat q.2.toNat (State.atFarEnd t s.ctx.rcycle)

/-- NETWORK_WORD_ARRIVAL (R275, R278). -/
def execNetworkWordArrival (id : Nat) (s : State) : Out := .next (s.wordArrives id)

/-- Every word that reaches the far end of a hop at the end of the present rc. -/
def State.closeNetwork (s : State) : State :=
  (s.ctx.words.filter fun t => t.due == s.ctx.rcycle).foldl (fun s t => s.wordArrives t.id) s

/-- FWD_WINDOW_EXPIRY (R283): the window of a side closes once its last rc has passed. -/
def Isle.expire (c : Isle) (rc : Nat) (d : Dir) : Isle :=
  match c.fwd[d.ix] with
  | some w => if w.last < rc then { c with fwd := c.fwd.set d.ix none } else c
  | none => c

/-- FWD_WINDOW_EXPIRY (R283). -/
def execFwdWindowExpiry (din : Dir) (s : State) : Out := .next { s with core := s.core.expire s.ctx.rcycle din }

/-- The reply of a remote atomic, which the target in focus issues in the present rc (R285). -/
def State.replyTo (s : State) (t : Trav) (old : W64) : State :=
  let dx := (t.ox : Int) - s.core.px
  let dy := (t.oy : Int) - s.core.py
  let dh : Dir := if 0 < dx then .e else .w
  let dv : Dir := if 0 < dy then .s else .n
  let (d1, n1, d2, n2) : Dir × Nat × Dir × Nat := if dy = 0 then (dh, dx.natAbs, dh, 0) else (dv, dy.natAbs, dh, dx.natAbs)
  let r : Trav :=
    { t with
      cargo := .reply t.dest old t.id, hops := dx.natAbs + dy.natAbs, x := s.core.px, y := s.core.py, dir := d1
      due := s.ctx.rcycle + s.hop true s.core.px s.core.py d1 - 1, dir1 := d1, left1 := n1 - 1, dir2 := d2, left2 := n2 }
  s.onCtx fun c => { c with words := c.words.filter (· != t) ++ [r] }

/-- A remote atomic at the bank unit of the isle in focus, one link of the chain on its word (R213, R285), and the reply. -/
def State.serveRemote (s : State) (t : Trav) (op : AtomOp) (u : Buf) (a : Nat) (y : W64) : State :=
  let old := s.chainWord u a
  let f : Flight :=
    { due := s.dueIn 0, seq := t.id, slot := .N, bundle := 0, rcyc := t.rcyc, time := t.rcyc, cls := chainClass
      eff := .store u (place a (toLe 8 (atomic op old y).toNat)) }
  (s.onCore (·.chain u a f)).replyTo t old

/-- The request of an identifier that waits at its target's bank unit. -/
def State.requestOf (s : State) (id : Nat) : Option Trav :=
  s.ctx.words.find? fun t => t.id == id && (match t.cargo with | .request _ _ _ _ => true | _ => false)

/-- NRMT_ARRIVAL (R285): a request that has reached its target is performed there and its reply sent. -/
def execNrmtArrival (seq : Nat) (s : State) : Out :=
  .next (match s.requestOf seq with
    | some t =>
      if t.due < s.ctx.rcycle then
        s.atIsle t.x t.y fun s =>
          let s := s.onCore fun c => { c with flights := c.flights.filter fun f => f.eff != .remote seq }
          match t.cargo with
          | .request op u a y =>
            (match s.core.firstSpoilt (bufCode u) a 8 with
            | some x => s.loseAt .N x
            | none => s.serveRemote t op u a y)
          | _ => s
      else s
    | none => s)

end Sys2Proof.Machine
end

