-- ==== Sys2Proof/Machine/Landing.lean ====
section
/-! DEFINITION. The steps of operations in flight (R94, R95, R134, R211-R213, R223): buffer accesses, landings, and the end of a
wait (R371, R375). -/

namespace Sys2Proof.Machine

/-- Whether a step falls by the end of the present rc, of the handler's present cycle in handler mode (R327, R378). -/
def State.dueNow (s : State) (d : Due) : Bool :=
  match d with
  | .rc n => decide (n ≤ if s.core.handler then s.core.htime else s.ctx.rcycle)
  | .tick n => decide (n < s.ctx.e + s.divOf .ctl)

/-! ## Accesses -/

/-- The bytes that an access of a stream touches: first and number (R157). -/
def StreamReg.touched (r : StreamReg) : Nat × Nat :=
  let h := Hdr.ofStream r
  if r.sph then (r.base + h.scaleStart + r.scales.1 * scaleBytes h.sfmt, r.scales.2 * scaleBytes h.sfmt)
  else
    let f := tagFmt (BitVec.ofNat 32 (h.efd % 2 ^ 24))
    let (a, o, _) := h.elemAt f r.base r.row r.col
    let (b, q, n) := h.elemAt f r.base r.row (r.col + r.inside - 1)
    (a + o / 8, b + (q + n + 7) / 8 - (a + o / 8))

/-- The ranges of bytes that an access reads. -/
def Access.ranges : Access → List (Buf × Nat × Nat)
  | .scalar _ u a n _ => [(u, a, n)]
  | .rawVec _ u a => [(u, a, 256)]
  | .tileVec _ u a w _ => [(u, a, 32 * w)]
  | .gather _ u n l => l.map fun e => (u, e.2, n)
  | .header _ u a => [(u, a, 32)]
  | .stream _ r => [(r.buf, r.touched.1, r.touched.2)]
  | .atomic _ u a _ _ => [(u, a, 8)]
  | .packet _ a => [(.ab, a, 64)]
  | .record _ a => [(.ab, a, 128)]

/-- The data and the tag that a stream's access delivers (R163). -/
def StreamReg.chunk (r : StreamReg) (m : Mem) : V2048 × W32 :=
  let h := Hdr.ofStream r
  if r.sph then
    (BitVec.ofNat 2048 (m.rdN (r.base + h.scaleStart + r.scales.1 * scaleBytes h.sfmt) (r.scales.2 * scaleBytes h.sfmt)),
      scaleTag h.sfmt h.bsize)
  else
    let f := tagFmt (BitVec.ofNat 32 (h.efd % 2 ^ 24))
    (ofLanes (streamLw h) ((List.range r.inside).map fun e => h.elem f m r.base r.row (r.col + e)), streamTag h)

/-- Every bit of a register lands, with a tag. -/
def wholeVec (r : Fin 32) (x : V2048) (t : W32) : Eff := .vec r x (BitVec.allOnes 2048) (some t) []

/-- What an access lands in a register (R216-R218, R220, R223, R225); nothing for the reads that belong to a slot-D operation. -/
def State.sampled (s : State) (x : Access) : Option Eff :=
  match x with
  | .scalar g u a n sg =>
    let y := (s.core.buf u).rdN a n
    some (.scalar g (if sg then BitVec.ofInt 64 (sext y (8 * n)) else BitVec.ofNat 64 y))
  | .rawVec r u a => some (wholeVec r (ofBytes ((s.core.buf u).bytes a 256)) 0)
  | .tileVec r u a w t =>
    some (wholeVec r (ofLanes 0 ((List.range 256).map fun e => (s.core.buf u).rdBits a (e * w) w)) t)
  | .gather r u n l =>
    let code := Nat.log2 n
    let put (w : Nat → Nat) : V2048 := BitVec.ofNat 2048 (l.foldl (fun acc e => acc + w e.2 * 2 ^ (laneBits code * e.1)) 0)
    some (.vec r (put fun a => (s.core.buf u).rdN a n) (put fun _ => 2 ^ (8 * n) - 1) none [])
  | .header r u a => some (.pred r ((hdrCheck 0 (s.hdrBytes u a)).isNone))
  | .stream r t => let c := t.chunk (s.core.buf t.buf); some (wholeVec r c.1 c.2)
  | .atomic g u a _ _ => some (.scalar g (s.chainWord u a))
  | .packet _ _ => none
  | .record _ _ => none

/-- The operation of a number changed by its read (R309, R314): a packet, or a record with its completion barrier. -/
def State.opReads (s : State) (q : Nat) (f : Op → Op) : State := { s with ops := s.ops.map fun o => if o.seq == q then f o else o }

/-- CBAR of a record as the barrier of an operation; 0 names none (R334). -/
def cbarOf (l : List Byte) : Option W64 := if le8 l 0x20 = 0 then none else some (BitVec.ofNat 64 (le8 l 0x20))

/-- An access performed by a flight that is due (R211): the read of a register's new value, one link of an atomic chain (R213, R223), or
the read of a slot-D word. -/
def State.perform (s : State) (f : Flight) (x : Access) (land : Due) : State :=
  let rest (c : Isle) : Isle := c.onFlights fun l => l.filter (· != f)
  if let some a := s.core.spoiltIn (x.ranges.map fun r => (bufCode r.1, r.2)) then (s.onCore rest).loseAt f.slot a
  else
    let t := s.onCore fun c =>
      match s.sampled x with
      | some e => c.onFlights fun l => l.map fun g => if g == f then { f with due := land, eff := e } else g
      | none => rest c
    match x with
    | .atomic _ u a op y =>
      let new := atomic op (s.chainWord u a) y
      t.onCore (·.chain u a { f with due := s.dueIn 0, cls := chainClass, eff := .store u (place a (toLe 8 new.toNat)) })
    | .packet q a =>
      t.opReads q fun o => match o.kind with | .kpost k _ => { o with kind := .kpost k (s.core.ab.bytes a 64) } | _ => o
    | .record q a =>
      t.opReads q fun o => match o.kind with
        | .launch n _ => { o with kind := .launch n (s.core.ab.bytes a 128), bar := cbarOf (s.core.ab.bytes a 128) }
        | _ => o
    | _ => t

/-- BUFFER_ACCESS (R211): the access of an operation of the isle in focus that falls in the present rc. -/
def execBufferAccess (seq : Nat) (s : State) : Out :=
  .next (match s.core.inFlight.find? (fun f => f.seq == seq && s.dueNow f.due && (match f.eff with | .access _ _ => true | _ => false)) with
    | some f => (match f.eff with | .access x land => s.perform f x land | _ => s)
    | none => s)

/-! ## Landings -/

/-- What an effect that lands changes on its isle (R95, R134, R192, R211, R221, R224, R282, R283, R377). -/
def Isle.landed (c : Isle) (f : Flight) : Isle :=
  match f.eff with
  | .scalar g x => c.wrG g x
  | .pred r x => if r = 0 then c else { c with p := c.p.set r x }
  | .vec r x en t ev =>
    let c := { c with v := c.v.set r ((c.v[r] &&& ~~~en) ||| (x &&& en)), tag := c.tag.set r (t.getD c.tag[r]) }
    ev.foldl (fun (c : Isle) e => c.record (statRecord e.1 4 f.bundle 0 e.2 f.rcyc)) c
  | .mask r x => if r = 0 then c else { c with vm := c.vm.set r x }
  | .tag r x => { c with tag := c.tag.set r x }
  | .stream r x => { c with st := c.st.set r x }
  | .mp r x => { c with mp := c.mp.set r x }
  | .mpLine x => { c with mp := Vector.ofFn fun i : Fin 8 => x.extractLsb' (32 * i.val) 32 }
  | .store u l => c.stores u l
  | .storeBits u a off n x => c.stores u ((c.buf u).wrBits a off n x)
  | .clear u a n =>
    let c := c.stores u (place a (List.replicate 256 0))
    let d := match f.due with
      | .rc k => Due.rc (k + 1)
      | .tick k => Due.tick (k + 1)
    if 1 < n then c.onFlights fun l => l ++ [{ f with due := d, eff := .clear u (a + 256) (n - 1) }] else c
  | .spill l t =>
    let c := { c with ballast := c.ballast.wrList l }.healed 3 l
    (match t with
    | some (r, x) => { c with btag := c.btag.set r x }
    | none => c)
  | .sys r x => c.sysWrite r x
  | .drainLatch d => { c with latch := c.latch.set d.ix none }
  | .window d w => { c with fwd := c.fwd.set d.ix (some w) }
  | .pop => { c with statq := c.statq.drop 1 }
  | .clearAccovf => { c with mat := { c.mat with accovf := false } }
  | .begin_ => c
  | .access _ _ => c
  | .post _ _ _ => c
  | .barrier _ _ _ => c
  | .remote _ => c

/-- An update of an AB barrier that lands (R303); one that fails is recorded against the context (R256, R293). -/
def State.barLands (s : State) (a : Nat) (u : BarUpd) (q : Nat) : State :=
  let init := match u with
    | .init _ => true
    | _ => false
  if s.core.spoiled .ab a 16 && !init then s.loseAt .D a
  else
    match s.barHere a u with
    | .ok t => t
    | .error r =>
      let ref := 2 ^ 63 + a
      s.record { seq := q, px := s.core.px, py := s.core.py, flag := none, bar := some (BitVec.ofNat 64 ref)
                 trap := { cause := causeBarrier, addr := ref, info := r, slot := 0, issued := false } }

/-- A flight of the isle in focus lands. -/
def State.lands (s : State) (f : Flight) : State :=
  let t := s.onCore fun c => c.onFlights fun l => l.filter (· != f)
  match f.eff with
  | .access _ _ => s
  | .remote _ => s
  | .post g c n => t.postTo c g n
  | .barrier a u q => t.barLands a u q
  | _ => t.onCore (·.landed f)

/-- RESULT_LANDING (R94, R95): what an issue number of the isle in focus lands by the end of the present rc. -/
def execResultLanding (seq : Nat) (s : State) : Out :=
  .next ((s.core.inFlight.filter fun f => f.seq == seq && s.dueNow f.due).foldl State.lands s)

/-! ## Waits -/

/-- Every isle's wait of the context in focus is satisfied. -/
def State.allWaitsMet (s : State) : Bool := (List.range s.isleCount).all fun n => (s.focusIsle n).waitMet

/-- WAIT_SATISFIED (R371, R375): at the boundary at which every wait of the region is satisfied, all of them are consumed together. -/
def execWaitSatisfied (s : State) : Out := .next (if s.allWaitsMet then s.eachIsle State.consume else s)

end Sys2Proof.Machine
end

