-- ==== Sys2Proof/Machine/Paths.lean ====
section
/-! DEFINITION. What the loader finds in an image's code: the paths between consecutive safe points (R25), and the words that a safe point can
find latched or on hops (R287). -/

namespace Sys2Proof.Machine

/-- An isle's bundles, by index. -/
abbrev Body := List (Nat × BitVec 256)

/-! ## Paths between safe points (R25) -/

/-- The issue cycles of a bundle: its own rc and those of its stall count (R93). -/
def pathCost (b : BitVec 256) : Nat := 1 + fld (bundleWord b .C).toNat 18 4

/-- A loop that a path is in: `left` iterations follow the present one where `sure`, and any number up to that where a safe point has been passed
since the loop was entered, which every iteration comes to. The count of a LOOPR stands in a register. -/
structure PathLoop where
  start : Nat
  fin : Nat
  left : Nat
  sure : Bool
  reg : Bool
  deriving DecidableEq, Repr

/-- Where a path of one isle's code stands: the next bundle and the two stacks. -/
structure PathAt where
  pc : Nat
  loops : List PathLoop
  calls : List Nat
  deriving DecidableEq, Repr

/-- How a path goes on after a bundle: where to, past a safe point or not, and whether a branch takes it back there. -/
structure PathStep where
  dest : PathAt
  safe : Bool := false
  back : Bool := false
  deriving DecidableEq, Repr

/-- The loop-end test at a bundle (R179), both ways where the iterations left are not sure. -/
def pathEnd (p : Nat) : List PathLoop → List (Nat × List PathLoop)
  | [] => [(p + 1, [])]
  | e :: t =>
    if e.fin = p then
      (if 0 < e.left then [(e.start, { e with left := e.left - 1 } :: t)] else []) ++ (if 0 < e.left && e.sure then [] else pathEnd p t)
    else [(p + 1, e :: t)]

/-- The path goes on at the next bundle, after the loop-end test. -/
def PathAt.on (c : PathAt) : List PathStep := (pathEnd c.pc c.loops).map fun x => { dest := { c with pc := x.1, loops := x.2 } }

/-- The path goes on at another bundle. -/
def PathAt.goto (c : PathAt) (x : Nat) : PathStep := { dest := { c with pc := x }, back := decide (x ≤ c.pc) }

/-- The path enters a loop (R184); none where the bundle traps (R181). -/
def PathAt.enter (c : PathAt) (len count : Nat) (reg : Bool) : List PathStep :=
  if (match c.loops with | [] => false | e :: _ => decide (e.fin < c.pc + len)) || c.loops.any (fun e => e.fin == c.pc) || 6 ≤ c.loops.length then []
  else [{ dest := { c with pc := c.pc + 1, loops := { start := c.pc + 1, fin := c.pc + len, left := count - 1, sure := true, reg := reg } :: c.loops } }]

/-- A loop as a safe point within it leaves it. A LOOPR may then go round once more, whatever its register. -/
def PathLoop.passed (e : PathLoop) : PathLoop := { e with sure := false, left := if e.reg then 1 else e.left }

/-- The path passes a safe point. -/
def PathAt.rest (c : PathAt) : List PathStep := ({ c with loops := c.loops.map PathLoop.passed } : PathAt).on.map fun x => { x with safe := true }

/-- The ways on that a bundle's C word leaves where its predicate is true (R179, R183-R187): none where the path ends, and `none` where a register
names the next bundle. A LOOPR's body counts once between two safe points, whatever the register (DEDUCED, log 7). -/
def PathAt.taken (c : PathAt) (b : BitVec 256) : Option (List PathStep) :=
  match decodeSlot .C (bundleWord b .C) with
  | .ok (.br _ _ x) => some [c.goto x.toNat]
  | .ok (.bri _ _ _) => none
  | .ok (.call _ _ x) => some (if 8 ≤ c.calls.length then [] else [{ dest := { c with pc := x.toNat, calls := (c.pc + 1) :: c.calls } }])
  | .ok (.ret _ _) => some (match c.calls with | [] => [] | x :: t => [{ dest := { c with pc := x, calls := t } }])
  | .ok (.loop _ _ l n) => some (c.enter (l.toNat + 1) (n.toNat + 1) false)
  | .ok (.loopr _ _ l _) => some (c.enter (l.toNat + 1) 1 true ++ [c.goto (c.pc + l.toNat + 2)])
  | .ok (.lbrk _ _) => some (match c.loops with | [] => [] | e :: t => [{ dest := { c with pc := e.fin + 1, loops := t } }])
  | .ok (.tret _ _) => some []
  | .ok (.endC _ _) => some []
  | .ok (.safept _ _ _) => some c.rest
  | .ok (.waitf _ _ _ _ _) => some c.rest
  | .ok (.waitb _ _ _ _ _) => some c.rest
  | .ok (.yieldC _ _ _) => some c.rest
  | .ok _ => some c.on
  | .error _ => some []

/-- The predicate of a bundle's C word may be false. -/
def maySkip (b : BitVec 256) : Bool :=
  fld (bundleWord b .C).toNat 28 4 != 0

/-- The bundle leaves its path a choice that no count in the image decides: its predicate, or a LOOPR's register. -/
def choiceAt (b : BitVec 256) : Bool :=
  maySkip b || (match decodeSlot .C (bundleWord b .C) with
    | .ok (.loopr _ _ _ _) => true
    | _ => false)

/-- The ways on from a bundle: with its C word taken, and without it where its predicate may be false; that of !p0 always is (R114). -/
def PathAt.ways (c : PathAt) (b : BitVec 256) : Option (List PathStep) :=
  if fld (bundleWord b .C).toNat 28 4 = 8 then some c.on
  else (c.taken b).map fun l => if maySkip b then (c.on ++ l).dedup else l

/-- A path under way: where it stands, the issue cycles since its last safe point, and whether since then it has had a choice, and whether a branch
took it back after one. -/
structure PathRun where
  at_ : PathAt
  len : Nat
  chose : Bool
  again : Bool
  deriving DecidableEq, Repr

/-- Whether a path that has been followed says all that another would. -/
def PathRun.covers (x y : PathRun) : Bool :=
  x.at_ == y.at_ && decide (y.len ≤ x.len) && (!x.again || y.again) && (!x.chose || y.chose)

/-- A path after one of its ways on, n issue cycles after its last safe point. -/
def PathRun.follow (r : PathRun) (n : Nat) (choice twice : Bool) (x : PathStep) : PathRun :=
  if x.safe then { at_ := x.dest, len := 0, chose := false, again := false }
  else { at_ := x.dest, len := n, chose := r.chose || choice, again := r.again || twice || (x.back && (r.chose || choice)) }

/-- Paths to follow, those at lower bundles first, and at one bundle the longer first, so that paths that meet are followed once. -/
def queuePath (r : PathRun) : List PathRun → List PathRun
  | [] => [r]
  | q :: t => if r.at_.pc < q.at_.pc ∨ (r.at_.pc = q.at_.pc ∧ q.len ≤ r.len) then r :: q :: t else q :: queuePath r t

/-- What the loader finds of the paths: all keep to the distance, one does not, or registers decide. -/
inductive PathVerdict | within | beyond | open_
  deriving DecidableEq, Repr

/-- Every path of one isle's code followed, from those given on, up to a distance; `seen` holds where followed ones stood past a safe point or at a
choice, `sure` says that nothing has been left to the registers. Left to them is a path that goes back by a branch after a choice and passes the
distance, or that comes to a bundle for which two overlays stand. -/
def followPaths (code : Body) (limit : Nat) : Nat → List PathRun → List PathRun → Bool → PathVerdict
  | 0, _, _, _ => .open_
  | _ + 1, [], _, sure => if sure then .within else .open_
  | k + 1, r :: rest, seen, sure =>
    if seen.any (·.covers r) then followPaths code limit k rest seen sure
    else
      let here := (code.filter (·.1 == r.at_.pc)).dedup
      let ways := here.map fun b => (r.at_.ways b.2, pathCost b.2, choiceAt b.2)
      let ahead := ways.flatMap fun w => (w.1.getD []).map (r.follow (r.len + w.2.1) w.2.2 (decide (1 < here.length)))
      let far := ahead.filter fun x => decide (limit < x.len)
      if far.any (!·.again) then .beyond
      else
        followPaths code limit k ((ahead.filter fun x => decide (x.len ≤ limit)).foldr queuePath rest)
          (if r.len = 0 || 1 < ahead.length then r :: seen else seen) (sure && far.isEmpty && ways.all (·.1.isSome))

/-- Whether the paths between consecutive safe points of one isle's code keep to a distance (R25): decided by the code but where a register decides
how a path goes back, or where it goes (log 7). -/
def pathsOk (entry limit : Nat) (code : Body) : Bool :=
  match followPaths code limit (2 ^ 64) [{ at_ := { pc := entry, loops := [], calls := [] }, len := 0, chose := false, again := false }] [] true with
  | .within => true
  | .beyond => false
  | .open_ => !Config.pathsTooLong code limit

/-! ## Words at a safe point (R287) -/

/-- The N word of a bundle; none where it is malformed. -/
def wordN (b : BitVec 256) : Option Instr := (decodeSlot .N (bundleWord b .N)).toOption

/-- The isles of a run of hops, each with the direction in which the word leaves it, and the isle where it ends; none where it leaves the region. -/
def Image.legHops (i : Image) (d : Dir) : Nat → Nat × Nat → Option (List (Nat × Nat × Dir) × (Nat × Nat))
  | 0, q => some ([], q)
  | n + 1, q =>
    let r := d.step q.1 q.2
    if 0 ≤ r.1 ∧ 0 ≤ r.2 ∧ r.1 < i.w ∧ r.2 < i.h then
      (Image.legHops i d n (r.1.toNat, r.2.toNat)).map fun x => ((q.1, q.2, d) :: x.1, x.2)
    else none

/-- The hops of a route from an isle (R275); none where it leaves the region (R279). -/
def Image.routeHops (i : Image) (r : Route) (q : Nat × Nat) : Option (List (Nat × Nat × Dir)) :=
  match i.legHops r.dir1 r.step1.val q with
  | none => none
  | some (l, q') => (i.legHops r.dir2 r.step2.val q').map fun x => l ++ x.1

/-- The hops of a broadcast in one direction (R284). -/
def Image.spreadHops (i : Image) (d : Dir) (q : Nat × Nat) : List (Nat × Nat × Dir) :=
  let n := match d with
    | .n => q.2
    | .s => i.h - 1 - q.2
    | .e => i.w - 1 - q.1
    | .w => q.1
  ((i.legHops d n q).map (·.1)).getD []

/-- The runs of hops on which an N word may send words. -/
def Image.runsOf (i : Image) (q : Nat × Nat) : Instr → List (List (Nat × Nat × Dir))
  | .send _ _ _ r => (i.routeHops r q).toList
  | .sends _ _ r => (i.routeHops r q).toList
  | .nbcRow _ _ _ => [i.spreadHops .e q, i.spreadHops .w q]
  | .nbcCol _ _ _ => [i.spreadHops .n q, i.spreadHops .s q]
  | _ => []

/-- What feeds a link in a run of hops: 0 the isle's own word, 1 + d a word that came to it in direction d. -/
def feedsOf : Option Dir → List (Nat × Nat × Dir) → List (Nat × Nat × Dir × Nat)
  | _, [] => []
  | from_, (x, y, d) :: t => (x, y, d, match from_ with | none => 0 | some from_ => 1 + from_.ix.val) :: feedsOf (some d) t

/-- What the N words of an image may feed each link with; a remote atomic and its reply may take any. -/
def Image.feeds (i : Image) (bodies : List Body) : List (Nat × Nat × Dir × Nat) :=
  let isles := rectangle i.w i.h
  let words (n : Nat) : List Instr := ((bodies.getD n []).filterMap fun b => wordN b.2).dedup
  let all := isles.flatMap fun q => (words (q.2 * i.w + q.1)).map fun w => (q, w)
  let sent := all.flatMap fun x => ((i.runsOf x.1 x.2).flatMap (feedsOf none))
  let turned := all.filterMap fun x => match x.2 with
    | .fwd _ din dout _ => some (x.1.1, x.1.2, dout, 1 + din.opp.ix.val)
    | _ => none
  let any := all.any fun x => match x.2 with | .nrmt _ _ _ _ _ => true | _ => false
  let free := if any then isles.flatMap fun q => [Dir.n, .e, .s, .w].flatMap fun d => (List.range 5).map fun k => (q.1, q.2, d, k) else []
  (sent ++ turned ++ free).dedup

/-- The most words that can be latched at an isle or be on hops that end at it: four latches, and on each link from a neighbour, for each rc of a
hop, one word of each kind that feeds it (R274, R275, R278). -/
def Image.wordsAt (i : Image) (feeds : List (Nat × Nat × Dir × Nat)) (x y : Nat) : Nat :=
  let hop (d : Dir) : Nat :=
    let q := d.step x y
    let l := feeds.filter fun f => (f.1 : Int) == q.1 && (f.2.1 : Int) == q.2 && f.2.2.1 == d.opp
    (i.seamAt x y d).getD (max (i.lat.getD 15 0) (i.lat.getD 16 0)) * l.length
  4 + hop .n + hop .e + hop .s + hop .w

/-- A bundle of code without branches: its rc, its N word where that is certain, and whether a SAFEPT stands in it. -/
structure Straight where
  rc : Nat
  word : Option Instr
  safe : Bool
  deriving DecidableEq, Repr

/-- The bundles that an isle issues from an index on, as far as nothing but the image decides on them (R40, R93), and the first rc beyond. -/
def straightFrom (code : Body) : Nat → Nat → Nat → List Straight × Nat
  | 0, _, rc => ([], rc)
  | k + 1, pc, rc =>
    match code.find? (·.1 == pc) with
    | none => ([], rc)
    | some b =>
      let on (safe : Bool) : List Straight × Nat :=
        let r := straightFrom code k (pc + 1) (rc + pathCost b.2)
        ({ rc := rc, word := wordN b.2, safe := safe } :: r.1, r.2)
      let plain : Bool := match wordN b.2 with
        | some (.nop _) => true
        | some (.send p _ _ _) => p.idx = 0 ∧ !p.neg
        | some (.sends p _ _) => p.idx = 0 ∧ !p.neg
        | some (.recv p _ _ _) => p.idx = 0 ∧ !p.neg
        | some (.recvs p _ _) => p.idx = 0 ∧ !p.neg
        | _ => false
      if !plain || maySkip b.2 then ([], rc)
      else
        match decodeSlot .C (bundleWord b.2 .C) with
        | .ok (.nopC _ _) => on false
        | .ok (.nop _) => on false
        | .ok (.safept _ _ _) => on true
        | .ok (.waitf _ _ _ _ _) => on false
        | .ok (.waitb _ _ _ _ _) => on false
        | .ok (.sysrd _ _ _ _) => on false
        | _ => ([], rc)

/-- A word sent at an rc: for each hop the link, the first rc after whose end the word is on it, and the rc in which it occupies it (R275). -/
def Image.timed (i : Image) : Bool → Nat → List (Nat × Nat × Dir) → List (Nat × Nat × Dir × Nat × Nat)
  | _, _, [] => []
  | first, rc, (x, y, d) :: t =>
    let h := (i.seamAt x y d).getD (i.lat.getD (if first then 15 else 16) 0)
    let occ := rc + h - (if first then 1 else 0)
    (x, y, d, rc, occ) :: Image.timed i false occ t

/-- The words that isles send with certainty, hop by hop: those that share a link with another in some rc are left out. -/
def Image.certain (i : Image) (runs : List (List Straight)) : List (List (Nat × Nat × Dir × Nat × Nat)) :=
  let isles := (List.range (i.w * i.h)).map fun n => (n % i.w, n / i.w)
  let sent := (isles.zip runs).flatMap fun q => q.2.filterMap fun b => match b.word with
    | some (.send _ _ _ r) => (i.routeHops r q.1).map (i.timed true b.rc)
    | some (.sends _ _ r) => (i.routeHops r q.1).map (i.timed true b.rc)
    | _ => none
  let n := sent.length
  let clash (k : Nat) : Bool := (sent.getD k []).any fun a => (List.range n).any fun j =>
    j != k && (sent.getD j []).any fun b => (a.1, a.2.1, a.2.2.1, a.2.2.2.2) == (b.1, b.2.1, b.2.2.1, b.2.2.2.2)
  ((List.range n).filter fun k => !clash k).map fun k => sent.getD k []

/-- How many of such words are latched at an isle or on hops that end at it after an rc, less those that its own words take. -/
def Image.certainAt (i : Image) (runs : List (List Straight)) (live : List (List (Nat × Nat × Dir × Nat × Nat))) (x y rc : Nat) : Nat :=
  let ends (a : Nat × Nat × Dir × Nat × Nat) : Bool := a.2.2.1.step a.1 a.2.1 == ((x : Int), (y : Int))
  let onHops := (live.map fun l => (l.filter fun a => ends a && decide (a.2.2.2.1 ≤ rc ∧ rc < a.2.2.2.2)).length).sum
  let reads (side : Dir) (a : Nat) : Bool := (runs.getD (y * i.w + x) []).any fun b => match b.word with
    | some (.recv _ _ _ d) => d == side && decide (a < b.rc ∧ b.rc ≤ rc)
    | some (.recvs _ _ d) => d == side && decide (a < b.rc ∧ b.rc ≤ rc)
    | _ => false
  let latched := [Dir.n, .e, .s, .w].filter fun side => live.any fun l => match l.getLast? with
    | some a => ends a && a.2.2.1.opp == side && decide (a.2.2.2.2 ≤ rc) && !reads side a.2.2.2.2
    | none => false
  onHops + latched.length

/-- Whether code without branches has a safe point that is certain to find more than 25 words at an isle: a SAFEPT on every isle in one rc. -/
def Image.surelyDeep (i : Image) (bodies : List Body) : Bool :=
  let runs := (List.range (i.w * i.h)).map fun n => straightFrom (bodies.getD n []) 4096 i.entry 0
  let stop := (runs.map (·.2)).foldl min ((runs.head?.map (·.2)).getD 0)
  let kept := runs.map fun r => r.1.filter fun b => decide (b.rc < stop)
  let live := i.certain kept
  ((kept.headD []).filter fun b => b.safe && kept.all (·.any fun c => c.safe && c.rc == b.rc)).any fun b =>
    (rectangle i.w i.h).any fun q => decide (25 < i.certainAt kept live q.1 q.2 b.rc)

/-- Whether no safe point can find more than 25 words latched at an isle or on hops that end at it (R287): decided by the routes, seams and
latencies where they bound the words, and by code without branches that is certain to pass the bound (log 7). -/
def Image.drainsOk (i : Image) (bodies : List Body) : Bool :=
  (rectangle i.w i.h).all (fun c => decide (i.wordsAt (i.feeds bodies) c.1 c.2 ≤ 25)) ||
    (!i.surelyDeep bodies &&
      !Config.drainTooDeep ([i.w, i.h] ++ i.lat ++ i.seams.flatMap fun m => [m.boundary, if m.rowAxis then 1 else 0, m.latency]) bodies)

end Sys2Proof.Machine
end

