-- ==== Sys2Proof/Machine/Slots.lean ====
section
/-! DEFINITION. The launch table (R333-R340, R346): slots, host commands on them, arming and its checks, dependences, and how a
slot ends. -/

namespace Sys2Proof.Machine

/-! ## Slots -/

/-- A launch slot; one that is not listed is FREE with every field zero (R333). -/
def State.slotAt (s : State) (n : Nat) : LSlot := (s.slots.find? (·.n == n)).getD { n := n }

/-- A launch slot changed. -/
def State.onSlot (s : State) (n : Nat) (f : LSlot → LSlot) : State :=
  if s.slots.any (·.n == n) then { s with slots := s.slots.map fun x => if x.n == n then f x else x }
  else { s with slots := s.slots ++ [f { n := n }] }

/-- STATE's code (R335). -/
def SlotSt.code : SlotSt → Nat
  | .free => 0 | .writing => 1 | .armed => 2 | .ready => 3 | .placed => 4 | .running => 5 | .suspending => 6 | .suspended => 7
  | .retiring => 8 | .retired => 9 | .faulted => 10

/-- The state that a code names; none where it is reserved. -/
def slotStOf : Nat → Option SlotSt
  | 0 => some .free | 1 => some .writing | 2 => some .armed | 3 => some .ready | 4 => some .placed | 5 => some .running
  | 6 => some .suspending | 7 => some .suspended | 8 => some .retiring | 9 => some .retired | 10 => some .faulted
  | _ => none

/-- The state word (R335). -/
def LSlot.word (x : LSlot) : Nat :=
  x.rid % 512 * 2 ^ 48 + x.die % 8 * 2 ^ 45 + x.ctx % 4 * 2 ^ 43 + x.eprio % 8 * 2 ^ 40 + x.freason % 256 * 2 ^ 32 + x.fcause % 256 * 2 ^ 24 +
    x.wfn % 256 * 2 ^ 16 + (if x.hreq then 2 ^ 15 else 0) + (if x.greq then 2 ^ 14 else 0) + (if x.dreq then 2 ^ 13 else 0) + x.st.code

/-- A field of a slot record, by offset and length (R334). -/
def LSlot.fld (x : LSlot) (o n : Nat) : Nat := x.record.rdN o n
/-- ASID of a slot record. -/
def LSlot.asid (x : LSlot) : Nat := x.fld 0x10 2
/-- PRIO of a slot record. -/
def LSlot.prio (x : LSlot) : Nat := x.fld 0x12 1 % 8
/-- CBAR of a slot record. -/
def LSlot.cbar (x : LSlot) : Nat := x.fld 0x20 8
/-- SAVE of a slot record. -/
def LSlot.save (x : LSlot) : Nat := x.fld 0x38 8
/-- Whether a suspension is requested. -/
def LSlot.wanted (x : LSlot) : Bool := x.hreq || x.greq || x.dreq
/-- EPRIO of a slot that waits, at a tick of 2 GHz: one level more for each 100 µs since it last entered READY (R341). -/
def LSlot.effective (x : LSlot) (now : Nat) : Nat := min 7 (x.prio + (now - x.readyAt) / 200000)

/-- The window in which FEATACCEPT may be written closes (R363): where no write has been made it latches as zero. -/
def State.closeFeatures (s : State) (n : Nat) : State :=
  match s.partOfSlot n with
  | some p => s.onPart p.pid fun p => { p with featOpen := false }
  | none => s

/-! ## Completion (R346) -/

/-- The arrival on a slot's completion barrier, through its ASID (R52, R330, R346): one that meets a fault or a misuse is not made. -/
def State.arriveCbar (s : State) (n : Nat) : State :=
  let x := s.slotAt n
  match s.partOfSlot n with
  | none => s
  | some p =>
    if x.cbar = 0 ∨ x.cbar % 16 ≠ 0 then s
    else
      let s := s.touch x.asid p.pid ((BarUpd.arrive 0).asked x.cbar false)
      match s.barAt x.asid p.pid x.cbar false (.arrive 0) with
      | .ok t => t
      | .uncorrectable u => s.uncorrectable u
      | .misuse _ => s
      | .xfault _ => s

/-- The signal to the function that armed a slot, or for LAUNCH to the partition's physical function (R346). -/
def State.signalSlot (s : State) (n : Nat) : State :=
  match s.partOfSlot n with
  | none => s
  | some p => s.completion (if (s.slotAt n).wfn = 0xFF then p.pf else (s.slotAt n).wfn) p.msicoal

/-- A slot without a context enters FAULTED: fault record, arrival, signal (R336, R338, R346). -/
def State.faultSlot (s : State) (n fcause freason : Nat) : State :=
  ((s.onSlot n fun x => { x with st := .faulted, fcause := fcause, freason := freason }).arriveCbar n).signalSlot n

/-- A slot becomes READY (R336), and its wait for placement begins (R341). -/
def LSlot.enterReady (x : LSlot) (now : Nat) : LSlot := { x with st := .ready, readyAt := now, eprio := x.prio }

/-! ## Images as ARMED reads them (R338, R364, R365) -/

/-- The fields of an image header that ARMED looks at (R108): MAGIC and HVER, then class, W, H, CHANNELS, FEATURES, PREF. -/
structure ImgHead where
  good : Bool
  cls : Nat
  w : Nat
  h : Nat
  chans : Nat
  features : Nat
  pref : Nat
  deriving DecidableEq, Repr

/-- An image header's fields for ARMED. -/
def imgHead (l : List Byte) : ImgHead :=
  { good := le4 l 0 == 0x314B564F && le2 l 4 == 1, cls := le2 l 6 % 2, w := byteAt l 8, h := byteAt l 9, chans := le2 l 10
    features := le8 l 0x10, pref := byteAt l 0x1E }

/-- The number of a partition's channels of a class's pool (R15). -/
def Part.poolSize (p : Part) (cls : Nat) : Nat := (p.chans.filter fun c => if cls = 0 then decide (c < 256) else decide (256 ≤ c)).length

/-- Whether an image of a fat object matches (R365). -/
def ImgHead.matches (i : ImgHead) (p : Part) (x : LSlot) (target : Nat) : Bool :=
  target == 2 && i.good && (i.features &&& p.featAccept) == i.features && i.cls == x.fld 0x16 1 && i.w == x.fld 0x14 1 && i.h == x.fld 0x15 1 &&
    decide (i.chans ≤ p.poolSize i.cls)

/-- The images of a fat object that match: PREF, index and VA; a read that fails ends the search. -/
def State.fatMatches (s : State) (p : Part) (x : LSlot) (va : Nat) (hdr : List Byte) : Nat → Except VaFault (List (Nat × Nat × Nat))
  | 0 => .ok []
  | n + 1 =>
    match State.fatMatches s p x va hdr n with
    | .error f => .error f
    | .ok l =>
      let off := le8 hdr (0x20 + 16 * n)
      let target := le4 hdr (0x28 + 16 * n)
      if target ≠ 2 then .ok l
      else
        match s.readVa x.asid p.pid ((va + off) % 2 ^ 64) 256 with
        | .error f => .error f
        | .ok h =>
          let i := imgHead h
          .ok (if i.matches p x target then l ++ [(i.pref, n, (va + off) % 2 ^ 64)] else l)

/-- The best of the images that match: highest PREF, then lowest index (R365). -/
def bestImage (l : List (Nat × Nat × Nat)) : Option Nat :=
  (l.foldl (fun (acc : Option (Nat × Nat × Nat)) x =>
    match acc with
    | none => some x
    | some y => if y.1 < x.1 then some x else acc) none).map (·.2.2)

/-- FREASON of a slot that cannot go on (R338), with the unit of the uncorrectable error behind it, where one is. -/
abbrev Turned := Nat × Option ErrUnit

/-- FREASON 0x06: a read has failed. -/
def VaFault.turned (f : VaFault) : Turned := (0x06, f.unit)

/-- Whether a fat object's header keeps its layout (R364). -/
def fatHeadOk (h : List Byte) : Bool :=
  le4 h 0 == 0x54464B4F && le2 h 4 == 1 && decide (1 ≤ le2 h 6 ∧ le2 h 6 ≤ 64) && allZero (h.drop 8)

/-- The choice of an image from a fat object: its VA, or FREASON (R364, R365). -/
def State.chooseFat (s : State) (p : Part) (x : LSlot) (va : Nat) : Except Turned Nat :=
  match s.readVa x.asid p.pid va 32 with
  | .error f => .error f.turned
  | .ok h =>
    let n := le2 h 6
    if !fatHeadOk (h.take 32) then .error (0x04, none)
    else
      match s.readVa x.asid p.pid va (32 + 16 * n) with
      | .error f => .error f.turned
      | .ok hdr =>
        if (List.range n).any fun i => le4 hdr (0x2C + 16 * i) != 0 then .error (0x04, none)
        else
          match s.fatMatches p x va hdr n with
          | .error f => .error f.turned
          | .ok l => (match bestImage l with | some v => .ok v | none => .error (0x04, none))

/-- Reserved bits of a slot record (R334). -/
def LSlot.reserved (x : LSlot) : Bool :=
  x.fld 0x12 1 / 8 != 0 || x.fld 0x13 1 / 8 != 0 || x.fld 0x16 1 / 2 != 0

/-- A record that fails its own checks (R338): FREASON 0x03. -/
def State.badRecord (s : State) (p : Part) (x : LSlot) : Bool :=
  x.reserved || !(s.asids.any fun a => a.1 == x.asid && a.2.1 == p.pid) ||
    [x.fld 8 8, x.cbar, x.fld 0x28 8, x.fld 0x30 8, x.save].any (fun v => decide (2 ^ 52 ≤ v)) || x.save % 65536 != 0

/-- The checks of ARMED (R338): the VA of the chosen image, or FREASON. -/
def State.armCheck (s : State) (p : Part) (x : LSlot) : Except Turned Nat :=
  let va := x.fld 8 8
  if s.badRecord p x then .error (0x03, none)
  else if bit (x.fld 0x13 1) 0 then s.chooseFat p x va
  else
    match s.readVa x.asid p.pid va 256 with
    | .error f => .error f.turned
    | .ok l =>
      let i := imgHead l
      if !i.good then .error (0x02, none)
      else if i.w ≠ x.fld 0x14 1 ∨ i.h ≠ x.fld 0x15 1 ∨ i.cls ≠ x.fld 0x16 1 then .error (0x03, none)
      else .ok va

/-- What the checks of ARMED read: VA and length of each part. -/
def State.armReads (s : State) (p : Part) (x : LSlot) : List (Nat × Nat) :=
  let va := x.fld 8 8
  if s.badRecord p x then []
  else if bit (x.fld 0x13 1) 0 then
    (va, 32) :: (match s.readVa x.asid p.pid va 32 with
      | .error _ => []
      | .ok h =>
        let n := le2 h 6
        if !fatHeadOk (h.take 32) then []
        else
          (va, 32 + 16 * n) :: match s.readVa x.asid p.pid va (32 + 16 * n) with
            | .error _ => []
            | .ok l => ((List.range n).filter fun i => le4 l (0x28 + 16 * i) == 2).map fun i => ((va + le8 l (0x20 + 16 * i)) % 2 ^ 64, 256))
  else [(va, 256)]

/-! ## Dependences (R339) -/

/-- One dependence looked at as it stands: satisfied, open, or a fault of its walk (R338 reason 0x06). -/
def State.lookDep (s : State) (x : LSlot) (k : Nat) : Except Turned Bool :=
  match s.dependence x k with
  | none => .ok true
  | some (.error _, _) => .error (0x06, none)
  | some (.ok pl, ph) => if s.poisoned pl then .error (0x06, some pl.unit) else .ok (fld (ofLe (s.devRead pl 1)) 0 4 == ph)

/-- What the checks of a slot's arming read, zeroed where that is due (R258). -/
def State.armTouch (s : State) (p : Part) (x : LSlot) : State :=
  (s.armReads p x).foldl (fun s r => s.touchVa x.asid p.pid r.1 r.2) s

/-- The same for its dependences. -/
def State.depTouch (s : State) (p : Part) (x : LSlot) : State :=
  ([x.fld 0x28 8, x.fld 0x30 8].filter (· != 0)).foldl (fun s va => s.touchVa x.asid p.pid va 1) s

/-! ## Host commands (R336, R337, R389) -/

/-- A function may command a slot: one of the slot's partition, or a physical function (R337). -/
def State.commands (s : State) (fn slot : Nat) : Bool :=
  match s.partOfSlot slot with
  | some p => isPf fn || ((s.fn fn).pid == some p.pid && !p.resetting)
  | none => false

/-- A host command on a slot: nothing from a frozen function (R397); dropped where it is not allowed (R337). -/
def State.command (s : State) (fn slot : Nat) (ok : LSlot → Bool) (f : State → State) : State :=
  if (s.fn fn).frozen then s
  else if s.commands fn slot && ok (s.slotAt slot) then f s
  else s.dropped fn

/-- A slot armed: its checks are the next thing that the scheduler does. -/
def State.arm (s : State) (n : Nat) (f : LSlot → LSlot) : State :=
  let t := (s.closeFeatures n).onSlot n fun x => { f x with st := .armed, checked := false, found := none, dep0 := false, dep1 := false, savedMid := false }
  { t with agenda := t.agenda ++ [.dependenceSatisfied n] }

/-- SET of a slot (R336, R337). -/
def State.setSlot (s : State) (fn slot state : Nat) : State :=
  s.inOrder fn (.slotSet fn slot state) fun s => match slotStOf state with
  | some .armed =>
    s.command fn slot (fun x => x.st == .free || (x.st == .writing && x.wfn == fn)) fun s =>
      s.arm slot fun x => if x.st = .free then { x with wfn := fn } else x
  | some .free =>
    s.command fn slot (fun x => x.st == .retired || x.st == .faulted || (x.st == .writing && x.wfn == fn)) fun s =>
      { s.onSlot slot fun _ => { n := slot } with saved := s.saved.filter fun r => r.ctx.slot != slot }
  | _ => s.command fn slot (fun _ => false) id

/-- SET (R336, R337). -/
def execSlotSet (fn slot state : Nat) (s : State) : Out := .next (s.setSlot fn slot state)

/-- One byte of a record written through the launch window (R336, R337). -/
def State.recordWrite (s : State) (fn slot off : Nat) (x : Byte) : State :=
  s.inOrder fn (.hostRecordWrite fn slot off x) fun s => s.command fn slot (fun y => 8 ≤ off && decide (off < 128) && (y.st == .free || (y.st == .writing && y.wfn == fn))) fun s =>
    (s.closeFeatures slot).onSlot slot fun y =>
      { y with st := .writing, wfn := if y.st = .free then fn else y.wfn, record := y.record.wr off x }

/-- HOST_RECORD_WRITE (R336, R337). -/
def execHostRecordWrite (fn slot off : Nat) (x : Byte) (s : State) : Out := .next (s.recordWrite fn slot off x)

/-- A requester's bit set or cleared (R337): HREQ for a physical function, GREQ for a virtual one. -/
def LSlot.request (x : LSlot) (fn : Nat) (on : Bool) : LSlot := if isPf fn then { x with hreq := on } else { x with greq := on }

/-- A request that the context of a slot has still to serve (R50): a switch of its region, while it is selected, or its own suspension. -/
def State.pressed (s : State) (n : Nat) : Bool :=
  s.allCtx.any fun c => c.slot == n && match s.region c.rid with
    | some r => (r.switchReq && r.act == some c.ctxid) || r.preempt.contains n
    | none => false

/-- A slot that has a context becomes SUSPENDING: the request is recorded with its region (R344), and the bounds of R50 run from it unless an
earlier one stands. -/
def State.beginSuspend (s : State) (n : Nat) : State :=
  let x := s.slotAt n
  let t := s.onSlot n fun x => { x with st := .suspending }
  let u := t.onRegion x.rid fun r => { r with preempt := if r.preempt.contains n then r.preempt else r.preempt ++ [n] }
  let fresh : State := u.withSlot n fun s => s.onCtx fun c => { c with sinceSafe := 0, overdue := 0, reqAt := s.now }
  { (if s.pressed n then u else fresh) with agenda := u.agenda ++ [.suspensionRequest n] }

/-- SUSPEND of a slot (R336, R337): R336 lists none in SUSPENDED, where it has no effect (log 65). -/
def State.suspendSlot (s : State) (fn slot : Nat) : State :=
  s.inOrder fn (.suspend fn slot) fun s => s.command fn slot (fun x => [SlotSt.armed, .ready, .placed, .running, .suspending, .suspended].contains x.st) fun s =>
    let t := s.onSlot slot (·.request fn true)
    match (s.slotAt slot).st with
    | .ready => t.onSlot slot fun x => { x with st := .suspended }
    | .placed => t.beginSuspend slot
    | .running => t.beginSuspend slot
    | .suspended => s
    | _ => t

/-- SUSPEND (R336, R337). -/
def execSuspend (fn slot : Nat) (s : State) : Out := .next (s.suspendSlot fn slot)

/-- A slot that no requester holds leaves SUSPENDED (R336, R348). -/
def State.unsuspend (s : State) (n : Nat) : State :=
  s.onSlot n fun x => if x.st = .suspended ∧ !x.wanted then x.enterReady s.now else x

/-- RESUME of a slot (R336, R337, R348). -/
def State.resumeSlot (s : State) (fn slot : Nat) : State :=
  s.inOrder fn (.resume fn slot) fun s => s.command fn slot (fun x => [SlotSt.armed, .ready, .placed, .running, .suspending, .suspended].contains x.st) fun s =>
    (s.onSlot slot (·.request fn false)).unsuspend slot

/-- RESUME (R336, R337, R348). -/
def execResume (fn slot : Nat) (s : State) : Out := .next (s.resumeSlot fn slot)

/-- LAUNCH_REACHES_TABLE (R309, R336, R340): the record written and the slot armed in one step, or 0x85 recorded. -/
def execLaunchReachesTable (op : Nat) (s : State) : Out :=
  .next (s.withOp op fun o s =>
    match o.kind with
    | .launch n l =>
      if l.length ≠ 128 ∨ !s.mayReport o then s
      else if (s.slotAt n).st ≠ .free then s.stopOp o causeBarrier 0x85 n
      else ((s.arm n fun x => { x with wfn := 0xFF, record := Mem.wrList [] (place 8 (l.drop 8)) }).dropOp o)
    | _ => s)

/-- EPRIO_AGING (R341): the state word of a READY slot shows the level that its wait has reached (log 64). -/
def execEprioAging (slot : Nat) (s : State) : Out :=
  .next (if (s.slotAt slot).st = .ready then s.onSlot slot fun x => { x with eprio := x.effective s.now } else s)

end Sys2Proof.Machine
end

