-- ==== Sys2Proof/Machine/Image.lean ====
section
/-! DEFINITION. The image that a slot runs, read through its address space and held to its declarations by the loader (R24, R25,
R106, R108, R177, R186, R202, R203, R287, R324). -/

namespace Sys2Proof.Machine

/-! ## The header (R24, R108) -/

/-- Eight seam entries from the 16 bytes of SEAMS, unused ones left out. -/
def seamsOf (l : List Byte) : List Seam :=
  ((List.range 8).filter fun i => fld (le2 l (2 * i)) 0 5 != 0).map fun i =>
    let e := le2 l (2 * i)
    { boundary := fld e 0 5, rowAxis := bit e 5, latency := fld e 6 6 }

/-- The header's fields, without the parts that its offsets name. -/
def Image.ofHeader (va : Nat) (l : List Byte) : Image :=
  { va := va, mclass := !bit (le2 l 6) 0, shared := bit (le2 l 6) 1, w := byteAt l 8, h := byteAt l 9, channels := le2 l 0x0A, id := le4 l 0x0C
    features := le8 l 0x10, spdist := le4 l 0x18, entry := le2 l 0x1C, pref := byteAt l 0x1E, seams := seamsOf (l.drop 0x20)
    footWb := le4 l 0x30, footAb := le4 l 0x34, footAcb := le4 l 0x38, lat := (List.range 32).map fun c => byteAt l (0x40 + c)
    ucount := le4 l 0x74 }

/-- Reserved bytes and bits of a header (R108). -/
def headerReserved (l : List Byte) : Bool :=
  le2 l 6 / 4 != 0 || byteAt l 0x1F != 0 || le4 l 0x3C != 0 || !allZero ((l.drop 0x88).take 0x78) ||
    (List.range 8).any fun i => fld (le2 l (0x20 + 2 * i)) 12 4 != 0

/-- A shape inside the limits of R24. -/
def Image.shapeOk (i : Image) : Bool :=
  decide (1 ≤ i.w ∧ 1 ≤ i.h) &&
    (if i.mclass then decide ((i.w ≤ 24 ∧ i.h ≤ 16) ∨ (i.w ≤ 16 ∧ i.h ≤ 24)) else decide (i.w ≤ 8 ∧ i.h ≤ 8))

/-- Seam declarations inside their limits: at most four on an axis, none repeated (R24, R108). -/
def Image.seamsOk (i : Image) : Bool :=
  i.seams.all (fun m => decide (m.boundary < (if m.rowAxis then i.h else i.w)) && decide (10 ≤ m.latency)) &&
    decide ((i.seams.map fun m => (m.rowAxis, m.boundary)).Nodup) &&
    decide ((i.seams.filter (·.rowAxis)).length ≤ 4) && decide ((i.seams.filter (!·.rowAxis)).length ≤ 4)

/-- Latency figures: nonzero in classes 0-16, zero above (R106). -/
def Image.latOk (i : Image) : Bool := (i.lat.take 17).all (· != 0) && (i.lat.drop 17).all (· == 0)

/-- The demand on the in-flight queue (R324): for each slot the largest figure among the classes that it issues, counting 4 for
slot M's buffer writes. -/
def Image.queueDemand (i : Image) : Nat :=
  let f (c : Nat) : Nat := i.lat.getD c 0
  f 0 + 2 * max (f 0) (max (f 1) (f 2)) + max 4 (max (f 3) (max (f 4) (f 5))) + ((List.range 9).map fun k => f (6 + k)).foldl max 0 + f 3 +
    max (f 15) (f 16) + f 3

/-- The declarations of a header inside their limits (R24, R25, R106, R108, R203, R324). -/
def Image.headerOk (i : Image) (l : List Byte) (accepted : Nat) : Bool :=
  le4 l 0 == 0x314B564F && le2 l 4 == 1 && !headerReserved l && i.shapeOk && decide (1 ≤ i.channels ∧ i.channels ≤ 256) &&
    (i.features &&& accepted) == i.features && decide (1 ≤ i.spdist ∧ i.spdist ≤ 262144) && decide (64 ≤ i.entry ∧ i.entry < 4096) &&
    i.seamsOk && [i.footWb, i.footAb, i.footAcb].all (· % 256 == 0) && i.latOk && decide (i.queueDemand ≤ 64) &&
    decide (le4 l 0x64 ≤ 15 ∧ le4 l 0x6C ≤ 64 ∧ le4 l 0x74 ≤ 1024 ∧ le4 l 0x7C ≤ 256 ∧ 1 ≤ le4 l 0x84 ∧ le4 l 0x84 ≤ 256)

/-! ## Live-state lists and the overlay directory (R202, R203) -/

/-- How many registers or flags a KIND of a live-state item names. -/
def liveCount (kind : Nat) : Nat := [32, 32, 8, 32, 8, 16, 8, 32].getD kind 0

/-- The buffer that a KIND of a live-state item names. -/
def liveBuf : Nat → Option Buf
  | 8 => some .wb
  | 9 => some .ab
  | 10 => some .acb
  | _ => none

/-- A live-state item from its 64 bits. -/
def LiveItem.ofNat (w : Nat) : LiveItem := { kind := fld w 60 4, len := fld w 32 28, mask := fld w 0 32 }

/-- Whether an item keeps its layout and lies inside the footprints (R202). -/
def Image.itemOk (i : Image) (x : LiveItem) : Bool :=
  match liveBuf x.kind with
  | some u => x.mask % 256 == 0 && decide (x.mask + 256 * x.len ≤ i.foot u)
  | none => decide (x.kind ≤ 7) && x.len == 0 && decide (x.mask < 2 ^ liveCount x.kind)

/-- An overlay entry from its 16 bytes (R203). -/
def OvlEnt.ofBytes (l : List Byte) : OvlEnt :=
  { ovl := byteAt l 0, first := le2 l 2, count := le2 l 4, isle := if le2 l 6 = 0xFFFF then none else some (le2 l 6), code := le4 l 8 }

/-- Whether an overlay entry keeps its layout. -/
def Image.ovlOk (i : Image) (l : List Byte) (e : OvlEnt) : Bool :=
  byteAt l 1 == 0 && le4 l 12 == 0 && decide (1 ≤ e.count ∧ e.count ≤ 4096 ∧ e.first + e.count ≤ 4096) &&
    (match e.isle with | some n => decide (n < i.w * i.h) | none => true)

/-- The overlay of a number that serves an isle. DESIGN CHOICE (log 77): where the isle has an entry of its own and one serves every isle, the
first in the directory's order. -/
def Image.ovlFor (i : Image) (n isle : Nat) : Option OvlEnt := i.ovls.find? fun e => e.ovl == n && e.isle.getD isle == isle

/-- Overlay numbers unique per entry and isle selector; overlay 0 covers the trap page and ENTRY on every isle (R203). -/
def Image.ovlsOk (i : Image) : Bool :=
  decide ((i.ovls.map fun e => (e.ovl, e.isle)).Nodup) &&
    (List.range (i.w * i.h)).all fun n =>
      match i.ovlFor 0 n with
      | some e => e.first == 0 && decide (64 ≤ e.count ∧ i.entry < e.count)
      | none => false

/-! ## Reading an image -/

/-- Groups of n bytes. -/
def chunksOf (n : Nat) : Nat → List Byte → List (List Byte)
  | 0, _ => []
  | k + 1, l => l.take n :: chunksOf n k (l.drop n)

/-- The bytes of a part of an image, FREASON 0x06 where a read fails (R338). -/
def State.imageBytes (s : State) (x : LSlot) (pid off n : Nat) : Except Turned (List Byte) :=
  match s.readVa x.asid pid ((x.chosen + off) % 2 ^ 64) n with
  | .ok l => .ok l
  | .error f => .error f.turned

/-- The live-state lists that descriptors name. -/
def State.readLists (s : State) (x : LSlot) (pid : Nat) : List (List Byte) → Except Turned (List (List LiveItem))
  | [] => .ok []
  | d :: t =>
    if le2 d 6 ≠ 0 then .error (0x02, none)
    else
      match s.imageBytes x pid (le4 d 0) (8 * le2 d 4), State.readLists s x pid t with
      | .error r, _ => .error r
      | _, .error r => .error r
      | .ok l, .ok r => .ok (((chunksOf 8 (le2 d 4) l).map fun i => LiveItem.ofNat (ofLe i)) :: r)

/-- The bundles of overlays. -/
def State.readCode (s : State) (x : LSlot) (pid : Nat) : List OvlEnt → Except Turned (List (OvlEnt × List (Nat × BitVec 256)))
  | [] => .ok []
  | e :: t =>
    match s.imageBytes x pid e.code (32 * e.count), State.readCode s x pid t with
    | .error r, _ => .error r
    | _, .error r => .error r
    | .ok l, .ok r => .ok ((e, bundlesOf e.first e.count l) :: r)

/-- Offset and length of the parts that a header names: live-state lists, routine table, microstore, templates, overlay directory (R108). -/
def tableParts (l : List Byte) : List (Nat × Nat) :=
  [(le4 l 0x60, 8 * le4 l 0x64), (le4 l 0x68, 8 * le4 l 0x6C), (le4 l 0x70, 8 * le4 l 0x74), (le4 l 0x78, 64 * le4 l 0x7C), (le4 l 0x80, 16 * le4 l 0x84)]

/-- An image's tables, its header held to R24 and R108. -/
def State.readTables (s : State) (x : LSlot) (pid accepted : Nat) : Except Turned (Image × Bool) :=
  match s.imageBytes x pid 0 256 with
  | .error r => .error r
  | .ok l =>
    let i := Image.ofHeader x.chosen l
    if !i.headerOk l accepted then .error (0x02, none)
    else
      match (tableParts l).mapM fun r => s.imageBytes x pid r.1 r.2 with
      | .error r => .error r
      | .ok parts =>
        let part (k : Nat) : List Byte := parts.getD k []
        let live := part 0
        let rt := part 1
        let us := part 2
        let tm := part 3
        let ov := part 4
        (match s.readLists x pid (chunksOf 8 (le4 l 0x64) live) with
        | .error r => .error r
        | .ok lists =>
          let ents := chunksOf 16 (le4 l 0x84) ov
          let words (n : Nat) (b : List Byte) : List W64 := (chunksOf 8 n b).map fun w => BitVec.ofNat 64 (ofLe w)
          let img : Image :=
            { i with
              live := lists, rtab := (words (le4 l 0x6C) rt).map entryBits, ucode := words (le4 l 0x74) us
              tmpl := (chunksOf 64 (le4 l 0x7C) tm).map fun w => BitVec.ofNat 512 (ofLe w), ovls := ents.map OvlEnt.ofBytes }
          .ok (img, ents.all (fun e => img.ovlOk e (OvlEnt.ofBytes e)) && lists.all (·.all img.itemOk) && img.ovlsOk))

/-! ## What the loader tests in the code (R25, R177, R186, R287) -/

/-- The two bundles that begin every trap page, every other slot NOP (R177). -/
def trapPageOk (code : List (Nat × BitVec 256)) : Bool :=
  let is (n : Nat) (w : W32) : Bool :=
    match code.find? (·.1 == n) with
    | some b => bundleWord b.2 .C == w && [SlotId.A, .B, .M, .V, .X, .N, .D].all fun k =>
        match decodeSlot k (bundleWord b.2 k) with
        | .ok (.nop _) => true
        | _ => false
    | none => false
  is 0 0x04801000#32 && is 1 0x04802010#32

/-- Whether every SAFEPT of a list of bundles names a list that the image has (R186). -/
def safeptsOk (lists : Nat) (code : List (Nat × BitVec 256)) : Bool :=
  code.all fun b =>
    match decodeSlot .C (bundleWord b.2 .C) with
    | .ok (.safept _ _ n) => decide (n.val ≤ lists)
    | _ => true

/-- The tests of an image's bundles. -/
def Image.codeOk (i : Image) (code : List (OvlEnt × List (Nat × BitVec 256))) : Bool :=
  let of_ (n : Nat) : List (OvlEnt × List (Nat × BitVec 256)) := code.filter fun c => c.1.isle.getD n == n
  let bodies := (List.range (i.w * i.h)).map fun n => (of_ n).flatMap (·.2)
  (List.range (i.w * i.h)).all (fun n => match (of_ n).find? (·.1.ovl == 0) with | some c => trapPageOk c.2 | none => false) &&
    code.all (fun c => safeptsOk i.live.length c.2) && bodies.dedup.all (pathsOk i.entry i.spdist) && i.drainsOk bodies

/-- The image of a slot as the loader accepts it, or FREASON (R25, R338). -/
def State.loadImage (s : State) (x : LSlot) (p : Part) : Except Turned Image :=
  match s.readTables x p.pid p.featAccept with
  | .error r => .error r
  | .ok (i, ok) =>
    if !ok then .error (0x02, none)
    else
      match s.readCode x p.pid i.ovls with
      | .error r => .error r
      | .ok code => if i.codeOk code then .ok i else .error (0x02, none)

/-- What is read of an image (R338): offset and length of each part that its header, its live-state descriptors and its overlay directory name. -/
def State.imageReads (s : State) (x : LSlot) (p : Part) : List (Nat × Nat) :=
  (0, 256) :: match s.imageBytes x p.pid 0 256 with
    | .error _ => []
    | .ok l =>
      if !(Image.ofHeader x.chosen l).headerOk l p.featAccept then []
      else
        let named (o n k : Nat) (f : List Byte → Nat × Nat) : List (Nat × Nat) :=
          match s.imageBytes x p.pid (le4 l o) (k * le4 l n) with
          | .error _ => []
          | .ok d => (chunksOf k (le4 l n) d).map f
        tableParts l ++ named 0x60 0x64 8 (fun d => (le4 d 0, 8 * le2 d 4)) ++ named 0x80 0x84 16 fun d => (le4 d 8, 32 * le2 d 4)

/-- The frames that a slot's image is read from, zeroed where that is due (R258). -/
def State.imageTouch (s : State) (x : LSlot) (p : Part) : State :=
  (s.imageReads x p).foldl (fun s r => s.touchVa x.asid p.pid ((x.chosen + r.1) % 2 ^ 64) r.2) s

/-! ## ARMED (R336, R338, R339) -/

/-- What the image's reads in ARMED give (R338): FREASON 0x06 where one fails, else the slot with what the loader, which judges it in READY, finds
of the image. -/
def State.armLoad (s : State) (p : Part) (x : LSlot) : Except Turned LSlot :=
  match (s.imageReads x p).mapM fun r => s.imageBytes x p.pid r.1 r.2 with
  | .error r => .error r
  | .ok _ => .ok { x with found := some (s.loadImage x p).toOption }

/-- DEPENDENCE_SATISFIED (R336, R338, R339): an armed slot is checked and its image read, its dependences tested at arming, and with every
dependence satisfied it becomes READY, or SUSPENDED where a requester bit is set. -/
def State.tryReady (s : State) (n : Nat) : State :=
  let x := s.slotAt n
  match s.partOfSlot n with
  | none => s
  | some p =>
    if x.st ≠ .armed then s
    else
      let go (s : State) (d0 d1 : Bool) : State :=
        s.onSlot n fun x =>
          let x := { x with dep0 := d0, dep1 := d1 }
          if d0 && d1 then (if x.wanted then { x with st := .suspended } else x.enterReady s.now) else x
      if x.checked then go s x.dep0 x.dep1
      else
        let s := s.armTouch p x
        match s.armCheck p x with
        | .error r => (s.blame r.2).faultSlot n 0 r.1
        | .ok va =>
          let y := { x with checked := true, chosen := va }
          let s := s.imageTouch y p
          match s.armLoad p y with
          | .error r => (s.blame r.2).faultSlot n 0 r.1
          | .ok y =>
            let s := s.depTouch p x
            match s.lookDep x 0, s.lookDep x 1 with
            | .ok a, .ok b => go (s.onSlot n fun _ => y) a b
            | .error r, _ => (s.blame r.2).faultSlot n 0 r.1
            | _, .error r => (s.blame r.2).faultSlot n 0 r.1

/-- DEPENDENCE_SATISFIED. -/
def execDependenceSatisfied (slot : Nat) (s : State) : Out := .next (s.tryReady slot)

end Sys2Proof.Machine
end

