-- ==== Sys2Proof/Machine/Place.lean ====
section
/-! DEFINITION. Where a context can be placed (R27-R32, R34, R35, R204, R209, R226, R230, R312, R342). -/

namespace Sys2Proof.Machine

/-! ## Geometry -/

/-- The isles of a region: die, column, row. -/
def Region.cells (r : Region) : List (Nat × Nat × Nat) := (rectangle r.w r.h).map fun q => r.phys q.1 q.2

/-- Columns and rows of a footprint under rotation k (R28). -/
def footShape (k w h : Nat) : Nat × Nat := if k % 2 = 0 then (w, h) else (h, w)

/-- The abstract boundary onto which the strait at a grid boundary falls (R28, R31): `col` says a column boundary, at `at_` grid
columns or rows. The answer says whether it is a row boundary, and its number. -/
def abstractBoundary (k ox oy w h : Nat) (col : Bool) (at_ : Nat) : Bool × Nat :=
  match k, col with
  | 0, true => (false, at_ - ox)
  | 0, false => (true, at_ - oy)
  | 1, true => (true, ox + h - at_)
  | 1, false => (false, at_ - oy)
  | 2, true => (false, ox + w - at_)
  | 2, false => (true, oy + h - at_)
  | _, true => (true, at_ - ox)
  | _, false => (false, oy + w - at_)

/-- The straits that a footprint on the M-block spans, in the order of R349. -/
def straitsOf (ox oy fw fh : Nat) : List Nat :=
  let col := decide (ox < 12 ∧ 12 < ox + fw)
  let row := decide (oy < 8 ∧ 8 < oy + fh)
  (if col && decide (oy < 8) then [0] else []) ++ (if col && decide (8 < oy + fh) then [1] else []) ++
    (if row && decide (ox < 12) then [2] else []) ++ (if row && decide (12 < ox + fw) then [3] else [])

/-- Whether an image's declared seams accept the straits of a placement (R31): a latency is at least 10 by R24. -/
def Image.seamsAccept (i : Image) (ox oy k : Nat) : Bool :=
  let (fw, fh) := footShape k i.w i.h
  let ok (b : Bool × Nat) : Bool := i.seams.any fun m => m.rowAxis == b.1 && m.boundary == b.2
  !i.mclass ||
    ((!decide (ox < 12 ∧ 12 < ox + fw) || ok (abstractBoundary k ox oy i.w i.h true 12)) &&
      (!decide (oy < 8 ∧ 8 < oy + fh) || ok (abstractBoundary k ox oy i.w i.h false 8)))

/-! ## Room on the isles -/

/-- Bytes of WB, AB and ACB that footprints are drawn from (R204, R209). -/
def Part.room (p : Part) (mclass : Bool) : List Nat :=
  let held := if bit p.featAccept 3 then p.whRes else 0
  if mclass then [2097152 - held, 2097152 - 57344, 524288] else [4194304 - held, 8388608 - 57344, 1048576]

/-- The lowest base at which n units fit beside ranges already taken, below a capacity. -/
def firstFit (cap n : Nat) (taken : List (Nat × Nat)) : Option Nat :=
  ((0 :: taken.map fun t => t.1 + t.2).sorted (· ≤ ·)).find? fun b =>
    decide (b + n ≤ cap) && taken.all fun t => decide (b + n ≤ t.1 ∨ t.1 + t.2 ≤ b ∨ n = 0 ∨ t.2 = 0)

/-- The footprints of an image. -/
def Image.feet (i : Image) : List Nat := [i.footWb, i.footAb, i.footAcb]

/-- Bases of an image's three footprints beside resident contexts. -/
def placeFeet (i : Image) (room : List Nat) (l : List Ctx) : Option (List Nat) :=
  (List.range 3).mapM fun u =>
    firstFit (room.getD u 0) (i.feet.getD u 0) (l.map fun c => (c.footBase.getD u 0, c.image.feet.getD u 0))

/-- The pages that an image's overlays occupy on an isle (R226). -/
def Image.pagesOn (i : Image) (n : Nat) : List Nat := ((i.ovls.filter fun e => e.isle.getD n == n).flatMap (·.pages)).dedup

/-- Whether the overlays of contexts fit the 64 pages of every isle (R226). -/
def pagesFit (l : List Image) (isles : Nat) : Bool :=
  (List.range isles).all fun n => decide ((l.map fun i => (i.pagesOn n).length).sum ≤ 64)

/-! ## Kite contexts (R312) -/

/-- Whether a slot wants a kite context on a socket (R334). -/
def LSlot.wants (x : LSlot) (k : Nat) : Bool := bit (x.fld 0x13 1) (1 + k)

/-- A kite context of a partition on a socket for a launch slot: the one that its abandoned packets carry (R318), else the lowest that no
context holds, the kite has done with and no other slot's abandoned packets carry (log 33). -/
def State.freeKctx (s : State) (p : Part) (k slot : Nat) : Option Nat :=
  match (s.sock k).parked.find? (·.slot == slot) with
  | some q => some q.kctx
  | none =>
    (List.range 16).find? fun c =>
      bit p.kctx (16 * k + c) && s.allCtx.all (fun x => x.kctx k != some c) && !((s.sock k).quiesce.any (·.1 == c)) &&
        ((s.sock k).packets ++ (s.sock k).parked).all (·.kctx != c)

/-- Whether a partition can ever give a slot the kite contexts it wants (R338 reason 0x05). -/
def Part.kitesExist (p : Part) (x : LSlot) : Bool :=
  [0, 1].all fun k => !x.wants k || (fld p.kctx (16 * k) 16 != 0 && bit p.featAccept 0)

/-! ## Candidates (R342) -/

/-- A placement found: its region, whether it is new, the context number, footprints, microstore range and kite contexts. -/
structure Plan where
  region : Region
  fresh : Bool
  ctxid : Fin 4
  feet : List Nat
  ubase : Nat
  kctx0 : Option Nat
  kctx1 : Option Nat
  deriving DecidableEq, Repr

/-- The contexts of a region. -/
def State.residents (s : State) (rid : Nat) : List Ctx := s.allCtx.filter fun c => c.rid == rid

/-- A context's share of a region beside its residents: context number, footprints, microstore range, kite contexts. -/
def State.share (s : State) (p : Part) (x : LSlot) (i : Image) (r : Region) (fresh : Bool) : Option Plan :=
  let l := if fresh then [] else s.residents r.rid
  let k (n : Nat) : Option (Option Nat) := if x.wants n then (s.freeKctx p n x.n).map some else some none
  match (List.finRange 4).find? (fun c => l.all (·.ctxid != c)), placeFeet i (p.room i.mclass) l,
      firstFit 1024 i.ucount (l.map fun c => (c.ubase, c.image.ucount)), k 0, k 1 with
  | some c, some f, some u, some k0, some k1 =>
    if pagesFit (i :: l.map (·.image)) (i.w * i.h) then
      some { region := r, fresh := fresh, ctxid := c, feet := f, ubase := u, kctx0 := k0, kctx1 := k1 }
    else none
  | _, _, _, _, _ => none

/-- Whether a resident region accepts an image's class, shape, seams and channels (R342 step 2). -/
def Region.accepts (r : Region) (p : Part) (i : Image) : Bool :=
  r.pid == p.pid && r.mclass == i.mclass && r.w == i.w && r.h == i.h && i.seamsAccept r.ox r.oy r.rot && decide (i.channels ≤ r.chans.length)

/-- Whether a region's isles hold tagged overlays of an image (R53). -/
def State.tagged (s : State) (i : Image) (r : Region) : Bool :=
  s.overlays.any fun t => t.image == i.id && r.cells.contains (t.die, t.col, t.row)

/-- Whether a region lies on no isle of the defect map and spans no strait that is lasting (R30, R331). -/
def State.avoids (s : State) (r : Region) : Bool :=
  r.cells.all (fun c => !s.defects.contains c) && (!r.mclass || s.badStraits.all fun k => !bit r.straits k)

/-- A resident region that accepts a slot: one with tagged overlays, else the lowest RID. -/
def State.resident (s : State) (p : Part) (x : LSlot) (i : Image) : Option Plan :=
  let l := ((s.regions.filter fun r => r.accepts p i && s.avoids r).sorted fun a b => decide (a.rid ≤ b.rid)).filterMap fun r => s.share p x i r false
  (l.find? fun q => s.tagged i q.region) <|> l.head?

/-- The dies of a class, the M-block as one grid, with its columns and rows (R27). -/
def gridsOf (mclass : Bool) : List (Nat × Nat × Nat) := if mclass then [(0, 24, 16)] else [(4, 8, 8), (5, 8, 8)]

/-- The candidates of R342 step 3 in their order: die, rotation, origin column and row. -/
def candidates (i : Image) : List (Nat × Nat × Nat × Nat) :=
  (gridsOf i.mclass).flatMap fun g => (List.range 4).flatMap fun k =>
    let (fw, fh) := footShape k i.w i.h
    if fw ≤ g.2.1 ∧ fh ≤ g.2.2 then
      (List.range (g.2.2 - fh + 1)).flatMap fun oy => (List.range (g.2.1 - fw + 1)).map fun ox => (g.1, k, ox, oy)
    else []

/-- Whether a candidate meets R30 and R31, apart from isles taken. -/
def State.candidateOk (s : State) (p : Part) (i : Image) (taken : List (Nat × Nat × Nat)) (q : Nat × Nat × Nat × Nat) : Bool :=
  let (die, k, ox, oy) := q
  let (fw, fh) := footShape k i.w i.h
  i.seamsAccept ox oy k && (!i.mclass || (straitsOf ox oy fw fh).all fun n => bit p.straits n && !s.badStraits.contains n) &&
    (rectangle i.w i.h).all fun c =>
      let g := physGrid ox oy k i.w i.h c.1 c.2
      let cell := dieOf i.mclass die g.1 g.2
      p.isles.contains cell && !s.defects.contains cell && !taken.contains cell

/-- Channels of a class's pool that a partition owns, but for those of its regions (R15, R32). -/
def Part.freeChans (p : Part) (mclass : Bool) (held : List Nat) : List Nat :=
  (p.chans.sorted (· ≤ ·)).filter fun c => (decide (c < 256) == mclass) && !held.contains c

/-- The lowest region number that is free. -/
def State.freeRid (s : State) : Option Nat := (List.range 512).find? fun n => s.regions.all (·.rid != n)

/-- The first candidate for a new region (R342 step 3). -/
def State.newRegion (s : State) (p : Part) (i : Image) (taken : List (Nat × Nat × Nat)) (held : List Nat) : Option Region :=
  let free := p.freeChans i.mclass held
  if free.length < i.channels then none
  else
    match (candidates i).find? (s.candidateOk p i taken), s.freeRid with
    | some (die, k, ox, oy), some rid =>
      let (fw, fh) := footShape k i.w i.h
      some
        { rid := rid, mclass := i.mclass, pid := p.pid, die := (dieOf i.mclass die ox oy).1, ox := ox, oy := oy, rot := k, w := i.w, h := i.h
          straits := if i.mclass then ((straitsOf ox oy fw fh).map fun n => 2 ^ n).sum else 0
          chans := free.take i.channels, act := none, switchReq := false, preempt := [], throttled := false, ramp := false, replay := false }
    | _, _ => none

/-- A placement for an image (R342 steps 2 and 3). -/
def State.findPlan (s : State) (p : Part) (x : LSlot) (i : Image) : Option Plan :=
  s.resident p x i <|>
    ((s.newRegion p i (s.regions.flatMap (·.cells)) (s.regions.flatMap (·.chans))).bind fun r => s.share p x i r true)

/-- Whether a placement exists with every isle of the partition free (R338 reason 0x05). -/
def State.canEver (s : State) (p : Part) (x : LSlot) (i : Image) : Bool :=
  let t := { s with regions := [], others := [], ctx := {} }
  p.kitesExist x && (t.newRegion p i [] []).isSome && (placeFeet i (p.room i.mclass) []).isSome && pagesFit [i] (i.w * i.h)

/-! ## The scheduler's pass (R341, R342) -/

/-- What the scheduler finds for a READY slot: a reason to fault it, nothing for now, or a placement with its image. -/
inductive Attempt | reject (why : Turned) | pass (i : Image) | plan (i : Image) (q : Plan)
  deriving DecidableEq, Repr

/-- A slot's image for an attempt at placement: the loader's checks are made on the first, of what was read in ARMED (R338). A slot that came
READY out of a manifest is read now. -/
def State.imageOf (s : State) (p : Part) (x : LSlot) : Except Turned Image :=
  match x.image, x.found with
  | some i, _ => .ok i
  | none, some (some i) => .ok i
  | none, some none => .error (0x02, none)
  | none, none => s.loadImage x p

/-- An attempt at placement. -/
def State.attempt (s : State) (p : Part) (x : LSlot) : Attempt :=
  match s.imageOf p x with
  | .error r => .reject r
  | .ok i =>
    if !s.canEver p x i then .reject (0x05, none)
    else match s.findPlan p x i with
      | some q => .plan i q
      | none => .pass i

/-- Whether a slot is to be placed: READY with no requester bit set, and no checkpoint of its partition under way (R342, R405). -/
def Part.placing (p : Part) (x : LSlot) : Bool :=
  x.st == .ready && !x.wanted && decide (p.slotBase ≤ x.n ∧ x.n < p.slotBase + p.slotCnt) && !p.resetting &&
    (match p.ckpt with | some c => c.op != 0 | none => true)

/-- The order of R342 step 1: descending EPRIO, earliest READY entry, ascending number. -/
def LSlot.before (now : Nat) (x y : LSlot) : Bool :=
  decide (y.effective now < x.effective now) || (x.effective now == y.effective now &&
    (decide (x.readyAt < y.readyAt) || (x.readyAt == y.readyAt && decide (x.n ≤ y.n))))

/-- The slots of a partition in the order of the scheduler's pass. -/
def State.passOrder (s : State) (p : Part) : List LSlot := (s.slots.filter p.placing).sorted (LSlot.before s.now)

/-- The first slot of a partition's pass on which the scheduler acts. -/
def State.firstPlaced (s : State) (p : Part) : Option Nat :=
  ((s.passOrder p).find? fun x => match s.attempt p x with | .pass _ => false | _ => true).map (·.n)

end Sys2Proof.Machine
end

