-- ==== Sys2Proof/Machine/Save.lean ====
section
/-! DEFINITION. The isle that comes back from a save area (R48, R193, R287, R347), as Machine/Block.lean wrote it (log 20). -/

namespace Sys2Proof.Machine

/-- A stream register from its 256 bits. -/
def StreamReg.ofNat (w : Nat) : StreamReg :=
  { opened := bit w 255, write := bit w 254, buf := (sideBuf (fld w 252 2 + 1)).getD .wb, sph := bit w 251, row := fld w 236 12, col := fld w 224 12
    base := fld w 192 32, tscale := fld w 176 16, moff := fld w 160 16, soff := fld w 144 16, doff := fld w 112 32, stride := fld w 80 32
    cols := fld w 64 16, rows := fld w 48 16, kind := fld w 44 4, geom := fld w 32 12, efd := fld w 0 32 }

/-! ## Coming back -/

/-- A value of n bytes in a block. -/
def blk (m : Mem) (o n : Nat) : Nat := m.rdN o n

/-- A vector of values of n bytes each, zero where they are not live. -/
def liveVec (m : Mem) (l : Live) (kind off n w k : Nat) : Vector (BitVec w) k :=
  Vector.ofFn fun i : Fin k => if liveReg l kind i.val then BitVec.ofNat w (blk m (off + n * i.val) n) else 0

/-- A footprint from its block: the live ranges, zero elsewhere. -/
def liveFoot (m : Mem) (l : Live) (kind base len : Nat) : Mem :=
  (liveRanges l kind len).foldl (fun acc r => acc.wrList (place r.1 (m.bytes (base + r.1) r.2))) []

/-- The entries of a drain area. -/
def drainsOf (m : Mem) : List Drained := (List.range (min 25 (blk m 0x2800 1))).map fun i => Drained.ofNat (blk m (0x2860 + 160 * i) 160)

/-- The bits of a system register that a save area may set: the reserved ones read as zero whatever is written there (R6, R7, R196, R199). -/
def sysMask : SysReg → W64
  | .tcause => 0xFF#64
  | .tslot => 0x0FFF000F#64
  | .tcause2 => 0x1FF#64
  | .bkpt _ => ~~~0x3F000#64
  | _ => BitVec.allOnes 64

/-- The isle that a block gives, on the isle as the device kept it (log 20): what no stated layout holds comes from there. -/
def Isle.restored (c : Isle) (i : Image) (l : Live) (rc : Nat) (m : Mem) : Isle :=
  let sys (r : SysReg) : W64 := BitVec.ofNat 64 (blk m (0x25C0 + 8 * r.num) 8) &&& sysMask r
  let w := blk m 0x25B0 8
  let n0 := Isle.start c.px c.py (fld w 16 12)
  { n0 with
    a := liveVec m l 0 0 8 64 32, b := liveVec m l 1 0x100 8 64 32
    p := Vector.ofFn fun k : Fin 8 => k == 0 || (liveReg l 2 k.val && bit (blk m 0x22E0 1) k.val)
    v := liveVec m l 3 0x200 256 2048 32, tag := liveVec m l 3 0x2200 4 32 32, vm := liveVec m l 4 0x2280 8 64 8
    mp := liveVec m l 6 0x22C0 4 32 8
    st := Vector.ofFn fun k : Fin 16 => if liveReg l 5 k.val then StreamReg.ofNat (blk m (0x2300 + 32 * k.val) 32) else {}
    flag := liveVec m l 7 0x2500 2 16 32
    loops := ((List.range (min 6 (fld w 0 3))).map fun k => LoopEnt.ofNat (blk m (0x2540 + 16 * k) 16)).reverse
    calls := ((List.range (min 8 (fld w 8 4))).map fun k => fld (blk m (0x25A0 + 2 * k) 2) 0 12).reverse
    ended := c.ended, stall := c.stall, wait := c.wait, waitPc := c.waitPc, bksup := c.bksup, collRecs := c.collRecs
    tcause := sys .tcause, taddr := sys .taddr, tslot := sys .tslot, tinfo := sys .tinfo, tcause2 := sys .tcause2
    srseed := sys .srseed, sbmode := if fld (sys .sbmode).toNat 0 2 = 3 then c.sbmode else (sys .sbmode).truncate 2
    perf := Vector.ofFn fun k : Fin 8 => sys (.perf k), bkpt := Vector.ofFn fun k : Fin 4 => sys (.bkpt k)
    wb := liveFoot m l 8 (i.blockFoot .wb) i.footWb, ab := liveFoot m l 9 (i.blockFoot .ab) i.footAb
    acb := liveFoot m l 10 (i.blockFoot .acb) i.footAcb
    ballast := Mem.wrList [] (place 0 (m.bytes 0x3800 4096)), btag := Vector.ofFn fun k : Fin 16 => BitVec.ofNat 32 (blk m (0x4800 + 4 * k.val) 4)
    latch := Vector.ofFn fun k : Fin 4 => ((drainsOf m).find? fun d => d.rem == 0 && d.side.ix == k).map (·.word)
    fwd := Vector.ofFn fun k : Fin 4 => windowOf rc (blk m (0x2808 + 8 * k.val) 8)
    mat := { actset := bit (blk m 0x4C40 1) 0, accovf := bit (blk m 0x4C40 1) 1, done := c.mat.done
             set0 := AccSet.ofBinding (blk m 0x4C48 12), set1 := AccSet.ofBinding (blk m 0x4C60 12) }
    rtab := Vector.ofFn fun k : Fin 64 => entryBits (BitVec.ofNat 64 (blk m (0x4A40 + 8 * k.val) 8))
    ustore := (List.range i.ucount).map fun k => BitVec.ofNat 64 (blk m (0x9000 + 8 * k) 8)
    statq := ((List.range 64).map fun k => BitVec.ofNat 64 (blk m (0x4840 + 8 * k) 8)).filter (· != 0)
    imap := (List.range 64).filterMap fun p => let e := blk m (0x4C80 + 2 * p) 2; if bit e 15 then some (p, e % 256) else none }

/-- A word that comes back onto its hop (R287): what no stated layout holds comes from the word as the device kept it (log 20). -/
def Drained.resumed (d : Drained) (kept : List Trav) (px py rc id : Nat) : Trav :=
  let q := d.side.step px py
  let old := kept.find? fun t => t.dir.step t.x t.y == ((px : Int), (py : Int)) && t.dir.opp == d.side && t.due + 1 == rc + d.rem
  match old with
  | some t => { t with word := d.word, dir1 := d.dir1, left1 := d.step1, dir2 := d.dir2, left2 := d.step2 }
  | none =>
    { id := id, word := d.word, cargo := .plain, x := q.1.toNat, y := q.2.toNat, dir := d.side.opp, due := rc + d.rem - 1, dir1 := d.dir1, left1 := d.step1
      dir2 := d.dir2, left2 := d.step2, ox := q.1.toNat, oy := q.2.toNat, hops := 1 + d.step1 + d.step2, dest := .a 0, rcyc := 0 }

/-- The words on hops that the blocks of a context's isles hold. -/
def resumedWords (kept : List Trav) (rc id : Nat) : List (Isle × Mem) → List Trav
  | [] => []
  | (c, m) :: t =>
    let l := (drainsOf m).filter (·.rem != 0)
    ((List.range l.length).zip l).map (fun x => x.2.resumed kept c.px c.py rc (id + x.1)) ++ resumedWords kept rc (id + l.length) t

/-- The blocks of a save area. -/
def State.readBlocks (s : State) (asid pid base size : Nat) : List Isle → Except VaFault (List (Isle × Mem))
  | [] => .ok []
  | c :: t =>
    match s.readVa asid pid base size with
    | .error f => .error f
    | .ok l =>
      match State.readBlocks s asid pid (base + size) size t with
      | .error f => .error f
      | .ok r => .ok ((c, Mem.wrList [] (place 0 l)) :: r)

/-- A context as its save area gives it: isles, words, RCYCLE and divisors from the first isle's system registers, and templates. -/
def CtxRec.restored (r : CtxRec) (id : Nat) (l : List (Isle × Mem)) : CtxRec :=
  let i := r.ctx.image
  let m0 := (l.head?.map (·.2)).getD []
  let live := i.liveList (r.ctx.safeList.getD 0)
  let rc := blk m0 (0x25C0 + 8 * SysReg.num .rcycle) 8
  let d := blk m0 (0x25C0 + 8 * SysReg.num .clkd) 8
  { ctx := { r.ctx with
      rcycle := rc, div := Vector.ofFn fun k : Fin 4 => fld d (4 * k.val) 3 + 1
      tmpl := (List.range r.ctx.tmpl.length).map fun k => BitVec.ofNat 512 (blk m0 (0x5000 + 64 * k) 64)
      words := resumedWords r.ctx.words rc id l }
    isles := l.map fun x => x.1.restored i live rc x.2 }

end Sys2Proof.Machine
end

