-- ==== Sys2Proof/Machine/Launch.lean ====
section
/-! DEFINITION. From placement to the end of a context (R34-R36, R48-R54, R226, R330, R336-R348): placement and resumption, the region's
selector, suspension and relocation, overdue safe points, retirement and teardown. -/

namespace Sys2Proof.Machine

/-! ## Contexts come and go -/

/-- A context that becomes live, brought into focus. -/
def State.addCtx (s : State) (r : CtxRec) : State :=
  { s with others := if s.ctx.live then s.focusRec :: s.others else s.others }.unpack r

/-- The wait-for entries of a slot are removed (R359). -/
def State.forgetWaits (s : State) (n : Nat) : State :=
  { s with waitfor := s.waitfor.filter fun e => fld e.2.toNat 112 12 != n }

/-- A region that has no live context is freed with its channels (R53, R350). -/
def State.freeRegions (s : State) : State := { s with regions := s.regions.filter fun r => s.allCtx.any (·.rid == r.rid) }

/-- The context of a slot leaves the machine; nothing stays in focus where it was. -/
def State.dropCtx (s : State) (n : Nat) : State :=
  let t : State :=
    if s.ctx.live && s.ctx.slot == n then { s with core := Isle.start 0 0 64, ctx := {}, left := [], right := [] }
    else { s with others := s.others.filter fun r => r.ctx.slot != n }
  let gone := (s.allCtx.find? (·.slot == n)).map fun c => (c.rid, c.ctxid)
  let left (r : Region) : Region :=
    if some (r.rid, r.act.getD 0) = gone then { r with preempt := r.preempt.filter (· != n), act := none, replay := false }
    else { r with preempt := r.preempt.filter (· != n) }
  ({ t with turn := t.turn.filter (· != n), regions := t.regions.map left }.forgetWaits n).freeRegions

/-- The selected context of the region of the context in focus is that context. -/
def State.selected (s : State) : Bool := ((s.region s.ctx.rid).bind (·.act)) == some s.ctx.ctxid

/-- Every isle of the context in focus has issued END (R52). -/
def State.allEnded (s : State) : Bool := s.isles.all (·.ended)

/-- No exposed-latency result is in flight on any isle of the context in focus (R47). -/
def State.noneExposed (s : State) : Bool := (List.range s.isleCount).all fun n => !(s.focusIsle n).exposed

/-- Every engine queue of the context in focus is empty (R52): results, engine words, network words, slot-D operations, releases and
kite packets. -/
def State.drained (s : State) : Bool :=
  s.noneExposed && s.ctx.words.isEmpty && s.ctx.releases.isEmpty && s.ops.all (·.slot != s.ctx.slot) &&
    s.socks.all fun x => (x.packets ++ x.parked).all (·.slot != s.ctx.slot)

/-! ## What a torn-down context leaves (R330) -/

/-- States of a slot that is live (R330 step 6). -/
def SlotSt.live : SlotSt → Bool
  | .armed => true
  | .ready => true
  | .placed => true
  | .running => true
  | .suspending => true
  | .suspended => true
  | .retiring => true
  | .free => false
  | .writing => false
  | .retired => false
  | .faulted => false

/-- The ASID of a torn-down slot loses V unless another live slot of its partition uses it (R330 step 6). -/
def State.clearAsid (s : State) (n : Nat) : State :=
  match s.partOfSlot n with
  | none => s
  | some p =>
    let a := (s.slotAt n).asid
    if s.slots.any fun x => x.n != n && x.st.live && x.asid == a && p.slotBase ≤ x.n && decide (x.n < p.slotBase + p.slotCnt) then s
    else { s with asids := s.asids.filter fun e => !(e.1 == a && e.2.1 == p.pid) }

/-- The end of a teardown, the context gone (R318, R330): nothing of it is left, not its part in a collective either (DEDUCED, log 82), and the slot
is FAULTED. -/
def State.endContext (s : State) (slot fcause freason : Nat) : State :=
  let t : State :=
    { s with
      saved := s.saved.filter (·.ctx.slot != slot)
      ops := s.ops.filter (·.slot != slot)
      contribs := s.contribs.filter fun c => c.origin.isNone || c.who.1 != slot
      socks := s.socks.map fun x => { x with parked := x.parked.filter fun q => q.slot != slot } }
  (((t.onSlot slot fun x => { x with st := .faulted, fcause := fcause, freason := freason, dying := none, savedMid := false }).arriveCbar
    slot).clearAsid slot).signalSlot slot

/-! ## Traps of a region -/

/-- DOUBLE_FAULT on the isle in focus (R328): the context is torn down with the first cause in FREASON. -/
def State.doubleFault (s : State) (first : Nat) : State :=
  (({ s with core := { s.core with tcause2 := 0x10E } } : State).uncorrectable s.isleUnit).doom s.ctx.slot 0x10 first

/-- The isle in focus takes a trap (R322, R327); a standing wait outlives the handler where RPC is unchanged (R256). An uncorrectable
handler-section sector is a double fault (R328). -/
def State.trapHere (s : State) (t : TrapRec) (rpc : Nat) : State :=
  let u : State := { s with core := s.core.takeTrap t rpc s.core.pc }
  if s.core.spoilt 3 3072 32 then u.doubleFault t.cause else u

/-! ## Overlays -/

/-- Pages that resident contexts map on an isle (R226). -/
def State.pagesHeld (s : State) (cell : Nat × Nat × Nat) : Nat :=
  ((s.regions.filter fun r => r.cells.contains cell).map fun r =>
    ((s.residents r.rid).map fun c => (c.image.pagesOn ((r.cells.findIdx? (· == cell)).getD 0)).length).sum).sum

/-- Pages of a tagged overlay. -/
def Tagged.pages (t : Tagged) : Nat := (t.code.map fun b => b.1 / 64).dedup.length

/-- Overlays kept tagged as far as the pages of their isles allow, the latest first (R53, R226). -/
def State.trimTags (s : State) : State :=
  { s with overlays := s.overlays.foldl (fun acc t =>
      let cell := (t.die, t.col, t.row)
      let held := s.pagesHeld cell + ((acc.filter fun u => (u.die, u.col, u.row) == cell).map (·.pages)).sum
      if held + t.pages ≤ 64 then acc ++ [t] else acc) [] }

/-- The resident overlays of the isle in focus become tagged (R53): those of which no page has been replaced. -/
def State.tagIsle (s : State) : State :=
  match s.here with
  | none => s
  | some (d, c, r) =>
    let ents := (s.core.imap.map (·.2)).dedup.filterMap fun o => s.ctx.image.ovlFor o s.isleIx
    let new := (ents.filter fun e => e.pages.all fun p => s.core.imap.contains (p, e.ovl)).map fun e =>
      ({ die := d, col := c, row := r, image := s.ctx.image.id, ovl := e.ovl, isle := e.isle
         code := s.core.imem.filter fun b => s.core.imap.contains (b.1 / 64, e.ovl) } : Tagged)
    { s with overlays := new ++ s.overlays.filter fun t =>
        !((t.die, t.col, t.row) == (d, c, r) && t.image == s.ctx.image.id && new.any fun u => u.ovl == t.ovl && u.isle == t.isle) }

/-- Overlays loaded on the isle in focus in order, or the read that fails. -/
def State.loadOverlays : List OvlEnt → State → Except VaFault State
  | [], s => .ok s
  | e :: t, s =>
    match s.overlayCode e with
    | .ok code => State.loadOverlays t (({ s with core := s.core.mapOverlay e code } : State).overlayTouch e)
    | .error f => .error f

/-- The map of an isle that resumes, its pages filled again from the overlays that they name (R226, R347). -/
def State.refillPages (s : State) : Except VaFault State :=
  let map := s.core.imap
  let ents := (map.map (·.2)).dedup.filterMap fun o => s.ctx.image.ovlFor o s.isleIx
  match ents.mapM fun e => (s.overlayCode e).map fun l => (e.ovl, l) with
  | .error f => .error f
  | .ok l =>
    .ok (ents.foldl State.overlayTouch
      { s with core := { s.core with imem := l.flatMap fun x => x.2.filter fun b => map.contains (b.1 / 64, x.1) } })

/-- A function that may fail applied on each of a list of isles. -/
def State.tryIsles (f : State → Except VaFault State) : List Nat → State → Except VaFault State
  | [], s => .ok s
  | n :: ns, s => (match f (s.focusIsle n) with | .ok t => State.tryIsles f ns t | .error e => .error e)

/-! ## Placement (R51, R287, R318, R336, R342) -/

/-- An isle of a context that starts (R51). -/
def LSlot.startIsle (x : LSlot) (i : Image) (q : Nat × Nat) : Isle :=
  let c := Isle.start q.1 q.2 i.entry
  { c with
    b := Vector.ofFn fun k : Fin 32 => if 1 ≤ k.val ∧ k.val ≤ 8 then BitVec.ofNat 64 (x.fld (0x38 + 8 * k.val) 8) else 0
    srseed := BitVec.ofNat 64 (x.fld 0x18 8)
    rtab := Vector.ofFn fun k : Fin 64 => i.rtab.getD k.val 0
    ustore := i.ucode }

/-- What a placement gives a context. -/
def Ctx.put (c : Ctx) (x : LSlot) (p : Part) (q : Plan) (now : Nat) : Ctx :=
  { c with
    live := true, slot := x.n, rid := q.region.rid, ctxid := q.ctxid, asid := x.asid, pid := p.pid, feat := BitVec.ofNat 64 p.featAccept
    eprio := x.effective now, cstate := .ready, since := now, sig := none, kctx0 := q.kctx0, kctx1 := q.kctx1, footBase := q.feet, ubase := q.ubase
    sinceSafe := 0, overdue := 0, safeList := some 0 }

/-- A context that starts with its image (R51). -/
def LSlot.startCtx (x : LSlot) (i : Image) : CtxRec :=
  { ctx := { image := i, tmpl := i.tmpl, safeList := some 0 }, isles := (rectangle i.w i.h).map (x.startIsle i) }

/-- The context that a placement makes live, its overlays loaded: a new one, or the one in the save area (R345); or the read that fails. -/
def State.bringIn (s : State) (x : LSlot) (p : Part) (i : Image) (q : Plan) : Except VaFault State :=
  let s := if q.fresh then { s with regions := s.regions ++ [q.region] } else s
  match if x.savedMid then s.saved.find? (·.ctx.slot == x.n) else none with
  | some r =>
    (match s.readBlocks x.asid p.pid x.save i.blockSize r.isles with
    | .error f => .error f
    | .ok l =>
      let s := s.touchVa x.asid p.pid x.save (i.blockSize * r.isles.length)
      let t := r.restored s.seq l
      let t := s.addCtx { t with ctx := t.ctx.put x p q s.now }
      let t := { t with seq := s.seq + t.ctx.words.length + 1, saved := s.saved.filter (·.ctx.slot != x.n) }
      (State.tryIsles State.refillPages (List.range t.isleCount) t).map fun u =>
        ((u.focusIsle 0).eachIsle fun s => { s with core := s.core.reloadSets }).repost)
  | none =>
    let r := x.startCtx i
    let t := s.addCtx { r with ctx := r.ctx.put x p q s.now }
    (State.tryIsles (fun s => State.loadOverlays ((s.ctx.image.ovlFor 0 s.isleIx).toList) s) (List.range t.isleCount) t).map (·.focusIsle 0)

/-- A slot placed (R342 step 5): gated isles of the region begin to wake (R382). -/
def State.placeAt (s : State) (x : LSlot) (p : Part) (i : Image) (q : Plan) : State :=
  match s.bringIn x p i q with
  | .error f => let s := s.blame f.unit; if x.savedMid then s.endContext x.n 0 0x06 else s.faultSlot x.n 0 0x06
  | .ok t =>
    let cells := q.region.cells
    let t := t.onSlot x.n fun x =>
      { x with st := .placed, rid := q.region.rid, die := q.region.die, ctx := q.ctxid.val, eprio := x.effective t.now, image := some i, savedMid := false }
    { t with
      waking := t.waking ++ cells.filter fun c => t.gated.contains c && !t.waking.contains c
      gated := t.gated.filter fun c => !cells.contains c }.trimTags

/-- A switch requested of a region (R343). -/
def State.requestSwitch (s : State) (rid : Nat) : State :=
  match s.region rid with
  | none => s
  | some r =>
    if r.switchReq ∨ r.act.isNone then s
    else
      let t := s.onRegion rid fun r => { r with switchReq := true }
      match (s.residents rid).find? (fun d => some d.ctxid == r.act && !r.preempt.contains d.slot) with
      | some d => t.withSlot d.slot fun s => s.onCtx fun c => { c with sinceSafe := 0, overdue := 0, reqAt := s.now }
      | none => t

/-- PLACEMENT (R336, R338, R342): the scheduler acts on a slot where no slot before it in its pass can be acted on. -/
def execPlacement (slot : Nat) (s : State) : Out :=
  .next (match s.partOfSlot slot with
    | none => s
    | some p =>
      let x := s.slotAt slot
      if !p.placing x ∨ ((s.passOrder p).takeWhile (·.n != slot)).any (fun y => match s.attempt p y with | .pass _ => false | _ => true) then s
      else
        let s := if x.image.isNone && x.found.isNone then s.imageTouch x p else s
        match s.attempt p x with
        | .reject r =>
          let s := s.blame r.2
          if s.saved.any (·.ctx.slot == slot) then s.endContext slot 0 r.1 else s.faultSlot slot 0 r.1
        | .pass i => s.onSlot slot fun x => { x with image := some i }
        | .plan i q => (s.placeAt x p i q).requestSwitch q.region.rid)

/-! ## The selector (R36, R343) -/

/-- The context in focus is ready for its region's selector: its wait, if any, is satisfied; one whose isles have all ended is ready
only where words of it still move, or it has a fault to raise. -/
def State.ready (s : State) : Bool :=
  match s.ctx.cstate with
  | .suspending => false
  | .waiting => false
  | _ => if s.allEnded && s.noneExposed then !s.ctx.words.isEmpty || (s.drained && !s.ctx.faults.isEmpty) else true

/-- Whether the context of a slot is ready. -/
def State.readySlot (s : State) (n : Nat) : Bool := s.hasCtx n && (s.focusSlot n).ready

/-- Whether one ready context comes before another (R343): frozen EPRIO, ready longest, lowest CTXID. -/
def Ctx.before (x y : Ctx) : Bool :=
  decide (y.eprio < x.eprio) || (x.eprio == y.eprio && (decide (x.since < y.since) || (x.since == y.since && decide (x.ctxid < y.ctxid))))

/-- The context that the selector of a region chooses: the named signaller if it is ready, else the first in order (R343). -/
def State.choose (s : State) (r : Region) : Option Ctx :=
  let l := (s.residents r.rid).filter fun c => s.readySlot c.slot
  let named := ((s.residents r.rid).find? fun c => some c.ctxid == r.act).bind (·.sig)
  (l.find? fun c => some c.ctxid.val == named) <|>
    l.foldl (fun acc c => match acc with | some d => if c.before d then some c else acc | none => some c) none

/-- A standing wait is evaluated again when its context resumes (R49). -/
def Isle.waitAgain (c : Isle) : Isle :=
  match c.wait with
  | some (.barrier ref ph sig _) => { c with wait := some (.barrier ref ph sig false) }
  | _ => c

/-- The divisors of a context loaded into its region's class dividers: where one becomes smaller, the voltage ramps first (R380). -/
def Region.loadDivs (r : Region) (c : Ctx) : Region :=
  { r with ramp := r.ramp || (List.finRange 4).any fun k => decide (c.div[k] < r.div[k]), div := c.div }

/-- A context begins to issue: a slot that is PLACED runs (R336), the engine reloads its sets (R229), its wait is evaluated again (R49), and
its divisors come into force (R380). -/
def State.begin (s : State) (c : Ctx) : State :=
  let t := s.withSlot c.slot fun s =>
    let s := s.onCtx fun c => { c with cstate := .issuing, started := true, since := s.now, sinceSafe := 0, overdue := 0, reqAt := s.now, sig := none }
    if c.started then s.eachIsle fun s => { s with core := s.core.reloadSets.waitAgain } else s
  let t := t.onRegion c.rid fun r => { r with act := some c.ctxid, switchReq := false }.loadDivs c
  t.onSlot c.slot fun x => if x.st = .placed then { x with st := .running } else x

/-- The issuing context of a region gives way (R36): ready again, or still waiting. -/
def State.yieldTo (s : State) (r : Region) (c : Ctx) : State :=
  let t := match (s.residents r.rid).find? (fun d => some d.ctxid == r.act) with
    | some d => s.withSlot d.slot fun s => s.onCtx fun d => { d with cstate := if d.cstate = CState.issuing then .ready else d.cstate, since := s.now }
    | none => s
  t.begin c

/-- The context in focus stands at a safe point: no trap of it is pending (R45). -/
def State.atSafePoint (s : State) : Bool := s.ctx.safeList.isSome && s.isles.all fun c => !c.handler

/-- Whether a region's selector may choose: no context is selected, or the selected one stands at a safe point (R42, R343). -/
def State.mayChoose (s : State) (r : Region) : Bool :=
  (s.residents r.rid).all fun c => some c.ctxid != r.act || (s.focusSlot c.slot).atSafePoint

/-- CONTEXT_SWITCH (R36, R343): the selector of a region chooses. A region with an isle that still wakes waits (R382). -/
def execContextSwitch (rid : Nat) (s : State) : Out :=
  .next (match s.region rid with
    | none => s
    | some r =>
      if !s.mayChoose r ∨ r.cells.any s.waking.contains then s
      else
        match s.choose r with
        | none => s.onRegion rid fun r => { r with switchReq := false }
        | some c =>
          if some c.ctxid = r.act then
            (s.withSlot c.slot fun s => s.onCtx fun c => { c with sinceSafe := 0, overdue := 0, reqAt := s.now }).onRegion rid fun r =>
              { r with switchReq := false }
          else s.yieldTo r c)

/-! ## Suspension and relocation (R344, R345, R348) -/

/-- No KPOST of the context in focus is on its way to a socket, so that QUIESCE finds every packet of it (R317). -/
def State.allPosted (s : State) : Bool := (s.posting 0).isEmpty && (s.posting 1).isEmpty

/-- Whether packets of the context in focus are outstanding that no QUIESCE has been sent for (R317). -/
def State.unquiesced (s : State) : Bool :=
  [0, 1].any fun k => match s.ctx.kctx k with
    | some c => (s.sock k).packets.any (·.kctx == c) && (s.sock k).quiesce.all (·.1 != c)
    | none => false

/-- SUSPENSION_REQUEST (R344): served where the context is not issuing or stands at a safe point. Its words keep the place that R286
gives them, the flag bank and the register lines are its own, and QUIESCE is sent for its kite contexts, again where a KPOST has reached its
socket since (R317). -/
def execSuspensionRequest (slot : Nat) (s : State) : Out :=
  .next (if (s.slotAt slot).st ≠ .suspending then s
    else
      let rid := (s.slotAt slot).rid
      let t := s.withSlot slot fun s =>
        if s.ctx.cstate = .suspending then (if s.allPosted && s.unquiesced then s.quiesceAll false else s)
        else if s.selected ∧ !s.atSafePoint then s
        else (if s.ctx.started then s.quiesceAll false else s).onCtx fun c => { c with cstate := .suspending }
      let served := t.hasCtx slot && (t.focusSlot slot).ctx.cstate == .suspending
      let id := (t.focusSlot slot).ctx.ctxid
      if served then
        (t.onRegion rid fun r => { r with act := if r.act = some id then none else r.act, preempt := r.preempt.filter (· != slot) }).forgetWaits slot
      else t)

/-- Whether the save area of the context in focus may be written: every ABANDON has come, and no packet is outstanding (R317, R344); operations of
slot D that others hold do not keep it (log 66). -/
def State.quietForSave (s : State) : Bool := s.ctx.cstate == .suspending && !s.awaitsAbandon && s.allPosted && !s.unquiesced

/-- SUSPENSION_COMPLETE (R336, R344, R347): the save area is written and the context leaves its region. -/
def execSuspensionComplete (slot : Nat) (s : State) : Out :=
  .next (if (s.slotAt slot).st ≠ .suspending ∨ (s.slotAt slot).dying.isSome ∨ !s.hasCtx slot then s
    else
      let t := s.focusSlot slot
      if !t.quietForSave then s
      else
        match t.writeSave (s.slotAt slot).save with
        | (u, false) => u.doom slot 0 0x06
        | (u, true) =>
          let r := u.focusRec
          let kept : CtxRec := { ctx := { r.ctx with rid := 512 }, isles := r.isles.map fun c => { c with phases := [] } }
          (({ u with saved := kept :: u.saved.filter (·.ctx.slot != slot) } : State).dropCtx slot).onSlot slot fun x =>
            let x := { x with savedMid := true }
            if x.wanted then { x with st := .suspended } else x.enterReady s.now)

/-- A suspension by the device (R336, R345). -/
def State.relocate (s : State) (n : Nat) : State :=
  match (s.slotAt n).st with
  | .placed => (s.onSlot n fun x => { x with dreq := true }).beginSuspend n
  | .running => (s.onSlot n fun x => { x with dreq := true }).beginSuspend n
  | .suspending => s.onSlot n fun x => { x with dreq := true }
  | _ => s

/-- The device clears DREQ of a slot that is SUSPENDED; the wait for placement goes on from the earlier READY entry (R341, R345). -/
def State.relocated (s : State) (n : Nat) : State :=
  s.onSlot n fun x =>
    if x.st = .suspended ∧ x.dreq then
      let y := { x with dreq := false }
      if y.wanted then y else { y with st := .ready }
    else x

/-- Whether a checkpoint holds the slots of a slot's partition suspended (R405). -/
def State.checkpointing (s : State) (n : Nat) : Bool :=
  match (s.partOfSlot n).bind (·.ckpt) with
  | some c => c.op == 0
  | none => false

/-- RELOCATION (R336, R345): its beginning for a slot that has a context, its end for one that is SUSPENDED. -/
def execRelocation (slot : Nat) (s : State) : Out :=
  .next (if (s.slotAt slot).st = .suspended then (if s.checkpointing slot then s else s.relocated slot) else s.relocate slot)

/-- Whether the context in focus, which issues, has a request standing (R50). -/
def State.requested (s : State) : Bool :=
  match s.region s.ctx.rid with
  | some r => r.switchReq || r.preempt.contains s.ctx.slot
  | none => false

/-- SAFEPOINT_OVERDUE (R50, R321): raised on abstract isle (0,0) once for a request, with the traps of the same freeze point on the other
isles (R322); the second time, and in a handler of that isle, the context is torn down (R328, R329). -/
def execSafepointOverdue (rid : Nat) (s : State) : Out :=
  .next (match (s.region rid).bind (fun r => (s.residents rid).find? fun c => some c.ctxid == r.act) with
    | none => s
    | some c =>
      let t := s.focusSlot c.slot
      if !t.requested ∨ t.atSafePoint then s
      else if c.overdue ≠ 0 ∨ (t.focusIsle 0).core.handler then s.doom c.slot 0x12 0
      else
        s.withSlot c.slot fun s =>
          let s := s.onCtx fun c => { c with overdue := 1, sinceSafe := 0, reqAt := s.now }
          let free := (s.free 0).toNat
          s.eachIsle fun s =>
            let u := s.onCore fun c => { c with early := none }
            if s.isleIx = 0 then u.trapHere { cause := 0x12, addr := free, info := 0, slot := 0, issued := false } s.core.pc
            else match s.core.early with
              | some e => u.trapHere e s.core.pc
              | none => u)

/-! ## Retirement (R52, R53, R336, R346) -/

/-- The first of the faults recorded against a context. -/
def firstFault (l : List DefFault) : Option DefFault :=
  l.foldl (fun acc d => match acc with | some e => if d.seq < e.seq then some d else acc | none => some d) none

/-- RETIREMENT (R52, R256): a context whose isles have all ended and whose queues are empty raises the faults that no wait has named,
then retires; its overlays stay tagged. -/
def execRetirement (slot : Nat) (s : State) : Out :=
  .next (if (s.slotAt slot).st ≠ .running ∨ !s.hasCtx slot then s
    else
      let t := s.focusSlot slot
      if !(t.allEnded && t.drained) ∨ t.isles.any (·.handler) ∨ t.ctx.cstate = .suspending then s
      else
        match firstFault t.ctx.faults with
        | some d =>
          if t.selected then
            s.withSlot slot fun s =>
              (s.onCtx fun c => { c with faults := c.faults.filter (· != d) }).atIsle d.px d.py fun s => s.trapHere d.trap s.core.pc
          else s
        | none =>
          let u := s.withSlot slot fun s => s.eachIsle State.tagIsle
          ((u.dropCtx slot).onSlot slot fun x => { x with st := .retiring }).trimTags)

/-- RETIREMENT_COMPLETE (R52, R336, R346). -/
def execRetirementComplete (slot : Nat) (s : State) : Out :=
  .next (if (s.slotAt slot).st = .retiring then ((s.arriveCbar slot).onSlot slot fun x => { x with st := .retired }).signalSlot slot else s)

/-! ## Teardown and KILL (R330, R336, R338) -/

/-- TEARDOWN (R256, R294, R318, R330): operations stop and packets are quiesced; when the kites have answered, the context is gone and the
slot is FAULTED. -/
def execTeardown (slot fcause freason : Nat) (s : State) : Out :=
  .next (if !s.hasCtx slot then (if s.saved.any (·.ctx.slot == slot) then s.endContext slot fcause freason else s)
    else
      let (fc, fr) := (s.slotAt slot).dying.getD (fcause, freason)
      let t := if (s.slotAt slot).dying.isSome then s
        else
          { s.withSlot slot fun s => (s.quiesceAll true).onCtx fun c => { c with cstate := .suspending, faults := [], releases := [], words := [] } with
            ops := s.ops.filter (·.slot != slot) }.onRegion (s.slotAt slot).rid fun r =>
              { r with act := if (s.residents r.rid).any (fun c => c.slot == slot && some c.ctxid == r.act) then none else r.act
                       preempt := r.preempt.filter (· != slot)
                       replay := r.replay && !(s.residents r.rid).any fun c => c.slot == slot && some c.ctxid == r.act }
      if (t.focusSlot slot).awaitsAbandon then t.onSlot slot fun x => { x with dying := some (fc, fr) }
      else (t.dropCtx slot).endContext slot fc fr)

/-- A slot killed (R336, R346): teardown where a context exists, placed or suspended. -/
def State.killSlot (s : State) (n : Nat) : State :=
  if s.hasCtx n then s.doom n 0 0x01 else if s.saved.any (·.ctx.slot == n) then s.endContext n 0 0x01 else s.faultSlot n 0 0x01

/-- KILL as a host command (R336, R337, R348). -/
def State.killCommand (s : State) (fn slot : Nat) : State :=
  s.inOrder fn (.kill fn slot) fun s =>
    s.command fn slot (fun x => [SlotSt.armed, .ready, .placed, .running, .suspending, .suspended].contains x.st) (·.killSlot slot)

/-- KILL (R336, R337, R348). -/
def execKill (fn slot : Nat) (s : State) : Out := .next (s.killCommand fn slot)

end Sys2Proof.Machine
end

