-- ==== Sys2Proof/Machine/Host.lean ====
section
/-! DEFINITION. The register block of a function (R389-R394): writes, the debug windows, what a host reads, and host memory requests
(R254, R256, R257). -/

namespace Sys2Proof.Machine

/-! ## Who writes what (R389, R396, R397, R402) -/

/-- The partition that a register of a function acts on: a virtual function's own, or the one that PFSEL names. -/
def State.actsOn (s : State) (fn : Nat) : Option Part := if isPf fn then s.part (s.fn fn).pfsel else (s.fn fn).pid.bind s.part

/-- Whether a function's partition is being reset (R396). -/
def State.fnResetting (s : State) (fn : Nat) : Bool :=
  match (s.fn fn).pid.bind s.part with
  | some p => p.resetting
  | none => false

/-- A register write of a function: nothing from a frozen one; one that a virtual function may not write, or that meets RESET, is
dropped. -/
def State.regWrite (s : State) (fn : Nat) (vf : Bool) (f : State → State) : State :=
  if (s.fn fn).frozen then s else if (!isPf fn && !vf) || s.fnResetting fn then s.dropped fn else f s

/-- A partition is locked while an interface of one of its virtual functions is CONFIG_LOCKED or RUN (R402). -/
def State.isLocked (s : State) (p : Part) : Bool := s.fns.any fun f => f.pid == some p.pid && (f.tdisp == .locked || f.tdisp == .run)

/-- A write that acts on a partition: dropped where there is none, or where the lock forbids it. -/
def State.partWrite (s : State) (fn : Nat) (vf lockable : Bool) (f : Part → State → State) : State :=
  s.regWrite fn vf fun s =>
    match s.actsOn fn with
    | none => s.dropped fn
    | some p => if lockable && s.isLocked p then s.dropped fn else f p s

/-! ## DBGSEL and RSWIN (R389, R390, R402) -/

/-- DBGSEL written. -/
def State.debugSelect (s : State) (fn : Nat) (x : Nat) : State :=
  s.regWrite fn true fun s =>
    let n := fld x 0 12
    let rid := if isPf fn then fld x 32 9 else 0
    let set (s : State) : State := s.onFn fn fun f => { f with dbgSlot := n, dbgPx := fld x 16 5, dbgPy := fld x 24 5, dbgRid := rid }
    let locked (p : Option Part) : Bool := match p with | some p => s.isLocked p | none => false
    if isPf fn then
      (if locked (s.partOfSlot n) || locked ((s.region rid).bind fun r => s.part r.pid) then s.dropped fn else set s)
    else if ((s.partOfSlot n).map (·.pid)).isSome && (s.partOfSlot n).map (·.pid) == (s.fn fn).pid then set s
    else s.dropped fn

/-- DBGSEL (R390). -/
def execDbgsel (fn : Nat) (x : W64) (s : State) : Out := .next (s.debugSelect fn x.toNat)

/-- Where RSWIN reaches for a function (R389): the slot's ASID, partition and the VA of the selected isle's register space, while the slot
is SUSPENDED with a saved context. -/
def State.window (s : State) (fn : Nat) : Option (Nat × Nat × Nat) :=
  let f := s.fn fn
  let x := s.slotAt f.dbgSlot
  match s.partOfSlot f.dbgSlot, x.image with
  | some p, some i =>
    if x.st = .suspended ∧ x.savedMid ∧ (isPf fn || f.pid == some p.pid) ∧ !(isPf fn && s.isLocked p) ∧ f.dbgPx < i.w ∧ f.dbgPy < i.h then
      some (x.asid, p.pid, x.save + (f.dbgPy * i.w + f.dbgPx) * i.blockSize)
    else none
  | _, _ => none

/-- Bytes written to the saved register space (R194, R389): dropped where the window is closed, or does not reach. -/
def State.windowWrite (s : State) (fn off : Nat) (l : List Byte) : State :=
  s.regWrite fn true fun s =>
    match s.window fn with
    | some (asid, pid, va) =>
      if off + l.length ≤ 10240 then
        (match s.writeVa asid pid (va + off) l with
        | (t, none) => t
        | (t, some f) => (t.blame f.unit).dropped fn)
      else s.dropped fn
    | none => s.dropped fn

/-- RSWIN (R194, R389): one byte of the saved register space. -/
def execRswin (fn off : Nat) (x : Byte) (s : State) : Out := .next (s.windowWrite fn off [x])

/-! ## ASIDCMD, FEATWR and XINVCMD -/

/-- An ASID of a partition's range (R392). -/
def Part.ownsAsid (p : Part) (a : Nat) : Bool := p.asidBase ≤ a && decide (a < p.asidBase + p.asidCnt)

/-- ASIDCMD written (R392). -/
def State.asidWrite (s : State) (fn : Nat) (set : Bool) (x : Nat) : State :=
  s.partWrite fn true false fun p s =>
    let a := fld x 0 16
    let named := s.slots.any fun y => y.st != .free && y.asid == a && p.slotBase ≤ y.n && decide (y.n < p.slotBase + p.slotCnt)
    if !p.ownsAsid a || fld x 48 15 != 0 || (!set && named) then s.dropped fn
    else
      let rest := s.asids.filter (·.1 != a)
      { s with asids := if set then (a, p.pid, fld x 16 32) :: rest else rest }

/-- ASIDCMD with OP 0 (R392). -/
def execAsidcmdSet (fn : Nat) (x : W64) (s : State) : Out := .next (s.asidWrite fn true x.toNat)

/-- ASIDCMD with OP 1 (R392). -/
def execAsidcmdClear (fn : Nat) (x : W64) (s : State) : Out := .next (s.asidWrite fn false x.toNat)

/-- FEATWR written (R363): the first write while every slot is FREE. -/
def State.featWrite (s : State) (fn : Nat) (x : Nat) : State :=
  s.partWrite fn false true fun p s =>
    if p.featOpen then s.onPart p.pid fun p => { p with featAccept := x &&& p.featOffer, featOpen := false } else s.dropped fn

/-- FEATWR (R363). -/
def execFeatwr (fn : Nat) (x : W64) (s : State) : Out := .next (s.featWrite fn x.toNat)

/-- Why an invalidation command is refused (R261, R262). -/
def State.badInvalidation (s : State) (fn : Nat) (p : Part) (x : Nat) : Bool :=
  let s2 := bit x 61
  (s.fn fn).xinvBusy || fld x 62 2 == 3 || fld x 52 9 != 0 || (s2 && !isPf fn) || (s2 && fld x 0 16 != 0) ||
    (s2 && fld x 62 2 != 2 && fld x 48 4 != 0) || (!s2 && !p.ownsAsid (fld x 0 16))

/-- XINVCMD written (R261, R262). Every access of the model walks the tables as they stand, so that none uses an older translation. -/
def State.invalidate (s : State) (fn : Nat) (x : Nat) : State :=
  s.partWrite fn true false fun p s =>
    s.onFn fn fun f => if s.badInvalidation fn p x then { f with xinvErr := true } else { f with xinvBusy := true }

/-- INVALIDATION (R261). -/
def execInvalidation (fn : Nat) (cmd : W64) (s : State) : Out := .next (s.invalidate fn cmd.toNat)

/-- INVALIDATION_COMPLETE (R262): not before the writes that the function had issued are visible to the walkers (R261). -/
def execInvalidationComplete (fn : Nat) (s : State) : Out :=
  .next (if s.hostWrites (·.fn == fn) then s else s.onFn fn fun f => { f with xinvBusy := false })

/-! ## The weight-handle table (R351-R354) -/

/-- Entries of a partition's weight-handle table: none where WHT is not accepted (R362). -/
def Part.handleCount (p : Part) : Nat := if bit p.featAccept 3 then p.whtCnt else 0

/-- WHTCMD written (R353). -/
def State.handleCommand (s : State) (fn : Nat) (op idx : Nat) : State :=
  s.partWrite fn false true fun p s =>
    s.onPart p.pid fun p =>
      if p.whtBusy.isSome ∨ 2 ≤ op then { p with whtErr := true, whtReason := 0x06 }
      else { p with whtBusy := some (BitVec.ofNat 64 (op * 2 ^ 62 + idx % 2 ^ 20)) }

/-- LOAD (R353). -/
def execWhtLoad (fn idx : Nat) (s : State) : Out := .next (s.handleCommand fn 0 idx)

/-- UNLOAD (R353). -/
def execWhtUnload (fn idx : Nat) (s : State) : Out := .next (s.handleCommand fn 1 idx)

/-- What a LOAD finds: the entry and the tile's bytes, or its reason (R353). -/
def State.loadHandle (s : State) (p : Part) (idx : Nat) : Except Turned (Handle × List Byte) :=
  if p.handleCount ≤ idx then .error (0x01, none)
  else
    match s.readGpa p (p.whtBase + 64 * idx) 64 with
    | .error u => .error (0x05, u)
    | .ok l =>
      let w := ofLe l
      let rwb := fld w 16 24
      let tva := fld w 128 64
      let tasid := fld w 112 16
      if !bit w 0 ∨ fld w 192 64 ≠ 0 ∨ fld w 40 40 ≠ 0 ∨ fld w 3 13 ≠ 0 ∨ rwb % 32 ≠ 0 then .error (0x01, none)
      else if !(s.asids.any fun a => a.1 == tasid && a.2.1 == p.pid) then .error (0x04, none)
      else
        match s.readVa tasid p.pid tva 32 with
        | .error f => .error (0x05, f.unit)
        | .ok hl =>
          let h := Hdr.ofNat (ofLe hl)
          let narrow := h.kind = 0 ∧ ((fmtOf h.efd).map (·.wide)).getD true = false
          if (hdrCheck 0 hl).isSome ∨ ¬ narrow then .error (0x02, none)
          else if p.whRes < rwb + h.extent then .error (0x03, none)
          else
            match s.readVa tasid p.pid tva h.extent with
            | .error f => .error (0x05, f.unit)
            | .ok body =>
              .ok ({ idx := idx, valid := true, res := true, key := fld w 80 16, kmask := fld w 96 16, bclass := bit w 2, rwb := rwb
                     hdr := BitVec.ofNat 256 (ofLe hl), tva := tva, tasid := tasid }, body)

/-- The frames that a LOAD reads, zeroed where that is due (R258). -/
def State.loadTouch (s : State) (p : Part) (idx : Nat) : State :=
  let t := s.touchGpa p (p.whtBase + 64 * idx) 64
  match s.readGpa p (p.whtBase + 64 * idx) 64 with
  | .error _ => t
  | .ok l =>
    let tva := fld (ofLe l) 128 64
    let tasid := fld (ofLe l) 112 16
    let u := t.touchVa tasid p.pid tva 32
    match s.loadHandle p idx with
    | .ok x => u.touchVa tasid p.pid tva x.2.length
    | .error _ => u

/-- A tile copied to RWB of the resident area on every isle of its class (R352, R353). -/
def Part.resident (p : Part) (h : Handle) (body : List Byte) : Part :=
  if h.bclass then { p with whB := p.whB.wrList (place h.rwb body) } else { p with whM := p.whM.wrList (place h.rwb body) }

/-- The sectors of the resident area that a LOAD writes whole carry their error codes anew (R207), on every isle of the class. -/
def State.healResident (s : State) (pid : Nat) (h : Handle) (n : Nat) : State :=
  let heal (c : Ctx) (i : Isle) : Isle :=
    if c.pid = pid ∧ c.image.mclass = !h.bclass then
      { i with poison := i.poison.filter fun q => !(q.1 == 6 && h.rwb ≤ 32 * q.2 && 32 * q.2 + 32 ≤ h.rwb + n) }
    else i
  { s with
    core := heal s.ctx s.core, left := s.left.map (heal s.ctx), right := s.right.map (heal s.ctx)
    others := s.others.map fun r => { r with isles := r.isles.map (heal r.ctx) } }

/-- Whether a routine running or latched on an isle holds an entry (R354). -/
def Isle.holdsHandle (c : Isle) (idx : Nat) : Bool :=
  (c.mat.running.toList ++ c.mat.latched.toList).any fun x =>
    match x.word with
    | .call k => (k.handle.map (·.1)) == some idx
    | _ => false

/-- The same on any isle of a partition. -/
def State.handleInUse (s : State) (pid idx : Nat) : Bool :=
  (if s.ctx.live then s.focusRec :: s.others else s.others).any fun r => r.ctx.pid == pid && r.isles.any (·.holdsHandle idx)

/-- WHT_COMMAND_COMPLETE (R353, R354): the command takes effect once no routine holds the entry. -/
def execWhtCommandComplete (pid : Nat) (s : State) : Out :=
  .next (match (s.part pid).bind fun p => p.whtBusy.map fun w => (p, w.toNat) with
    | none => s
    | some (p, w) =>
      let idx := fld w 0 20
      if s.handleInUse pid idx then s
      else
        let fail (s : State) (r : Nat) : State := s.onPart pid fun p => { p with whtBusy := none, whtErr := true, whtReason := r }
        if fld w 62 2 = 0 then
          let t := if p.handleCount ≤ idx then s else s.loadTouch p idx
          match s.loadHandle p idx with
          | .error r => fail (t.blame r.2) r.1
          | .ok (h, body) => (t.healResident pid h body.length).onPart pid fun p => { p.resident h body with whtBusy := none, handles := h :: p.handles.filter (·.idx != idx) }
        else if p.handleCount ≤ idx then fail s 0x01
        else s.onPart pid fun p =>
          { p with whtBusy := none, handles := p.handles.map fun h => if h.idx == idx then { h with res := false } else h })

/-! ## Registers with no behaviour of their own (R7, R389) -/

/-- Bits that a write of ones clears. -/
def w1c (x k : Nat) (b : Bool) : Bool := b && !bit x k

/-- Bytes of a slot record written one after another. -/
def State.recordWrites (fn slot : Nat) : Nat → List Byte → State → State
  | _, [], s => s
  | o, x :: t, s => State.recordWrites fn slot (o + 1) t (s.recordWrite fn slot o x)

/-- Eight bytes written to the launch window (R335-R337, R389): a command at the state word, dropped where CMD is reserved, else record bytes. -/
def State.launchWrite (s : State) (fn off w : Nat) : State :=
  let slot := off / 128
  if off % 128 < 8 then
    match fld w 4 4 with
    | 0 => s.setSlot fn slot (fld w 0 4)
    | 1 => s.suspendSlot fn slot
    | 2 => s.resumeSlot fn slot
    | 3 => s.killCommand fn slot
    | _ => s.command fn slot (fun _ => false) id
  else State.recordWrites fn slot (off % 128) (toLe 8 w) s

/-- Eight bytes written at an offset of a function's register block (R389). DESIGN CHOICE (log 69): a PERCH that is no multiple of 32 (R383) is
kept as the multiple below it. -/
def State.registerWrite (s : State) (fn off : Nat) (x : W64) : State :=
  let w := x.toNat
  let sel (f : Part → Part) (lockable : Bool) : State := s.partWrite fn false lockable fun p s => s.onPart p.pid f
  match off with
    | 0x0 => s.regWrite fn true id
    | 0x8 => s.regWrite fn true fun s => s.onFn fn fun f => { f with drop := w1c w 0 f.drop, evlost := w1c w 1 f.evlost }
    | 0x10 => s.regWrite fn false fun s => s.onFn fn fun f => { f with pfsel := fld w 0 7 }
    | 0x200 => s.invalidate fn w
    | 0x208 => s.regWrite fn true fun s => s.onFn fn fun f => { f with xinvErr := w1c w 1 f.xinvErr }
    | 0x210 => if 2 ≤ fld w 62 2 then s.handleCommand fn (fld w 62 2) 0 else s.regWrite fn false id
    | 0x218 => sel (fun p => { p with whtErr := w1c w 1 p.whtErr }) false
    | 0x220 =>
      if isPf fn then sel (fun p => { p with budgetEn := bit w 63, budgetPerch := fld w 0 32 / 32 * 32 }) true else s.regWrite fn true id
    | 0x228 => s.featWrite fn w
    | 0x230 => if isPf fn then sel (fun p => { p with msicoal := fld w 0 10 }) false else s.regWrite fn true id
    | 0x238 => s.asidWrite fn (!bit w 63) w
    | 0x240 => s.regWrite fn false fun s => if fld w 62 2 = 3 ∨ fld w 7 55 ≠ 0 then s.dropped fn else s
    | 0x248 => s.regWrite fn false fun s => s.onFn fn fun f => { f with partAddr := w }
    | 0x250 => s.regWrite fn false fun s => s.onFn fn fun f => { f with partErr := w1c w 1 f.partErr }
    | 0x258 => s.regWrite fn true fun s => if fld w 62 2 = 3 ∨ fld w 0 62 ≠ 0 then s.dropped fn else s
    | 0x260 => s.partWrite fn true false fun p s => s.onPart p.pid fun p => { p with ckptAddr := w }
    | 0x268 => s.partWrite fn true false fun p s => s.onPart p.pid fun p => { p with ckptErr := w1c w 1 p.ckptErr }
    | 0x270 => s.regWrite fn false id
    | 0x278 => s.regWrite fn false fun s => s.onFn fn fun f => { f with evcons := w }
    | 0x10000 => s.debugSelect fn w
    | _ =>
      if (0x100 ≤ off ∧ off < 0x200) ∨ (0x280 ≤ off ∧ off < 0x300) then s.regWrite fn true id
      else if (0x400 ≤ off ∧ off < 0xC00) ∨ (0x10100 ≤ off ∧ off < 0x10240) ∨ (0x10400 ≤ off ∧ off < 0x10600) then s.regWrite fn false id
      else if 0x12000 ≤ off ∧ off < 0x14800 then s.windowWrite fn (off - 0x12000) (toLe 8 w)
      else if 0x80000 ≤ off ∧ off < 0x100000 then s.launchWrite fn (off - 0x80000) w
      else s.regWrite fn true (·.dropped fn)

/-- REGISTER_WRITE (R7, R389): a write through the stream that the function's interface is locked with. The commands that the table lists as
events of their own are started by those events, but for the launch window's. -/
def execRegisterWrite (fn off : Nat) (x : W64) (s : State) : Out := .next (s.registerWrite fn off x)

/-! ## What a function reads (R325, R335, R349, R350, R361, R386, R389) -/

/-- Bit of an isle in ISLEMAP (R361). -/
def isleBit (c : Nat × Nat × Nat) : Nat := if c.1 < 4 then c.1 * 96 + c.2.2 * 12 + c.2.1 else 384 + (c.1 - 4) * 64 + c.2.2 * 8 + c.2.1

/-- Distinct bit numbers as a number. -/
def bitsOf (l : List Nat) : Nat := (l.dedup.map fun k => 2 ^ k).sum

/-- The kite contexts that a capability table reports: none on an empty socket (R23). -/
def State.kctxShown (s : State) (p : Part) : Nat :=
  (if (s.sock 0).present then fld p.kctx 0 16 else 0) + (if (s.sock 1).present then fld p.kctx 16 16 * 65536 else 0)

/-- The capability table of a partition (R361). -/
def State.capTable (s : State) (p : Part) : List Byte :=
  let isles := p.isles.dedup
  toLe 8 p.capgen ++ toLe 2 p.pid ++ toLe 2 (isles.filter (·.1 < 4)).length ++ toLe 4 (isles.filter (4 ≤ ·.1)).length ++
    toLe 64 (bitsOf (isles.map isleBit)) ++ toLe 64 (bitsOf p.chans) ++ toLe 4 p.links ++ toLe 4 (s.kctxShown p) ++ toLe 4 p.straits ++
    toLe 2 p.slotBase ++ toLe 2 p.slotCnt ++ toLe 8 p.whtBase ++ toLe 4 p.whtCnt ++ toLe 4 p.whRes ++ toLe 8 p.tier2 ++ toLe 8 p.featOffer ++
    toLe 8 p.featAccept ++ toLe 16 (bitsOf p.fnmap) ++ toLe 4 p.gidBase ++ toLe 4 p.gidCnt ++ toLe 2 p.asidBase ++ toLe 2 p.asidCnt ++
    List.replicate 28 0

/-- Whether a region's clock-enable is off (R38, R349). -/
def State.regionFrozen (s : State) (r : Region) : Bool :=
  r.throttled || r.ramp || r.replay ||
    (match (s.residents r.rid).find? fun c => some c.ctxid == r.act with
    | some c => let t := s.focusSlot c.slot; t.isles.any fun i => i.handler || i.wait.isSome || i.hold.isSome
    | none => true)

/-- The region fence entry of a region (R349). -/
def State.fenceEntry (s : State) (r : Region) : Nat :=
  let l := s.residents r.rid
  bitsOf (r.chans.map fun c => if r.mclass then c else c - 256) % 2 ^ 256 * 2 ^ 256 + 2 ^ 63 + (if r.mclass then 0 else 2 ^ 62) + r.pid % 128 * 2 ^ 55 +
    r.rot % 4 * 2 ^ 53 + r.ox % 32 * 2 ^ 48 + r.oy % 32 * 2 ^ 43 + r.die % 8 * 2 ^ 40 + r.w % 32 * 2 ^ 35 + r.h % 32 * 2 ^ 30 + r.straits % 16 * 2 ^ 26 +
    bitsOf (l.map fun c => c.ctxid.val) * 2 ^ 22 + (r.act.getD 0).val * 2 ^ 20 + (if s.regionFrozen r then 2 ^ 19 else 0) +
    (if r.switchReq || !r.preempt.isEmpty then 2 ^ 18 else 0)

/-- The padded latency of a strait for an image placed in a region (R350 PADS). -/
def Region.pad (r : Region) (i : Image) (k : Nat) : Nat :=
  if bit r.straits k then
    let b := abstractBoundary r.rot r.ox r.oy r.w r.h (decide (k < 2)) (if k < 2 then 12 else 8)
    ((i.seams.find? fun m => m.rowAxis == b.1 && m.boundary == b.2).map (·.latency)).getD 0
  else 0

/-- CSTATE (R350). -/
def CState.code : CState → Nat
  | .ready => 0 | .waiting => 1 | .issuing => 2 | .suspending => 3

/-- The region context entry of a context (R350). -/
def ctxEntry (r : Region) (c : Ctx) : List Byte :=
  let kctx (k : Option Nat) (lo : Nat) : Nat := match k with | some x => (x + 16) * 2 ^ lo | none => 0
  toLe 2 (c.slot % 4096 + 32768) ++ toLe 2 c.asid ++
    ((List.range 3).flatMap fun u => toLe 4 (c.footBase.getD u 0) ++ toLe 4 (c.image.feet.getD u 0)) ++
    toLe 4 (c.image.abSize - 57344 + 10240 * c.ctxid.val) ++ toLe 4 (c.ubase + c.image.ucount * 65536) ++
    ((List.range 4).flatMap fun k => toLe 1 (r.pad c.image k)) ++ toLe 2 (kctx c.kctx0 0 + kctx c.kctx1 8) ++ toLe 1 c.eprio ++ toLe 1 c.cstate.code ++
    toLe 1 (match c.sig with | some x => 4 + x % 4 | none => 0) ++ List.replicate 19 0

/-- The rc of a step of an operation in flight, for the context in focus. -/
def State.dueRc (s : State) : Due → Nat
  | .rc n => n
  | .tick n => s.rcOfTick n

/-- The register number of a G code (R96). -/
def gNumber : GReg → Nat
  | .a r => r.val
  | .b r => r.val

/-- KIND, REG, BUF and ADDR of an entry of the in-flight queue (R325); none for what takes effect in the rc in which its word issues, and for
what is no entry (R323). -/
def Eff.describe : Eff → Option (Nat × Nat × Nat × Nat)
  | .scalar g _ => some (0, eG g, 0, 0)
  | .pred r _ => some (1, r.val, 0, 0)
  | .vec r _ _ _ _ => some (2, r.val, 0, 0)
  | .mask r _ => some (3, r.val, 0, 0)
  | .tag r _ => some (7, r.val, 0, 0)
  | .stream r _ => some (4, r.val, 0, 0)
  | .mp r _ => some (5, r.val, 0, 0)
  | .mpLine _ => some (5, 0, 0, 0)
  | .store u l => some (6, 0, bufCode u, (l.head?.map (·.1)).getD 0)
  | .storeBits u a off _ _ => some (6, 0, bufCode u, a + off / 8)
  | .clear u a _ => some (6, 0, bufCode u, a)
  | .access (.scalar g u a _ _) _ => some (6, gNumber g, bufCode u, a)
  | .access (.rawVec r u a) _ => some (6, r.val, bufCode u, a)
  | .access (.tileVec r u a _ _) _ => some (6, r.val, bufCode u, a)
  | .access (.gather r u _ l) _ => some (6, r.val, bufCode u, (l.head?.map (·.2)).getD 0)
  | .access (.header r u a) _ => some (6, r.val, bufCode u, a)
  | .access (.stream r t) _ => some (6, r.val, bufCode t.buf, t.touched.1)
  | .access (.atomic g u a _ _) _ => some (6, gNumber g, bufCode u, a)
  | .access (.packet _ a) _ => some (6, 0, 1, a)
  | .access (.record _ a) _ => some (6, 0, 1, a)
  | .barrier a _ _ => some (6, 0, 1, a)
  | .spill _ _ => none
  | .post _ _ _ => none
  | .sys _ _ => none
  | .remote _ => none
  | .drainLatch _ => none
  | .begin_ => none
  | .window _ _ => none
  | .pop => none
  | .clearAccovf => none

/-- EV of an entry (R325). -/
def Eff.owed : Eff → Nat
  | .vec _ _ _ _ ev => bitsOf (ev.filterMap fun e => match e.1 with | .nv => some 0 | .of => some 1 | .uf => some 2 | .dz => some 3 | _ => none)
  | _ => 0

/-- Whether two operations in flight are steps of one word: an operation takes one entry (R323). -/
def Flight.sameWord (f g : Flight) : Bool := f.slot == g.slot && f.bundle == g.bundle && f.time == g.time && f.rcyc == g.rcyc

/-- The entries of an in-flight queue: for each word the operations that it still has in flight. -/
def entriesOf (l : List Flight) : List (List Flight) :=
  (l.filter (·.eff.describe.isSome)).foldl (fun acc f =>
    if acc.any (·.any f.sameWord) then acc.map fun g => if g.any f.sameWord then g ++ [f] else g else acc ++ [[f]]) []

/-- The step of an entry that its descriptor names: the buffer access, else the landing that is not a cursor's. -/
def entryStep (g : List Flight) : Option Flight :=
  let kind (f : Flight) : Nat := (f.eff.describe.map (·.1)).getD 0
  g.find? (fun f => kind f == 6) <|> g.find? (fun f => kind f != 4) <|> g.head?

/-- The descriptors of the isle in focus, while it is in handler mode (R325). -/
def State.inflightQueue (s : State) : List Nat :=
  let rem (f : Flight) : Nat := s.dueRc f.due + 1 - s.ctx.rcycle
  let l := ((entriesOf s.core.flights).filterMap fun g =>
    (entryStep g).map fun f => (g.foldl (fun n x => min n (rem x)) (rem f), f)).sorted fun x y =>
      decide (x.1 < y.1) || (x.1 == y.1 && (decide (x.2.seq < y.2.seq) || (x.2.seq == y.2.seq && decide (x.2.slot.idx ≤ y.2.slot.idx))))
  if s.core.handler then
    l.map fun (rem, f) =>
      let (kind, reg, buf, addr) := f.eff.describe.getD (0, 0, 0, 0)
      rem % 256 * 2 ^ 56 + f.slot.idx * 2 ^ 53 + kind * 2 ^ 48 + reg % 64 * 2 ^ 42 + buf % 4 * 2 ^ 40 + addr % 2 ^ 24 * 2 ^ 16 + f.eff.owed * 2 ^ 12 + f.bundle % 4096
  else []

/-- The 128 bytes of a launch slot (R334, R335). -/
def LSlot.image128 (x : LSlot) : List Byte := toLe 8 x.word ++ (x.record.bytes 8 120)

/-- THERMSTAT of a stack (R386). -/
def State.thermstat (s : State) (k : Nat) : Nat :=
  let t := ((s.temps.find? (·.1 == k)).map (·.2)).getD 0
  ((s.used (4096 + k)).getD 1000000) * 2 ^ 32 + (if t < 85 then 0 else if t < 95 then 1 else 2) * 2 ^ 16 + t % 256

/-- Eight bytes of a byte string. -/
def at8 (l : List Byte) (o : Nat) : Nat := le8 l o

/-- Whether the physical functions may look at what belongs to a partition (R402). -/
def State.mayLook (s : State) : Option Part → Bool
  | some p => !s.isLocked p
  | none => true

/-- What a register of a function holds at an offset of its block, a multiple of 8 (R389); zero where nothing is there or it may not look. -/
def State.regAt (s : State) (fn off : Nat) : Nat :=
  let f := s.fn fn
  let p := s.actsOn fn
  let pf := isPf fn
  let ofPart (g : Part → Nat) : Nat := (p.map g).getD 0
  match off with
  | 0x0 => fn % 128 + (if pf then 128 else 0) + (if pf then f.pfsel else f.pid.getD 0) % 128 * 2 ^ 8 + (if f.pid.isSome then 2 ^ 15 else 0)
  | 0x8 => (if f.drop then 1 else 0) + (if f.evlost then 2 else 0)
  | 0x10 => if pf then f.pfsel else 0
  | 0x208 => (if f.xinvBusy then 1 else 0) + (if f.xinvErr then 2 else 0)
  | 0x218 => if pf then ofPart fun p => p.whtReason * 256 + (if p.whtErr then 2 else 0) + (if p.whtBusy.isSome then 1 else 0) else 0
  | 0x220 => ofPart fun p => (if p.budgetEn then 2 ^ 63 else 0) + p.perch
  | 0x230 => ofPart (·.msicoal)
  | 0x248 => if pf then f.partAddr else 0
  | 0x250 => if pf then f.partReason * 256 + (if f.partErr then 2 else 0) + (if f.partBusy.isSome then 1 else 0) else 0
  | 0x260 => ofPart (·.ckptAddr)
  | 0x268 => ofPart fun p => p.ckptPages % 2 ^ 32 * 2 ^ 32 + p.ckptReason * 256 + (if p.ckptErr then 2 else 0) + (if p.ckpt.isSome then 1 else 0)
  | 0x270 => if pf then f.evprod else 0
  | 0x278 => if pf then f.evcons else 0
  | 0x10000 => f.dbgSlot + f.dbgPx * 2 ^ 16 + f.dbgPy * 2 ^ 24 + f.dbgRid * 2 ^ 32
  | _ =>
    if 0x100 ≤ off ∧ off < 0x200 then ofPart fun p => at8 (s.capTable p) (off - 0x100)
    else if 0x280 ≤ off ∧ off < 0x300 then
      (let k := (off - 0x280) / 8
       if (p.map fun p => p.chans.any fun c => c / 32 == k).getD false then s.thermstat k else 0)
    else if 0x400 ≤ off ∧ off < 0xC00 then (if pf then at8 (f.evring.getD ((off - 0x400) / 32) []) ((off - 0x400) % 32) else 0)
    else if 0x10100 ≤ off ∧ off < 0x10240 then
      (match s.region f.dbgRid with
        | none => 0
        | some r =>
          if !pf || !s.mayLook (s.part r.pid) then 0
          else if off < 0x10140 then fld (s.fenceEntry r) (8 * (off - 0x10100)) 64
          else
            match (s.residents r.rid).find? fun c => c.ctxid.val == (off - 0x10140) / 64 with
            | some c => at8 (ctxEntry r c) ((off - 0x10140) % 64)
            | none => 0)
    else if 0x10400 ≤ off ∧ off < 0x10600 then
      (if pf && s.mayLook (s.partOfSlot f.dbgSlot) && s.hasCtx f.dbgSlot then
        let t := s.focusSlot f.dbgSlot
        ((t.focusIsle (t.ixOf f.dbgPx f.dbgPy)).inflightQueue).getD ((off - 0x10400) / 8) 0
      else 0)
    else if 0x12000 ≤ off ∧ off < 0x14800 then
      (match s.window fn with
      | some (asid, pid, va) => (match s.readVa asid pid (va + (off - 0x12000)) 8 with | .ok l => ofLe l | .error _ => 0)
      | none => 0)
    else if 0x80000 ≤ off ∧ off < 0x100000 then
      (let n := (off - 0x80000) / 128
       if s.commands fn n then at8 ((s.slotAt n).image128) ((off - 0x80000) % 128) else 0)
    else 0

/-- What a read of a register answers a function (R389); none, Unsupported Request, to a frozen one (R397). -/
def State.regRead (s : State) (fn off : Nat) : Option Nat := if (s.fn fn).frozen then none else some (s.regAt fn off)

/-! ## Host memory requests (R254, R256, R257, R385) -/

/-- Bytes that a request moves. -/
def reqBytes (r : HostReq) : Nat := match r.write with | some l => l.length | none => r.len

/-- The sectors of a host request at the arbiters of their channels (R385): the state, the sectors that pass now, and whether all have passed.
How many have is kept with a request that waits. -/
def State.hostPays (s : State) (r : HostReq) (l : List Place) : State × List Place × Bool :=
  let past := ((s.hostWaits.find? (·.1 == r)).map (·.2)).getD 0
  let todo := (sectorsOf l).drop past
  let (t, k) := s.admitBy State.channelIn todo
  let rest := t.hostWaits.filter (·.1 != r)
  if k = todo.length then ({ t with hostWaits := rest }, todo, true)
  else (({ t with hostWaits := rest ++ [(r, past + k)] } : State).await (.hostMemoryRequest r), todo.take k, false)

/-- The bytes of a write that lie in some sectors, written: each sector is performed as it passes. -/
def State.writeSectors (s : State) (now : List Place) (l : List (Place × Byte)) : State :=
  State.writePlaces (l.filter fun x => now.any fun pl => pl.key / 32 == x.1.key / 32) s

/-- An answer to a function's request. -/
def State.reply (s : State) (fn : Nat) (l : List Byte) : State := s.onFn fn fun f => { f with answer := l }

/-- An uncorrectable error that a host request meets: Completer Abort, logged to the partition's physical function (R257). -/
def State.hostAbort (s : State) (fn pid at_ : Nat) (u : ErrUnit) : State :=
  ((s.uncorrectable u).event pid 1 (toLe 8 at_ ++ toLe 1 fn)).reply fn [2]

/-- A read of the register block (R389): an RSWIN read that meets an uncorrectable error ends with Completer Abort (R257). -/
def State.regAnswer (s : State) (r : HostReq) : State :=
  let off := r.gpa / 8 * 8
  let good (s : State) : State := s.reply r.fn (0 :: ((toLe 8 (s.regAt r.fn off)).drop (r.gpa % 8)).take r.len)
  match if 0x12000 ≤ off ∧ off < 0x14800 then s.window r.fn else none with
  | none => good s
  | some (asid, pid, va) =>
    let t := s.touchVa asid pid (va + (off - 0x12000)) 8
    match t.readVa asid pid (va + (off - 0x12000)) 8 with
    | .error (.ecc _ u) => t.hostAbort r.fn pid r.gpa u
    | _ => good t

/-- Whether a request comes through another selective stream than its interface was locked with (R403). -/
def State.wrongStream (s : State) (r : HostReq) : Bool :=
  let f := s.fn r.fn
  (f.tdisp == .locked || f.tdisp == .run) && f.stream != r.stream

/-- A request for device memory (R254, R256, R257): none of its sectors is served where stage 2 refuses one, and one that a cap holds waits
(R385). -/
def State.hostMemory (s : State) (r : HostReq) (p : Part) : State :=
  match s.gpaPlaces p r.write.isSome r.gpa (reqBytes r) with
  | none => s.reply r.fn [1]
  | some l =>
    match if r.write.isSome then none else l.find? (s.poisoned ·) with
    | some pl => s.hostAbort r.fn p.pid r.gpa pl.unit
    | none =>
      let (t, now, ok) := s.hostPays r l
      match r.write with
      | some b => let u := t.writeSectors now (l.zip b); if ok then u.reply r.fn [0] else u
      | none => if ok then (t.zeroFrames l).reply r.fn (0 :: l.flatMap fun pl => s.devRead pl 1) else t

/-- HOST_MEMORY_REQUEST (R254, R256, R257): the function's last answer begins with its completion: 0 success with the data read, 1
Unsupported Request, 2 Completer Abort. One through another stream is a breach (R403), to the register block too, and a write while the partition
is reset is dropped (R396). -/
def execHostMemoryRequest (r : HostReq) (s : State) : Out :=
  .next (if (s.fn r.fn).frozen then s.reply r.fn [1]
    else if s.wrongStream r then ({ s with agenda := .tdispBreach r.fn :: s.agenda } : State).reply r.fn [1]
    else if r.bar then
      (match r.write with
      | some b => (s.registerWrite r.fn r.gpa (BitVec.ofNat 64 (ofLe b))).reply r.fn [0]
      | none => s.regAnswer r)
    else
      match (s.fn r.fn).pid.bind s.part with
      | none => s.reply r.fn [1]
      | some p => if p.resetting && r.write.isSome then s.dropped r.fn else s.hostMemory r p)

/-- FUNCTION_LEVEL_RESET (R397): a frozen function comes back, and the signals that were pending are sent but where their vector is masked. -/
def execFunctionLevelReset (fn : Nat) (s : State) : Out :=
  .next (s.onFn fn fun f =>
    ({ f with frozen := false, tdisp := if f.tdisp = .error then .unlocked else f.tdisp } : Fn).sendPending)

end Sys2Proof.Machine
end

