-- ==== Sys2Proof/Machine/Partition.lean ====
section
/-! DEFINITION. Partitions created, reset and destroyed (R333, R361, R362, R391, R395, R396), and frames retired (R258, R259, R331). -/

namespace Sys2Proof.Machine

/-! ## Descriptors (R361, R395) -/

/-- The numbers of the bits that are 1 among the first n. -/
def bitList (n x : Nat) : List Nat := (List.range n).filter (bit x)

/-- The isle that a bit of ISLEMAP names (R361). -/
def isleOfBit (k : Nat) : Nat × Nat × Nat :=
  if k < 384 then (k / 96, k % 12, k % 96 / 12) else (4 + (k - 384) / 64, k % 8, (k - 384) % 64 / 8)

/-- The partition that a descriptor asks for, before anything is left out. -/
def Part.ofDesc (pid pf : Nat) (l : List Byte) : Part :=
  let n (o len : Nat) : Nat := ofLe ((l.drop o).take len)
  { pid := pid, pf := pf, capgen := 0, isles := (bitList 512 (n 0x10 64)).map isleOfBit, chans := bitList 512 (n 0x50 64), links := n 0x90 4
    kctx := n 0x94 4, straits := n 0x98 4, slotBase := n 0x9C 2, slotCnt := n 0x9E 2, whtBase := n 0xA0 8, whtCnt := n 0xA8 4, whRes := n 0xAC 4
    tier2 := n 0xB0 8, t2off := 0, featOffer := n 0xB8 8 % 16, featAccept := 0, featOpen := true, fnmap := bitList 128 (n 0xC8 16)
    gidBase := n 0xD8 4, gidCnt := n 0xDC 4, asidBase := n 0xE0 2, asidCnt := n 0xE2 2, desc := l, budgetEn := false, budgetPerch := 1000000
    msicoal := 0, handles := [], whM := [], whB := [], whtBusy := none, whtErr := false, whtReason := 0
    s2root := List.replicate 6 (2 ^ 23 + pid % 128 * 2 ^ 16), s2 := [], ckpt := none, ckptErr := false
    ckptReason := 0, ckptPages := 0, ckptAddr := 0, resetting := false }

/-- A reserved byte or bit of a descriptor set (R395): FEATACCEPT among them. -/
def descReserved (l : List Byte) : Bool :=
  !(byteAt l 9 == 0 && le2 l 0x0E == 0 && allZero ((l.drop 0xC0).take 8) && allZero (l.drop 0xE4) && fld (le4 l 0x90) 18 14 == 0 && fld (le4 l 0x98) 4 28 == 0)

/-- The slot share and the WHT keep to R333 and R361. -/
def Part.shapely (p : Part) : Bool :=
  p.slotBase % 16 == 0 && p.slotCnt % 16 == 0 && decide (p.slotBase + p.slotCnt ≤ 4096) && decide (p.whtCnt ≤ 2 ^ 20) && p.whRes % 65536 == 0 &&
    decide (p.whRes ≤ 2 ^ 20)

/-- Two ranges of numbers meet; an empty one meets none. -/
def rangesMeet (a n b m : Nat) : Bool := decide (0 < n ∧ 0 < m ∧ a < b + m ∧ b < a + n)

/-- A unit of one partition is a unit of the other: isles, channels, links, kite contexts, launch slots (R9, R395). -/
def Part.meets (p q : Part) : Bool :=
  p.isles.any q.isles.contains || p.chans.any q.chans.contains || (p.links &&& q.links) != 0 || (p.kctx &&& q.kctx) != 0 ||
    rangesMeet p.slotBase p.slotCnt q.slotBase q.slotCnt

/-- Where a partition's second tier begins beside those of the others. -/
def State.tierBaseFor (s : State) (p : Part) : Option Nat :=
  firstFit (min (s.cxlBytes.getD 0 0) (s.cxlBytes.getD 1 0)) p.half (s.parts.map fun q => (q.t2off, q.half))

/-- Why a CREATE is refused (R395); of several reasons the lowest number, 0x08 in the place of 0x02. -/
def State.createFault (s : State) (p : Part) (l : List Byte) : Option Nat :=
  let owner := s.parts.filter fun q => p.meets q
  if s.parts.any (·.pid == p.pid) then some 0x01
  else if owner.any s.isLocked then some 0x08
  else if !owner.isEmpty || (s.tierBaseFor p).isNone then some 0x02
  else if !p.shapely then some 0x03
  else if p.fnmap.any fun n => isPf n || (s.fn n).pid.isSome then some 0x04
  else if s.parts.any fun q => rangesMeet p.gidBase p.gidCnt q.gidBase q.gidCnt || rangesMeet p.asidBase p.asidCnt q.asidBase q.asidCnt then some 0x05
  else if descReserved l then some 0x06
  else none

/-- A PARTCMD refused: nothing changes but PARTSTAT. -/
def State.partRefused (s : State) (fn r : Nat) : State := s.onFn fn fun f => { f with partErr := true, partReason := r }

/-- A PARTCMD written by a physical function (R395, R396): 0x07 while one runs. -/
def State.partCommand (s : State) (fn : Nat) (f : State → State) : State :=
  s.regWrite fn false fun s => if (s.fn fn).partBusy.isSome then s.partRefused fn 0x07 else f s

/-! ## Spare frames (R259, R391) -/

/-- The frames of a channel that are held back as spares. -/
def spares (c : Nat) : List Nat := (List.range 1024).map fun k => (channelBase c).2 / 65536 + 31744 + k

/-- A leaf of the stage-2 tables of a partition (R251): where its entry lies, the GPA that it maps, whether it maps 512 MiB, and its entry. -/
structure Leaf where
  at_ : Nat
  gpa : Nat
  big : Bool
  word : W64
  deriving DecidableEq, Repr

/-- The frame that an entry names (R251). -/
def entryFrame (w : W64) : Nat := fld w.toNat 16 24

/-- The leaf at entry ix of table n of a die; none where no valid leaf stands there. -/
def Part.leafOn (p : Part) (die n ix : Nat) : Option Leaf :=
  let k := p.entryAt die n ix
  let w := p.s2Word k
  if n = 0 ∨ !(w.getLsbD 0 && w.getLsbD 1) then none
  else some { at_ := k, gpa := die * 2 ^ 45 + (if n = 1 then ix * 2 ^ 29 else (n - 2) * 2 ^ 29 + ix * 65536), big := n = 1, word := w }

/-- Whether a leaf maps a frame of its die. -/
def Leaf.maps (l : Leaf) (frame : Nat) : Bool := decide (entryFrame l.word ≤ frame ∧ frame < entryFrame l.word + if l.big then 8192 else 1)

/-- Table and index of an entry of a die's tables, from where it lies. -/
def Part.indexOf (p : Part) (k : Nat) : Nat × Nat × Nat := (k / 2 ^ 40, k % 2 ^ 40 / 65536 - p.s2root.getD (k / 2 ^ 40) 0, k % 65536 / 8)

/-- The leaf of a partition that maps a frame of a die: among the entries written, else where R391 laid it out. -/
def Part.leafOf (p : Part) (die frame : Nat) : Option Leaf :=
  let written := p.s2.findSome? fun e =>
    let (d, n, ix) := p.indexOf e.1
    if d = die then (p.leafOn die n ix).filter (·.maps frame) else none
  let laid : Option Leaf :=
    if 4 ≤ die ∧ tierBase / 65536 ≤ frame then (if frame * 65536 < tierBase + p.t2off then none else p.leafOn die 1 ((frame * 65536 - p.t2off) / 2 ^ 29))
    else
      match (p.chansOn die).findIdx? (fun c => (channelBase c).2 / 2 ^ 31 == frame / 32768) with
      | some i => p.leafOn die (2 + 4 * i + frame % 32768 / 8192) (frame % 8192)
      | none => none
  written <|> laid.filter (·.maps frame)

/-- A spare frame of a die that a partition may take: of one of its channels there, neither in use nor retired. -/
def State.spareOn (s : State) (p : Part) (die : Nat) : Option Nat :=
  ((p.chansOn die).flatMap spares).find? fun f =>
    !s.retiredFrames.contains (die * 2 ^ 24 + f) && p.s2.all fun e => !(e.1 / 2 ^ 40 == die && e.2.getLsbD 1 && entryFrame e.2 == f)

/-- A 512 MiB leaf split into leaves of 64 KiB (log 14): a level-2 table of its frames, with its flags, and its entry made to name that table. -/
def Part.split (p : Part) (l : Leaf) : Part :=
  let (die, _, ix) := p.indexOf l.at_
  let low (j : Nat) : Nat × W64 := (p.entryAt die (2 + ix) j, entryWord (entryFrame l.word + j) (l.word.toNat % 65536))
  { p with s2 := (l.at_, entryWord (p.tableFrame die (2 + ix)) 1) :: (List.range 8192).map low ++ p.s2.filter (·.1 != l.at_) }

/-- The leaf of 64 KiB that maps a frame, the 512 MiB leaf over it split first. -/
def Part.isolate (p : Part) (die frame : Nat) : Option (Part × Leaf) :=
  (p.leafOf die frame).bind fun l =>
    let q := if l.big then p.split l else p
    (q.leafOf die frame).map fun m => (q, m)

/-- A leaf rewritten to a spare frame, its flags kept (R259). -/
def Part.remap (p : Part) (l : Leaf) (frame : Nat) : Part := p.setS2 l.at_ (entryWord frame (l.word.toNat % 65536))

/-- The bytes of a frame, zero in place of each uncorrectable sector, and whether there was one (R259). -/
def State.copyFrame (s : State) (src dst : Nat) : State × Bool :=
  let bad := s.dpoison.filter fun k => decide (src ≤ k * 32 ∧ k * 32 < src + 65536)
  let m := bad.foldl (fun m k => m.clearRange (k * 32) 32) (s.dram.slice src 65536 src)
  ({ s with
      dram := (s.dram.clearRange dst 65536).wrList (m.map fun c => (c.1 - src + dst, c.2))
      dpoison := s.dpoison.filter fun k => !(dst ≤ k * 32 && k * 32 < dst + 65536) }, !bad.isEmpty)

/-- A frame retired (R259): copied to a spare frame and remapped; a leaf with Z = 1 keeps it. A frame with no leaf is only never mapped
again. -/
def State.retireFrame (s : State) (die frame : Nat) : State :=
  let t := if s.retiredFrames.contains (die * 2 ^ 24 + frame) then s else { s with retiredFrames := (die * 2 ^ 24 + frame) :: s.retiredFrames }
  match s.parts.findSome? fun p => (p.isolate die frame).map fun x => (p.pid, x) with
  | none => t
  | some (pid, p, l) =>
    match t.spareOn p die with
    | none => t
    | some f =>
      let (u, bad) := if l.word.getLsbD 7 then (t, false) else t.copyFrame (die * 2 ^ 40 + frame * 65536) (die * 2 ^ 40 + f * 65536)
      (u.onPart pid fun _ => p.remap l f).event pid 2 (toLe 8 l.gpa ++ toLe 1 (if bad then 1 else 0))

/-- Whether a frame of a die exists (R246). -/
def State.frameExists (s : State) (die frame : Nat) : Bool := decide (die < 6) && s.populated die (frame * 65536)

/-- FRAME_RETIREMENT (R259). -/
def execFrameRetirement (die frame : Nat) (s : State) : Out :=
  if s.frameExists die frame then .next (s.retireFrame die frame) else .fault .unpopulatedAddress

/-- The place of the leaf that maps a frame of a die, for any partition. -/
def State.placeOf (s : State) (die frame : Nat) : Option Place :=
  s.parts.findSome? fun p => (p.leafOf die frame).map fun l =>
    { key := die * 2 ^ 40 + frame * 65536, pid := p.pid, leaf := l.at_, big := l.big }

/-- FRAME_ZEROED (R258). -/
def execFrameZeroed (die frame : Nat) (s : State) : Out :=
  if s.frameExists die frame then .next (match s.placeOf die frame with | some pl => s.zeroFrame pl | none => s)
  else .fault .unpopulatedAddress

/-! ## CREATE (R391, R395) -/

/-- What remains of a request where units are fused off or lasting (R331, R361, R395). -/
def State.usable (s : State) (p : Part) : Part :=
  { p with
    isles := p.isles.filter fun c => !s.fused.contains c && !s.defects.contains c
    links := bitsOf ((bitList 18 p.links).filter fun k => !s.badLinks.contains k)
    kctx := bitsOf ((bitList 32 p.kctx).filter fun k => !s.badLinks.contains (18 + k / 16))
    straits := bitsOf ((bitList 4 p.straits).filter fun k => !s.badStraits.contains k)
    t2off := (s.tierBaseFor p).getD 0 }

/-- The frames of a new partition that are retired already are mapped to spares (R259). -/
def State.mapAround : List Nat → State → State
  | [], s => s
  | k :: t, s =>
    let s := match s.parts.findSome? fun p => (p.isolate (k / 2 ^ 24) (k % 2 ^ 24)).map fun x => (p.pid, x) with
      | none => s
      | some (pid, p, l) =>
        match s.spareOn p (k / 2 ^ 24) with
        | some f => s.onPart pid fun _ => p.remap l f
        | none => s
    State.mapAround t s

/-- CREATE (R395). -/
def execCreate (fn pid : Nat) (desc : List Byte) (s : State) : Out :=
  .next (s.partCommand fn fun s =>
    let p := Part.ofDesc pid fn desc
    match s.createFault p desc with
    | some r => s.partRefused fn r
    | none =>
      let q := s.usable p
      let t := { s with parts := s.parts ++ [q] }
      let u := q.fnmap.foldl (fun s n => s.onFn n fun f => { f with pid := some pid }) t
      (State.mapAround u.retiredFrames u).onFn fn fun f => { f with partBusy := some (0, pid), partErr := false, partReason := 0 })

/-! ## RESET and DESTROY (R396) -/

/-- The slots of a partition's share. -/
def State.shareSlots (s : State) (p : Part) : List LSlot := s.slots.filter fun x => decide (p.slotBase ≤ x.n ∧ x.n < p.slotBase + p.slotCnt)

/-- Every slot of a list killed. -/
def State.killAll : List LSlot → State → State
  | [], s => s
  | x :: t, s => State.killAll t (if [SlotSt.free, .writing, .retired, .faulted].contains x.st then s else s.killSlot x.n)

/-- A partition's interfaces leave CONFIG_LOCKED and RUN for ERROR (R402). -/
def State.unlockByError (s : State) (pid : Nat) : State :=
  { s with fns := s.fns.map fun f => if f.pid == some pid && (f.tdisp == .locked || f.tdisp == .run) then { f with tdisp := .error } else f }

/-- The state that a function keeps through a reset of its partition's units (R396 step 2). -/
def Fn.portReset (f : Fn) : Fn :=
  { f with pend := Vector.replicate 4 false, mask := Vector.replicate 4 false, coalescing := false, coalAt := 0, answer := [], dbgSlot := 0, dbgPx := 0, dbgPy := 0, dbgRid := 0
           xinvBusy := false, xinvErr := false }

/-- Steps 2 to 5 of RESET (R396). -/
def State.powerCycle (s : State) (p : Part) : State :=
  let mine (n : Nat) : Bool := decide (p.slotBase ≤ n ∧ n < p.slotBase + p.slotCnt)
  let held (k c : Nat) : Bool := bit p.kctx (16 * k + c)
  let wipe (m : Mem) : Mem :=
    [4, 5].foldl (fun m d => m.clearRange (d * 2 ^ 40 + tierBase + p.t2off) p.half)
      (p.chans.foldl (fun m c => m.clearRange ((channelBase c).1 * 2 ^ 40 + (channelBase c).2) (2 ^ 31)) m)
  let sock (k : Nat) (x : Socket) : Socket :=
    { x with packets := x.packets.filter fun q => !held k q.kctx, parked := x.parked.filter fun q => !mine q.slot
             tether := x.tether.filter fun w => !held k w.1.kctx, quiesce := x.quiesce.filter fun c => !held k c.1, nextSeq := x.nextSeq.filter fun c => !held k c.1 }
  { s with
    overlays := s.overlays.filter fun t => !p.isles.contains (t.die, t.col, t.row)
    gated := s.gated.filter fun c => !p.isles.contains c
    waking := s.waking.filter fun c => !p.isles.contains c
    socks := [sock 0 (s.sock 0), sock 1 (s.sock 1)]
    fns := s.fns.map fun (f : Fn) => if f.pid == some p.pid then f.portReset else f
    frozenLinks := s.frozenLinks.filter fun k => !bit p.links k
    contribs := s.contribs.filter fun c => !p.holdsGroup c.gid
    dram := wipe s.dram
    dpoison := s.dpoison.filter fun k => !p.given (k * 32 / 2 ^ 40) (k * 32 % 2 ^ 40)
    hostWaits := s.hostWaits.filter fun w => (s.fn w.1.fn).pid != some p.pid
    waits := (s.waits.filter fun i => !hostEvent (fun n => (s.fn n).pid == some p.pid) i).filter fun i => match i with
      | .tetherRequest r => !held r.sock r.kctx
      | .kiteArrive k c _ _ _ => !held k c
      | .asyncSectorTransfer q => s.ops.all fun o => o.seq != q || !mine o.slot
      | .asyncOperationComplete q => s.ops.all fun o => o.seq != q || !mine o.slot
      | .collComplete q => s.ops.all fun o => o.seq != q || !mine o.slot
      | .ovlComplete q => s.ops.all fun o => o.seq != q || !mine o.slot
      | .barrierPhaseRead n _ => !mine n
      | _ => true
    ops := s.ops.filter fun o => !mine o.slot
    asids := s.asids.filter fun a => a.2.1 != p.pid
    slots := s.slots.filter fun x => !mine x.n
    saved := s.saved.filter fun r => !mine r.ctx.slot
    agenda := s.agenda.filter fun i => match i with | .dependenceSatisfied n => !mine n | .suspensionRequest n => !mine n | _ => true }.onPart p.pid fun p =>
      { p with
        s2 := p.s2.map (fun (e : Nat × W64) => (e.1, if e.2.getLsbD 1 then e.2 ||| 0x80 else e.2)), handles := [], whM := [], whB := [], whtBusy := none
        featAccept := 0, featOpen := true, ckpt := none, resetting := false }

/-- A partition's power cycle begun (R396): its slots are killed. -/
def State.beginReset (s : State) (fn op pid : Nat) : State :=
  s.partCommand fn fun s =>
    match s.part pid with
    | none => s.partRefused fn 0x01
    | some p =>
      let t := (s.unlockByError pid).onPart pid fun p => { p with resetting := true }
      (State.killAll (s.shareSlots p) t).onFn fn fun f => { f with partBusy := some (op, pid), partErr := false, partReason := 0 }

/-- RESET (R396). -/
def execPartReset (fn pid : Nat) (s : State) : Out := .next (s.beginReset fn 1 pid)

/-- DESTROY (R396). -/
def execPartDestroy (fn pid : Nat) (s : State) : Out := .next (s.beginReset fn 2 pid)

/-- Every unit of a partition returns to the unowned pool (R396). -/
def State.release_ (s : State) (pid : Nat) : State :=
  { s with parts := s.parts.filter (·.pid != pid), fns := s.fns.map fun f => if f.pid == some pid then { f with pid := none } else f }

/-- Whether a partition command of a function can end: no slot of the partition has a context left. -/
def State.partDone (s : State) (fn : Nat) : Bool :=
  match (s.fn fn).partBusy with
  | some (op, pid) => op == 0 || s.allCtx.all (·.pid != pid)
  | none => false

/-- PARTCMD_COMPLETE (R395, R396). -/
def execPartcmdComplete (fn : Nat) (s : State) : Out :=
  .next (if !s.partDone fn then s
    else
      match (s.fn fn).partBusy with
      | none => s
      | some (op, pid) =>
        let t := match s.part pid with
          | some p => if op = 0 then s else s.powerCycle p
          | none => s
        (if op = 2 then t.release_ pid else t).onFn fn fun f => { f with partBusy := none })

end Sys2Proof.Machine
end

