-- ==== Sys2Proof/Machine/Power.lean ====
section
/-! DEFINITION. Physical events: errors counted (R331), voltage, throttling, gating and waking (R381, R382), budget intervals and
temperatures (R384, R385), the wait-for walk (R360) and module reset (R333). -/

namespace Sys2Proof.Machine

/-! ## Errors (R331, R361) -/

/-- A partition's capability table changes: CAPGEN counts it and its physical function is told (R361, R394). -/
def State.capChange (s : State) (pid : Nat) (f : Part → Part) : State :=
  let t := s.onPart pid fun p => { f p with capgen := p.capgen + 1 }
  t.event pid 4 (toLe 8 (((t.part pid).map (·.capgen)).getD 0))

/-- A change of every partition of a list. -/
def State.capChanges (f : Part → Part) : List Part → State → State
  | [], s => s
  | p :: t, s => State.capChanges f t (s.capChange p.pid f)

/-- The slots of a list pre-empted by the device (R331, R345). -/
def State.relocateAll : List Nat → State → State
  | [], s => s
  | n :: t, s => State.relocateAll t (s.relocate n)

/-- The slots of the contexts of regions that a test admits. -/
def State.slotsIn (s : State) (test : Region → Bool) : List Nat :=
  (s.regions.filter test).flatMap fun r => (s.residents r.rid).map (·.slot)

/-- The action of R331 for a unit that has become lasting. -/
def State.lasting (s : State) (u : ErrUnit) : State :=
  match wholeUnit u with
  | .array _ _ _ => s
  | .isle d c r =>
    let cell := (d, c, r)
    if s.defects.contains cell then s
    else
      State.relocateAll (s.slotsIn fun g => g.cells.contains cell)
        (State.capChanges (fun p => { p with isles := p.isles.filter (· != cell) }) (s.parts.filter (·.isles.contains cell))
          { s with defects := cell :: s.defects })
  | .frame d f => { s with agenda := s.agenda ++ [.frameRetirement d f] }
  | .strait k =>
    if s.badStraits.contains k then s
    else
      State.relocateAll (s.slotsIn fun g => g.mclass && bit g.straits k)
        (State.capChanges (fun p => { p with straits := p.straits - 2 ^ k }) (s.parts.filter fun p => bit p.straits k)
          { s with badStraits := k :: s.badStraits })
  | .link k =>
    if s.badLinks.contains k then s
    else
      State.capChanges (fun p => { p with links := p.links - 2 ^ k }) (s.parts.filter fun p => bit p.links k) { s with badLinks := k :: s.badLinks }
  | .socket k =>
    if s.badLinks.contains (18 + k) then s
    else
      State.capChanges (fun p => { p with kctx := p.kctx - fld p.kctx (16 * k) 16 * 2 ^ (16 * k) }) (s.parts.filter fun p => p.onSocket k)
        { s with badLinks := (18 + k) :: s.badLinks }

/-- A corrected error of an isle's memories counted for the context whose operation it concerns (R387): which of those resident there is a free
value (log 10). -/
def State.countIsle (s : State) (u : ErrUnit) : State :=
  match u with
  | .isle d c r =>
    let near := s.allCtx.filter fun x => (s.region x.rid).any (·.cells.contains (d, c, r))
    (match near[(Config.freeValue s.fresh).toNat % near.length]? with
    | none => s
    | some x =>
      ({ s with fresh := s.fresh + 1 } : State).withSlot x.slot fun s => s.eachIsle fun s =>
        if s.here = some (d, c, r) then { s with core := s.core.count 0x16 1 } else s)
  | _ => s

/-- CORRECTED_ERROR (R331): the error is counted against its unit, which becomes lasting at eight within 1 s. An uncorrectable error has
counted as eight already. -/
def execCorrectedError (unit : ErrUnit) (s : State) : Out :=
  let u := wholeUnit unit
  let recent := s.errs.filter fun e => decide (s.now - e.2 ≤ 2000000000)
  let n := (recent.filter (·.1 == u)).length
  .next
    (if 8 ≤ n then ({ s with errs := recent.filter (·.1 != u) } : State).lasting u
    else
      let t := s.countIsle unit
      if n = 7 then ({ t with errs := recent.filter (·.1 != u) } : State).lasting u else { t with errs := (u, s.now) :: recent })

/-! ## Voltage, gating and waking (R381, R382) -/

/-- VOLTAGE_RAMP_COMPLETE (R381). -/
def execVoltageRampComplete (rid : Nat) (s : State) : Out := .next (s.onRegion rid fun r => { r with ramp := false })

/-- POWER_THROTTLE (R381): enabled ticks are gated, or come again; CLKD is as it was. -/
def execPowerThrottle (rid : Nat) (on : Bool) (s : State) : Out := .next (s.onRegion rid fun r => { r with throttled := on })

/-- ISLAND_IDLE_GATING (R382): the island of an isle that holds no live context is gated; its tagged overlays are cleared. -/
def execIslandIdleGating (die col row : Nat) (s : State) : Out :=
  let cell := (die, col, row)
  .next (if s.regions.any (·.cells.contains cell) || s.gated.contains cell || s.waking.contains cell then s
    else { s with gated := cell :: s.gated, overlays := s.overlays.filter fun t => (t.die, t.col, t.row) != cell })

/-- ISLAND_WAKE (R382): a waking island becomes usable; a host power command wakes a gated one. -/
def execIslandWake (die col row : Nat) (s : State) : Out :=
  let cell := (die, col, row)
  .next { s with waking := s.waking.filter (· != cell), gated := s.gated.filter (· != cell) }

/-! ## Intervals and temperatures (R383-R386) -/

/-- BUDGET_INTERVAL (R384, R385): the counts begin again, the caps follow the latest temperatures, and what waits for the interval comes to its
arbiters again, in the order of its arrival and before anything later. -/
def execBudgetInterval (s : State) : Out :=
  .next
    { s with
      interval := s.now / 20000, budgetUse := s.temps.map fun t => (4096 + t.1, capOf t.2)
      agenda := s.agenda ++ s.waits, waits := [] }

/-- THERMAL_POLL (R385). -/
def execThermalPoll (stack temp : Nat) (s : State) : Out :=
  .next { s with temps := (stack, temp % 256) :: s.temps.filter (·.1 != stack) }

/-! ## The wait-for walk (R360) -/

/-- The edges of the wait-for tables: waiter's slot, signaller's slot. -/
def State.edges (s : State) : List (Nat × Nat) := (s.waitfor.map fun e => (fld e.2.toNat 112 12, fld e.2.toNat 100 12)).dedup

/-- The slots that edges reach from a set in n rounds. -/
def reaches (l : List (Nat × Nat)) : Nat → List Nat → List Nat
  | 0, x => x
  | n + 1, x => reaches l n (x ++ (l.filter fun e => x.contains e.1 && !x.contains e.2).map (·.2)).dedup

/-- The slots that a slot's edges lead to. -/
def ahead (l : List (Nat × Nat)) (a : Nat) : List Nat := reaches l l.length ((l.filter (·.1 == a)).map (·.2)).dedup

/-- The waiting groups of kind 1: the slots of each cycle, in ascending order. -/
def cyclesOf (l : List (Nat × Nat)) : List (List Nat) :=
  let on := ((l.map (·.1)).dedup.filter fun a => (ahead l a).contains a).sorted (· ≤ ·)
  (on.map fun a => 1 :: on.filter fun b => (ahead l a).contains b && (ahead l b).contains a).dedup

/-- Whether the context in focus waits on WAITF and holds neither a copy-unit entry nor an outstanding kite packet. -/
def State.stalled (s : State) : Bool :=
  s.isles.any (fun c => match c.wait with | some (.flag f n _) => decide ((c.flag[f]).toNat < n) | _ => false) &&
    s.ops.all (fun o => o.slot != s.ctx.slot || !o.cu) && s.socks.all fun x => (x.packets ++ x.parked).all (·.slot != s.ctx.slot)

/-- The waiting groups of kind 2: the contexts of a region that stand still. -/
def State.stalls (s : State) : List (List Nat) :=
  s.regions.filterMap fun r =>
    let l := (s.residents r.rid).map (·.slot)
    if !l.isEmpty && l.all fun n => (s.focusSlot n).stalled then some (2 :: l.sorted (· ≤ ·)) else none

/-- A report to the physical functions of a group's partitions: kind, size, unrecorded waits, up to eight slots (R360, R394). -/
def State.report (s : State) (g : List Nat) : State :=
  let slots := g.drop 1
  let pids := (slots.filterMap fun n => (s.partOfSlot n).map (·.pid)).dedup
  pids.foldl (fun s pid => s.event pid 3
    (toLe 2 (g.headD 0) ++ toLe 2 slots.length ++ toLe 4 s.waitforLost ++ (slots.take 8).flatMap (toLe 2))) s

/-- WAIT_FOR_WALK (R360): groups found in this walk and the one before are reported. -/
def execWaitForWalk (s : State) : Out :=
  let found := cyclesOf s.edges ++ s.stalls
  let told := found.filter s.lastWalk.contains
  let t := told.foldl (fun s g => s.report g) s
  .next { t with lastWalk := found, waitforLost := if told.isEmpty then s.waitforLost else 0 }

/-! ## Module reset (R333) -/

/-- MODULE_RESET (R333): the machine as after reset; what fuses, the defect map and the retired frames hold outlasts it (log 22). -/
def execModuleReset (s : State) : Out :=
  .next
    { State.reset with
      fused := s.fused, defects := s.defects, badStraits := s.badStraits, badLinks := s.badLinks, retiredFrames := s.retiredFrames
      fwVersion := s.fwVersion, fwFused := s.fwFused, measured := s.measured.filter (·.1 ≤ 3), cxlBytes := s.cxlBytes, dpoison := s.dpoison }

end Sys2Proof.Machine
end

