-- ==== Sys2Proof/Machine/Security.lean ====
section
/-! DEFINITION. Frozen masters, attestation, firmware and TDISP interfaces (R397-R403). -/

namespace Sys2Proof.Machine

/-! ## Frozen masters (R397) -/

/-- FABRIC_LINK_BREACH (R397): the link is frozen, and the partition that owns it is told. -/
def execFabricLinkBreach (link : Nat) (s : State) : Out :=
  .next (if s.frozenLinks.contains link then s
    else
      let t := { s with frozenLinks := link :: s.frozenLinks }
      match s.ownerOfLink link with
      | some p => t.event p.pid 5 (toLe 1 2 ++ toLe 1 link)
      | none => t)

/-- TDISP_BREACH (R397, R403): a locked interface enters ERROR and its function is frozen. A change of its BAR or MSI-X configuration comes as
this event, a request through a foreign stream with the request. -/
def execTdispBreach (fn : Nat) (s : State) : Out :=
  let f := s.fn fn
  .next (if f.tdisp = .locked ∨ f.tdisp = .run then
      (let t := (s.refuseWaits fn).onFn fn fun f => { f with tdisp := .error, frozen := true }
       match f.pid with
       | some pid => t.event pid 5 (toLe 1 0 ++ toLe 1 fn)
       | none => t)
    else s)

/-! ## TDISP (R401) -/

/-- LOCK_INTERFACE (R401): a virtual function of a partition, unlocked, is locked with its selective stream. -/
def execLockInterface (fn stream : Nat) (s : State) : Out :=
  let f := s.fn fn
  .next (if !isPf fn && f.pid.isSome && !f.frozen && f.tdisp == .unlocked then s.onFn fn fun f => { f with tdisp := .locked, stream := stream } else s)

/-- START_INTERFACE (R401). -/
def execStartInterface (fn : Nat) (s : State) : Out :=
  .next (if (s.fn fn).tdisp = .locked ∧ !(s.fn fn).frozen then s.onFn fn fun f => { f with tdisp := .run } else s)

/-- STOP_INTERFACE (R401). -/
def execStopInterface (fn : Nat) (s : State) : Out :=
  .next (if (s.fn fn).tdisp = .unlocked then s else s.onFn fn fun f => { f with tdisp := .unlocked })

/-- GET_DEVICE_INTERFACE_REPORT (R401): the partition's capability table and the hash of its descriptor. -/
def execGetDeviceInterfaceReport (fn : Nat) (s : State) : Out :=
  .next (match (s.fn fn).pid.bind s.part with
    | none => s
    | some p => s.onFn fn fun f => { f with answer := s.capTable p ++ toLe 48 (Config.sha384 p.desc).toNat })

/-! ## SPDM (R398) -/

/-- A request to the SPDM responder of a physical function: the answer, and the transcript that both join (log 8). -/
def State.spdm (s : State) (pf code : Nat) (operand : List Byte) : State :=
  if !isPf pf then s
  else
    s.onFn pf fun f =>
      let a := Config.spdmAnswer code operand f.spdmLog
      { f with answer := a, spdmLog := f.spdmLog ++ toLe 1 code ++ operand ++ a }

/-- GET_VERSION (R398): a new exchange begins. -/
def execGetVersion (pf : Nat) (s : State) : Out := .next ((s.onFn pf fun f => { f with spdmLog := [], spdmPhase := 0 }).spdm pf 0x84 [])

/-- GET_CAPABILITIES (R398). -/
def execGetCapabilities (pf : Nat) (s : State) : Out := .next (s.spdm pf 0xE1 [])

/-- NEGOTIATE_ALGORITHMS (R398). -/
def execNegotiateAlgorithms (pf : Nat) (s : State) : Out := .next (s.spdm pf 0xE3 [])

/-- GET_DIGESTS (R398). -/
def execGetDigests (pf : Nat) (s : State) : Out := .next (s.spdm pf 0x81 [])

/-- GET_CERTIFICATE (R398). -/
def execGetCertificate (pf slot : Nat) (s : State) : Out := .next (s.spdm pf 0x82 (toLe 1 slot))

/-- CHALLENGE (R398). -/
def execChallenge (pf : Nat) (nonce : List Byte) (s : State) : Out := .next (s.spdm pf 0x83 nonce)

/-- What the fuse configuration and the defect map hold (R331, R361). -/
def State.fuseMap (s : State) : List (List Nat) :=
  (s.fused ++ s.defects).map (fun c => [c.1, c.2.1, c.2.2]) ++ [s.badStraits, s.badLinks, s.retiredFrames, [s.fwFused]]

/-- The measurement of an index (R398): what was measured last, or what runs from reset on. -/
def State.measurement (s : State) (idx : Nat) : List Byte :=
  match idx with
  | 4 => Config.fuseMeasurement s.fuseMap
  | 5 => (s.sock 0).identity
  | 7 => (s.sock 1).identity
  | 9 => s.attest
  | _ => ((s.measured.find? (·.1 == idx)).map (·.2)).getD (if 1 ≤ idx ∧ idx ≤ 3 then Config.bootMeasurement idx else [])

/-- GET_MEASUREMENTS (R398). -/
def execGetMeasurements (pf idx : Nat) (s : State) : Out := .next (s.spdm pf 0xE0 (toLe 1 idx ++ s.measurement idx))

/-- KEY_EXCHANGE (R398): where the message is accepted, a session is being established. -/
def execKeyExchange (pf : Nat) (data : List Byte) (s : State) : Out :=
  let ok := Config.spdmAccepts 0xE4 data (s.fn pf).spdmLog
  .next ((s.spdm pf 0xE4 data).onFn pf fun f => { f with spdmPhase := if ok && isPf pf then 1 else f.spdmPhase })

/-- FINISH (R398): where the message is accepted, the session being established is complete. -/
def execFinish (pf : Nat) (data : List Byte) (s : State) : Out :=
  let ok := Config.spdmAccepts 0xE5 data (s.fn pf).spdmLog
  .next ((s.spdm pf 0xE5 data).onFn pf fun f => { f with spdmPhase := if ok && f.spdmPhase == 1 then 2 else f.spdmPhase })

/-! ## Firmware (R399) -/

/-- FIRMWARE_LOAD (R399): an image whose signatures verify and whose version is at least the fused counter replaces the one that runs,
and is measured (R398). -/
def execFirmwareLoad (img : FwImage) (s : State) : Out :=
  .next (if Config.ecdsaVerifies img.body img.ecdsa && Config.lmsVerifies img.body img.lms && decide (s.fwFused ≤ img.version) then
      { s with fwVersion := img.version, measured := (2, toLe 48 (Config.sha384 img.body).toNat) :: s.measured.filter (·.1 != 2) }
    else s)

end Sys2Proof.Machine
end

