-- ==== Sys2Proof/Machine/Checkpoint.lean ====
section
/-! DEFINITION. Checkpoints and restores of a partition (R404-R408). A command takes its steps in CHECKPOINT_COMPLETE and
RESTORE_COMPLETE, a page in each, until it ends. -/

namespace Sys2Proof.Machine

/-! ## Descriptor (R404) -/

/-- Fields of a descriptor. -/
abbrev Desc := List Byte

/-- Number of replicas, and this shard's rank. -/
def nrep (d : Desc) : Nat := le2 d 0x2C
/-- This shard's rank. -/
def rankOf (d : Desc) : Nat := le2 d 0x2E

/-- A reserved byte, or a field outside its stated values. -/
def descBad (p : Part) (d : Desc) : Bool :=
  le4 d 0x30 / 2 != 0 || decide (8 < le4 d 0x34) || !allZero ((d.drop 0xC0).take 64) || nrep d == 0 || decide (8192 < nrep d) ||
    decide (nrep d ≤ rankOf d) || le8 d 0x10 % 65536 != 0 || !p.holdsGroup (le4 d 0x28)

/-- The index of a page inside RANGES, within its range. -/
def inRanges (d : Desc) (page : Nat) : Option Nat :=
  ((List.range (le4 d 0x34)).map fun i => (le8 d (0x40 + 16 * i), le8 d (0x48 + 16 * i))).findSome? fun r =>
    if r.1 ≤ page * 65536 ∧ page * 65536 < r.1 + r.2 then some (page - r.1 / 65536) else none

/-! ## Pages (R391, R405) -/

/-- Pages of a channel that are mapped: all but the top 64 MiB. -/
def channelPages : Nat := 31744

/-- The page of an index among a partition's mapped HBM pages in ascending GPA, as GPA / 65536. -/
def Part.pageAt (p : Part) (k : Nat) : Option Nat :=
  let rec find : List Nat → Nat → Option Nat
    | [], _ => none
    | d :: t, k =>
      let n := (p.chansOn d).length * channelPages
      if k < n then some (d * 2 ^ 29 + k / channelPages * 32768 + k % channelPages) else find t (k - n)
  find [0, 1, 2, 3, 4, 5] k

/-- The bytes of a page of a partition, or the unit of the uncorrectable error that it meets. -/
def State.readPage (s : State) (p : Part) (page : Nat) : Except (Option ErrUnit) (List Byte) := s.readGpa p (page * 65536) 65536

/-- The frame of a page that is read, zeroed where that is due (R258). -/
def State.touchPage (s : State) (p : Part) (page : Nat) : State := s.touchGpa p (page * 65536) 65536

/-- Bytes written from a GPA on; false where an access fails. -/
def State.writeGpa (s : State) (p : Part) (gpa : Nat) (l : List Byte) : State × Bool :=
  match s.gpaPlaces p true gpa l.length with
  | some pl => (State.writePlaces (pl.zip l) s, true)
  | none => (s, false)

/-- LOC's codes (R406). -/
def locOwn : Nat := 0xFFFFFFFF
/-- LOC of a zero page (R406). -/
def locZero : Nat := 0xFFFFFFFE

/-! ## The manifest (R406) -/

/-- A page entry's 64 bytes. -/
def entryBytes (e : Nat × Nat × Nat × BitVec 384) : List Byte := toLe 8 e.1 ++ toLe 4 e.2.1 ++ toLe 4 e.2.2.1 ++ toLe 48 e.2.2.2.toNat

/-- The slots of a share that are not FREE, in ascending order. -/
def State.heldSlots (s : State) (p : Part) : List LSlot :=
  ((s.shareSlots p).filter (·.st != .free)).sorted fun x y => decide (x.n ≤ y.n)

/-- The manifest before its hash. -/
def State.manifestBody (s : State) (p : Part) (c : Ckpt) : List Byte :=
  let slots := s.heldSlots p
  let l := toLe 4 0x544B434D ++ toLe 2 1 ++ toLe 2 (nrep c.desc) ++ (c.desc.take 16) ++ toLe 2 (rankOf c.desc) ++ List.replicate 38 0 ++
    toLe 4 slots.length ++ toLe 4 c.entries.length ++ toLe 2 (p.poolSize 0) ++ toLe 2 (p.poolSize 1)
  l ++ List.replicate 52 0 ++ slots.flatMap (·.image128) ++ c.entries.flatMap entryBytes

/-! ## Commands (R407) -/

/-- CKPTSTAT of a partition (R407). -/
def Part.ckptStat (p : Part) : Nat :=
  p.ckptPages % 2 ^ 32 * 2 ^ 32 + p.ckptReason * 256 + (if p.ckptErr then 2 else 0) + (if p.ckpt.isSome then 1 else 0)

/-- What peer ranks have sent for a command that has ended is gone (R405, R408). -/
def State.forgetPeers (s : State) (pid : Nat) : State :=
  { s with
    peerHashes := s.peerHashes.filter (·.pid != pid), peerPages := s.peerPages.filter (·.1 != pid)
    peerManifest := s.peerManifest.filter (·.1 != pid) }

/-- A command ends (R394, R405, R408): event and vector 2. -/
def State.ckptEnd (s : State) (pid fn : Nat) (reason : Option Nat) : State :=
  let t := (s.forgetPeers pid).onPart pid fun p =>
    match reason with
    | some r => { p with ckpt := none, ckptErr := true, ckptReason := r }
    | none => { p with ckpt := none, ckptErr := false, ckptReason := 0 }
  (t.event pid 6 (toLe 8 (((t.part pid).map (·.ckptStat)).getD 0))).message fn 2

/-- DREQ cleared on every slot of a share: what is SUSPENDED goes on, what is not keeps only the request (R405). -/
def State.clearDreq (s : State) (p : Part) : State :=
  ((s.shareSlots p).map (·.n)).foldl (fun s n => (s.onSlot n fun x => if x.st = .suspended then x else { x with dreq := false }).relocated n) s

/-- A checkpoint ends (R405, R408). -/
def State.checkpointEnds (s : State) (p : Part) (fn : Nat) (reason : Option Nat) : State := (s.ckptEnd p.pid fn reason).clearDreq p

/-- A command in progress changed. -/
def State.onCkpt (s : State) (pid : Nat) (f : Ckpt → Ckpt) : State := s.onPart pid fun p => { p with ckpt := p.ckpt.map f }

/-- A restore that stops or fails at one of its steps runs RESET (R396, R407, R408): the slots armed meanwhile are killed, and the rest follows
once their contexts are gone. -/
def State.restoreFails (s : State) (p : Part) (reason : Option Nat) : State :=
  State.killAll (s.shareSlots p)
    ((s.onPart p.pid fun p => { p with resetting := true }).onCkpt p.pid fun c => { c with ends := some reason })

/-- The end of that RESET, and of the restore. -/
def State.restoreReset (s : State) (p : Part) (fn : Nat) (reason : Option Nat) : State :=
  if s.allCtx.all (·.pid != p.pid) then (s.powerCycle p).ckptEnd p.pid fn reason else s

/-- A command refused before it starts. -/
def State.ckptRefused (s : State) (p : Part) (fn r : Nat) : State := s.ckptEnd p.pid fn (some r)

/-- CKPTCMD with OP 0 or 1 written (R404, R407): one that meets a running command is dropped. -/
def State.ckptCommand (s : State) (fn op : Nat) (start : Part → State → State) : State :=
  s.partWrite fn true false fun p s =>
    if p.ckpt.isSome then s.dropped fn
    else
      let s := s.onPart p.pid fun p => { p with ckptPages := 0 }
      let s := s.touchGpa p p.ckptAddr 256
      match s.readGpa p p.ckptAddr 256 with
      | .error u => (s.blame u).ckptRefused p fn 0x08
      | .ok d =>
        if descBad p d then s.ckptRefused p fn 0x01
        else
          start p (s.onPart p.pid fun p =>
            { p with
              ckptErr := false, ckptReason := 0
              ckpt := some { op := op, fn := fn, desc := d, phase := 0, page := 0, entries := [], store := 0, since := s.now, manifest := [] } })

/-- CHECKPOINT (R405 step 1). -/
def execCheckpoint (fn : Nat) (s : State) : Out :=
  .next (s.ckptCommand fn 0 fun p s =>
    State.relocateAll (((s.shareSlots p).filter fun x => x.st == .placed || x.st == .running).map (·.n)) s)

/-- RESTORE (R408). -/
def execRestore (fn : Nat) (s : State) : Out :=
  .next (s.ckptCommand fn 1 fun p s => if (s.heldSlots p).isEmpty then s else s.ckptRefused p fn 0x01)

/-- ABORT (R407). -/
def execAbort (fn : Nat) (s : State) : Out :=
  .next (s.partWrite fn true false fun p s =>
    match p.ckpt with
    | none => s
    | some c => if c.op = 0 then s.checkpointEnds p c.fn none else if c.ends.isSome then s else s.restoreFails p none)

/-! ## The steps of a checkpoint (R405) -/

/-- Whether no slot of a partition is SUSPENDING and no slot-D operation, collective or kite packet of it is outstanding (R405 step 2). -/
def State.partQuiet (s : State) (p : Part) : Bool :=
  let mine (n : Nat) : Bool := decide (p.slotBase ≤ n ∧ n < p.slotBase + p.slotCnt)
  (s.shareSlots p).all (fun x => !([SlotSt.placed, .running, .suspending, .retiring].contains x.st)) && s.ops.all (fun o => !mine o.slot) &&
    s.socks.all fun x => x.packets.all fun q => !mine q.slot

/-- The page that an access could not reach is reported (R408). -/
def State.pageEvent (s : State) (pid gpa : Nat) : State := s.event pid 1 (toLe 8 gpa ++ toLe 1 0xFF)

/-- Hashing: the next page, its entry (R405 steps 3 and 4). -/
def State.hashPage (s : State) (p : Part) (c : Ckpt) (page : Nat) : State :=
  let gpa := page * 65536
  match s.stage2 p gpa true false with
  | .error _ => (s.pageEvent p.pid gpa).checkpointEnds p c.fn (some 0x08)
  | .ok pl =>
    if s.awaitsZero pl then
      s.onCkpt p.pid fun c => { c with page := c.page + 1, entries := c.entries ++ [(page, locZero, 0, Config.sha384 (List.replicate 65536 0))] }
    else
      match s.readPage p page with
      | .error u => ((s.blame u).pageEvent p.pid gpa).checkpointEnds p c.fn (some 0x08)
      | .ok l =>
        let loc := match inRanges c.desc page with
          | some k => if k % nrep c.desc = rankOf c.desc then locOwn else k % nrep c.desc
          | none => locOwn
        s.onCkpt p.pid fun c => { c with page := c.page + 1, entries := c.entries ++ [(page, loc, 0, Config.sha384 l)] }

/-- The hash that a peer rank has sent for a page of the step that a descriptor names. -/
def State.peerHash (s : State) (pid : Nat) (d : Desc) (rank page : Nat) : Option (BitVec 384) :=
  (s.peerHashes.find? fun h => h.pid == pid && h.rank == rank && h.job.toNat == le8 d 0 && h.step.toNat == le8 d 8 && h.page == page).map (·.hash)

/-- Exchange: a page whose hash differs from its writer's is one's own; none while a hash is missing (R405 step 4). -/
def State.exchange (s : State) (pid : Nat) (d : Desc) (l : List (Nat × Nat × Nat × BitVec 384)) : Option (List (Nat × Nat × Nat × BitVec 384)) :=
  l.mapM fun e =>
    if e.2.1 = locOwn ∨ e.2.1 = locZero then some e
    else (s.peerHash pid d e.2.1 e.1).map fun h => if h = e.2.2.2 then e else (e.1, locOwn, 0, e.2.2.2)

/-- Writing: the next page to the next free index of the store. -/
def State.storePage (s : State) (p : Part) (c : Ckpt) (e : Nat × Nat × Nat × BitVec 384) : State :=
  if e.2.1 ≠ locOwn then s.onCkpt p.pid fun c => { c with page := c.page + 1 }
  else if le8 c.desc 0x18 < (c.store + 1) * 65536 then s.checkpointEnds p c.fn (some 0x07)
  else
    match s.readPage p e.1 with
    | .error u => ((s.blame u).pageEvent p.pid (e.1 * 65536)).checkpointEnds p c.fn (some 0x08)
    | .ok l =>
      match s.writeGpa p (le8 c.desc 0x10 + c.store * 65536) l with
      | (_, false) => (s.pageEvent p.pid (e.1 * 65536)).checkpointEnds p c.fn (some 0x08)
      | (t, true) =>
        (t.onPart p.pid fun p => { p with ckptPages := p.ckptPages + 1 }).onCkpt p.pid fun c =>
          { c with page := c.page + 1, store := c.store + 1, entries := c.entries.set c.page (e.1, locOwn, c.store, e.2.2.2) }

/-- The manifest written (R405 step 5); the contexts of the share are kept under its hash (log 20). -/
def State.writeManifest (s : State) (p : Part) (c : Ckpt) : State :=
  let body := s.manifestBody p c
  let h := Config.sha384 body
  match s.writeGpa p (le8 c.desc 0x20) (body ++ toLe 48 h.toNat) with
  | (_, false) => s.checkpointEnds p c.fn (some 0x08)
  | (t, true) =>
    let kept := s.saved.filter fun r => decide (p.slotBase ≤ r.ctx.slot ∧ r.ctx.slot < p.slotBase + p.slotCnt)
    ({ t with shards := (h, (s.heldSlots p).map (fun x => { x with n := x.n - p.slotBase }), kept.map fun r => { r with ctx := { r.ctx with slot := r.ctx.slot - p.slotBase } }) ::
        t.shards.filter (·.1 != h) } : State).checkpointEnds p c.fn none

/-- The next step of a checkpoint. -/
def State.checkpointStep (s : State) (p : Part) (c : Ckpt) : State :=
  let next (s : State) : State := s.onCkpt p.pid fun c => { c with phase := c.phase + 1, page := 0, since := s.now }
  match c.phase with
  | 0 => if s.partQuiet p then next s else s
  | 1 => (match p.pageAt c.page with | some page => s.hashPage p c page | none => next s)
  | 2 =>
    (match s.exchange p.pid c.desc c.entries with
    | some l => (next s).onCkpt p.pid fun c => { c with entries := l }
    | none => if 200000000 ≤ s.now - c.since then s.checkpointEnds p c.fn (some 0x07) else s)
  | 3 => (match c.entries[c.page]? with | some e => s.storePage p c e | none => next s)
  | _ => s.writeManifest p c

/-- CHECKPOINT_COMPLETE (R405): a checkpoint takes its next step; the last ends it. -/
def execCheckpointComplete (pid : Nat) (s : State) : Out :=
  .next (match s.part pid with
    | none => s
    | some p => (match p.ckpt with | some c => if c.op = 0 then s.checkpointStep p c else s | none => s))

/-! ## The steps of a restore (R408) -/

/-- Bytes of the manifest whose header is given, but for its hash (R406). -/
def manifestLength (h : List Byte) : Nat := 128 + 128 * le4 h 0x40 + 64 * le4 h 0x44

/-- The manifest of a descriptor, its hash checked; or the reason. -/
def State.readManifest (s : State) (p : Part) (d : Desc) : Except Turned (List Byte) :=
  match s.readGpa p (le8 d 0x20) 128 with
  | .error u => .error (0x08, u)
  | .ok h =>
    let n := manifestLength h
    match s.readGpa p (le8 d 0x20) (n + 48) with
    | .error u => .error (0x08, u)
    | .ok l =>
      if ofLe (l.drop n) ≠ (Config.sha384 (l.take n)).toNat ∨ le4 l 0 ≠ 0x544B434D ∨ le2 l 4 ≠ 1 then .error (0x02, none)
      else if le8 l 8 ≠ le8 d 0 ∨ le2 l 6 ≠ nrep d ∨ le2 l 0x18 ≠ rankOf d then .error (0x03, none)
      else if le8 l 0x10 ≠ le8 d 8 then .error (0x04, none)
      else if le2 l 0x48 ≠ p.poolSize 0 ∨ le2 l 0x4A ≠ p.poolSize 1 ∨ p.slotCnt < le4 l 0x40 then .error (0x05, none)
      else .ok l

/-- The numbers that a manifest's slot records have within the share (R406, log 20): those that this device wrote the records under, else their
places in the manifest. -/
def State.shardNumbers (s : State) (l : List Byte) : List Nat :=
  match s.shards.find? (·.1 == BitVec.ofNat 384 (ofLe (l.drop (l.length - 48)))) with
  | some (_, slots, _) => (slots.map (·.n)).take (le4 l 0x40)
  | none => List.range (le4 l 0x40)

/-- The manifest read and held to its descriptor and to the partition's shape (R408 steps 1 to 3). -/
def State.checkManifest (s : State) (p : Part) (d : Desc) : Except Turned (List Byte) :=
  match s.readManifest p d with
  | .error r => .error r
  | .ok l => if (s.shardNumbers l).all (· < p.slotCnt) then .ok l else .error (0x05, none)

/-- The page entries of a manifest. -/
def manifestEntries (l : List Byte) : List (Nat × Nat × Nat × BitVec 384) :=
  (List.range (le4 l 0x44)).map fun i =>
    let o := 128 + 128 * le4 l 0x40 + 64 * i
    (le8 l o, le4 l (o + 8), le4 l (o + 12), BitVec.ofNat 384 (ofLe ((l.drop (o + 16)).take 48)))

/-- A page restored to its GPA: written and counted. -/
def State.putPage (s : State) (p : Part) (page : Nat) (l : List Byte) : State :=
  match s.writeGpa p (page * 65536) l with
  | (_, false) => (s.pageEvent p.pid (page * 65536)).restoreFails p (some 0x08)
  | (t, true) => (t.onPart p.pid fun p => { p with ckptPages := p.ckptPages + 1 }).onCkpt p.pid fun c => { c with page := c.page + 1, since := s.now }

/-- A page that a peer rank holds: under FAST from its HBM or, where that hash differs, from its store; else from its store (R408). -/
def State.pullPage (s : State) (p : Part) (c : Ckpt) (e : Nat × Nat × Nat × BitVec 384) : State :=
  let mine := s.peerPages.filter fun x => x.1 == p.pid && x.2.1 == e.2.1 && x.2.2.1 == e.1
  match s.peerManifest.find? fun m => m.1 == p.pid && m.2.1 == e.2.1 with
  | none => if 200000000 ≤ s.now - c.since then s.restoreFails p (some 0x07) else s
  | some m =>
    if m.2.2.1.toNat ≠ le8 c.desc 0 then s.restoreFails p (some 0x03)
    else if m.2.2.2.toNat ≠ le8 c.desc 8 then s.restoreFails p (some 0x04)
    else
      match mine.find? fun x => Config.sha384 x.2.2.2 = e.2.2.2 with
      | some x => s.putPage p e.1 x.2.2.2
      | none =>
        if (if bit (le4 c.desc 0x30) 0 then 2 else 1) ≤ mine.length then s.restoreFails p (some 0x06)
        else if 200000000 ≤ s.now - c.since then s.restoreFails p (some 0x07)
        else s

/-- A page of HBM whose leaf has Z = 1 again (R258, R408). -/
def Part.zeroPage (p : Part) (page : Nat) : Part :=
  let k := p.leafAt (page / 2 ^ 29) (page % 2 ^ 29)
  if (p.s2Word k).getLsbD 1 then p.setS2 k (p.s2Word k ||| 0x80) else p

/-- The next page of a restore. -/
def State.restorePage (s : State) (p : Part) (c : Ckpt) (e : Nat × Nat × Nat × BitVec 384) : State :=
  if e.2.1 = locZero then
    (s.onPart p.pid fun p => p.zeroPage e.1).onCkpt p.pid fun c => { c with page := c.page + 1, since := s.now }
  else if e.2.1 = locOwn then
    let from_ := le8 c.desc 0x10 / 65536 + e.2.2.1
    let s := s.touchPage p from_
    match s.readPage p from_ with
    | .error u => ((s.blame u).pageEvent p.pid (e.1 * 65536)).restoreFails p (some 0x08)
    | .ok l => if Config.sha384 l = e.2.2.2 then s.putPage p e.1 l else s.restoreFails p (some 0x06)
  else s.pullPage p c e

/-- A slot from its record of a manifest (R335, R406). -/
def slotOfRecord (n now : Nat) (l : List Byte) : LSlot :=
  let w := le8 l 0
  let st := (slotStOf (fld w 0 4)).getD .free
  { n := n, st := st, rid := fld w 48 9, die := fld w 45 3, ctx := fld w 43 2, eprio := fld w 40 3, freason := fld w 32 8, fcause := fld w 24 8
    wfn := fld w 16 8, hreq := bit w 15, greq := bit w 14, dreq := bit w 13, record := Mem.wrList [] (place 8 (l.drop 8)), readyAt := now }

/-- The context of a slot whose shard another device has written, as its restored save area is to fill it: there where the first block holds
the image's shape in PW and PH, which are always saved and never 0 (R48, R195, R408, log 20). -/
def State.foreignCtx (s : State) (p : Part) (x : LSlot) : Option CtxRec :=
  match s.loadImage x p with
  | .error _ => none
  | .ok i =>
    match s.readVa x.asid p.pid x.save i.blockSize with
    | .error _ => none
    | .ok l =>
      let reg (r : SysReg) : Nat := le8 l (0x25C0 + 8 * r.num)
      let r := x.startCtx i
      if reg .pw = i.w ∧ reg .ph = i.h then some { r with ctx := { r.ctx with slot := x.n, rid := 512, started := true } } else none

/-- A slot of a shard that another device has written: the choice of an image made again over the restored memory (R365, R408, log 20). -/
def State.foreignSlot (s : State) (p : Part) (x : LSlot) : LSlot × Option CtxRec :=
  if x.st = .ready ∨ x.st = .suspended then
    let x := { x with chosen := (s.armCheck p x).toOption.getD 0 }
    (x, if x.st = .suspended then s.foreignCtx p x else none)
  else (x, none)

/-- A slot of a shard that this device has written: the image chosen and the tests of its arming stand (R365, log 20). -/
def LSlot.asKept (x k : LSlot) : LSlot := { x with chosen := k.chosen, checked := k.checked, found := k.found, dep0 := k.dep0, dep1 := k.dep1 }

/-- The slots that a manifest's records give and the contexts that go with them (R408 step 5). -/
def State.shardSlots (s : State) (p : Part) (l : List Byte) : List (LSlot × Option CtxRec) :=
  let record (n k : Nat) : LSlot := slotOfRecord (p.slotBase + n) s.now ((l.drop (128 + 128 * k)).take 128)
  match s.shards.find? (·.1 == BitVec.ofNat 384 (ofLe (l.drop (l.length - 48)))) with
  | some (_, slots, ctxs) =>
    ((List.range (le4 l 0x40)).zip slots).map fun k =>
      ((record k.2.n k.1).asKept k.2, (ctxs.find? (·.ctx.slot == k.2.n)).map fun r => { r with ctx := { r.ctx with slot := p.slotBase + k.2.n } })
  | none => (List.range (le4 l 0x40)).map fun k => s.foreignSlot p (record k k)

/-- The slot records written, and their contexts given back (R408 step 5, log 20). -/
def State.restoreSlots (s : State) (p : Part) (c : Ckpt) : State :=
  let l := s.shardSlots p c.manifest
  let slots := l.map fun x => match x.2 with
    | some r => { x.1 with image := some r.ctx.image, savedMid := true }
    | none => x.1
  let kept := l.filterMap (·.2)
  let t : State :=
    { s with
      slots := s.slots.filter (fun (x : LSlot) => slots.all (·.n != x.n)) ++ slots
      saved := kept ++ s.saved.filter fun (r : CtxRec) => kept.all (·.ctx.slot != r.ctx.slot)
      agenda := s.agenda ++ (slots.filter (·.st == .armed)).map fun x => Instr.dependenceSatisfied x.n }
  let t := if slots.isEmpty then t else t.onPart p.pid fun p => { p with featOpen := false }
  (t.ckptEnd p.pid c.fn none).clearDreq p

/-- The next step of a restore. -/
def State.restoreStep (s : State) (p : Part) (c : Ckpt) : State :=
  match c.ends, c.phase with
  | some r, _ => s.restoreReset p c.fn r
  | none, 0 =>
    let s := s.touchGpa p (le8 c.desc 0x20) 128
    (match s.checkManifest p c.desc with
    | .error r => (s.blame r.2).restoreFails p (some r.1)
    | .ok l =>
      (s.touchGpa p (le8 c.desc 0x20) l.length).onCkpt p.pid fun c => { c with phase := 1, manifest := l, entries := manifestEntries l, since := s.now })
  | none, _ => (match c.entries[c.page]? with | some e => s.restorePage p c e | none => s.restoreSlots p c)

/-- RESTORE_COMPLETE (R408): a restore takes its next step; the last ends it. -/
def execRestoreComplete (pid : Nat) (s : State) : Out :=
  .next (match s.part pid with
    | none => s
    | some p => (match p.ckpt with | some c => if c.op = 1 then s.restoreStep p c else s | none => s))

/-- The partition that a peer rank's message is for. -/
def replicaPart : ReplicaMsg → Nat
  | .hashes pid _ _ _ _ => pid
  | .pages pid _ _ _ _ => pid
  | .pull pid _ _ _ => pid

/-- Whether the ranks of a partition's shards may be reached: its running command's group, else that of the descriptor at CKPTADDR, spans no
other device, or FABRIC is accepted (R362). -/
def State.replicasMeet (s : State) (p : Part) : Bool :=
  let d := match p.ckpt with
    | some c => c.desc
    | none => (s.readGpa p p.ckptAddr 256).toOption.getD []
  bit p.featAccept 1 || !Config.groupSpans (le4 d 0x28)

/-- A page given to the partition's physical function as its answer. -/
def State.givePage (s : State) (p : Part) (page : Nat) : State :=
  let s := s.touchPage p page
  match s.readPage p page with
  | .error u => (s.blame u).onFn p.pf fun f => { f with answer := [] }
  | .ok l => s.onFn p.pf fun f => { f with answer := l }

/-- A page that a peer rank pulls, in the answer of the partition's physical function: from HBM, or from an index of the store; nothing where it
cannot be read (R408). -/
def State.servePull (s : State) (p : Part) (page : Nat) (store : Option Nat) : State :=
  match store with
  | none => s.givePage p page
  | some k =>
    match s.readGpa p p.ckptAddr 256 with
    | .error u => (s.blame u).onFn p.pf fun f => { f with answer := [] }
    | .ok d => s.givePage p (le8 d 0x10 / 65536 + k)

/-- REPLICA_EXCHANGE (R405, R408): what a peer rank sends is kept, what it asks for is answered; nothing where the group is not the
partition's to use (R362). -/
def execReplicaExchange (m : ReplicaMsg) (s : State) : Out :=
  .next (match s.part (replicaPart m) with
    | none => s
    | some p =>
      if !s.replicasMeet p then s
      else
        match m with
        | .hashes pid rank job step l =>
          let new : List PeerHash := l.map fun x => { pid := pid, rank := rank, job := job, step := step, page := x.1, hash := x.2 }
          { s with peerHashes := new ++ s.peerHashes.filter fun h => new.all fun n => { n with hash := h.hash } != h }
        | .pages pid rank job step l =>
          { s with
            peerManifest := (pid, rank, job, step) :: s.peerManifest.filter fun x => !(x.1 == pid && x.2.1 == rank)
            peerPages := s.peerPages ++ l.map fun x => (pid, rank, x.1, x.2) }
        | .pull _ _ page store => s.servePull p page store)

end Sys2Proof.Machine
end

