-- ==== Sys2Proof/Machine/Micro.lean ====
section
/-! DEFINITION. The micro-words of a routine (R231-R244). Executing one is the micro-sequencer's attempt to issue it in the present
MAT cycle: where its unit is busy or a condition of R231 is open, nothing changes and the attempt is made again in the next
cycle. -/

namespace Sys2Proof.Machine

/-- The units of R231. -/
inductive MuUnit | seq | load | array | fold | drain
  deriving DecidableEq, Repr

/-- First cycle in which a unit is idle. -/
def Routine.free (r : Routine) : MuUnit → Nat
  | .seq => r.seqFree
  | .load => r.loadFree
  | .array => r.arrayFree
  | .fold => r.foldFree
  | .drain => r.drainFree

/-- A unit occupied up to a cycle. -/
def Routine.busy (r : Routine) (u : MuUnit) (n : Nat) : Routine :=
  match u with
  | .seq => { r with seqFree := n }
  | .load => { r with loadFree := n }
  | .array => { r with arrayFree := n }
  | .fold => { r with foldFree := n }
  | .drain => { r with drainFree := n }

/-- A fault of a micro-word: cause and TINFO[17:0]. -/
abbrev MuFault := Nat × Nat

/-- R82's fault of a micro-word. -/
def Fail.mu (f : Fail) : MuFault := (f.1, f.info)

/-- R244: the routine ends in the fault's cycle with its open segment discarded; a latched word starts in the rc after the
region resumes. An uncorrectable error ends the context (R207). -/
def State.muFault (s : State) (r : Routine) (f : MuFault) : State :=
  if f.1 = causeEcc then s.loseAt .X f.2
  else
  let m := s.core.mat
  let run := m.running.map fun x => { x with len := s.ctx.rcycle + 1 - x.first }
  let c : Isle := { s.core with mat := { m with routine := none, running := run } }
  { s with core := c.raiseLate { cause := f.1, addr := r.upc, info := f.2 + r.upc * 2 ^ 18, slot := 5, issued := true } }

/-- The micro-sequencer's attempt (R231): `ready` says the word's own conditions; `body` answers its duration and the routine after
it, or its fault. -/
def State.micro (s : State) (u : MuUnit) (ready : Routine → Bool) (body : Routine → Except MuFault (Nat × Routine)) : State :=
  match s.core.mat.routine with
  | none => s
  | some r =>
    if r.returned || decide (r.cycle < r.free u) || !ready r then s
    else
      match body { r with upc := r.upc + 1 } with
      | .error f => s.muFault r f
      | .ok (n, t) => { s with core := { s.core with mat := { s.core.mat with routine := some (t.busy u (r.cycle + n)) } } }

/-- Whether a micro-word that does not decode would issue in the present cycle (R233): its UOP's unit is idle and its conditions of R231
hold; a reserved UOP has none. -/
def Routine.wouldIssue (r : Routine) (w : W64) : Bool :=
  let slot := if bit w.toNat 0 then 1 else 0
  let idle (u : MuUnit) : Bool := decide (r.free u ≤ r.cycle)
  let staged := r.stepSlot != slot || decide (r.arrayFree ≤ r.cycle)
  match fld w.toNat 58 6 with
  | 0x00 | 0x04 | 0x0A | 0x0B | 0x0C | 0x0D => idle .seq
  | 0x01 | 0x02 | 0x05 => idle .load && staged
  | 0x03 => idle .array && decide ((if slot = 0 then r.load0 else r.load1) ≤ r.cycle) && (r.window.isSome || decide (r.foldEnd ≤ r.cycle))
  | 0x06 => idle (if slot = 1 then .load else .fold)
  | 0x07 => idle .fold && idle .array
  | 0x08 | 0x09 | 0x0F => idle .drain
  | 0x0E | 0x10 => idle .seq && idle .load && idle .array && idle .fold && idle .drain
  | _ => true

/-- INSTR_ILLEGAL 0x0E of a routine (R236). -/
def muIllegal : MuFault := (1, 0x0E)

/-! ## Operands and limits -/

/-- mp[N] of the snapshot. -/
def Routine.arg (r : Routine) (n : Fin 8) : Nat := r.call.arg n.val
/-- The K-block (R227). -/
def Routine.kb (r : Routine) : Nat := kblock (r.call.mp.getD 3 0)
/-- The private copy of A's stream (R235). -/
def Routine.aStream (r : Routine) : StreamReg := r.st.getD (fld (r.call.arg 0) 0 4) {}
/-- The header of A. -/
def Routine.aHdr (r : Routine) : Hdr := .ofStream r.aStream
/-- The private copy of B's stream, closed where mp1 names none. -/
def Routine.bStream (r : Routine) : StreamReg := r.st.getD (fld (r.call.arg 1) 0 5) {}
/-- The header of B: the stream's, or the one latched in the handle's entry (R175). -/
def Routine.bHdr (r : Routine) : Hdr :=
  match r.call.handle with
  | some h => .ofNat h.2.1.toNat
  | none => .ofStream r.bStream

/-- Effective row, column and depth limits (R235); a closed stream has ROWS = COLS = 0 (R155). -/
def Routine.rowLimit (r : Routine) : Nat := min r.rlim r.aHdr.rows
def Routine.colLimit (r : Routine) : Nat := min r.clim r.bHdr.cols
def Routine.depthLimit (r : Routine) : Nat := min r.dlim r.aHdr.cols

/-- An operand as a routine meets it: its header, the bytes of its tile and their base, and the code of the memory whose sectors a load of it
reads (R207): a handle's tile lies in the resident area, outside every footprint (R352). -/
structure Operand where
  hdr : Hdr
  mem : Mem
  base : Nat
  unit : Nat
  deriving DecidableEq, Repr

/-- A stream's tile as an operand, in the buffer that the stream names: R205 gives A, B and each drain a buffer, and no fault for a stream of
another one (DESIGN CHOICE, log 75). -/
def Isle.tileOf (c : Isle) (t : StreamReg) : Operand := { hdr := .ofStream t, mem := c.buf t.buf, base := t.base, unit := bufCode t.buf }

/-- The resident area of weight tiles on the isle in focus (R352). -/
def State.residentArea (s : State) : Mem :=
  match s.part s.ctx.pid with
  | some p => if s.ctx.image.mclass then p.whM else p.whB
  | none => []

/-- An operand that passes its role's requirements, step 3 of R82. -/
def Operand.inRole (o : Operand) (role : Option Fail) : Except MuFault Operand :=
  match role with
  | some f => .error f.mu
  | none => .ok o

/-- An operand that pairs on its own: KIND 0 (R84), in step 4 of R82. -/
def Operand.paired (o : Operand) (pos : Nat) : Except MuFault Operand :=
  if o.hdr.kind ≠ 0 then .error (causeMismatch, pos * 256 + 0x20) else .ok o

/-- A as a routine meets it (R173, R231), or the fault of a stream or of its role. -/
def Routine.srcA (r : Routine) (c : Isle) : Except MuFault Operand :=
  match readStream r.st (fld (r.call.arg 0) 0 4) with
  | .error f => .error (f.1, f.2.1)
  | .ok t => (c.tileOf t).inRole (aRole (.ofStream t) r.kb)

/-- B as a routine meets it: the stream's tile, or the handle's in the resident area `res` under the header latched in its entry (R175,
R352). -/
def Routine.srcB (r : Routine) (c : Isle) (res : Mem) : Except MuFault Operand :=
  match r.call.handle with
  | some h => ({ hdr := r.bHdr, mem := res, base := h.2.2, unit := 6 } : Operand).inRole (bRole r.bHdr r.kb)
  | none =>
    match readStream r.st (fld (r.call.arg 1) 0 5) with
    | .error f => .error (f.1, f.2.1)
    | .ok t => (c.tileOf t).inRole (bRole (.ofStream t) r.kb)

/-- A alone: its role, then its KIND (R82). -/
def Routine.opA (r : Routine) (c : Isle) : Except MuFault Operand := (r.srcA c).bind (·.paired 0)

/-- B alone. -/
def Routine.opB (r : Routine) (c : Isle) (res : Mem) : Except MuFault Operand := (r.srcB c res).bind (·.paired 1)

/-- The value of a logical element of a tile; none outside it (R67, R210, R236). -/
def Hdr.value (h : Hdr) (m : Mem) (base r c : Nat) : Option XVal :=
  match fmtOf h.efd with
  | none => none
  | some f =>
    if r < h.rows ∧ c < h.cols then
      some (match h.code f m base r c with | some k => valueOf f k | none => .fin false 0 0)
    else none

/-- The block scale times TSCALE at a position (R65, R66); 1 outside the tile. -/
def Hdr.factor (h : Hdr) (m : Mem) (base r c : Nat) : XVal :=
  if r < h.rows ∧ c < h.cols then
    (if h.sfmt = 0 then .fin false 1 0 else scaleValue h.sfmt (h.scale m base (h.scaleIndex r c))).mul (tscaleValue h.tscale)
  else .fin false 1 0

/-- The bytes that reading element (r, c) of a tile touches (R62, R67): its own, or its metadata and the value they pick. -/
def Hdr.reads (h : Hdr) (base r c : Nat) : List (Nat × Nat) :=
  match fmtOf h.efd with
  | none => []
  | some f =>
    let bits (a off n : Nat) : Nat × Nat := (a + off / 8, ceilDiv (off % 8 + n) 8)
    let md := base + h.moff * 32
    let row := base + h.doff + r * h.stride
    if h.rows ≤ r ∨ h.cols ≤ c then []
    else
      match groupOf h.sparse with
      | some (g, k, n) =>
        if h.baxis = 1 then
          bits (md + r / g * h.metaStride) (c * k * n) (k * n) ::
            (List.range k).map fun j => bits (base + h.doff + (r / g * k + j) * h.stride) (c * f.width) f.width
        else [bits (md + r * h.metaStride) (c / g * k * n) (k * n), bits row (c / g * k * f.width) (k * f.width)]
      | none =>
        if h.sparse = 4 then [bits (md + r * h.metaStride) 0 (c + 1), bits row 0 (min ((c + 1) * f.width) (h.stride * 8))]
        else if h.sparse = 5 then [bits row (c * 4) 4, (md, 16)]
        else [bits row (c * f.width) f.width]

/-- The bytes that reading the scale of a position touches (R65). -/
def Hdr.scaleReads (h : Hdr) (base r c : Nat) : List (Nat × Nat) :=
  if h.sfmt = 0 ∨ h.rows ≤ r ∨ h.cols ≤ c then []
  else [(base + h.scaleStart + h.scaleIndex r c * scaleBytes h.sfmt, scaleBytes h.sfmt)]

/-- What a load delivers, where no sector that it reads holds an uncorrectable error (R207); in a rerun, what it delivered before
(R243). -/
def Routine.deliver (r : Routine) (c : Isle) (reads : List (Nat × Nat × Nat)) (x : Loaded) : Except MuFault (Loaded × Routine) :=
  match r.feed with
  | y :: t => .ok (y, { r with feed := t, loads := r.loads ++ [y] })
  | [] =>
    match c.spoiltIn reads with
    | some a => .error (causeEcc, a)
    | none => .ok (x, { r with loads := r.loads ++ [x] })

/-- The bytes of an operand's memory that a load of 128 by kb positions reads. -/
def Operand.panelReads (o : Operand) (kb : Nat) (f : Nat → Nat → List (Nat × Nat)) : List (Nat × Nat × Nat) :=
  (List.range 128).flatMap fun i => (List.range kb).flatMap fun k => (f i k).map fun x => (o.unit, x.1, x.2)

/-- 128 by kb values by position: rows of A, or columns of B. -/
def panelOf {α : Type} (kb : Nat) (f : Nat → Nat → α) : List (List α) :=
  (List.range 128).map fun i => (List.range kb).map fun k => f i k

/-- A staging slot by number. -/
def Routine.stage (r : Routine) (k : Fin 2) : Stage := if k = 0 then r.stage0 else r.stage1
/-- A staging slot replaced. -/
def Routine.setStage (r : Routine) (k : Fin 2) (t : Stage) : Routine := if k = 0 then { r with stage0 := t } else { r with stage1 := t }
/-- First cycle after the loads into a slot. -/
def Routine.loaded (r : Routine) (k : Fin 2) : Nat := if k = 0 then r.load0 else r.load1
/-- A load into a slot recorded. -/
def Routine.loading (r : Routine) (k : Fin 2) (n : Nat) : Routine := if k = 0 then { r with load0 := n } else { r with load1 := n }

/-- LDA, LDB and SCL wait while a STEP reads their slot (R231). -/
def Routine.slotIdle (r : Routine) (k : Fin 2) : Bool := r.stepSlot != k.val || decide (r.arrayFree ≤ r.cycle)

/-- Bits of a full panel of B (R234). -/
def panelBits (h : Hdr) (w kb : Nat) : Nat :=
  let n := kb * 128
  match h.sparse with
  | 0 => n * w
  | 1 => n * w / 2 + n
  | 2 => n * w / 4 + n / 2
  | 3 => n * w / 2 + n * 3 / 2
  | 4 => n * (w + 1)
  | _ => n * 4 + 128

/-! ## Sequencer words -/

/-- mu.nop (R233). -/
def execMuNop (nM1 : BitVec 16) (s : State) : Out := .next (s.micro .seq (fun _ => true) fun r => .ok (nM1.toNat + 1, r))

/-- mu.mask (R235). -/
def execMuMask (depth : Bool) (mp : Fin 8) (s : State) : Out :=
  .next (s.micro .seq (fun _ => true) fun r =>
    let x := r.arg mp
    .ok (1, if depth then { r with dlim := fld x 16 13 } else { r with rlim := fld x 0 13, clim := fld x 13 13 }))

/-- mu.xpose (R235, R238). -/
def execMuXpose (on : Bool) (s : State) : Out := .next (s.micro .seq (fun _ => true) fun r => .ok (1, { r with xpose := on }))

/-- The index after the ENDL that matches a skipped LOOP (R236); `u` is the microstore from the word after the LOOP. -/
def skipLoop : List W64 → Nat → Nat → Option Nat
  | [], _, _ => none
  | w :: t, i, depth =>
    match decodeMicro w with
    | some (.muLoop _) => skipLoop t (i + 1) (depth + 1)
    | some .muEndl => (match depth with | 0 => some (i + 1) | d + 1 => skipLoop t (i + 1) d)
    | _ => skipLoop t (i + 1) depth

/-- The count of a mu.loop (R233, R236). -/
def Routine.loopCount (r : Routine) : MuCount → Nat
  | .imm n => n.toNat + 1
  | .mp k => fld (r.arg k) 0 16

/-- mu.loop (R236). -/
def execMuLoop (n : MuCount) (s : State) : Out :=
  .next (s.micro .seq (fun _ => true) fun r =>
    if 2 ≤ r.loops.length then .error muIllegal
    else
      let k := r.loopCount n
      if k = 0 then
        match skipLoop (s.core.ustore.drop r.upc) r.upc 0 with
        | some u => .ok (1, { r with upc := u })
        | none => .error muIllegal
      else .ok (1, { r with loops := (k, r.upc) :: r.loops }))

/-- mu.endl (R236). -/
def execMuEndl (s : State) : Out :=
  .next (s.micro .seq (fun _ => true) fun r =>
    match r.loops with
    | [] => .error muIllegal
    | (k, u) :: t => .ok (1, if 1 < k then { r with loops := (k - 1, u) :: t, upc := u } else { r with loops := t }))

/-- The value of a PADD (R235). -/
def Routine.paddVal (r : Routine) : PaddVal → Nat
  | .imm x => x.toNat
  | .mp h k => fld (r.arg k) (if h then 16 else 0) 16

/-- mu.padd (R235): modulo 2^16. -/
def execMuPadd (set : Bool) (cur : Cursor) (v : PaddVal) (s : State) : Out :=
  .next (s.micro .seq (fun _ => true) fun r =>
    let x := r.paddVal v
    let upd (old : Nat) : Nat := if set then x else (old + x) % 65536
    .ok (1, match cur with
      | .mi => { r with mi := upd r.mi }
      | .nj => { r with nj := upd r.nj }
      | .ko => { r with ko := upd r.ko }))

/-! ## Loads -/

/-- A panel that a load delivers. -/
def Loaded.panel? : Loaded → Option Panel
  | .panel p => some p
  | _ => none

/-- Scales that a load delivers. -/
def Loaded.scales? : Loaded → Option (List (List XVal))
  | .scales l => some l
  | _ => none

/-- Rows that a load delivers. -/
def Loaded.rows? : Loaded → Option (List (Nat × AccRow))
  | .rows l => some l
  | _ => none

/-- The 32 bytes of an accumulator's header that a read of it delivers. -/
def Loaded.header? : Loaded → Option (List Byte)
  | .header l => some l
  | _ => none

/-- The 32 bytes of the header at an address of ACB, in a rerun those read before (R82, R243). -/
def Routine.header (r : Routine) (c : Isle) (a : Nat) : Except MuFault (List Byte × Routine) :=
  (r.deliver c [(bufCode .acb, a, 32)] (.header (c.acb.bytes a 32))).map fun x => (x.1.header?.getD [], x.2)

/-- mu.lda (R231, R233, R236). -/
def execMuLda (slot : Fin 2) (s : State) : Out :=
  .next (s.micro .load (·.slotIdle slot) fun r =>
    let c := s.core.engineView
    match r.opA c with
    | .error f => .error f
    | .ok o =>
      let w := ((fmtOf o.hdr.efd).map (·.width)).getD 0
      let n := max 1 (ceilDiv (128 * r.kb * w) 2048)
      let p : Panel :=
        { elems := panelOf r.kb fun i k => o.hdr.value o.mem o.base (r.mi + i) (r.ko + k), width := w, sparse := o.hdr.sparse }
      (r.deliver c (o.panelReads r.kb fun i k => o.hdr.reads o.base (r.mi + i) (r.ko + k)) (.panel p)).map fun x =>
        (n, (x.2.setStage slot { x.2.stage slot with a := x.1.panel? }).loading slot (r.cycle + n)))

/-- mu.ldb (R231, R233, R234, R236): the panel is kept by columns. -/
def execMuLdb (slot : Fin 2) (s : State) : Out :=
  .next (s.micro .load (·.slotIdle slot) fun r =>
    let c := s.core.engineView
    match r.opB c s.residentArea with
    | .error f => .error f
    | .ok o =>
      let w := ((fmtOf o.hdr.efd).map (·.width)).getD 0
      let n := max 1 (ceilDiv (panelBits o.hdr w r.kb) 2048)
      let p : Panel :=
        { elems := panelOf r.kb fun j k => o.hdr.value o.mem o.base (r.ko + k) (r.nj + j), width := w, sparse := o.hdr.sparse }
      (r.deliver c (o.panelReads r.kb fun j k => o.hdr.reads o.base (r.ko + k) (r.nj + j)) (.panel p)).map fun x =>
        (n, (x.2.setStage slot { x.2.stage slot with b := x.1.panel? }).loading slot (r.cycle + n)))

/-- The scales of A staged (R236). -/
def Routine.sclA (r : Routine) (c : Isle) (slot : Fin 2) (o : Operand) : Except MuFault Routine :=
  (r.deliver c (o.panelReads r.kb fun i k => o.hdr.scaleReads o.base (r.mi + i) (r.ko + k))
    (.scales (panelOf r.kb fun i k => o.hdr.factor o.mem o.base (r.mi + i) (r.ko + k)))).map fun x =>
      x.2.setStage slot { x.2.stage slot with sa := x.1.scales? }

/-- The scales of B staged (R236). -/
def Routine.sclB (r : Routine) (c : Isle) (slot : Fin 2) (o : Operand) : Except MuFault Routine :=
  (r.deliver c (o.panelReads r.kb fun j k => o.hdr.scaleReads o.base (r.ko + k) (r.nj + j))
    (.scales (panelOf r.kb fun j k => o.hdr.factor o.mem o.base (r.ko + k) (r.nj + j)))).map fun x =>
      x.2.setStage slot { x.2.stage slot with sb := x.1.scales? }

/-- The scales of both operands staged: each passes on its own before either's KIND (R82, R236). -/
def Routine.sclAB (r : Routine) (c : Isle) (res : Mem) (slot : Fin 2) : Except MuFault Routine :=
  match r.srcA c, r.srcB c res with
  | .error f, _ => .error f
  | _, .error f => .error f
  | .ok x, .ok y =>
    match x.paired 0, y.paired 1 with
    | .error f, _ => .error f
    | _, .error f => .error f
    | _, _ => (r.sclA c slot x).bind fun r => r.sclB c slot y

/-- mu.scl (R236). -/
def execMuScl (a b : Bool) (slot : Fin 2) (s : State) : Out :=
  .next (s.micro .load (·.slotIdle slot) fun r =>
    let c := s.core.engineView
    let t := match a, b with
      | true, true => r.sclAB c s.residentArea slot
      | true, false => (r.opA c).bind (r.sclA c slot)
      | false, true => (r.opB c s.residentArea).bind (r.sclB c slot)
      | false, false => .ok r
    t.map fun r => (1, r.loading slot (r.cycle + 1)))

/-! ## STEP and FOLD -/

/-- The rate of the array (R227). -/
def Routine.rate (r : Routine) : Nat :=
  let small (h : Hdr) : Bool := match fmtOf h.efd with | some f => !f.wide && decide (f.width ≤ 4) | none => false
  (if small r.aHdr && small r.bHdr then 2 else 1) * (if r.bHdr.sparse = 1 then 2 else 1)

/-- One side's terms: an element with its staged factor, none where it is dropped or was never staged (R236, R237). The block scale and TSCALE of an
operand that no SCL has staged are 1 together: n = 1 and w = 0, where R73 would write a TSCALE of 1.0 as 128 x 2^-7 (DESIGN CHOICE, log 70). -/
def sideTerms (p : Option Panel) (sc : Option (List (List XVal))) (i first lim depth dlim kb : Nat) : List (Option XVal) :=
  if lim ≤ first + i then List.replicate kb none
  else
    let row : List (Option XVal) := match p with | some p => p.elems.getD i [] | none => []
    let f : List XVal := match sc with | some t => t.getD i [] | none => []
    (List.range kb).map fun k =>
      if dlim ≤ depth + k then none else (row.getD k none).map fun x => factorMul x (f.getD k (.fin false 1 0))

/-- The window of a STEP (R73, R236, R237). -/
def Routine.sums (r : Routine) (slot : Fin 2) : Window :=
  let st := r.stage slot
  let a := (List.range 128).map fun i => sideTerms st.a st.sa i r.mi r.rowLimit r.ko r.depthLimit r.kb
  let b := (List.range 128).map fun j => sideTerms st.b st.sb j r.nj r.colLimit r.ko r.depthLimit r.kb
  let t := a.map fun x => b.map fun y => blockSum x y
  { ko := r.ko, sums := t.map fun l => l.map fun x => clamp95 x.1, exact := t.map fun l => l.map (·.1), res := t.map fun l => l.map (·.2)
    sat := ((List.range 16384).zip t.flatten).filterMap fun x => if clamp95 x.2.1 = x.2.1 then none else some x.1 }

/-- T of a window element as an integer; 0 for NaN. -/
def XVal.total : XVal → Int
  | .fin n m e => coef n m e e
  | _ => 0

/-- Whether T of every window element, before saturation, agrees with the residue carried for it (R240). -/
def Window.sound (w : Window) : Bool := (w.exact.flatten.zip w.res.flatten).all fun x => (x.1.total % 255).toNat == x.2

/-- mu.step (R231, R236): where the window holds a block that no FOLD is folding, INSTR_ILLEGAL. -/
def execMuStep (adv : Bool) (slot : Fin 2) (s : State) : Out :=
  .next (s.micro .array (fun r => decide (r.loaded slot ≤ r.cycle) && (r.window.isSome || decide (r.foldEnd ≤ r.cycle))) fun r =>
    if r.window.isSome then .error muIllegal
    else
      .ok (r.kb / r.rate * (if s.ctx.image.mclass then 1 else 4),
        { r with window := some (r.sums slot), stepSlot := slot.val, ko := if adv then (r.ko + r.kb) % 65536 else r.ko }))

/-- The lowest element of an event kind kept (R71, R242). -/
def Segment.event (g : Segment) (k : EvKind) (elem upc : Nat) : Segment :=
  match g.events.find? (·.1 == k) with
  | some (_, e, _) => if elem < e then { g with events := g.events.map fun x => if x.1 == k then (k, elem, upc) else x } else g
  | none => { g with events := g.events ++ [(k, elem, upc)] }

/-- The lowest of a list of elements recorded, if it holds any. -/
def Segment.eventOf (g : Segment) (k : EvKind) (l : List Nat) (upc : Nat) : Segment :=
  match l with
  | [] => g
  | x :: t => g.event k (t.foldl min x) upc

/-- Bytes of the segment buffer (R241). -/
def segmentSize : Nat := 294912

/-- Bytes buffered, or BUF_BOUNDS 0x39 (R241). -/
def Routine.buffer (r : Routine) (n : Nat) : Except MuFault Routine :=
  if segmentSize < r.segment.size + n then .error (8, 0x39)
  else .ok { r with segment := { r.segment with size := r.segment.size + n } }

/-- A change of the active set: the set commit that it brings about is charged once for the segment (R241). -/
def Routine.touch (r : Routine) : Except MuFault Routine :=
  if r.segment.dirty then .ok r
  else (r.buffer 135200).map fun r => { r with segment := { r.segment with dirty := true } }

/-- The accumulator's header, which a routine under CONV = 0 reads when it first meets it (R173). -/
def Routine.meetAcc (r : Routine) (c : Isle) (foot : Nat) : Except MuFault Routine :=
  if r.read then .ok r
  else
    let mp2 := r.call.arg 2
    match r.header c mp2 with
    | .error f => .error f
    | .ok (l, r) =>
      let h := Hdr.ofNat (ofLe l)
      if h.magic = 0xA7 ∧ h.kind = 3 then
        match hdrCheck 2 l with
        | some f => .error f.mu
        | none =>
          if foot < mp2 + h.dataEnd then .error (8, 0x33)
          else .ok { r with read := true, held := true, acc := some (BitVec.ofNat 256 (ofLe l)) }
      else .ok { r with read := true }

/-- The accumulator that a FOLD needs (R84, R173 steps 4 and 5): the pairing of A, B and the accumulator met; an inferred header is
buffered with the segment, and under CONV = 0 its extent is checked here. -/
def Routine.needAcc (r : Routine) (s : State) : Except MuFault Routine :=
  let c := s.core.engineView
  match r.srcA c, r.srcB c s.residentArea with
  | .error f, _ => .error f
  | _, .error f => .error f
  | .ok a, .ok b =>
    match r.meetAcc c (s.ctx.image.foot .acb) with
    | .error f => .error f
    | .ok r =>
      let mp2 := r.call.arg 2
      match callPairing a.hdr b.hdr r.acc r.kb 0 0 0 with
      | some f => .error (f.1, f.2.1)
      | none =>
        if r.acc.isSome then .ok r
        else if s.ctx.image.foot .acb < mp2 + inferredExtent a.hdr.rows b.hdr.cols then .error (8, 0x33)
        else
          let l := (Hdr.accumulator a.hdr.rows b.hdr.cols).image
          .ok { r with acc := some (BitVec.ofNat 256 (ofLe l)), segment := { r.segment with writes := r.segment.writes ++ [.store .acb (place mp2 l)] } }

/-- The active set bound to mp2, MI and NJ (R228, R236). -/
def Routine.bound (r : Routine) : Binding := { acc := r.call.arg 2, mi := r.mi, nj := r.nj, rows := 4096, cols := 4096 }

/-- Whether a fold agrees with the residues carried for what it adds (R240). -/
def Window.foldsSound (w : Window) (t : AccSet) : Bool :=
  (List.range 128).all fun i => (t.row i).foldsSound (w.exact.getD i []) (w.res.getD i [])

/-- The window folded into the active set (R74, R75), with the events of the segment (R242) and the residues of what it reads compared
(R240). -/
def Routine.folded (r : Routine) (w : Window) (upc : Nat) : Routine :=
  let rows := (List.range 128).map fun i => (i, foldRow (r.work.row i) (w.sums.getD i []))
  let nv := ((List.range 16384).zip w.sums.flatten).filterMap fun x => if x.2.isNan then some x.1 else none
  let ovf := w.sat ++ rows.flatMap fun x => (if x.2.2.1 then [x.1 * 128] else []) ++ x.2.2.2.map fun j => x.1 * 128 + j
  { r with
    work := { r.work with rows := rows.map fun x => (x.1, x.2.1) }
    window := none, lastKo := some w.ko, foldEnd := r.cycle + 4
    segment := { (r.segment.eventOf .nv nv upc).eventOf .accovf ovf upc with
                 accovf := r.segment.accovf || !ovf.isEmpty, failed := r.segment.failed || !w.sound || !r.work.sound || !w.foldsSound r.work } }

/-- mu.fold (R231, R236). -/
def execMuFold (s : State) : Out :=
  .next (s.micro .fold (fun r => decide (r.arrayFree ≤ r.cycle)) fun r =>
    match r.window with
    | none => .error muIllegal
    | some w =>
      if (match r.lastKo with | some k => decide (w.ko ≤ k) | none => false) then .error muIllegal
      else
        let r := if r.work.bind.isNone then { r with work := { bind := some r.bound } } else r
        match r.needAcc s with
        | .error f => .error f
        | .ok r =>
          match r.touch with
          | .error f => .error f
          | .ok r => .ok (4, r.folded w (r.upc - 1)))

/-- The active set loaded or cleared, and bound (R236). -/
def Routine.zeroed (r : Routine) (rows : List (Nat × AccRow)) : Except MuFault Routine :=
  r.touch.map fun r => { r with work := { rows := rows, bind := some r.bound }, lastKo := none }

/-- mu.zero (R231, R236): the load unit where LD = 1. -/
def execMuZero (ld : Bool) (s : State) : Out :=
  .next (if ld then
    s.micro .load (fun _ => true) fun r =>
      if r.nj % 128 ≠ 0 then .error (8, 0x38)
      else
        let c := s.core.engineView
        match r.meetAcc c (s.ctx.image.foot .acb) with
        | .error f => .error f
        | .ok r =>
          let mp2 := r.call.arg 2
          let h := if r.held then r.acc.map fun w => Hdr.ofNat w.toNat else none
          let reads := match h with | some h => rowRanges mp2 h r.mi r.nj | none => []
          let rows := match h with | some h => loadRows c.acb mp2 h r.mi r.nj | none => []
          match r.deliver c reads (.rows rows) with
          | .error f => .error f
          | .ok x => (x.2.zeroed (x.1.rows?.getD [])).map fun r => (264, r)
  else s.micro .fold (fun _ => true) fun r => (r.zeroed []).map fun r => (1, r))

/-! ## Drains (R238, R239) -/

/-- An open write stream of a routine's private copies (R238). -/
def Routine.writeStream (r : Routine) (n : Nat) : Except MuFault StreamReg :=
  let t := r.st.getD n {}
  if !t.opened then .error (8, 0x30) else if !t.write then .error (8, 0x31) else .ok t

/-- The drain set's binding and its accumulator's shape (R238): the header at the bound address is read again at that time, and held to MAGIC and
KIND alone (DESIGN CHOICE, log 72). -/
def Routine.drainBound (r : Routine) (c : Isle) : Except MuFault (Binding × Hdr × Routine) :=
  match c.mat.drainSet.bind with
  | none => .error (causeMismatch, 3 * 256 + 0x22)
  | some b =>
    match r.header c b.acc with
    | .error f => .error f
    | .ok (l, r) =>
      let h := Hdr.ofNat (ofLe l)
      if h.magic = 0xA7 ∧ h.kind = 3 ∧ c.mat.drainSet.committed then .ok (b, h, r) else .error (causeMismatch, 3 * 256 + 0x22)

/-- The checks of DRAIN and DRNC (R238) in the order of R82: the stream, the destination's own requirements, then its pairing with the
drain set's accumulator. -/
def Routine.drainLook (r : Routine) (c : Isle) (n : Nat) (copy : Bool) : Except MuFault (StreamReg × Binding × Hdr × Routine) :=
  match r.writeStream n with
  | .error f => .error f
  | .ok t =>
    let h := Hdr.ofStream t
    if !copy && ((fmtOf h.efd).map (·.acc)).getD true then .error (causeCombo, 3 * 256 + 0x13)
    else if !copy && (h.sparse != 0 || h.sfmt != 0) then .error (causeCombo, 3 * 256 + 0x14)
    else if h.kind ≠ (if copy then 3 else 0) then .error (causeMismatch, 3 * 256 + 0x20)
    else
      match r.drainBound c with
      | .error f => .error f
      | .ok (b, a, r) =>
        if h.rows ≠ a.rows ∨ h.cols ≠ a.cols ∨ (r.xpose ∧ a.rows ≠ a.cols) then .error (causeMismatch, 3 * 256 + 0x22)
        else if b.nj % 128 ≠ 0 then .error (8, 0x38)
        else .ok (t, b, h, r)

/-- The elements a drain writes (R238): set element, and destination row and column. -/
def Routine.drained (r : Routine) (b : Binding) (h : Hdr) : List ((Nat × Nat) × (Nat × Nat)) :=
  ((List.range 128).flatMap fun i => (List.range 128).map fun j =>
    ((i, j), if r.xpose then (b.nj + j, b.mi + i) else (b.mi + i, b.nj + j))).filter fun x =>
      decide (b.mi + x.1.1 < b.rows ∧ b.nj + x.1.2 < b.cols ∧ x.2.1 < h.rows ∧ x.2.2 < h.cols)

/-- mu.drain (R238, R76): bits under SR from the destination's element and RCYCLE at the call's issue. -/
def execMuDrain (mp : Fin 8) (s : State) : Out :=
  .next (s.micro .drain (fun _ => true) fun r =>
    let x := r.arg mp
    match r.drainLook s.core.engineView (fld x 0 4) false with
    | .error f => .error f
    | .ok (t, b, h, r) =>
      let f := tagFmt (BitVec.ofNat 32 (h.efd % 2 ^ 24))
      match r.buffer (128 * ceilDiv (128 * f.width) 8) with
      | .error f => .error f
      | .ok r =>
        let rm : Rm := match fld x 4 2 with | 0 => .rne | 1 => .rtz | 2 => .rna | _ => .sr
        let rc := (s.core.mat.running.map (·.rcyc)).getD 0
        let vals := s.core.mat.drainSet.rows.map fun v => (v.1, v.2.values)
        let at_ (i j : Nat) : XVal := match vals.find? (·.1 == i) with | some v => v.2.getD j (.fin false 0 0) | none => .fin false 0 0
        let out := (r.drained b h).map fun e =>
          (e, convert f (at_ e.1.1 e.1.2)
            { rm := rm, sat := bit x 6, r := srBits r.call.seed rc (s.core.py * s.ctx.image.w + s.core.px) (e.2.1 * h.cols + e.2.2) })
        let writes := out.map fun o =>
          let (a, off, n) := h.elemAt f t.base o.1.2.1 o.1.2.2
          Eff.storeBits t.buf a off n o.2.1
        let seg := out.foldl (fun (g : Segment) o => match o.2.2 with
          | some k => g.event k (o.1.1.1 * 128 + o.1.1.2) (r.upc - 1)
          | none => g) r.segment
        .ok (128, { r with segment := { seg with writes := seg.writes ++ writes, failed := seg.failed || !s.core.mat.drainSet.sound } }))

/-- The exponent that DRNC under XPOSE gives a destination row: the one its contributing rows share, else a free value (log 10). -/
def sharedExp (free : W64) : List Int → Int
  | [] => sext free.toNat 16
  | x :: t => if t.all (· == x) then x else sext free.toNat 16

/-- A free value that arises in the routine of the isle in focus: it depends on the call's place in the context's schedule and on the routine alone
(R43, log 10). -/
def State.callFree (s : State) (k : Nat) : W64 :=
  match s.core.mat.running with
  | some x => s.freeAt x.rcyc x.bundle k
  | none => s.free k

/-- mu.drnc (R76, R238): E and S bit for bit into the groups of R72. -/
def execMuDrnc (mp : Fin 8) (s : State) : Out :=
  .next (s.micro .drain (fun _ => true) fun r =>
    match r.drainLook s.core.engineView (fld (r.arg mp) 0 4) true with
    | .error f => .error f
    | .ok (t, b, h, r) =>
      match r.buffer (128 * 1056) with
      | .error f => .error f
      | .ok r =>
        let l := r.drained b h
        let group (row col : Nat) : Nat := t.base + h.doff + row * h.stride + 1056 * (col / 128)
        let sig := l.map fun e =>
          Eff.store t.buf (place (group e.2.1 e.2.2 + 32 + 8 * (e.2.2 % 128)) (toLe 8 ((s.core.mat.drainSet.row e.1.1).s.getD e.1.2 0).toNat))
        let exps := (l.map fun e => (e.2.1, e.2.2 / 128)).dedup.map fun g =>
          let es := (l.filter fun e => e.2.1 == g.1 && e.2.2 / 128 == g.2).map fun e => (s.core.mat.drainSet.row e.1.1).e
          Eff.store t.buf (place (group g.1 (g.2 * 128)) (toLe 2 (wrap (sharedExp (s.callFree (1024 + r.cycle * 128 + g.1 % 128)) es) 16)))
        .ok (128, { r with segment := { r.segment with writes := r.segment.writes ++ sig ++ exps
                                                       failed := r.segment.failed || !s.core.mat.drainSet.sound } }))

/-- mu.hdr (R85, R239). -/
def execMuHdr (mpS mpE : Fin 8) (s : State) : Out :=
  .next (s.micro .drain (fun _ => true) fun r =>
    let n := fld (r.arg mpS) 0 4
    match r.writeStream n with
    | .error f => .error f
    | .ok t =>
      match r.drainBound s.core.engineView with
      | .error f => .error f
      | .ok (_, a, r) =>
        let h := ({ kind := 0, efd := fld (r.arg mpE) 8 24, rows := a.rows, cols := a.cols } : Hdr).packed
        match h.unwritable with
        | some f => .error f.mu
        | none =>
          if s.ctx.image.foot t.buf < t.base + h.extent then .error (8, 0x33)
          else
            match r.buffer 32 with
            | .error f => .error f
            | .ok r =>
              let t2 : StreamReg :=
                { t with tscale := h.tscale, moff := h.moff, soff := h.soff, doff := h.doff, stride := h.stride, cols := h.cols
                         rows := h.rows, kind := h.kind, geom := h.geom, efd := h.efd }
              .ok (1, { r with
                st := r.st.set n t2
                segment := { r.segment with writes := r.segment.writes ++ [.store t.buf (place t.base h.image)] } }))

/-! ## CHK and RET (R241, R242) -/

/-- The writes of a set commit: E and the significands of the bound group, zero at or beyond COLS, for rows inside the
accumulator. -/
def AccSet.commits (t : AccSet) (h : Hdr) : List Eff :=
  match t.bind with
  | none => []
  | some b =>
    if ceilDiv h.cols 128 ≤ b.nj / 128 then []
    else ((List.range 128).filter fun i => b.mi + i < h.rows).map fun i =>
      let r := t.row i
      let sig := (List.range 128).flatMap fun j => toLe 8 (if b.nj + j < h.cols then (r.s.getD j 0).toNat else 0)
      .store .acb (place (accAddr b.acc h (b.mi + i) (b.nj / 128)) (toLe 2 (wrap r.e 16) ++ List.replicate 30 0 ++ sig))

/-- A row with what lies at or beyond a column dropped (R72, R242). -/
def AccRow.clip (r : AccRow) (n : Nat) : AccRow :=
  { r with s := (List.range 128).map fun j => if j < n then r.s.getD j 0 else 0
           r := (List.range 128).map fun j => if j < n then r.r.getD j 0 else 0 }

/-- The rows of a set that its bound region holds: what lies outside the accumulator is not part of it (R229). -/
def AccSet.held (t : AccSet) (h : Option Hdr) : List (Nat × AccRow) :=
  match t.bind, h with
  | some b, some h =>
    if ceilDiv h.cols 128 ≤ b.nj / 128 then []
    else (t.rows.filter fun x => decide (b.mi + x.1 < h.rows)).map fun x => (x.1, x.2.clip (h.cols - b.nj))
  | _, _ => []

/-- The active set as a commit leaves it: the contents of its bound region (R229), with the limits of the commit recorded (R228). -/
def Routine.sealed (r : Routine) (h : Option Hdr) : AccSet :=
  { rows := r.work.held h, committed := true, bind := r.work.bind.map fun b => { b with rows := r.rowLimit, cols := r.colLimit } }

/-- The header under which a set commits: that of the accumulator it is bound to, the one that the call has met or inferred where that is
mp2's (R228, R242). -/
def Routine.boundHdr (r : Routine) (c : Isle) : Except MuFault (Option Hdr × Routine) :=
  match r.work.bind with
  | none => .ok (none, r)
  | some b =>
    if b.acc = r.call.arg 2 ∧ r.acc.isSome then .ok (r.acc.map fun w => .ofNat w.toNat, r)
    else
      (r.header c b.acc).map fun x =>
        let h := Hdr.ofNat (ofLe x.1)
        (if h.magic = 0xA7 ∧ h.kind = 3 then some h else none, x.2)

/-- A segment closed by CHK or RET under the header of its set: what lands at the end of the word's last cycle (R242), with the residues of the
set that it reads compared (R240). -/
def Routine.close (r : Routine) (act : Bool) (h : Option Hdr) : Segment :=
  let fresh := r.segment.events.filter fun e => !r.logged.contains e.1
  if r.segment.dirty then
    let t := r.sealed h
    let w := match h with | some h => t.commits h | none => []
    { r.segment with writes := r.segment.writes ++ w, set := some (act, t), events := fresh, failed := r.segment.failed || !r.work.sound }
  else { r.segment with events := fresh }

/-- CHK and RET wait for every unit (R231). -/
def Routine.idle (r : Routine) : Bool :=
  [r.seqFree, r.loadFree, r.arrayFree, r.foldFree, r.drainFree].all fun n => decide (n ≤ r.cycle)

/-- CHK or RET on a routine whose units are all idle (R233, R236, R242): the new segment starts from the working state. -/
def Routine.commitWord (r : Routine) (act : Bool) (c : Isle) (ret : Bool) : Except MuFault (Nat × Routine) :=
  if r.segment.dirty ∧ ((r.work.bind.map (·.nj)).getD 0) % 128 ≠ 0 then .error (8, 0x38)
  else
    (if r.segment.dirty then r.boundHdr c else .ok (none, r)).map fun x =>
      let (h, r) := x
      let n := 2 + ceilDiv r.segment.size 512
      let g := r.close act h
      (n, { r with
        pending := some (r.cycle + n - 1, ret, g), segment := {}, logged := r.logged ++ g.events.map (·.1), returned := ret
        work := if r.segment.dirty then r.sealed h else r.work
        window := if ret then none else r.window })

/-- The routine from which the segment after a CHK starts (R242, R243): nothing is under way and nothing loaded. -/
def Routine.opening (r : Routine) : Routine := { r with pending := none, loads := [], feed := [] }

/-- mu.chk and mu.ret (R233, R236, R242). -/
def State.commitWord (s : State) (ret : Bool) : State :=
  let t := s.micro .fold (·.idle) fun r => r.commitWord s.core.mat.actset s.core.engineView ret
  if t.core.mat.routine.map (·.upc) = s.core.mat.routine.map (·.upc) then t
  else
    match t.core.mat.routine with
    | none => t
    | some r =>
      t.onCore fun c => { c with mat := { c.mat with chk := some r.opening, past := r.loads, routine := some { r with loads := [] } } }

/-- mu.chk (R242). -/
def execMuChk (s : State) : Out := .next (s.commitWord false)
/-- mu.ret (R242). -/
def execMuRet (s : State) : Out := .next (s.commitWord true)

end Sys2Proof.Machine
end

