-- ==== Sys2Proof/Machine/Scalar.lean ====
section
/-! DEFINITION. The words of slots A and B (R116-R128), and NOP and HINT of every slot (R90, R92). -/

namespace Sys2Proof.Machine

/-- A scalar result of a slot A or B word (R116): what it does before its effect, then the result after LAT[cls]. -/
def State.alu (s : State) (i : Instr) (p : Pred) (cls : Nat) (d : Fin 32) (x : W64) : State :=
  s.issue i p fun s => s.land cls (.scalar (ownG s.slot d) x)

/-- A predicate result of a slot A or B word (R125, R127). -/
def State.aluP (s : State) (i : Instr) (p : Pred) (pd : Fin 8) (x : Bool) : State :=
  s.issue i p fun s => s.land 0 (.pred pd x)

/-- A register of the present slot's own cluster. -/
def State.c (s : State) (r : Fin 32) : W64 := s.core.rdC s.slot r

/-- Leading zeros of a 64-bit value (R111). -/
def clz64 (x : W64) : Nat := if x = 0 then 64 else 63 - Nat.log2 x.toNat

/-- Set bits among the n low bits of a value (R111). -/
def popcount (x : Nat) : Nat → Nat
  | 0 => 0
  | n + 1 => (if bit x n then 1 else 0) + popcount x n

/-- zero_extend(x >> lo, len) of BEXT (R124). -/
def bextOf (x : W64) (lo len : Nat) : W64 := BitVec.ofNat 64 (x.toNat / 2 ^ lo % 2 ^ len)

/-- The field [lo + len - 1 : lo] of d replaced by the low bits of x (R124). -/
def binsOf (d x : W64) (lo len : Nat) : W64 :=
  let m : W64 := BitVec.ofNat 64 ((2 ^ len - 1) * 2 ^ lo)
  (d &&& ~~~ m) ||| (BitVec.ofNat 64 (x.toNat % 2 ^ len * 2 ^ lo) &&& m)

/-- NOP of slots A, B, M, V, X, N and D (R90, R118): it reads its predicate. -/
def execNop (p : Pred) (s : State) : Out := .next (if s.stallShort (.nop p) then s.raise 0x05 0x51 s.core.pc else s)
/-- A hint word (R92): a NOP that reads nothing; in slot C its stall count applies. -/
def execHint (_p : Pred) (_h : Fin 4) (o : BitVec 22) (s : State) : Out :=
  .next (if s.slot = .C then { s with core := { s.core with nextStall := fld o.toNat 18 4 } } else s)

/-- ADD (R119). -/
def execAdd (p : Pred) (d s1 s2 : Fin 32) (s : State) : Out := .next (s.alu (.add p d s1 s2) p 0 d (s.c s1 + s.c s2))
/-- ADDI (R120). -/
def execAddi (p : Pred) (d s1 : Fin 32) (imm : BitVec 12) (s : State) : Out :=
  .next (s.alu (.addi p d s1 imm) p 0 d (s.c s1 + imm.signExtend 64))
/-- SUB (R119). -/
def execSub (p : Pred) (d s1 s2 : Fin 32) (s : State) : Out := .next (s.alu (.sub p d s1 s2) p 0 d (s.c s1 - s.c s2))
/-- MUL (R119). -/
def execMul (p : Pred) (d s1 s2 : Fin 32) (s : State) : Out := .next (s.alu (.mul p d s1 s2) p 1 d (s.c s1 * s.c s2))
/-- MULH (R119): the high half of the signed product. -/
def execMulh (p : Pred) (d s1 s2 : Fin 32) (s : State) : Out :=
  .next (s.alu (.mulh p d s1 s2) p 1 d (BitVec.ofInt 64 ((s.c s1).toInt * (s.c s2).toInt / 2 ^ 64)))
/-- MULHN (R119): the high half of the unsigned product. -/
def execMulhn (p : Pred) (d s1 s2 : Fin 32) (s : State) : Out :=
  .next (s.alu (.mulhn p d s1 s2) p 1 d (BitVec.ofNat 64 ((s.c s1).toNat * (s.c s2).toNat / 2 ^ 64)))
/-- AND (R119). -/
def execAnd (p : Pred) (d s1 s2 : Fin 32) (s : State) : Out := .next (s.alu (.and p d s1 s2) p 0 d (s.c s1 &&& s.c s2))
/-- ANDI (R120). -/
def execAndi (p : Pred) (d s1 : Fin 32) (imm : BitVec 12) (s : State) : Out :=
  .next (s.alu (.andi p d s1 imm) p 0 d (s.c s1 &&& imm.zeroExtend 64))
/-- OR (R119). -/
def execOr (p : Pred) (d s1 s2 : Fin 32) (s : State) : Out := .next (s.alu (.or p d s1 s2) p 0 d (s.c s1 ||| s.c s2))
/-- ORI (R120). -/
def execOri (p : Pred) (d s1 : Fin 32) (imm : BitVec 12) (s : State) : Out :=
  .next (s.alu (.ori p d s1 imm) p 0 d (s.c s1 ||| imm.zeroExtend 64))
/-- XOR (R119). -/
def execXor (p : Pred) (d s1 s2 : Fin 32) (s : State) : Out := .next (s.alu (.xor p d s1 s2) p 0 d (s.c s1 ^^^ s.c s2))
/-- XORI (R120). -/
def execXori (p : Pred) (d s1 : Fin 32) (imm : BitVec 12) (s : State) : Out :=
  .next (s.alu (.xori p d s1 imm) p 0 d (s.c s1 ^^^ imm.zeroExtend 64))
/-- SHL (R119): the shift is bits [5:0] of s2. -/
def execShl (p : Pred) (d s1 s2 : Fin 32) (s : State) : Out :=
  .next (s.alu (.shl p d s1 s2) p 0 d (s.c s1 <<< ((s.c s2).toNat % 64)))
/-- SHR (R119). -/
def execShr (p : Pred) (d s1 s2 : Fin 32) (s : State) : Out :=
  .next (s.alu (.shr p d s1 s2) p 0 d (s.c s1 >>> ((s.c s2).toNat % 64)))
/-- SAR (R119). -/
def execSar (p : Pred) (d s1 s2 : Fin 32) (s : State) : Out :=
  .next (s.alu (.sar p d s1 s2) p 0 d ((s.c s1).sshiftRight ((s.c s2).toNat % 64)))
/-- SHLI (R120). -/
def execShli (p : Pred) (d s1 : Fin 32) (sh : BitVec 6) (s : State) : Out :=
  .next (s.alu (.shli p d s1 sh) p 0 d (s.c s1 <<< sh.toNat))
/-- SHRI (R120). -/
def execShri (p : Pred) (d s1 : Fin 32) (sh : BitVec 6) (s : State) : Out :=
  .next (s.alu (.shri p d s1 sh) p 0 d (s.c s1 >>> sh.toNat))
/-- SARI (R120). -/
def execSari (p : Pred) (d s1 : Fin 32) (sh : BitVec 6) (s : State) : Out :=
  .next (s.alu (.sari p d s1 sh) p 0 d ((s.c s1).sshiftRight sh.toNat))
/-- MIN (R119). -/
def execMin (p : Pred) (d s1 s2 : Fin 32) (s : State) : Out := .next (s.alu (.min p d s1 s2) p 0 d (minS (s.c s1) (s.c s2)))
/-- MAX (R119). -/
def execMax (p : Pred) (d s1 s2 : Fin 32) (s : State) : Out := .next (s.alu (.max p d s1 s2) p 0 d (maxS (s.c s1) (s.c s2)))
/-- MINN (R119). -/
def execMinn (p : Pred) (d s1 s2 : Fin 32) (s : State) : Out := .next (s.alu (.minn p d s1 s2) p 0 d (minU (s.c s1) (s.c s2)))
/-- MAXN (R119). -/
def execMaxn (p : Pred) (d s1 s2 : Fin 32) (s : State) : Out := .next (s.alu (.maxn p d s1 s2) p 0 d (maxU (s.c s1) (s.c s2)))
/-- CMP (R125). -/
def execCmp (p : Pred) (pd : Fin 8) (c : Cond) (s1 s2 : Fin 32) (s : State) : Out :=
  .next (s.aluP (.cmp p pd c s1 s2) p pd (condHolds c (s.c s1) (s.c s2)))
/-- CMPI (R125): the immediate is sign-extended under every condition. -/
def execCmpi (p : Pred) (pd : Fin 8) (c : Cond) (s1 : Fin 32) (imm : BitVec 11) (s : State) : Out :=
  .next (s.aluP (.cmpi p pd c s1 imm) p pd (condHolds c (s.c s1) (imm.signExtend 64)))
/-- SEL (R126). -/
def execSel (p : Pred) (d s1 s2 : Fin 32) (ps : Fin 8) (s : State) : Out :=
  .next (s.alu (.sel p d s1 s2 ps) p 0 d (if s.core.rdP ps then s.c s1 else s.c s2))
/-- LI (R121). -/
def execLi (p : Pred) (d : Fin 32) (imm : BitVec 17) (s : State) : Out := .next (s.alu (.li p d imm) p 0 d (imm.signExtend 64))
/-- LUI (R121): its own destination shifted up by 17 bits. -/
def execLui (p : Pred) (d : Fin 32) (imm : BitVec 17) (s : State) : Out :=
  .next (s.alu (.lui p d imm) p 0 d ((s.c d <<< 17) + imm.zeroExtend 64))
/-- ADDW (R119). -/
def execAddw (p : Pred) (d s1 s2 : Fin 32) (s : State) : Out :=
  .next (s.alu (.addw p d s1 s2) p 0 d (((s.c s1).truncate 32 + (s.c s2).truncate 32 : W32).signExtend 64))
/-- CLZ (R122). -/
def execClz (p : Pred) (d s1 : Fin 32) (s : State) : Out := .next (s.alu (.clz p d s1) p 0 d (BitVec.ofNat 64 (clz64 (s.c s1))))
/-- POPC (R122). -/
def execPopc (p : Pred) (d s1 : Fin 32) (s : State) : Out :=
  .next (s.alu (.popc p d s1) p 0 d (BitVec.ofNat 64 (popcount (s.c s1).toNat 64)))
/-- BEXT (R124). -/
def execBext (p : Pred) (d s1 : Fin 32) (lo lenM1 : BitVec 6) (s : State) : Out :=
  .next (s.alu (.bext p d s1 lo lenM1) p 0 d (bextOf (s.c s1) lo.toNat (lenM1.toNat + 1)))
/-- BINS (R124): it reads its destination. -/
def execBins (p : Pred) (d s1 : Fin 32) (lo lenM1 : BitVec 6) (s : State) : Out :=
  .next (s.alu (.bins p d s1 lo lenM1) p 0 d (binsOf (s.c d) (s.c s1) lo.toNat (lenM1.toNat + 1)))
/-- MOVX (R123): the source lies in the other cluster. -/
def execMovx (p : Pred) (d s1 : Fin 32) (s : State) : Out := .next (s.alu (.movx p d s1) p 2 d (s.core.rdO s.slot s1))
/-- PLOG (R127). -/
def execPlog (p : Pred) (pd pa pb : Fin 8) (tt : BitVec 4) (s : State) : Out :=
  .next (s.aluP (.plog p pd pa pb tt) p pd (truth tt (s.core.rdP pa) (s.core.rdP pb)))

end Sys2Proof.Machine
end

