-- ==== Sys2Proof/Machine/Vector.lean ====
section
/-! DEFINITION. The words of slot V (R137-R153). -/

namespace Sys2Proof.Machine

/-- The data of a vector register as lanes of its own tag. -/
def State.lanesOf (s : State) (r : Fin 32) (lw : Nat) : List Nat := lanes s.core.v[r] lw

/-- Element e of a vector register. -/
def State.elemOf (s : State) (r : Fin 32) (lw e : Nat) : Nat := lane s.core.v[r] lw e

/-- An elementwise word of two sources (R135): checks, then each enabled element. -/
def State.vector2 (s : State) (i : Instr) (p : Pred) (cls : Nat) (vd va vb : Fin 32) (vm : Fin 8) (ok : Fmt → Bool)
    (op : Fmt → Nat → Nat → Nat → Elem) : State :=
  s.issue i p fun s =>
    let t := s.core.tag[va]
    let u := s.core.tag[vb]
    s.tagsPassing (arithSource 0 t ok <|> arithSource 1 u ok <|> pairLw 1 t u <|> pairEfd 1 t u) fun s =>
      let f := tagFmt t
      s.landVec cls vd f.lw (s.each vm f.lw fun e => op f e (s.elemOf va f.lw e) (s.elemOf vb f.lw e)) t

/-- An elementwise word of one source (R135). -/
def State.vector1 (s : State) (i : Instr) (p : Pred) (cls : Nat) (vd va : Fin 32) (vm : Fin 8) (ok : Fmt → Bool)
    (op : Fmt → Nat → Nat → Elem) : State :=
  s.issue i p fun s =>
    let t := s.core.tag[va]
    s.tagsPassing (arithSource 0 t ok) fun s =>
      let f := tagFmt t
      s.landVec cls vd f.lw (s.each vm f.lw fun e => op f e (s.elemOf va f.lw e)) t

/-- A bit-pattern word of two sources (R130, R142, R143): the result is cut to the width of va's elements (R129). -/
def State.bits2 (s : State) (i : Instr) (p : Pred) (cls : Nat) (vd va vb : Fin 32) (en : State → Nat → Nat → Bool)
    (op : State → Nat → Nat → Nat → Nat → Nat) : State :=
  s.issue i p fun s =>
    let t := s.core.tag[va]
    let u := s.core.tag[vb]
    s.tagsPassing (tagCheck 0 t true <|> tagCheck 1 u true <|> pairLw 1 t u) fun s =>
      let lw := tagLw t
      let w := tagWidth t
      s.landVec cls vd lw
        ((List.range (laneCount lw)).map fun e =>
          if en s lw e then
            some (op s w e (s.elemOf va lw e % 2 ^ w) (s.elemOf vb lw e % 2 ^ tagWidth u) % 2 ^ w, none)
          else none) t

/-- A bit-pattern word of one source (R130). -/
def State.bits1 (s : State) (i : Instr) (p : Pred) (cls : Nat) (vd va : Fin 32) (en : State → Nat → Nat → Bool)
    (op : State → Nat → Nat → Nat → Nat) : State :=
  s.issue i p fun s =>
    let t := s.core.tag[va]
    s.tagsPassing (tagCheck 0 t true) fun s =>
      let lw := tagLw t
      let w := tagWidth t
      s.landVec cls vd lw
        ((List.range (laneCount lw)).map fun e =>
          if en s lw e then some (op s lw w e % 2 ^ w, none) else none) t

/-- The enables of a VM field (R133). -/
def byMask (vm : Fin 8) (s : State) (lw e : Nat) : Bool := enabled (s.core.rdVm vm) lw e
/-- Every element enabled (R134). -/
def allOn (_ : State) (_ _ : Nat) : Bool := true

/-- VFMA, VFMS and VFNMA (R139). -/
def State.vectorFma (s : State) (i : Instr) (p : Pred) (vd va vb vc : Fin 32) (rm : Rm) (negP negC : Bool) : State :=
  s.issue i p fun s =>
    let t := s.core.tag[va]
    let u := s.core.tag[vb]
    let w := s.core.tag[vc]
    s.tagsPassing (arithSource 0 t Fmt.isF <|> arithSource 1 u Fmt.isF <|> arithSource 2 w Fmt.isF <|> pairLw 1 t u <|>
        pairLw 2 t w <|> pairEfd 1 t u <|> pairEfd 2 t w) fun s =>
      let f := tagFmt t
      s.landVec 8 vd f.lw
        (s.each 0 f.lw fun e =>
          fmaElem f (s.rmode rm false e) negP negC (s.elemOf va f.lw e) (s.elemOf vb f.lw e) (s.elemOf vc f.lw e)) t

/-- A reduction (R149). Neither a block-scaled register nor a scale register is one that it reads (R132). -/
def State.reduce (s : State) (i : Instr) (p : Pred) (vd va : Fin 32) (vm : Fin 8) (root : State → Fmt → List (Option Nat) → Nat × List EvKind) :
    State :=
  s.issue i p fun s =>
    let t := s.core.tag[va]
    s.tagsPassing (arithSource 0 t isWideFI) fun s =>
      let f := tagFmt t
      let l := (List.range (laneCount f.lw)).map fun e => if enabled (s.core.rdVm vm) f.lw e then some (s.elemOf va f.lw e) else none
      let (x, evs) := root s f l
      let codes := x :: List.replicate (laneCount f.lw - 1) 0
      s.land 13 (.vec vd (ofLanes f.lw codes) (BitVec.allOnes 2048) (some t) (eventsOf (evs.map fun k => (0, some k))))

/-- The checks of VBCAST, VINS and VIOTA on the destination's own tag, and the elements they write (R151). -/
def State.intoTag (s : State) (i : Instr) (p : Pred) (vd : Fin 32) (f : State → Nat → Nat → Nat → Option Nat) : State :=
  s.issue i p fun s =>
    let t := s.core.tag[vd]
    s.tagsPassing (tagCheck 3 t true) fun s =>
      let lw := tagLw t
      let w := tagWidth t
      let n := laneCount lw
      s.landVec 6 vd lw ((List.range n).map fun e => (f s n w e).map fun x => (x % 2 ^ w, none)) t


/-- VADD (R137). -/
def execVadd (p : Pred) (vd va vb : Fin 32) (vm : Fin 8) (rm : Rm) (sat : Bool) (s : State) : Out :=
  .next (s.vector2 (.vadd p vd va vb vm rm sat) p 6 vd va vb vm isFI fun f e x y => addElem f (s.rmode rm sat e) x y)

/-- VSUB (R137). -/
def execVsub (p : Pred) (vd va vb : Fin 32) (vm : Fin 8) (rm : Rm) (sat : Bool) (s : State) : Out :=
  .next (s.vector2 (.vsub p vd va vb vm rm sat) p 6 vd va vb vm isFI fun f e x y => subElem f (s.rmode rm sat e) x y)

/-- VMUL (R137). -/
def execVmul (p : Pred) (vd va vb : Fin 32) (vm : Fin 8) (rm : Rm) (sat : Bool) (s : State) : Out :=
  .next (s.vector2 (.vmul p vd va vb vm rm sat) p 7 vd va vb vm isFI fun f e x y => mulElem f (s.rmode rm sat e) x y)

/-- VFMA: va x vb + vc (R139). -/
def execVfma (p : Pred) (vd va vb vc : Fin 32) (rm : Rm) (s : State) : Out :=
  .next (s.vectorFma (.vfma p vd va vb vc rm) p vd va vb vc rm false false)

/-- VFMS: va x vb - vc (R139). -/
def execVfms (p : Pred) (vd va vb vc : Fin 32) (rm : Rm) (s : State) : Out :=
  .next (s.vectorFma (.vfms p vd va vb vc rm) p vd va vb vc rm false true)

/-- VFNMA: -(va x vb) + vc (R139). -/
def execVfnma (p : Pred) (vd va vb vc : Fin 32) (rm : Rm) (s : State) : Out :=
  .next (s.vectorFma (.vfnma p vd va vb vc rm) p vd va vb vc rm true false)

/-- VMAX (R138). -/
def execVmax (p : Pred) (vd va vb : Fin 32) (vm : Fin 8) (s : State) : Out :=
  .next (s.vector2 (.vmax p vd va vb vm) p 6 vd va vb vm isFI fun f _ x y => (pickElem f true x y, none))

/-- VMIN (R138). -/
def execVmin (p : Pred) (vd va vb : Fin 32) (vm : Fin 8) (s : State) : Out :=
  .next (s.vector2 (.vmin p vd va vb vm) p 6 vd va vb vm isFI fun f _ x y => (pickElem f false x y, none))

/-- VABS (R138). -/
def execVabs (p : Pred) (vd va : Fin 32) (vm : Fin 8) (sat : Bool) (s : State) : Out :=
  .next (s.vector1 (.vabs p vd va vm sat) p 6 vd va vm isFI fun f _ x => absElem f sat x)

/-- VNEG (R138). -/
def execVneg (p : Pred) (vd va : Fin 32) (vm : Fin 8) (sat : Bool) (s : State) : Out :=
  .next (s.vector1 (.vneg p vd va vm sat) p 6 vd va vm isFI fun f _ x => negElem f sat x)

/-- The mask of a compare (R141): a lane holds where every element in it does; a 64-bit element gives two bits. -/
def compareMask (lw : Nat) (m : W64) (l : List Bool) : W64 :=
  BitVec.ofNat 64 (joinLanes 1 ((List.range 64).map fun i =>
    let hit := if lw = 3 then m.getLsbD (i / 2 * 2) && l.getD (i / 2) false
      else m.getLsbD i && (List.range (4 / 2 ^ lw)).all fun k => l.getD (i * (4 / 2 ^ lw) + k) false
    if hit then 1 else 0))

/-- VCMP (R141): it writes a whole mask and no tag. -/
def execVcmp (p : Pred) (vmd : Fin 8) (c : VCond) (va vb : Fin 32) (vm : Fin 8) (s : State) : Out :=
  .next (s.issue (.vcmp p vmd c va vb vm) p fun s =>
    let t := s.core.tag[va]
    let u := s.core.tag[vb]
    s.tagsPassing (arithSource 0 t isFI <|> arithSource 1 u isFI <|> pairLw 1 t u <|> pairEfd 1 t u) fun s =>
      let f := tagFmt t
      s.land 6 (.mask vmd (compareMask f.lw (s.core.rdVm vm)
        ((List.range (laneCount f.lw)).map fun e => cmpElem f c (s.elemOf va f.lw e) (s.elemOf vb f.lw e)))))

/-- VSEL (R142): every element is written. -/
def execVsel (p : Pred) (vd va vb : Fin 32) (vm : Fin 8) (s : State) : Out :=
  .next (s.bits2 (.vsel p vd va vb vm) p 6 vd va vb allOn fun s _ e x y =>
    if enabled (s.core.rdVm vm) (tagLw s.core.tag[va]) e then x else y)

/-- VAND (R143). -/
def execVand (p : Pred) (vd va vb : Fin 32) (vm : Fin 8) (s : State) : Out :=
  .next (s.bits2 (.vand p vd va vb vm) p 6 vd va vb (byMask vm) fun _ _ _ x y => x &&& y)

/-- VOR (R143). -/
def execVor (p : Pred) (vd va vb : Fin 32) (vm : Fin 8) (s : State) : Out :=
  .next (s.bits2 (.vor p vd va vb vm) p 6 vd va vb (byMask vm) fun _ _ _ x y => x ||| y)

/-- VXOR (R143). -/
def execVxor (p : Pred) (vd va vb : Fin 32) (vm : Fin 8) (s : State) : Out :=
  .next (s.bits2 (.vxor p vd va vb vm) p 6 vd va vb (byMask vm) fun _ _ _ x y => x ^^^ y)

/-- VNOT (R143). -/
def execVnot (p : Pred) (vd va : Fin 32) (vm : Fin 8) (s : State) : Out :=
  .next (s.bits1 (.vnot p vd va vm) p 6 vd va (byMask vm) fun s lw w e => 2 ^ w - 1 - s.elemOf va lw e % 2 ^ w)

/-- VSHL (R143). -/
def execVshl (p : Pred) (vd va vb : Fin 32) (vm : Fin 8) (s : State) : Out :=
  .next (s.bits2 (.vshl p vd va vb vm) p 6 vd va vb (byMask vm) fun _ w _ x y => shiftElem true false w x (y % 64))

/-- VSHR (R143). -/
def execVshr (p : Pred) (vd va vb : Fin 32) (vm : Fin 8) (s : State) : Out :=
  .next (s.bits2 (.vshr p vd va vb vm) p 6 vd va vb (byMask vm) fun _ w _ x y => shiftElem false false w x (y % 64))

/-- VSAR (R143). -/
def execVsar (p : Pred) (vd va vb : Fin 32) (vm : Fin 8) (s : State) : Out :=
  .next (s.bits2 (.vsar p vd va vb vm) p 6 vd va vb (byMask vm) fun _ w _ x y => shiftElem false true w x (y % 64))

/-- VCVT (R145): destination elements that no source element reaches are written 0. -/
def execVcvt (p : Pred) (vd va bt : Fin 32) (vm : Fin 8) (rm : Rm) (sat : Bool) (s : State) : Out :=
  .next (s.issue (.vcvt p vd va bt vm rm sat) p fun s =>
    let t := s.core.tag[va]
    let (u, q) := s.target bt
    let source := notAcc 0 t <|> failIf (tagScl t) causeCombo 0 0x14
    match fmtOf (tagEfd u) with
    | none => s.tagsPassing (source <|> some (causeCombo, 3, 0x10)) id
    | some g =>
      s.tagsPassing (source <|> failIf g.acc causeCombo 3 0x13) fun s =>
        let f := tagFmt t
        s.landVec 9 vd g.lw
          (s.each vm g.lw fun e =>
            match partOf (laneCount f.lw) (laneCount g.lw) q e with
            | some k => convert g (valueOf f (s.elemOf va f.lw k)) (s.rmode rm sat e)
            | none => (0, none))
          (mkTag (tagEfd u) g.lw false false 0 0))

/-- Whether a tag is a scale register's with the scale fields of another tag (R147, R148). -/
def scalePairs (sc t : W32) : Bool := tagSreg sc && tagScl sc && tagSfmt sc == tagSfmt t && tagSblk sc == tagSblk t

/-- The value of scale k of a scale register (R132). -/
def State.scaleReg (s : State) (r : Fin 32) (k : Nat) : XVal :=
  let sfmt := tagSfmt s.core.tag[r]
  scaleValue sfmt (s.elemOf r (if sfmt = 3 then 1 else 0) k)

/-- VQNT (R147). DESIGN CHOICE (log 73): the tag of its target BT is not held to reason 0x17, as R147 names no such check. -/
def execVqnt (p : Pred) (vd va vsc bt : Fin 32) (rm : Rm) (s : State) : Out :=
  .next (s.issue (.vqnt p vd va vsc bt rm) p fun s =>
    let t := s.core.tag[va]
    let sc := s.core.tag[vsc]
    let (u, q) := s.target bt
    let sources := plainSource 0 t <|> notAcc 1 sc
    match fmtOf (tagEfd u) with
    | none => s.tagsPassing (sources <|> some (causeCombo, 3, 0x10)) id
    | some g =>
      s.tagsPassing (sources <|> failIf g.wide causeCombo 3 0x13 <|> failIf (!scalePairs sc u) causeMismatch 3 0x25) fun s =>
        let f := tagFmt t
        s.landVec 10 vd 0
          (s.each 0 0 fun e =>
            match partOf (laneCount f.lw) 256 q e with
            | some k => quantElem g (valueOf f (s.elemOf va f.lw k)) (s.scaleReg vsc (e / blockOf (tagSblk u))) (s.rmode rm true e)
            | none => (0, none))
          (mkTag (tagEfd u) 0 true false (tagSfmt u) (tagSblk u)))

/-- VDQNT (R148). -/
def execVdqnt (p : Pred) (vd va vsc bt : Fin 32) (rm : Rm) (s : State) : Out :=
  .next (s.issue (.vdqnt p vd va vsc bt rm) p fun s =>
    let t := s.core.tag[va]
    let sc := s.core.tag[vsc]
    let (u, q) := s.target bt
    let sources := tagCheck 0 t false <|> failIf (tagFmt t).wide causeCombo 0 0x13 <|>
      failIf (!tagScl t) causeCombo 0 0x14 <|> notAcc 1 sc
    match fmtOf (tagEfd u) with
    | none => s.tagsPassing (sources <|> some (causeCombo, 3, 0x10)) id
    | some g =>
      s.tagsPassing (sources <|> failIf (!g.isF) causeCombo 3 0x13 <|> failIf (!scalePairs sc t) causeMismatch 1 0x25) fun s =>
        let f := tagFmt t
        s.landVec 9 vd g.lw
          (s.each 0 g.lw fun e =>
            match partOf 256 (laneCount g.lw) q e with
            | some k => convert g ((valueOf f (s.elemOf va 0 k)).mul (s.scaleReg vsc (k / blockOf (tagSblk t)))) (s.rmode rm false e)
            | none => (0, none))
          (mkTag (tagEfd u) g.lw false false 0 0))

/-- VBSCL (R146). DESIGN CHOICE (log 73): the tag of its target BT is not held to reason 0x17. An event of a block names the position of the block's scale in the destination (log 56). -/
def execVbscl (p : Pred) (vd va bt : Fin 32) (s : State) : Out :=
  .next (s.issue (.vbscl p vd va bt) p fun s =>
    let t := s.core.tag[va]
    let (u, q) := s.target bt
    let source := plainSource 0 t
    match fmtOf (tagEfd u) with
    | none => s.tagsPassing (source <|> some (causeCombo, 3, 0x10)) id
    | some g =>
      let f := tagFmt t
      let n := laneCount f.lw
      let b := blockOf (tagSblk u)
      s.tagsPassing (source <|> failIf g.wide causeCombo 3 0x13 <|> failIf (tagSfmt u == 0 || decide (n < b)) causeCombo 3 0x14) fun s =>
        let first := q % (256 / n) * n / b
        let lw := if tagSfmt u = 3 then 1 else 0
        s.landVec 10 vd lw
          (s.each 0 lw fun e =>
            if first ≤ e ∧ e < first + n / b then
              blockScale (tagSfmt u) g ((List.range b).map fun j => valueOf f (s.elemOf va f.lw ((e - first) * b + j)))
            else (0, none))
          (scaleTag (tagSfmt u) (tagSblk u)))

/-- VEXP2 (R140). -/
def execVexp2 (p : Pred) (vd va : Fin 32) (vm : Fin 8) (rm : Rm) (sat : Bool) (s : State) : Out :=
  .next (s.vector1 (.vexp2 p vd va vm rm sat) p 11 vd va vm Fmt.isF fun f e x => exp2Elem f (s.rmode rm sat e) x)

/-- VLOG2 (R140). -/
def execVlog2 (p : Pred) (vd va : Fin 32) (vm : Fin 8) (rm : Rm) (sat : Bool) (s : State) : Out :=
  .next (s.vector1 (.vlog2 p vd va vm rm sat) p 11 vd va vm Fmt.isF fun f e x => log2Elem f (s.rmode rm sat e) x)

/-- VRCP (R140). -/
def execVrcp (p : Pred) (vd va : Fin 32) (vm : Fin 8) (rm : Rm) (sat : Bool) (s : State) : Out :=
  .next (s.vector1 (.vrcp p vd va vm rm sat) p 11 vd va vm Fmt.isF fun f e x => rcpElem f (s.rmode rm sat e) x)

/-- VRSQ (R140). -/
def execVrsq (p : Pred) (vd va : Fin 32) (vm : Fin 8) (rm : Rm) (sat : Bool) (s : State) : Out :=
  .next (s.vector1 (.vrsq p vd va vm rm sat) p 11 vd va vm Fmt.isF fun f e x => rsqElem f (s.rmode rm sat e) x)

/-- VDIV (R140). -/
def execVdiv (p : Pred) (vd va vb : Fin 32) (vm : Fin 8) (rm : Rm) (sat : Bool) (s : State) : Out :=
  .next (s.vector2 (.vdiv p vd va vb vm rm sat) p 12 vd va vb vm Fmt.isF fun f e x y => divElem f (s.rmode rm sat e) x y)

/-- VSQRT (R140). -/
def execVsqrt (p : Pred) (vd va : Fin 32) (vm : Fin 8) (rm : Rm) (sat : Bool) (s : State) : Out :=
  .next (s.vector1 (.vsqrt p vd va vm rm sat) p 12 vd va vm Fmt.isF fun f e x => sqrtElem f (s.rmode rm sat e) x)

/-- VREDADD (R149): floats round at every node, integers once at the root. -/
def execVredadd (p : Pred) (vd va : Fin 32) (vm : Fin 8) (rm : Rm) (sat : Bool) (s : State) : Out :=
  .next (s.reduce (.vredadd p vd va vm rm sat) p vd va vm fun s f l => redAdd f (s.rmode rm sat) sat l)

/-- VREDMAX (R149). -/
def execVredmax (p : Pred) (vd va : Fin 32) (vm : Fin 8) (s : State) : Out :=
  .next (s.reduce (.vredmax p vd va vm) p vd va vm fun _ f l => (redPick f true l, []))

/-- VREDMIN (R149). -/
def execVredmin (p : Pred) (vd va : Fin 32) (vm : Fin 8) (s : State) : Out :=
  .next (s.reduce (.vredmin p vd va vm) p vd va vm fun _ f l => (redPick f false l, []))

/-- VPERM (R150): va's element whose number is vb's element, modulo the element count. -/
def execVperm (p : Pred) (vd va vb : Fin 32) (vm : Fin 8) (s : State) : Out :=
  .next (s.bits2 (.vperm p vd va vb vm) p 14 vd va vb (byMask vm) fun s _ _ _ y =>
    let lw := tagLw s.core.tag[va]
    s.elemOf va lw (y % laneCount lw))

/-- VROT (R150). -/
def execVrot (p : Pred) (vd va : Fin 32) (amt : BitVec 8) (s : State) : Out :=
  .next (s.bits1 (.vrot p vd va amt) p 14 vd va allOn fun s lw _ e => s.elemOf va lw ((e + amt.toNat) % laneCount lw))

/-- VBCAST (R151). -/
def execVbcast (p : Pred) (vd bs : Fin 32) (s : State) : Out :=
  .next (s.intoTag (.vbcast p vd bs) p vd fun s _ _ _ => some (s.b bs))

/-- VINS (R151): one element. -/
def execVins (p : Pred) (vd bs bi : Fin 32) (s : State) : Out :=
  .next (s.intoTag (.vins p vd bs bi) p vd fun s n _ e => if e = s.b bi % n then some (s.b bs) else none)

/-- VEXT (R150): the sources pair nothing. -/
def execVext (p : Pred) (vd va vb : Fin 32) (amt : BitVec 6) (s : State) : Out :=
  .next (s.issue (.vext p vd va vb amt) p fun s =>
    let t := s.core.tag[va]
    s.tagsPassing (tagCheck 0 t true <|> tagCheck 1 s.core.tag[vb] true) fun s =>
      let run : V2048 := BitVec.ofNat 2048 ((s.core.v[va].toNat + s.core.v[vb].toNat * 2 ^ 2048) / 2 ^ (32 * amt.toNat))
      let lw := tagLw t
      s.landVec 14 vd lw ((lanes run lw).map fun x => some (x % 2 ^ tagWidth t, none)) t)

/-- VTAG (R152): the tag alone. -/
def execVtag (p : Pred) (vd bs : Fin 32) (s : State) : Out :=
  .next (s.issue (.vtag p vd bs) p fun s => s.land 6 (.tag vd ((s.core.rdB bs).truncate 32)))

/-- VMOV (R142). -/
def execVmov (p : Pred) (vd va : Fin 32) (vm : Fin 8) (s : State) : Out :=
  .next (s.bits1 (.vmov p vd va vm) p 6 vd va (byMask vm) fun s lw _ e => s.elemOf va lw e)

/-- VIOTA (R151). -/
def execViota (p : Pred) (vd bs : Fin 32) (s : State) : Out :=
  .next (s.intoTag (.viota p vd bs) p vd fun s _ _ e => some (s.b bs + e))

/-- VSEED (R152): the stochastic bits of each 32-bit lane, with tag INT32. -/
def execVseed (p : Pred) (vd : Fin 32) (s : State) : Out :=
  .next (s.issue (.vseed p vd) p fun s =>
    s.landVec 6 vd 2 (s.each 0 2 fun e => ((s.rmode .sr false e).r, none)) 0x08003011#32)

/-- VMASK (R153). -/
def execVmask (p : Pred) (vmd vma vmb : Fin 8) (tt : BitVec 4) (s : State) : Out :=
  .next (s.issue (.vmask p vmd vma vmb tt) p fun s =>
    let a := s.core.rdVm vma
    let b := s.core.rdVm vmb
    s.land 6 (.mask vmd (BitVec.ofNat 64 (joinLanes 1 ((List.range 64).map fun i =>
      if truth tt (a.getLsbD i) (b.getLsbD i) then 1 else 0)))))

/-- VMASK.b (R153). -/
def execVmaskB (p : Pred) (vmd : Fin 8) (bs : Fin 32) (s : State) : Out :=
  .next (s.issue (.vmaskB p vmd bs) p fun s => s.land 6 (.mask vmd (s.core.rdB bs)))

end Sys2Proof.Machine
end

