-- ==== Sys2Proof/Machine/Dispatch.lean ====
section
/-! DEFINITION. The dispatch: one arm per instruction, each a direct call of its meaning. -/

namespace Sys2Proof.Machine

/-- What an instruction does to the machine. -/
def exec (i : Instr) (s : State) : Host.Outcome State Fault Refusal :=
  match i with
  | .nopC p n => Sys2Proof.Machine.execNopC p n s
  | .nop p => Sys2Proof.Machine.execNop p s
  | .hint p h o => Sys2Proof.Machine.execHint p h o s
  | .br p n tgt => Sys2Proof.Machine.execBr p n tgt s
  | .bri p n bs => Sys2Proof.Machine.execBri p n bs s
  | .call p n tgt => Sys2Proof.Machine.execCall p n tgt s
  | .ret p n => Sys2Proof.Machine.execRet p n s
  | .loop p n lenM1 cntM1 => Sys2Proof.Machine.execLoop p n lenM1 cntM1 s
  | .loopr p n lenM1 bs => Sys2Proof.Machine.execLoopr p n lenM1 bs s
  | .lbrk p n => Sys2Proof.Machine.execLbrk p n s
  | .safept p n list => Sys2Proof.Machine.execSafept p n list s
  | .endC p n => Sys2Proof.Machine.execEndC p n s
  | .trap p n code => Sys2Proof.Machine.execTrap p n code s
  | .tret p n => Sys2Proof.Machine.execTret p n s
  | .brk p n => Sys2Proof.Machine.execBrk p n s
  | .waitf p n f sig cnt => Sys2Proof.Machine.execWaitf p n f sig cnt s
  | .postf p n f sig cnt => Sys2Proof.Machine.execPostf p n f sig cnt s
  | .waitb p n bbar sig ph => Sys2Proof.Machine.execWaitb p n bbar sig ph s
  | .yieldC p n sig => Sys2Proof.Machine.execYieldC p n sig s
  | .clkdiv p n cls divM1 => Sys2Proof.Machine.execClkdiv p n cls divM1 s
  | .sysrd p n g sys => Sys2Proof.Machine.execSysrd p n g sys s
  | .syswr p n sys g => Sys2Proof.Machine.execSyswr p n sys g s
  | .statpop p n g => Sys2Proof.Machine.execStatpop p n g s
  | .add p d s1 s2 => Sys2Proof.Machine.execAdd p d s1 s2 s
  | .addi p d s1 imm => Sys2Proof.Machine.execAddi p d s1 imm s
  | .sub p d s1 s2 => Sys2Proof.Machine.execSub p d s1 s2 s
  | .mul p d s1 s2 => Sys2Proof.Machine.execMul p d s1 s2 s
  | .mulh p d s1 s2 => Sys2Proof.Machine.execMulh p d s1 s2 s
  | .mulhn p d s1 s2 => Sys2Proof.Machine.execMulhn p d s1 s2 s
  | .and p d s1 s2 => Sys2Proof.Machine.execAnd p d s1 s2 s
  | .andi p d s1 imm => Sys2Proof.Machine.execAndi p d s1 imm s
  | .or p d s1 s2 => Sys2Proof.Machine.execOr p d s1 s2 s
  | .ori p d s1 imm => Sys2Proof.Machine.execOri p d s1 imm s
  | .xor p d s1 s2 => Sys2Proof.Machine.execXor p d s1 s2 s
  | .xori p d s1 imm => Sys2Proof.Machine.execXori p d s1 imm s
  | .shl p d s1 s2 => Sys2Proof.Machine.execShl p d s1 s2 s
  | .shr p d s1 s2 => Sys2Proof.Machine.execShr p d s1 s2 s
  | .sar p d s1 s2 => Sys2Proof.Machine.execSar p d s1 s2 s
  | .shli p d s1 sh => Sys2Proof.Machine.execShli p d s1 sh s
  | .shri p d s1 sh => Sys2Proof.Machine.execShri p d s1 sh s
  | .sari p d s1 sh => Sys2Proof.Machine.execSari p d s1 sh s
  | .min p d s1 s2 => Sys2Proof.Machine.execMin p d s1 s2 s
  | .max p d s1 s2 => Sys2Proof.Machine.execMax p d s1 s2 s
  | .minn p d s1 s2 => Sys2Proof.Machine.execMinn p d s1 s2 s
  | .maxn p d s1 s2 => Sys2Proof.Machine.execMaxn p d s1 s2 s
  | .cmp p pd c s1 s2 => Sys2Proof.Machine.execCmp p pd c s1 s2 s
  | .cmpi p pd c s1 imm => Sys2Proof.Machine.execCmpi p pd c s1 imm s
  | .sel p d s1 s2 ps => Sys2Proof.Machine.execSel p d s1 s2 ps s
  | .li p d imm => Sys2Proof.Machine.execLi p d imm s
  | .lui p d imm => Sys2Proof.Machine.execLui p d imm s
  | .addw p d s1 s2 => Sys2Proof.Machine.execAddw p d s1 s2 s
  | .clz p d s1 => Sys2Proof.Machine.execClz p d s1 s
  | .popc p d s1 => Sys2Proof.Machine.execPopc p d s1 s
  | .bext p d s1 lo lenM1 => Sys2Proof.Machine.execBext p d s1 lo lenM1 s
  | .bins p d s1 lo lenM1 => Sys2Proof.Machine.execBins p d s1 lo lenM1 s
  | .movx p d s1 => Sys2Proof.Machine.execMovx p d s1 s
  | .plog p pd pa pb tt => Sys2Proof.Machine.execPlog p pd pa pb tt s
  | .ld p g u ba sz off => Sys2Proof.Machine.execLd p g u ba sz off s
  | .st p g u ba sz off => Sys2Proof.Machine.execSt p g u ba sz off s
  | .ldv p vd u ba off => Sys2Proof.Machine.execLdv p vd u ba off s
  | .ldvT p vd u ba off => Sys2Proof.Machine.execLdvT p vd u ba off s
  | .stv p vs u ba off => Sys2Proof.Machine.execStv p vs u ba off s
  | .stvT p vs u ba off => Sys2Proof.Machine.execStvT p vs u ba off s
  | .fill p g off => Sys2Proof.Machine.execFill p g off s
  | .spill p g off => Sys2Proof.Machine.execSpill p g off s
  | .fillv p vd off => Sys2Proof.Machine.execFillv p vd off s
  | .spillv p vs off => Sys2Proof.Machine.execSpillv p vs off s
  | .sopenR p t u ba => Sys2Proof.Machine.execSopenR p t u ba s
  | .sopenW p t u ba => Sys2Proof.Machine.execSopenW p t u ba s
  | .sclose p t => Sys2Proof.Machine.execSclose p t s
  | .sread p vd t => Sys2Proof.Machine.execSread p vd t s
  | .swrite p t vs => Sys2Proof.Machine.execSwrite p t vs s
  | .sseek p t brow bcol => Sys2Proof.Machine.execSseek p t brow bcol s
  | .hdrmk p vs u ba off => Sys2Proof.Machine.execHdrmk p vs u ba off s
  | .hdrchk p pd u ba off => Sys2Proof.Machine.execHdrchk p pd u ba off s
  | .laop p op g u ba bv => Sys2Proof.Machine.execLaop p op g u ba bv s
  | .bclr p u ba bl => Sys2Proof.Machine.execBclr p u ba bl s
  | .ldidx p vd vi u ba esz vm => Sys2Proof.Machine.execLdidx p vd vi u ba esz vm s
  | .stidx p vs vi u ba esz vm => Sys2Proof.Machine.execStidx p vs vi u ba esz vm s
  | .vadd p vd va vb vm rm sat => Sys2Proof.Machine.execVadd p vd va vb vm rm sat s
  | .vsub p vd va vb vm rm sat => Sys2Proof.Machine.execVsub p vd va vb vm rm sat s
  | .vmul p vd va vb vm rm sat => Sys2Proof.Machine.execVmul p vd va vb vm rm sat s
  | .vfma p vd va vb vc rm => Sys2Proof.Machine.execVfma p vd va vb vc rm s
  | .vfms p vd va vb vc rm => Sys2Proof.Machine.execVfms p vd va vb vc rm s
  | .vfnma p vd va vb vc rm => Sys2Proof.Machine.execVfnma p vd va vb vc rm s
  | .vmax p vd va vb vm => Sys2Proof.Machine.execVmax p vd va vb vm s
  | .vmin p vd va vb vm => Sys2Proof.Machine.execVmin p vd va vb vm s
  | .vabs p vd va vm sat => Sys2Proof.Machine.execVabs p vd va vm sat s
  | .vneg p vd va vm sat => Sys2Proof.Machine.execVneg p vd va vm sat s
  | .vcmp p vmd c va vb vm => Sys2Proof.Machine.execVcmp p vmd c va vb vm s
  | .vsel p vd va vb vm => Sys2Proof.Machine.execVsel p vd va vb vm s
  | .vand p vd va vb vm => Sys2Proof.Machine.execVand p vd va vb vm s
  | .vor p vd va vb vm => Sys2Proof.Machine.execVor p vd va vb vm s
  | .vxor p vd va vb vm => Sys2Proof.Machine.execVxor p vd va vb vm s
  | .vnot p vd va vm => Sys2Proof.Machine.execVnot p vd va vm s
  | .vshl p vd va vb vm => Sys2Proof.Machine.execVshl p vd va vb vm s
  | .vshr p vd va vb vm => Sys2Proof.Machine.execVshr p vd va vb vm s
  | .vsar p vd va vb vm => Sys2Proof.Machine.execVsar p vd va vb vm s
  | .vcvt p vd va bt vm rm sat => Sys2Proof.Machine.execVcvt p vd va bt vm rm sat s
  | .vqnt p vd va vsc bt rm => Sys2Proof.Machine.execVqnt p vd va vsc bt rm s
  | .vdqnt p vd va vsc bt rm => Sys2Proof.Machine.execVdqnt p vd va vsc bt rm s
  | .vbscl p vd va bt => Sys2Proof.Machine.execVbscl p vd va bt s
  | .vexp2 p vd va vm rm sat => Sys2Proof.Machine.execVexp2 p vd va vm rm sat s
  | .vlog2 p vd va vm rm sat => Sys2Proof.Machine.execVlog2 p vd va vm rm sat s
  | .vrcp p vd va vm rm sat => Sys2Proof.Machine.execVrcp p vd va vm rm sat s
  | .vrsq p vd va vm rm sat => Sys2Proof.Machine.execVrsq p vd va vm rm sat s
  | .vdiv p vd va vb vm rm sat => Sys2Proof.Machine.execVdiv p vd va vb vm rm sat s
  | .vsqrt p vd va vm rm sat => Sys2Proof.Machine.execVsqrt p vd va vm rm sat s
  | .vredadd p vd va vm rm sat => Sys2Proof.Machine.execVredadd p vd va vm rm sat s
  | .vredmax p vd va vm => Sys2Proof.Machine.execVredmax p vd va vm s
  | .vredmin p vd va vm => Sys2Proof.Machine.execVredmin p vd va vm s
  | .vperm p vd va vb vm => Sys2Proof.Machine.execVperm p vd va vb vm s
  | .vrot p vd va amt => Sys2Proof.Machine.execVrot p vd va amt s
  | .vbcast p vd bs => Sys2Proof.Machine.execVbcast p vd bs s
  | .vins p vd bs bi => Sys2Proof.Machine.execVins p vd bs bi s
  | .vext p vd va vb amt => Sys2Proof.Machine.execVext p vd va vb amt s
  | .vtag p vd bs => Sys2Proof.Machine.execVtag p vd bs s
  | .vmov p vd va vm => Sys2Proof.Machine.execVmov p vd va vm s
  | .viota p vd bs => Sys2Proof.Machine.execViota p vd bs s
  | .vseed p vd => Sys2Proof.Machine.execVseed p vd s
  | .vmask p vmd vma vmb tt => Sys2Proof.Machine.execVmask p vmd vma vmb tt s
  | .vmaskB p vmd bs => Sys2Proof.Machine.execVmaskB p vmd bs s
  | .mcall p idx pmask => Sys2Proof.Machine.execMcall p idx pmask s
  | .mcallr p idx br => Sys2Proof.Machine.execMcallr p idx br s
  | .mpset p mp bs => Sys2Proof.Machine.execMpset p mp bs s
  | .mpsetImm p mp imm => Sys2Proof.Machine.execMpsetImm p mp imm s
  | .mpld p ba off => Sys2Proof.Machine.execMpld p ba off s
  | .muwr p ba bu cntM1 => Sys2Proof.Machine.execMuwr p ba bu cntM1 s
  | .mrtset p idx bs => Sys2Proof.Machine.execMrtset p idx bs s
  | .mselSwap p => Sys2Proof.Machine.execMselSwap p s
  | .mselS0 p => Sys2Proof.Machine.execMselS0 p s
  | .mselS1 p => Sys2Proof.Machine.execMselS1 p s
  | .mstat p g sel => Sys2Proof.Machine.execMstat p g sel s
  | .send p vs h r => Sys2Proof.Machine.execSend p vs h r s
  | .sends p g r => Sys2Proof.Machine.execSends p g r s
  | .recv p vd h dir => Sys2Proof.Machine.execRecv p vd h dir s
  | .recvs p g dir => Sys2Proof.Machine.execRecvs p g dir s
  | .fwd p din dout cntM1 => Sys2Proof.Machine.execFwd p din dout cntM1 s
  | .nbcRow p vs h => Sys2Proof.Machine.execNbcRow p vs h s
  | .nbcCol p vs h => Sys2Proof.Machine.execNbcCol p vs h s
  | .nrmt p op g ba bv => Sys2Proof.Machine.execNrmt p op g ba bv s
  | .xcopy p tidx bb bbar => Sys2Proof.Machine.execXcopy p tidx bb bbar s
  | .xld p u bbuf bva f sz => Sys2Proof.Machine.execXld p u bbuf bva f sz s
  | .xst p u bbuf bva f sz => Sys2Proof.Machine.execXst p u bbuf bva f sz s
  | .xatom p op bva bv f => Sys2Proof.Machine.execXatom p op bva bv f s
  | .barinit p bbar bx => Sys2Proof.Machine.execBarinit p bbar bx s
  | .bararr p bbar bx => Sys2Proof.Machine.execBararr p bbar bx s
  | .baradd p bbar bx => Sys2Proof.Machine.execBaradd p bbar bx s
  | .phaseR p sc => Sys2Proof.Machine.execPhaseR p sc s
  | .phaseA p sc => Sys2Proof.Machine.execPhaseA p sc s
  | .phaseRa p sc => Sys2Proof.Machine.execPhaseRa p sc s
  | .coll p tidx bb bbar => Sys2Proof.Machine.execColl p tidx bb bbar s
  | .launch p bslot brec => Sys2Proof.Machine.execLaunch p bslot brec s
  | .kpost p sock bpkt => Sys2Proof.Machine.execKpost p sock bpkt s
  | .kstat p g sock sel => Sys2Proof.Machine.execKstat p g sock sel s
  | .xpf p bva blen => Sys2Proof.Machine.execXpf p bva blen s
  | .ovl p ovlid f => Sys2Proof.Machine.execOvl p ovlid f s
  | .muNop nM1 => Sys2Proof.Machine.execMuNop nM1 s
  | .muLda slot => Sys2Proof.Machine.execMuLda slot s
  | .muLdb slot => Sys2Proof.Machine.execMuLdb slot s
  | .muStep adv slot => Sys2Proof.Machine.execMuStep adv slot s
  | .muMask depth mp => Sys2Proof.Machine.execMuMask depth mp s
  | .muScl a b slot => Sys2Proof.Machine.execMuScl a b slot s
  | .muZero ld => Sys2Proof.Machine.execMuZero ld s
  | .muFold => Sys2Proof.Machine.execMuFold s
  | .muDrain mp => Sys2Proof.Machine.execMuDrain mp s
  | .muDrnc mp => Sys2Proof.Machine.execMuDrnc mp s
  | .muXpose on => Sys2Proof.Machine.execMuXpose on s
  | .muLoop c => Sys2Proof.Machine.execMuLoop c s
  | .muEndl => Sys2Proof.Machine.execMuEndl s
  | .muPadd set cur v => Sys2Proof.Machine.execMuPadd set cur v s
  | .muChk => Sys2Proof.Machine.execMuChk s
  | .muHdr mpS mpE => Sys2Proof.Machine.execMuHdr mpS mpE s
  | .muRet => Sys2Proof.Machine.execMuRet s
  | .resultLanding seq => Sys2Proof.Machine.execResultLanding seq s
  | .bufferAccess seq => Sys2Proof.Machine.execBufferAccess seq s
  | .networkWordArrival id => Sys2Proof.Machine.execNetworkWordArrival id s
  | .fwdWindowExpiry din => Sys2Proof.Machine.execFwdWindowExpiry din s
  | .nrmtArrival seq => Sys2Proof.Machine.execNrmtArrival seq s
  | .engineIntervalEnd => Sys2Proof.Machine.execEngineIntervalEnd s
  | .waitSatisfied => Sys2Proof.Machine.execWaitSatisfied s
  | .copyUnitEntryFree => Sys2Proof.Machine.execCopyUnitEntryFree s
  | .asyncSectorTransfer op => Sys2Proof.Machine.execAsyncSectorTransfer op s
  | .asyncOperationComplete op => Sys2Proof.Machine.execAsyncOperationComplete op s
  | .ovlComplete op => Sys2Proof.Machine.execOvlComplete op s
  | .collComplete op => Sys2Proof.Machine.execCollComplete op s
  | .launchReachesTable op => Sys2Proof.Machine.execLaunchReachesTable op s
  | .kiteArrive sock kctx seq16 cbar bytes => Sys2Proof.Machine.execKiteArrive sock kctx seq16 cbar bytes s
  | .faultPacket sock kctx seq16 code => Sys2Proof.Machine.execFaultPacket sock kctx seq16 code s
  | .abandon sock kctx seqs => Sys2Proof.Machine.execAbandon sock kctx seqs s
  | .kiteQuiesceTimeout sock => Sys2Proof.Machine.execKiteQuiesceTimeout sock s
  | .slotSet fn slot state => Sys2Proof.Machine.execSlotSet fn slot state s
  | .suspend fn slot => Sys2Proof.Machine.execSuspend fn slot s
  | .resume fn slot => Sys2Proof.Machine.execResume fn slot s
  | .kill fn slot => Sys2Proof.Machine.execKill fn slot s
  | .hostRecordWrite fn slot off x => Sys2Proof.Machine.execHostRecordWrite fn slot off x s
  | .dependenceSatisfied slot => Sys2Proof.Machine.execDependenceSatisfied slot s
  | .placement slot => Sys2Proof.Machine.execPlacement slot s
  | .eprioAging slot => Sys2Proof.Machine.execEprioAging slot s
  | .contextSwitch rid => Sys2Proof.Machine.execContextSwitch rid s
  | .suspensionRequest slot => Sys2Proof.Machine.execSuspensionRequest slot s
  | .suspensionComplete slot => Sys2Proof.Machine.execSuspensionComplete slot s
  | .relocation slot => Sys2Proof.Machine.execRelocation slot s
  | .safepointOverdue rid => Sys2Proof.Machine.execSafepointOverdue rid s
  | .retirement slot => Sys2Proof.Machine.execRetirement slot s
  | .retirementComplete slot => Sys2Proof.Machine.execRetirementComplete slot s
  | .teardown slot fcause freason => Sys2Proof.Machine.execTeardown slot fcause freason s
  | .msixCoalesceTimer fn => Sys2Proof.Machine.execMsixCoalesceTimer fn s
  | .invalidation fn cmd => Sys2Proof.Machine.execInvalidation fn cmd s
  | .invalidationComplete fn => Sys2Proof.Machine.execInvalidationComplete fn s
  | .whtLoad fn idx => Sys2Proof.Machine.execWhtLoad fn idx s
  | .whtUnload fn idx => Sys2Proof.Machine.execWhtUnload fn idx s
  | .whtCommandComplete pid => Sys2Proof.Machine.execWhtCommandComplete pid s
  | .featwr fn x => Sys2Proof.Machine.execFeatwr fn x s
  | .asidcmdSet fn x => Sys2Proof.Machine.execAsidcmdSet fn x s
  | .asidcmdClear fn x => Sys2Proof.Machine.execAsidcmdClear fn x s
  | .create fn pid desc => Sys2Proof.Machine.execCreate fn pid desc s
  | .partReset fn pid => Sys2Proof.Machine.execPartReset fn pid s
  | .partDestroy fn pid => Sys2Proof.Machine.execPartDestroy fn pid s
  | .partcmdComplete fn => Sys2Proof.Machine.execPartcmdComplete fn s
  | .checkpoint fn => Sys2Proof.Machine.execCheckpoint fn s
  | .restore fn => Sys2Proof.Machine.execRestore fn s
  | .abort fn => Sys2Proof.Machine.execAbort fn s
  | .checkpointComplete pid => Sys2Proof.Machine.execCheckpointComplete pid s
  | .restoreComplete pid => Sys2Proof.Machine.execRestoreComplete pid s
  | .fabricLinkBreach link => Sys2Proof.Machine.execFabricLinkBreach link s
  | .tdispBreach fn => Sys2Proof.Machine.execTdispBreach fn s
  | .frameZeroed die frame => Sys2Proof.Machine.execFrameZeroed die frame s
  | .correctedError u => Sys2Proof.Machine.execCorrectedError u s
  | .frameRetirement die frame => Sys2Proof.Machine.execFrameRetirement die frame s
  | .voltageRampComplete rid => Sys2Proof.Machine.execVoltageRampComplete rid s
  | .islandIdleGating die col row => Sys2Proof.Machine.execIslandIdleGating die col row s
  | .islandWake die col row => Sys2Proof.Machine.execIslandWake die col row s
  | .budgetInterval => Sys2Proof.Machine.execBudgetInterval s
  | .waitForWalk => Sys2Proof.Machine.execWaitForWalk s
  | .whtEntryFetch pid idx => Sys2Proof.Machine.execWhtEntryFetch pid idx s
  | .barrierPhaseRead slot va => Sys2Proof.Machine.execBarrierPhaseRead slot va s
  | .peerAccess r => Sys2Proof.Machine.execPeerAccess r s
  | .tetherRequest r => Sys2Proof.Machine.execTetherRequest r s
  | .socketBringUp sock vendor device identity => Sys2Proof.Machine.execSocketBringUp sock vendor device identity s
  | .dbgsel fn x => Sys2Proof.Machine.execDbgsel fn x s
  | .rswin fn off x => Sys2Proof.Machine.execRswin fn off x s
  | .registerWrite fn off x => Sys2Proof.Machine.execRegisterWrite fn off x s
  | .hostMemoryRequest r => Sys2Proof.Machine.execHostMemoryRequest r s
  | .functionLevelReset fn => Sys2Proof.Machine.execFunctionLevelReset fn s
  | .lockInterface fn stream => Sys2Proof.Machine.execLockInterface fn stream s
  | .startInterface fn => Sys2Proof.Machine.execStartInterface fn s
  | .stopInterface fn => Sys2Proof.Machine.execStopInterface fn s
  | .getDeviceInterfaceReport fn => Sys2Proof.Machine.execGetDeviceInterfaceReport fn s
  | .getVersion pf => Sys2Proof.Machine.execGetVersion pf s
  | .getCapabilities pf => Sys2Proof.Machine.execGetCapabilities pf s
  | .negotiateAlgorithms pf => Sys2Proof.Machine.execNegotiateAlgorithms pf s
  | .getDigests pf => Sys2Proof.Machine.execGetDigests pf s
  | .getCertificate pf slot => Sys2Proof.Machine.execGetCertificate pf slot s
  | .challenge pf nonce => Sys2Proof.Machine.execChallenge pf nonce s
  | .getMeasurements pf idx => Sys2Proof.Machine.execGetMeasurements pf idx s
  | .keyExchange pf data => Sys2Proof.Machine.execKeyExchange pf data s
  | .finish pf data => Sys2Proof.Machine.execFinish pf data s
  | .firmwareLoad img => Sys2Proof.Machine.execFirmwareLoad img s
  | .powerThrottle rid on => Sys2Proof.Machine.execPowerThrottle rid on s
  | .thermalPoll stack temp => Sys2Proof.Machine.execThermalPoll stack temp s
  | .moduleReset => Sys2Proof.Machine.execModuleReset s
  | .replicaExchange m => Sys2Proof.Machine.execReplicaExchange m s

end Sys2Proof.Machine
end

