-- ==== Sys2Proof/Machine/Cycle.lean ====
section
/-! DEFINITION. Region cycles (R37-R40, R86, R87, R322, R323, R326-R329, R371, R433): what a context does in its turn, its region
cycle, its handlers' cycles, its waits, and the machine's round (log 4). -/

namespace Sys2Proof.Machine

/-- The state that an instruction leaves. -/
def State.run (i : Instr) (s : State) : State :=
  match exec i s with
  | .next t => t
  | _ => s

/-- Every isle of the context in focus, by index. -/
def State.isleList (s : State) : List Nat := List.range s.isleCount

/-- A counter event on every isle of the context in focus. -/
def State.countAll (s : State) (ev : Nat) : State := s.eachIsle fun s => { s with core := s.core.count ev 1 }

/-! ## Fetching a bundle (R86, R87, R200, R226) -/

/-- The bundle at an index of IMEM: a bundle that its overlay leaves out holds NOPs (log 23). -/
def Isle.bundleAt (c : Isle) (pc : Nat) : BitVec 256 := ((c.imem.find? (·.1 == pc)).map (·.2)).getD 0

/-- Whether a raw word executes as NOP whatever it reads (R90, R92). -/
def rawNop (k : SlotId) (w : Nat) : Bool :=
  (fld w 22 6 == 0 && (if k = .C then fld w 0 18 == 0 else fld w 0 22 == 0)) || decide (0x3C ≤ fld w 22 6)

/-- The slots of a bundle that hold a non-NOP word whose predicate is true (R200). -/
def Isle.activeSlots (c : Isle) (b : BitVec 256) : List Nat :=
  (slotOrder.filter fun k => let w := (bundleWord b k).toNat; !rawNop k w && c.predTrue (fPred w)).map SlotId.idx

/-- The loop-stack condition of a breakpoint; level 0 is the outermost entry (R178, R199). -/
def Isle.iterates (c : Isle) (w : Nat) : Bool :=
  !bit w 29 ||
    (match (c.loops.reverse)[fld w 26 3]? with
    | some e => e.index == fld w 32 32
    | none => false)

/-- The lowest breakpoint that matches before a bundle issues, and the slots that matched (R200). -/
def Isle.breakMatch (c : Isle) (b : BitVec 256) : Option (Nat × Nat) :=
  (List.finRange 4).findSome? fun n =>
    let w := (c.bkpt[n]).toNat
    let hit := (c.activeSlots b).filter fun i => bit w (18 + i)
    if bit w 31 && !bit w 30 && fld w 0 12 == c.pc && !hit.isEmpty && c.iterates w then some (n.val, (hit.map (2 ^ ·)).sum) else none

/-- What an isle finds at its next bundle: a trap before issue, an uncorrectable error of IMEM (R207), the words. -/
inductive Fetched
  | trap (t : TrapRec)
  | lost
  | words (l : List (SlotId × Instr))
  deriving DecidableEq, Repr

/-- The next bundle of the isle in focus (R87, R200, R226). R176 says of a bundle outside its mode's range only that it is never fetched: the model
traps as for a bundle that no page holds, with INSTR_ILLEGAL 0x0C (DESIGN CHOICE, log 74). -/
def State.fetch (s : State) : Fetched :=
  let c := s.core
  let b := c.bundleAt c.pc
  if !modeRange c.handler c.pc || !(c.imap.any (·.1 == c.pc / 64)) then
    .trap { cause := 0x01, addr := c.pc, info := 0x0C, slot := 0, issued := false }
  else if c.poison.contains (4, c.pc) then .lost
  else
    match if c.handler || c.bksup then none else c.breakMatch b with
    | some (n, hit) =>
      .trap { cause := 0x11, addr := (s.free 0).toNat, info := 0x01 + n * 2 ^ 8 + hit * 2 ^ 10, slot := 0, issued := false }
    | none =>
      match decodeBundle c.handler c.pc b with
      | .ok l => .words l
      | .error (k, r) => .trap { cause := 0x01, addr := c.pc, info := r, slot := k.idx, issued := false }

/-- The next bundles of a list of isles. -/
def State.fetchAll (l : List Nat) (s : State) : List (Nat × Fetched) := l.map fun n => (n, (s.focusIsle n).fetch)

/-! ## Traps of a region cycle (R322, R327, R328) -/

/-- The traps of one freeze point taken, each on its own isle; no safe point stands while they are handled. -/
def State.enterTraps (l : List (Nat × TrapRec)) (s : State) : State :=
  (l.foldl (fun s x => let t := s.focusIsle x.1; t.trapHere x.2 t.core.pc) s).onCtx fun c => { c with safeList := none }

/-- The recorded faults of operations are no longer held once they are raised (R256). -/
def State.raised (s : State) (l : List Nat) : State := s.onCtx fun c => { c with faults := c.faults.filter fun d => !l.contains d.seq }

/-- The CLKDIV with a true predicate that slot C of the next bundle of an isle holds, whatever its other slots hold. -/
def Isle.clkWord (c : Isle) : Option (ClkClass × Nat) :=
  match decodeSlot .C (bundleWord (c.bundleAt c.pc) .C) with
  | .ok (.clkdiv p _ k d) => if c.predTrue p then some (k, d.val) else none
  | _ => none

/-- The isles whose next bundle is due. -/
def State.liveIsles (s : State) : List Nat := s.isleList.filter fun n => let c := (s.focusIsle n).core; !c.ended && c.stall == 0

/-- The isles of the fetched bundles that hold CLKDIV with a true predicate, and what it names. -/
def State.clkIsles (s : State) (f : List (Nat × Fetched)) : List (Nat × (ClkClass × Nat)) :=
  f.filterMap fun x => match x.2 with
    | .words _ => ((s.focusIsle x.1).core.clkWord).map fun k => (x.1, k)
    | _ => none

/-- CLKDIV_DISAGREE (R189): the isle it is raised on, the lowest of those that issue CLKDIV, and its trap. Every isle must hold the same one. The
check comes after that of INSTR_ILLEGAL 0x06, so an isle that has failed that one does not come to it. -/
def State.clockTrap (s : State) (f : List (Nat × Fetched)) : Option (Nat × TrapRec) :=
  match s.clkIsles f with
  | [] => none
  | (n, k) :: _ =>
    let t := s.focusIsle n
    if t.core.clk.isNone ∨ (s.liveIsles.length = s.isleCount ∧ s.isles.all fun c => c.clkWord == some k) then none
    else some (n, { cause := 0x14, addr := (t.free 0).toNat, info := k.1.ix.val + k.2 * 4, slot := 0, issued := false })

/-- The trap of an isle of the context in focus that its bundle raised before issue, with the recorded fault that it raises. -/
def State.trapAt (s : State) (n : Nat) : Option (Nat × TrapRec × Option Nat) :=
  let t := s.focusIsle n
  match t.core.early, t.core.deferred with
  | some e, _ => some (n, e, none)
  | none, some q => (s.ctx.faults.find? (·.seq == q)).map fun d => (n, { d.trap with slot := 0, issued := false }, some q)
  | none, none => none

/-- The traps before issue of a region cycle: those of fetching, those of the words, and CLKDIV's, which stands in slot 0. -/
def State.earlyTraps (s : State) (f : List (Nat × Fetched)) : List (Nat × TrapRec × Option Nat) :=
  let l := f.filterMap fun x => match x.2 with
    | .trap t => some (x.1, t, none)
    | _ => s.trapAt x.1
  match s.clockTrap f with
  | some (n, t) => (n, t, none) :: l.filter (·.1 != n)
  | none => l

/-! ## Issue -/

/-- A word of slot V that counts for EVSEL 0x02. -/
def vecWord (c : Isle) (w : SlotId × Instr) : Bool :=
  w.1 = .V && (match w.2 with
    | .nop _ => false
    | .hint _ _ _ => false
    | i => (i.pred?.map c.predTrue).getD false)

/-- The words of a bundle that a test admits, executed in slot order on the isle in focus. -/
def State.issueWords (test : SlotId → Bool) (l : List (SlotId × Instr)) (s : State) : State :=
  l.foldl (fun s w => if test w.1 then ({ s with slot := w.1 } : State).run w.2 else s) s

/-- Some bundles' words executed, each on its isle. -/
def State.issueAll (test : SlotId → Bool) (l : List (Nat × List (SlotId × Instr))) (s : State) : State :=
  l.foldl (fun s x => (s.focusIsle x.1).issueWords test x.2) s

/-- Whether a bundle of the isle in focus waits through an interlock rc (R106, R107, R175, R433). -/
def State.bundleWaits (s : State) (l : List (SlotId × Instr)) : Bool :=
  l.any fun w => let t : State := { s with slot := w.1 }; t.interlocked w.2 || t.recordInterlocked w.2

/-- The isle before a bundle: nothing of an earlier rc is left in what judges this one. -/
def Isle.begin_ (c : Isle) : Isle :=
  { c with early := none, late := none, deferred := none, safe := none, clk := none, next := .seq, nextStall := 0 }

/-! ## The matrix engine's cycles (R231, R242-R244) -/

/-- The micro-sequencer's attempt in the present cycle (R230, R231, R233). -/
def State.muIssue (s : State) (r : Routine) : State :=
  if r.returned then s
  else
    match s.core.ustore[r.upc]? with
    | none => s.muFault r muIllegal
    | some w =>
      if s.core.poison.contains (5, r.upc) then s.loseAt .X r.upc
      else
        match decodeMicro w with
        | none => if r.wouldIssue w then s.muFault r (1, 0x0D) else s
        | some i => s.run i

/-- A passed segment that waits for the end of the rc in which its CHK or RET ends (R242, R378); no rerun of it is under way any longer. -/
def Matrix.land (m : Matrix) (r : Routine) (ret : Bool) (g : Segment) (x : XRun) (due : Nat) : Matrix :=
  { m with
    landing := m.landing ++ [{ segment := g, due := due, bundle := x.bundle, rcyc := x.rcyc, ret := ret, upc := r.upc }]
    rerun := none, replay := none }

/-- A passing segment: it lands, and its end is the new segment's start (R242). -/
def Matrix.commit (m : Matrix) (r : Routine) (ret : Bool) (g : Segment) (x : XRun) (due : Nat) : Matrix :=
  { m.land r ret g x due with
    routine := if ret then none else some { r with cycle := r.cycle + 1, pending := none, held := r.held || r.acc.isSome, feed := [] }
    base := if ret then none else m.chk.map fun c => { routine := { c with held := c.held || c.acc.isSome }, set0 := m.set0, set1 := m.set1 }
    chk := none, past := [] }

/-- The open segment restored to its start, to run once more with the loads it has had (R243). -/
def Matrix.restore (m : Matrix) (r : Routine) (u : Rerun) : Matrix :=
  match m.base with
  | none => m
  | some b => { m with routine := some { b.routine with feed := m.past ++ r.loads }, set0 := b.set0, set1 := b.set1, chk := none, rerun := some u }

/-- The signature of a run of the segment (R243): for each row of the active set the sum of its residues, and the cycles it took. -/
def Matrix.signature (m : Matrix) (r : Routine) (g : Segment) : List Nat × Nat :=
  let t := (g.set.map (·.2)).getD r.work
  ((List.range 128).map fun i => ((t.row i).s.map residue).sum % 255, r.cycle - ((m.base.map fun b => b.routine.cycle).getD 0))

/-- What the last cycle of a CHK or RET does with its segment (R242, R243): it commits, at the end of a given rc; it commits as the second of two
reruns that agree; it runs again; or the two reruns disagree. -/
inductive SegEnd
  | commits (due : Nat)
  | corrected (due : Nat)
  | again (u : Rerun)
  | retires
  deriving DecidableEq, Repr

/-- The verdict on a segment whose CHK or RET is in its last cycle, which ends in rc `due` (R243). -/
def Matrix.verdict (m : Matrix) (r : Routine) (g : Segment) (due : Nat) : SegEnd :=
  match m.rerun with
  | none =>
    if (g.failed || m.replay.isSome) && m.base.isSome then .again { second := false, signature := ([], 0), due := due } else .commits due
  | some u =>
    if !u.second then .again { u with second := true, signature := m.signature r g }
    else if m.signature r g = u.signature ∧ m.replay ≠ some false then .corrected u.due
    else .retires

/-- A replay whose reruns have agreed counts as a corrected error of the array (R243, R387). -/
def State.replayed (s : State) : State :=
  let t := s.onCore (·.count 0x15 1)
  { t with agenda := t.agenda ++ [.correctedError s.arrayUnit] }

/-- The last cycle of a CHK or RET (R242, R243): a passing segment commits; a failed one freezes the region and runs twice more, and commits
where the two runs agree. -/
def State.segmentEnd (s : State) (x : XRun) (r : Routine) (ret : Bool) (g : Segment) (due : Nat) : State :=
  let m := s.core.mat
  let put (m : Matrix) : State := { s with core := { s.core with mat := m } }
  match m.verdict r g due with
  | .commits n => put (m.commit r ret g x n)
  | .corrected n => (put (m.commit r ret g x n)).replayed
  | .again u => (put (m.restore r u)).onRegion s.ctx.rid fun g => { g with replay := true }
  | .retires => (((put { m with rerun := none }).onCore (·.count 0x15 1)).uncorrectable s.isleUnit).lose 0x0F

/-- The end of the present MAT cycle (R231), in rc `due`: the last cycle of a CHK or RET ends its segment. -/
def State.muEnd (s : State) (x : XRun) (due : Nat) : State :=
  match s.core.mat.routine with
  | none => s
  | some r =>
    let tick (s : State) : State := { s with core := { s.core with mat := { s.core.mat with routine := some { r with cycle := r.cycle + 1 } } } }
    match r.pending with
    | some (last, ret, g) => if r.cycle < last then tick s else s.segmentEnd x r ret g due
    | none => tick s

/-- After the micro-sequencer's attempt, which has led from `s` to `t`: the cycle ends. Where a fault has ended the routine, a CHK that ends in this very
cycle still has its verdict (R242-R244, R322): a segment that passes lands; one that must run again does so first, and the fault arises anew in the
rerun that commits. A routine that has gone past its breakpoint's word can meet it again (R201). -/
def State.muAfter (s t : State) (x : XRun) (r : Routine) (due : Nat) : State :=
  match t.core.mat.routine, r.pending with
  | none, some (last, ret, g) =>
    if r.cycle < last then t
    else
      let lands (n : Nat) : State := t.onCore fun c => { c with mat := c.mat.land r ret g x n }
      (match s.core.mat.verdict r g due with
      | .commits n => lands n
      | .corrected n => (lands n).replayed
      | _ => s.segmentEnd x r ret g due)
  | none, none => t
  | some q, _ =>
    (if q.upc = r.upc then t else t.onCore fun c => { c with mat := { c.mat with routine := some { q with stopped := none } } }).muEnd x due

/-- The call that a MAT cycle of the isle in focus advances: its routine runs from the first rc of its interval. -/
def State.muRunning (s : State) : Option (XRun × Routine) :=
  match s.core.mat.running, s.core.mat.routine with
  | some x, some r => if s.ctx.rcycle < x.first then none else some (x, r)
  | _, _ => none

/-- A MAT cycle of the isle in focus (R231, R379), whose end falls in rc `due`. -/
def State.matCycle (s : State) (due : Nat) : State :=
  match s.muRunning with
  | some (x, r) => s.muAfter (s.muIssue r) x r due
  | none => s

/-- The micro-word at which a micro-PC breakpoint stops the isle in focus: the routine has reached it, and it has not executed (R201). -/
def State.muBreak (s : State) : Option Nat :=
  match s.muRunning with
  | none => none
  | some (_, r) =>
    if r.returned || r.stopped == some r.upc then none
    else if (List.finRange 4).any fun n => let w := (s.core.bkpt[n]).toNat; bit w 31 && bit w 30 && fld w 0 10 == r.upc then some r.upc
    else none

/-- BREAKPOINT at a micro-word (R201), raised after issue, and the engine's stop before it (log 24): the cycles of the rc that are left, by
their ticks, are owed. -/
def State.muStop (s : State) (u : Nat) (l : List Nat) : State :=
  s.onCore fun c =>
    ({ c with mat := { c.mat with routine := c.mat.routine.map fun r => { r with stopped := some u }, owed := some l } } : Isle).raiseLate
      { cause := 0x11, addr := (s.free 0).toNat, info := 0x03 + u * 2 ^ 18, slot := 5, issued := true }

/-- The MAT boundaries in the present rc, by their ticks (R378). -/
def State.matTicks (s : State) : List Nat :=
  ((List.range (s.divOf .ctl)).map fun k => s.ctx.e + k).filter fun u =>
    s.ctx.eX[ClkClass.mat.ix] ≤ u && (u - s.ctx.eX[ClkClass.mat.ix]) % s.divOf .mat == 0

/-- The MAT cycles that begin at the ticks of a list, fewer where a breakpoint or a replay stops the engine: the rest is owed (R201, R243). A
cycle ends before the next boundary of the class, in the rc that contains its last tick (R378). -/
def State.matCyclesOf : List Nat → State → State
  | [], s => s
  | u :: l, s =>
    match s.muBreak with
    | some k => s.muStop k (u :: l)
    | none =>
      let t := s.matCycle (s.rcOfTick (u + s.divOf .mat - 1))
      if t.core.mat.rerun.isSome then t.onCore fun c => { c with mat := { c.mat with owed := some l } } else State.matCyclesOf l t

/-- What a committed segment leaves on its isle (R242). -/
def Isle.segmentLands (c : Isle) (l : Landing) : Isle :=
  let g := l.segment
  let c := c.writesLand g.writes
  let m := { c.mat with accovf := c.mat.accovf || g.accovf }
  let m := match g.set with
    | some (true, t) => { m with set1 := t }
    | some (false, t) => { m with set0 := t }
    | none => m
  let m := { m with base := m.base.map fun b => { b with set0 := m.set0, set1 := m.set1 } }
  g.events.foldl (fun (c : Isle) e => c.record (statRecord e.1 5 l.bundle e.2.2 e.2.1 l.rcyc)) { c with mat := m }

/-- The segments that land at the end of an rc (R242). -/
def Isle.matCommit (c : Isle) (rc : Nat) : Isle :=
  (c.mat.landing.filter fun l => decide (l.due ≤ rc)).foldl Isle.segmentLands
    { c with mat := { c.mat with landing := c.mat.landing.filter fun l => !decide (l.due ≤ rc) } }

/-! ## The end of a region cycle (R95, R211-R213, R323, R378) -/

/-- The accesses of the isle in focus that are due. -/
def State.accessesDue (s : State) : List Nat :=
  (s.core.inFlight.filter fun f => s.dueNow f.due && (match f.eff with | .access _ _ => true | _ => false)).map (·.seq)

/-- The accesses of the isle in focus performed. -/
def State.performAll (s : State) : State := s.accessesDue.foldl (fun s q => s.run (.bufferAccess q)) s

/-- Remote atomics that are due at the isle in focus, in the order of their arrival sides N, E, S, W (R213). -/
def State.remotesDue (s : State) : List Nat :=
  let l := s.core.flights.filterMap fun f => match f.eff with
    | .remote id => if s.dueNow f.due then some (((s.requestOf id).map fun t => t.dir.opp.ix.val).getD 4, id) else none
    | _ => none
  (l.sorted fun x y => decide (x.1 ≤ y.1)).map (·.2)

/-- The remote atomics of the isle in focus performed. -/
def State.serveAll (s : State) : State := s.remotesDue.foldl (fun s id => s.run (.nrmtArrival id)) s

/-- Effects that come before the words that land in the same rc (R172, R282, R283, R377). -/
def Eff.first : Eff → Bool
  | .drainLatch _ => true
  | .window _ _ => true
  | .pop => true
  | .clearAccovf => true
  | _ => false

/-- The landings of the isle in focus that are due and that a test admits, in order of issue (R95, R134, R212). -/
def State.landAll (s : State) (test : Eff → Bool) : State :=
  ((s.core.inFlight.filter fun f => s.dueNow f.due && test f.eff).sorted Flight.before).foldl State.lands s

/-- The engine of the isle in focus at the end of the rc (R166, R232, R242); the interval of one that still owes cycles of the rc ends when
it has run them. -/
def State.endEngine (s : State) : State :=
  let t := s.onCore (·.matCommit s.ctx.rcycle)
  if t.core.mat.owed.isSome then t else t.run .engineIntervalEnd

/-- The engine's interval and the windows of the isle in focus at the end of the rc (R166, R232, R283). -/
def State.endIntervals (s : State) : State := [Dir.n, .e, .s, .w].foldl (fun s d => s.run (.fwdWindowExpiry d)) s.endEngine

/-- A function applied within the rc before, in which the engine has stopped (R201, R243). -/
def State.inRcBefore (s : State) (f : State → State) : State :=
  (f (s.onCtx fun c => { c with rcycle := s.ctx.rcycle - 1, e := s.ctx.e - s.divOf .ctl })).onCtx fun c =>
    { c with rcycle := s.ctx.rcycle, e := s.ctx.e }

/-- A cycle of a rerun on the isle in focus, while its region is frozen (R243): its segment lands where the first run's would have. -/
def State.rerunCycle (s : State) : State := if s.core.mat.rerun.isSome then s.inRcBefore (·.matCycle 0) else s

/-- The cycles that the engine of the isle in focus owes of the rc before, and the end of that rc for it (R201, R243). -/
def State.payOwed (s : State) : State :=
  match s.core.mat.owed with
  | none => s
  | some l => s.inRcBefore fun s => (State.matCyclesOf l (s.onCore fun c => { c with mat := { c.mat with owed := none } })).endEngine

/-- The divisor that a passed CLKDIV sets (R189, R378, R380): the class's divider takes it, and a lower one begins a ramp. -/
def State.setClock (s : State) (k : ClkClass × Nat) : State :=
  let old := s.divOf k.1
  (s.onCtx fun c => { c with div := c.div.set k.1.ix (k.2 + 1), eX := c.eX.set k.1.ix c.e }).onRegion s.ctx.rid fun r =>
    { r with div := r.div.set k.1.ix (k.2 + 1), ramp := r.ramp || decide (k.2 + 1 < old) }

/-- An isle at the end of an rc: a bundle that issued is followed by the sequencer's choice; a stall count runs (R93, R179). -/
def Isle.stepPc (c : Isle) (issued : Bool) : Isle :=
  if issued then { c with bksup := false }.advance else if c.ended then c else { c with stall := c.stall - 1 }

/-- Whether an effect is a SYSWR's: it lands after everything else of its rc, so that a counter's new event and value hold from the next one (R192,
R387). -/
def Eff.isSys : Eff → Bool
  | .sys _ _ => true
  | _ => false

/-- Everything that happens in an rc after the words have issued (R211, R323, R433). -/
def State.closeCycle (s : State) (issued : List (Nat × List (SlotId × Instr))) : State :=
  let clk := s.core.clk
  let t := s.eachIsle State.performAll
  let t := t.eachIsle State.serveAll
  let t := t.eachIsle (State.matCyclesOf t.matTicks)
  let t := t.eachIsle (·.landAll Eff.first)
  let t := t.closeNetwork
  let t := t.eachIsle (·.landAll fun e => !e.isSys)
  let t := t.eachIsle State.endIntervals
  let t := t.eachIsle (·.landAll Eff.isSys)
  let t := t.eachIsle fun s => s.onCore (·.stepPc (issued.any (·.1 == s.isleIx)))
  let t := t.onCtx fun c => { c with rcycle := c.rcycle + 1, e := c.e + s.divOf .ctl }
  match clk with
  | some k => t.setClock k
  | none => t

/-! ## Waits and safe points (R42, R45, R46, R50, R343, R359, R371, R375) -/

/-- A request of the region's selector or a suspension, served next at this safe point (R343, R344). -/
def State.offer (s : State) : State :=
  let pre := match s.region s.ctx.rid with
    | some r => r.preempt.contains s.ctx.slot
    | none => false
  { s with agenda := (if pre then Instr.suspensionRequest s.ctx.slot else .contextSwitch s.ctx.rid) :: s.agenda }

/-- Every standing wait consumed together. -/
def State.consumeAll (s : State) : State := (s.run .waitSatisfied).forgetWaits s.ctx.slot

/-- The signaller's slot and OBJ of the standing wait of the isle in focus, with KIND (R359). -/
def State.waitEntry (s : State) : Option (Nat × Nat × Nat) :=
  match s.core.wait with
  | some (.flag f _ (some g)) => (s.slotOfCtx g.val).map fun n => (0, n, f.val + s.ctx.ctxid.val * 32)
  | some (.barrier ref _ (some g) _) => (s.slotOfCtx g.val).map fun n => (1, n, ref.toNat)
  | some (.barrier ref _ none _) =>
    (match s.lookBar ref with
    | .phase b => if bit b.sig 31 then some (1, fld b.sig 0 12, ref.toNat) else none
    | _ => none)
  | _ => none

/-- The key of a wait-for entry: the die of its region's origin, its slot and its isle. -/
def State.waitKey (s : State) : Nat := (((s.region s.ctx.rid).map (·.die)).getD 0) * 2 ^ 24 + s.ctx.slot * 1024 + s.isleIx

/-- The standing wait of the isle in focus enters the wait-for table of its die (R359). -/
def State.enterWait (s : State) : State :=
  if s.waitMet then s
  else
    match s.waitEntry with
    | none => s
    | some (kind, sig, obj) =>
      let k := s.waitKey
      if s.waitfor.any (·.1 == k) then s
      else if 4096 ≤ (s.waitfor.filter fun e => e.1 / 2 ^ 24 == k / 2 ^ 24).length then { s with waitforLost := s.waitforLost + 1 }
      else
        { s with waitfor := s.waitfor ++
            [(k, BitVec.ofNat 128 (2 ^ 127 + kind * 2 ^ 124 + s.ctx.slot % 4096 * 2 ^ 112 + sig % 4096 * 2 ^ 100 + obj % 2 ^ 64))] }

/-- Whether a word makes its bundle an implicit safe point (R46, R370). -/
def isSync : Instr → Bool
  | .waitf _ _ _ _ _ => true
  | .waitb _ _ _ _ _ => true
  | .yieldC _ _ _ => true
  | _ => false

/-- The signaller that a wait names. -/
def Wait.sig : Wait → Option (Fin 4)
  | .flag _ _ g => g
  | .barrier _ _ g _ => g
  | .yielding g => g

/-- Whether the wait of an isle is a YIELD. -/
def Isle.yields (c : Isle) : Bool :=
  match c.wait with
  | some (.yielding _) => true
  | _ => false

/-- A wait stands on some isle of the context in focus. -/
def State.anyWait (s : State) : Bool := s.isles.any (·.wait.isSome)

/-- The safe point at which the context stands after an rc: its live-state list (R45, R46). -/
def State.safePoint (s : State) (sync : Bool) : Option Nat :=
  if !s.noneExposed then none
  else
    match s.isles.all (·.safe.isSome), (s.focusIsle 0).core.safe with
    | true, some n => some n
    | _, _ => if sync || s.allEnded then some 0 else none

/-- The wait of the isle in focus leaves the wait-for table where it is satisfied, and enters it where it is not (R359). -/
def State.trackWait (s : State) : State :=
  if s.waitMet then { s with waitfor := s.waitfor.filter (·.1 != s.waitKey) } else s.enterWait

/-- An unsatisfied wait stands: it enters the wait-for table, and the selector may choose where the bundle is an implicit safe point
(R42, R343, R359). -/
def State.stand (s : State) : State :=
  let t := s.eachIsle State.trackWait
  if t.ctx.safeList.isSome then (t.onCtx fun c => { c with cstate := .waiting }).offer else t

/-- After an rc without traps: safe points, waits and requests (R40, R42, R45-R50, R188, R343). `found` says that every wait found its
condition met at issue. Where waits of several isles name different contexts, the signaller that the selector goes by is the one that
the lowest isle's wait names, satisfied or not (log 63). -/
def State.settle (s : State) (sync found : Bool) : State :=
  let list := s.safePoint sync
  let t := s.onCtx fun c =>
    { c with
      safeList := list, sinceSafe := if list.isSome then 0 else c.sinceSafe + 1
      sig := (s.isles.findSome? fun c => c.wait.bind Wait.sig).map (·.val) }
  if t.anyWait then
    if !found then t.stand
    else if list.isSome && (t.requested || t.isles.any Isle.yields) then (t.onCtx fun c => { c with since := s.now }).offer
    else t.consumeAll
  else if list.isSome && (t.requested || t.allEnded) then t.offer
  else t

/-! ## The region cycle -/

/-- The traps after issue of the isles of the context in focus (R322). -/
def State.lateTraps (s : State) : List (Nat × TrapRec) :=
  s.isleList.filterMap fun n => ((s.focusIsle n).core.late).map fun t => (n, t)

/-- The words that have been fetched. -/
def wordsOf (l : List (Nat × Fetched)) : List (Nat × List (SlotId × Instr)) :=
  l.filterMap fun x => match x.2 with | .words w => some (x.1, w) | _ => none

/-- The context before an rc: nothing of an earlier one is left in what judges this one. -/
def State.openCycle (s : State) : State :=
  ({ s with mark := s.seq } : State).eachIsle fun s => { s with core := s.core.begin_ }

/-- Every bundle of an rc issued, slot C first. -/
def State.issueRc (s : State) (f : List (Nat × Fetched)) : State :=
  State.issueAll (· != .C) (wordsOf f) (State.issueAll (· == .C) (wordsOf f) s)

/-- The traps before issue that the coming rc meets, where its bundles would issue (R322): they share the freeze point of the traps after
issue of the rc before; each with the recorded fault that it raises. -/
def State.nextTraps (s : State) : List (Nat × TrapRec × Option Nat) :=
  if s.anyWait || s.isles.any (fun c => c.hold.isSome || c.handler) then []
  else
    let t := s.openCycle
    let f := State.fetchAll t.liveIsles t
    let t := t.focusIsle 0
    if (f.any fun x => x.2 == .lost) || (wordsOf f).any fun x => (t.focusIsle x.1).bundleWaits x.2 then []
    else (t.issueRc f).earlyTraps f

/-- The traps of a list that isles outside another list meet, and the state in which they are raised. -/
def State.sharing (s : State) (l : List Nat) (k : List (Nat × TrapRec × Option Nat)) : State × List (Nat × TrapRec) :=
  let k := k.filter fun x => !l.contains x.1
  (s.raised (k.filterMap (·.2.2)), k.map fun x => (x.1, x.2.1))

/-- Whether the request of R50 is overdue: more rc than the safe-point distance, no isle being in handler mode, or 1 ms, of which that mode's time is
part (R329). -/
def State.isOverdue (s : State) : Bool :=
  s.requested && !s.atSafePoint &&
    ((decide (s.ctx.image.spdist < s.ctx.sinceSafe) && !s.isles.any (·.handler)) || decide (s.ctx.reqAt + 2000000 ≤ s.now))

/-- The traps of one freeze point taken: those after issue that are given, on the other isles those of the coming rc, and SAFEPOINT_OVERDUE
where it is due and isle (0,0) has no trap after issue; where it has, SAFEPOINT_OVERDUE arises again after TRET (R322). -/
def State.freezeFor (s : State) (l : List (Nat × TrapRec)) : State :=
  let late := s.isOverdue && !(l.any (·.1 == 0))
  let (t, k) := s.sharing (l.map (·.1) ++ if late then [0] else []) s.nextTraps
  let t := t.enterTraps (l ++ k)
  if late then { t.focusIsle 0 with agenda := .safepointOverdue s.ctx.rid :: t.agenda } else t

/-- Waits that have all found their condition met at issue are over at the end of their rc, where no YIELD and no request stands in the way. -/
def State.waitsPassed (s : State) (found : Bool) : State :=
  if found && s.anyWait && !(s.isles.any Isle.yields) && !(s.requested && s.noneExposed) then s.consumeAll else s

/-- The rc of the bundles of a list of isles, all of them issued: the end of the rc, then its traps or its waits. -/
def State.finishCycle (s : State) (issued : List (Nat × List (SlotId × Instr))) : State :=
  let unmet := s.isleList.filter fun n => !(s.focusIsle n).waitMet
  let t := s.eachIsle fun s => if unmet.contains s.isleIx then { s with core := s.core.count 0x13 1 } else s
  let t := t.closeCycle issued
  match t.lateTraps with
  | [] => t.settle (issued.any fun x => x.2.any fun w => isSync w.2) unmet.isEmpty
  | l => ((t.onCtx fun c => { c with sinceSafe := c.sinceSafe + 1 }).waitsPassed unmet.isEmpty).freezeFor l

/-- The state before an rc that an uncorrectable error ends, with what the words have recorded of it: the events, and the trap registers of
their isles (R207, R257). -/
def State.lostIn (s a : State) : State :=
  ({ s with agenda := a.agenda, errs := a.errs } : State).eachIsle fun s =>
    let d := (a.focusIsle s.isleIx).core
    s.onCore fun c => { c with tcause := d.tcause, taddr := d.taddr, tslot := d.tslot }

/-- An rc in which the bundles issue, unless one of them traps or is held (R87, R288, R322, R372). `f` is what was fetched, `s` the state
before the rc. -/
def State.issueCycle (s : State) (f : List (Nat × Fetched)) : State :=
  let w := wordsOf f
  let a := s.issueRc f
  match a.earlyTraps f with
  | t :: ts =>
    let l := t :: ts
    ((s.raised (l.filterMap (·.2.2))).enterTraps (l.map fun x => (x.1, x.2.1))).focusIsle 0
  | [] =>
    if a.isles.any (·.hold.isSome) then
      s.eachIsle fun s => { s with core := { s.core with hold := ((a.focusIsle s.isleIx).core.hold) } }
    else if s.agenda.length < a.agenda.length then s.lostIn a
    else
      let a := a.countAll 0x01
      let a := w.foldl (fun t x => let t := t.focusIsle x.1
        if x.2.any (vecWord (s.focusIsle x.1).core) then { t with core := t.core.count 0x02 1 } else t) a
      (a.focusIsle 0).finishCycle w

/-- A region cycle of the context in focus (R37, R87, R322, R433). -/
def State.regionCycle (s : State) : State :=
  let s := (s.onCtx fun c => { c with safeList := none, cstate := .issuing }).openCycle
  let f := State.fetchAll s.liveIsles s
  if let some x := f.find? fun x => x.2 == .lost then (let t := s.focusIsle x.1; t.loseAt .C t.core.pc)
  else if (wordsOf f).any fun x => (s.focusIsle x.1).bundleWaits x.2 then ((s.countAll 0x01).countAll 0x07).finishCycle []
  else s.issueCycle f

/-! ## Handler mode (R182, R191, R326-R329) -/

/-- The end of a handler's cycle on the isle in focus: its own accesses and landings. -/
def State.handlerClose (s : State) : State :=
  let t := s.performAll.landAll fun _ => true
  { t with core := { t.core with htime := t.core.htime + 1 } }

/-- An uncorrectable error in handler mode (R328): a double fault until bundles 0 and 1 have issued, its own cause from then on. -/
def State.handlerLost (s : State) (addr : Nat) : State :=
  if s.core.hread = (true, true) then s.loseAt .C addr else s.doubleFault (fld s.core.tcause.toNat 0 8)

/-- The isle in focus leaves handler mode once its TRET has issued and none of its handler's results is in flight (R191, R327); RPC below 64
escalates (R329). A standing wait that the handler has ended leaves the wait-for table (R359). -/
def State.tryLeave (s : State) : State :=
  if s.core.next = .leave ∧ s.core.hflights.isEmpty then
    if s.core.spoilt 3 3072 16 then s.handlerLost 3072
    else if rpcOf s.core.tslot < 64 then s.doom s.ctx.slot (fld s.core.tcause.toNat 0 8) (fld s.core.tinfo.toNat 0 8)
    else
      let c := s.core.leaveTrap
      let s := if s.core.wait.isSome && c.wait.isNone then { s with waitfor := s.waitfor.filter (·.1 != s.waitKey) } else s
      { s with core := if c.ended then { c with pc := (s.core.ret.map (·.2)).getD c.pc } else c }
  else s

/-- Whether a bundle holds a TRET that executes. -/
def Isle.returns (c : Isle) (l : List (SlotId × Instr)) : Bool :=
  l.any fun w => match w.2 with
    | .tret p _ => c.predTrue p
    | _ => false

/-- A handler's bundle on the isle in focus: a fault in it tears the context down with its own cause (R328). -/
def State.handlerBundle (s : State) (l : List (SlotId × Instr)) : State :=
  if s.bundleWaits l ∨ (s.core.returns l ∧ !s.core.hflights.isEmpty) then s.handlerClose
  else
    let a := s.issueWords (fun _ => true) l
    let a := a.onCore fun c => { c with hread := (c.hread.1 || c.pc == 0, c.hread.2 || c.pc == 1) }
    match a.core.early with
    | some t => s.doom s.ctx.slot t.cause (t.info % 256)
    | none =>
      if s.agenda.length < a.agenda.length then s.lostIn a
      else (({ a with core := if a.core.next = .leave then a.core else a.core.advance } : State).handlerClose).tryLeave

/-- A cycle of the isle in focus in handler mode (R327). -/
def State.handlerCycle (s : State) : State :=
  if !s.core.handler then s
  else if s.core.next = .leave then s.handlerClose.tryLeave
  else if 0 < s.core.hstall then
    let t := s.handlerClose
    { t with core := { t.core with hstall := t.core.hstall - 1 } }
  else
    let t : State := { s with core := s.core.begin_, mark := s.seq }
    match t.fetch with
    | .trap e => t.doom s.ctx.slot e.cause (e.info % 256)
    | .lost => t.handlerLost t.core.pc
    | .words l => t.handlerBundle l

/-! ## A context's turn -/

/-- The traps of the standing waits of the context in focus (R256, R376). -/
def State.waitTraps (s : State) : List (Nat × TrapRec × Option Nat) :=
  s.isleList.filterMap fun n => ((s.focusIsle n).waitFault).map fun x => (n, x.1, x.2)

/-- A standing wait of the isle in focus that needs its barrier read first (R375), or meets an uncorrectable word (R257). -/
def State.lookAgain (s : State) : State :=
  match s.core.wait with
  | some (.barrier ref _ _ false) =>
    (match s.lookBar ref with
    | .fetch va => { s with core := { s.core with hold := some (.phaseRead va) } }
    | .uncorrectable va u => s.loseVa va u
    | .spoilt a => s.loseAt .C a
    | _ => s)
  | _ => s

/-- The barrier that the standing wait of the isle in focus names is walked to again (R258). -/
def State.waitTouch (s : State) : State :=
  match s.core.wait with
  | some (.barrier ref _ _ _) => s.refTouch ref
  | _ => s

/-- The turn of a selected context whose waits stand: the state, and whether they have been consumed (R42, R49, R256, R371). -/
def State.standing (s : State) : State × Bool :=
  let s := s.eachIsle State.waitTouch
  match s.waitTraps with
  | t :: ts =>
    let l := t :: ts
    let u := (s.raised (l.filterMap (·.2.2))).onCtx fun c => { c with cstate := .issuing, safeList := none }
    (l.foldl (fun s x => let t := s.focusIsle x.1; t.trapHere x.2.1 t.core.waitPc) u, false)
  | [] =>
    let s := s.onCtx fun c => { c with safeList := if c.safeList.isNone && s.noneExposed then some 0 else c.safeList }
    if s.allWaitsMet then
      let t := s.onCtx fun c => { c with cstate := .issuing, since := if c.cstate = .waiting then s.now else c.since }
      if t.ctx.safeList.isSome && t.requested then ((t.eachIsle State.trackWait).offer, false) else (t.consumeAll, true)
    else
      let t := ((s.countAll 0x10).eachIsle State.trackWait).eachIsle State.lookAgain
      (if t.ctx.safeList.isSome && t.requested then t.offer else t, false)

/-- The turn of a selected context whose isles have all ended and from whose engines nothing more comes (R46, R52). -/
def State.afterEnd (s : State) : State :=
  let s := s.onCtx fun c => { c with safeList := some 0 }
  if s.drained then { s with agenda := .retirement s.ctx.slot :: s.agenda }
  else
    let t := s.onCtx fun c => { c with cstate := .waiting }
    if t.requested then t.offer else t

/-- A selected context that nothing freezes from outside. -/
def State.proceed (s : State) : State :=
  if s.anyWait then
    match s.standing with
    | (t, true) => (t.focusIsle 0).regionCycle
    | (t, false) => t
  else if s.allEnded && s.noneExposed && s.ctx.words.isEmpty then s.afterEnd
  else s.regionCycle

/-- A context that is not selected: a wait that is satisfied, or has a fault to raise, makes it ready, and a switch is requested (R42,
R343); one that has ended retires (R52). -/
def State.idleTurn (s : State) : State :=
  let wake := ((s.onCtx fun c => { c with cstate := .ready, since := s.now }).requestSwitch s.ctx.rid)
  if s.ctx.cstate = .waiting ∧ s.anyWait then
    if !s.waitTraps.isEmpty || s.allWaitsMet then wake.eachIsle State.trackWait else s.eachIsle State.trackWait
  else if s.allEnded && s.noneExposed && s.drained then
    if s.ctx.faults.isEmpty then { s with agenda := .retirement s.ctx.slot :: s.agenda }
    else if s.ctx.cstate = .waiting then wake else s
  else s

/-- A frozen region's turn in a matrix replay (R38, R243): a cycle of every rerun, until all have ended. -/
def State.replayTurn (s : State) : State :=
  let t := (s.countAll 0x12).eachIsle State.rerunCycle
  if t.isles.any (·.mat.rerun.isSome) then t else t.onRegion s.ctx.rid fun r => { r with replay := false }

/-- The engines that stopped within the rc before go on to its end (R201, R243), and the traps that they then raise. -/
def State.payTurn (s : State) : State :=
  let t := s.eachIsle State.payOwed
  match t.lateTraps with
  | [] => t
  | l => t.freezeFor l

/-- SAFEPOINT_OVERDUE is due (R50): with it stand the traps of the coming rc on the other isles (R322). -/
def State.overdueTurn (s : State) : State :=
  let (t, l) := s.sharing [0] s.nextTraps
  let t := l.foldl (fun t x => (t.focusIsle x.1).onCore fun c => { c with early := some x.2 }) t
  { t.focusIsle 0 with agenda := .safepointOverdue s.ctx.rid :: s.agenda }

/-- The turn of a launch slot's context: one reference cycle of its region (R38). -/
def State.turnOf (s : State) (n : Nat) : State :=
  if !s.hasCtx n then s
  else
    let s := (s.focusSlot n).focusIsle 0
    match s.region s.ctx.rid with
    | none => s
    | some r =>
      if s.ctx.cstate = .suspending then s
      else if !s.selected then s.idleTurn
      else if r.throttled || r.ramp then s.countAll 0x11
      else if r.replay then s.replayTurn
      else if s.isles.any (·.mat.owed.isSome) && !s.isles.any (·.handler) then s.payTurn
      else if s.isOverdue then s.overdueTurn
      else if s.isles.any (·.handler) then s.eachIsle State.handlerCycle
      else
        let t := if s.isles.any (·.hold.isSome) then s.run .copyUnitEntryFree else s
        if t.isles.any (·.hold.isSome) then t else t.proceed

/-! ## The machine's own events (log 4) -/

/-- The operation whose turn is next, of those that do not wait for an interval. -/
def State.nextOp (s : State) : Option Op :=
  let l := s.ops.filter fun o => !s.waits.contains o.event
  (l.find? fun o => decide (s.opNext < o.seq)) <|> l.head?

/-- The event of a launch slot that is due. -/
def State.slotEvent (s : State) (x : LSlot) : Option Instr :=
  match x.st with
  | .armed => if x.checked && x.dep0 && x.dep1 then some (.dependenceSatisfied x.n) else none
  | .ready => if x.eprio ≠ x.effective s.now then some (.eprioAging x.n) else none
  | .suspending =>
    if x.dying.isSome || !s.hasCtx x.n then none
    else
      let t := s.focusSlot x.n
      if t.quietForSave then some (.suspensionComplete x.n)
      else if t.ctx.cstate == .suspending && t.allPosted && t.unquiesced then some (.suspensionRequest x.n)
      else none
  | .suspended => if x.dreq && !s.checkpointing x.n then some (.relocation x.n) else none
  | .retiring => some (.retirementComplete x.n)
  | _ => none

/-- A teardown that waited for its kites is due (R330). -/
def State.dyingEvent (s : State) (x : LSlot) : Option Instr :=
  if x.dying.isSome && s.hasCtx x.n && !(s.focusSlot x.n).awaitsAbandon then some (.teardown x.n 0 0) else none

/-- The event of a region that is due: a ramp's end, or the choice of a context where none is selected (R343, R381). -/
def State.regionEvent (s : State) (r : Region) : Option Instr :=
  if r.ramp then some (.voltageRampComplete r.rid)
  else if r.act.isNone && !(r.cells.any s.waking.contains) && (s.choose r).isSome then some (.contextSwitch r.rid)
  else none

/-- The placement that is due in a partition (R342). -/
def State.placeEvent (s : State) (p : Part) : Option Instr :=
  if p.ckpt.isSome then none
  else (s.firstPlaced p).map Instr.placement <|> ((s.passOrder p).find? (·.image.isNone)).map fun x => .placement x.n

/-- The end of a weight-handle command that is due (R353, R354). -/
def handleEvent (p : Part) : Option Instr := if p.whtBusy.isSome then some (.whtCommandComplete p.pid) else none

/-- The next step of a partition's checkpoint or restore (R404). -/
def ckptEvent (p : Part) : Option Instr :=
  p.ckpt.map fun c => if c.op = 0 then .checkpointComplete p.pid else .restoreComplete p.pid

/-- The event of a function that is due: a command's end, or its coalescing timer (R260, R393, R395). -/
def State.fnEvent (s : State) (f : Fn) : Option Instr :=
  if f.xinvBusy && !s.hostWrites (·.fn == f.n) then some (.invalidationComplete f.n)
  else if s.partDone f.n then some (.partcmdComplete f.n)
  else if (f.coalescing && decide (f.coalAt ≤ s.now)) || [0, 1, 2, 3].any f.sendable then some (.msixCoalesceTimer f.n)
  else none

/-- The events that a context's held bundles wait for (R352, R375). -/
def heldEvents (r : CtxRec) : List Instr :=
  (r.isles.filterMap fun (c : Isle) => match c.hold with
    | some (.handleFetch i) => some (.whtEntryFetch r.ctx.pid i)
    | some (.phaseRead va) => some (.barrierPhaseRead r.ctx.slot va)
    | some (.phaseWait va) => some (.barrierPhaseRead r.ctx.slot va)
    | _ => none).dedup

/-- The events of a socket that are due: a QUIESCE left unanswered (R317, R319), and the arrive transactions that wait for an interval (R384). -/
def State.sockEvents (s : State) (k : Nat) : List Instr :=
  (if (s.sock k).quiesce.any (fun q => decide (q.2 ≤ s.now)) then [.kiteQuiesceTimeout k] else []) ++
    (s.sock k).packets.filterMap fun q => q.ending.map fun n => .kiteArrive k q.kctx (q.seq % 65536) q.cbar n

/-- The events of the machine's own that are due, of slots, regions, islands, functions, sockets, held bundles and partitions alike: none keeps
another waiting (R342, R352, R354). -/
def State.dueEvents (s : State) : List Instr :=
  s.slots.filterMap s.dyingEvent ++ s.slots.filterMap s.slotEvent ++ s.regions.filterMap s.regionEvent ++
    s.waking.map (fun c => Instr.islandWake c.1 c.2.1 c.2.2) ++ s.fns.filterMap s.fnEvent ++
    ([0, 1].flatMap s.sockEvents ++ ((if s.ctx.live then [s.focusRec] else []) ++ s.others).flatMap heldEvents).filter (!s.waits.contains ·) ++ s.parts.filterMap handleEvent ++
    s.parts.filterMap ckptEvent ++ s.parts.filterMap s.placeEvent ++ (s.nextOp.map Op.event).toList

/-- The events that the clock brings in a round: a budget interval's start (R383), and the walk of each 1 ms (R360). -/
def State.clockEvents (s : State) : List Instr :=
  (if s.interval < s.now / 20000 then [.budgetInterval] else []) ++ if s.now % 2000000 = 0 then [.waitForWalk] else []

/-- The machine's own event of a round: one of those that are due, each in its turn (log 4). -/
def State.nextInternal (s : State) : Option Instr :=
  let l := s.dueEvents
  l[s.now % l.length]?

/-- A round of the machine: one tick of the reference clock, what the clock brings or one event of its own, and then every live context takes its
turn (log 4). At the start of an interval what waited for it comes first (R384). -/
def State.round (s : State) : State :=
  let s := { s with now := s.now + 1, turn := (s.allCtx.map fun (c : Ctx) => c.slot).sorted fun a b => decide (a ≤ b) }
  if !s.clockEvents.isEmpty then s.clockEvents.foldl (fun s i => s.run i) s
  else match s.nextInternal with
  | none => s
  | some i =>
    let op := match s.nextOp with
      | some o => if i = o.event then o.seq else s.opNext
      | none => s.opNext
    ({ s with opNext := op } : State).run i

/-- One step (log 4): an event that stands in the agenda, else the turn of the next context, else a new round. -/
def State.oneStep (s : State) : Out :=
  match s.agenda with
  | i :: t => exec i { s with agenda := t }
  | [] =>
    match s.turn with
    | n :: t => .next (({ s with turn := t } : State).turnOf n)
    | [] => .next s.round

/-! ## One instruction placed from outside (log 5) -/

/-- A context of one isle in focus where none is: the launch that a word placed from outside stands for (log 5). -/
def State.bareContext (s : State) : State :=
  if s.ctx.live then s
  else
    let rid := s.freeRid.getD 0
    { s with
      core := Isle.start 0 0 64, left := [], right := []
      ctx := { live := true, rid := rid, cstate := .issuing, started := true }
      regions := s.regions ++
        [{ rid := rid, mclass := true, pid := 0, die := 0, ox := 0, oy := 0, rot := 0, w := 1, h := 1, straits := 0, chans := [], act := some 0
           switchReq := false, preempt := [], throttled := false, ramp := false, replay := false }] }

/-- Nothing stands between the context in focus and its next bundle. -/
def State.due (s : State) : State :=
  { s with
    agenda := [], turn := [s.ctx.slot]
    ctx := { s.ctx with cstate := .issuing }
    core := { s.core with ended := false, stall := 0, wait := none, hold := none, mat := { s.core.mat with owed := none } }
    regions := s.regions.map fun r =>
      if r.rid == s.ctx.rid then
        { r with act := some s.ctx.ctxid, throttled := false, ramp := false, replay := false, switchReq := false, preempt := [] }
      else r }

/-- A bundle stored at an index, its page mapped, and the sequencer there. -/
def Isle.putBundle (c : Isle) (pc : Nat) (b : BitVec 256) : Isle :=
  { c with
    pc := pc, imem := (pc, b) :: c.imem.filter (·.1 != pc)
    imap := if c.imap.any (·.1 == pc / 64) then c.imap else (pc / 64, 0) :: c.imap }

/-- A bundle with one word, every other slot NOP. -/
def lone (k : SlotId) (w : Nat) : BitVec 256 := BitVec.ofNat 256 (w % 2 ^ 32 * 2 ^ (32 * k.idx))

/-- A slot word placed at the next bundle; one that only a handler may run is placed in the trap page, the isle in handler mode. -/
def State.placeSlotWord (s : State) (w : Nat) : State :=
  let t := s.bareContext.due
  match tableReading w with
  | none => { t with core := t.core.putBundle t.core.pc (lone .C w) }
  | some (k, _) =>
    let ok (h : Bool) (pc : Nat) : Bool := (decodeBundle h pc (lone k w)).toOption.isSome
    if t.core.handler || ok false t.core.pc || !ok true 2 then { t with core := t.core.putBundle t.core.pc (lone k w) }
    else
      let c := t.core.takeTrap { cause := 0x80, addr := 0, info := 0, slot := 0, issued := true } t.core.pc t.core.pc
      { t with core := c.putBundle 2 (lone k w) }

/-- A micro-word placed as the next word of a running routine, over a bundle of NOPs. -/
def State.placeMicroWord (s : State) (w : Nat) : State :=
  let t := s.bareContext.due
  let k : Call := { idx := 0, start := 0, mp := List.replicate 8 0, st := List.replicate 16 {}, handle := none, acc := none, read := false, seed := 0 }
  let m := { t.core.mat with
    running := some { word := .call k, first := t.ctx.rcycle, len := 65535, bundle := t.core.pc, rcyc := t.ctx.rcycle }
    routine := some (k.routine t.core.mat.active) }
  { t with core := { t.core.putBundle t.core.pc 0 with mat := m, ustore := [BitVec.ofNat 64 w] } }

/-- A word of the opcode table placed where the next step runs it (log 5). -/
def State.placeWord (s : State) (nbits w : Nat) : State := if nbits = 64 then s.placeMicroWord w else s.placeSlotWord w

end Sys2Proof.Machine
end

