-- ==== Sys2Proof/Machine/Step.lean ====
section
/-! DEFINITION. One step of the machine, and the host's placement of one instruction (logs 4 and 5). -/

namespace Sys2Proof.Machine

/-- One step: an event, a context's turn, or a new round (log 4). -/
def step (s : State) : Host.Outcome State Fault Refusal := s.oneStep

/-- One instruction of the opcode table stored where the next step runs it (log 5). -/
def State.withFetchWord (s : State) (nbits w : Nat) : State := s.placeWord nbits w

end Sys2Proof.Machine
end

