-- ==== Sys2Proof/Safety.lean ====
section
/-! DEFINITION. The terms that statements about this machine use: when a word issues and what it answers with, what an instruction
leaves unchanged, and the forms that a state keeps. -/

namespace Sys2Proof

/-- The stall count that a word of a slot carries: OPND[21:18] of a C word (R93), a hint of slot C among them (R92). -/
def Instr.stallOf (k : SlotId) : Instr → Option Nat
  | .nopC _ n => some n.val
  | .hint _ _ o => if k = .C then some (fld o.toNat 18 4) else none
  | .br _ n _ => some n.val
  | .bri _ n _ => some n.val
  | .call _ n _ => some n.val
  | .ret _ n => some n.val
  | .loop _ n _ _ => some n.val
  | .loopr _ n _ _ => some n.val
  | .lbrk _ n => some n.val
  | .safept _ n _ => some n.val
  | .endC _ n => some n.val
  | .trap _ n _ => some n.val
  | .tret _ n => some n.val
  | .brk _ n => some n.val
  | .waitf _ n _ _ _ => some n.val
  | .postf _ n _ _ _ => some n.val
  | .waitb _ n _ _ _ => some n.val
  | .yieldC _ n _ => some n.val
  | .clkdiv _ n _ _ => some n.val
  | .sysrd _ n _ _ => some n.val
  | .syswr _ n _ _ => some n.val
  | .statpop _ n _ => some n.val
  | _ => none

end Sys2Proof

namespace Sys2Proof.Machine

/-- A slot word issues: it reads no result in flight under SBMODE 1 (R107), and its predicate is true (R89). -/
def State.Issues (s : State) (i : Instr) : Prop := ∃ p, i.pred? = some p ∧ s.stallShort i = false ∧ s.core.predTrue p = true

/-- Where the word issues, its execution answers with the next state t. -/
def State.Gives (s : State) (i : Instr) (t : State) : Prop := s.Issues i → exec i s = .next t

/-- A word of slot C leaves its stall count before its effect (R89, R93). -/
def State.withStall (s : State) (n : Fin 16) : State := s.onCore fun c => { c with nextStall := n.val }

/-- A word traps before issue: the record that the bundle's trap takes, where no earlier word of the bundle has one (R322). -/
def State.trapping (s : State) (cause info addr : Nat) : State :=
  s.onCore fun c => { c with early := some { cause := cause, addr := addr, info := info, slot := s.slot.idx, issued := false } }

/-- Where the word issues and no earlier word of the bundle has trapped, it traps so and does nothing else. -/
def State.Traps (s : State) (i : Instr) (cause info addr : Nat) : Prop :=
  s.core.early = none → s.Gives i (s.trapping cause info addr)

/-- Where the vector word issues it puts in flight, after its class's latency, a result for vd that writes exactly the elements `on` names,
each with its value cut to the lane, the tag t, and events of which `owes` holds (R94, R133, R134, R154); its word holds its class cycle
(R378). -/
def State.WritesLanes (s : State) (i : Instr) (cls : Nat) (vd : Fin 32) (lw : Nat) (on : Nat → Bool) (val : Nat → Nat) (t : W32)
    (owes : List (EvKind × Nat) → Prop) : Prop :=
  ∃ (data en : V2048) (evs : List (EvKind × Nat)), owes evs ∧
    (∀ e k, e < laneCount lw → k < laneBits lw →
      en.getLsbD (laneBits lw * e + k) = on e ∧ (on e = true → data.getLsbD (laneBits lw * e + k) = (val e).testBit k)) ∧
    s.Gives i (s.land cls (.vec vd data en (some t) evs)).holdClass

/-- The same for a word whose elements each give a code and perhaps an event: of each kind the lowest enabled element that raised it is
owed (R71, R154). -/
def State.WritesElems (s : State) (i : Instr) (cls : Nat) (vd : Fin 32) (lw : Nat) (on : Nat → Bool) (el : Nat → Elem) (t : W32) : Prop :=
  s.WritesLanes i cls vd lw on (fun e => (el e).1) t fun evs =>
    evs = eventsOf ((List.range (laneCount lw)).map fun e => (e, if on e then (el e).2 else none))

/-- The same for a word that raises no event. -/
def State.WritesBits (s : State) (i : Instr) (cls : Nat) (vd : Fin 32) (lw : Nat) (on : Nat → Bool) (val : Nat → Nat) (t : W32) : Prop :=
  s.WritesLanes i cls vd lw on val t (· = [])

/-- The micro-sequencer stands before the routine r, its unit u idle (R230, R231). -/
def State.MuAt (s : State) (r : Routine) (u : MuUnit) : Prop :=
  s.core.mat.routine = some r ∧ r.returned = false ∧ r.free u ≤ r.cycle

/-- The state with the engine's routine replaced. -/
def State.withRoutine (s : State) (r : Routine) : State := s.onCore fun c => { c with mat := { c.mat with routine := some r } }

/-- An operation of slot D stands in the copy unit, its context and its isle in focus. -/
structure State.AtOp (s : State) (o : Op) : Prop where
  found : s.ops.find? (·.seq == o.seq) = some o
  live : s.ctx.live = true
  mine : s.ctx.slot = o.slot
  here : s.left.length = s.ixOf o.px o.py

/-- The copy unit of the isle in focus holds fewer than 48 entries (R288). -/
def State.HasEntry (s : State) : Prop := s.copyEntries < 48

/-- Node j of level `lvl` of R149's tree over leaves that may be absent: level 0 holds the leaves; a node above joins its two children, at the
element position where its elements begin, and an absent child yields the other. -/
def redNode (comb : Nat → Nat → Nat → Nat) (leaf : Nat → Option Nat) : Nat → Nat → Option Nat
  | 0, j => leaf j
  | lvl + 1, j =>
    match redNode comb leaf lvl (2 * j), redNode comb leaf lvl (2 * j + 1) with
    | some x, some y => some (comb (2 ^ (lvl + 1) * j) x y)
    | some x, none => some x
    | none, y => y

/-- A word on the first hop of a route from the isle in focus (R275): it occupies the link until the end of the hop's latency. -/
def State.firstHop (s : State) (w : NWord) (c : Cargo) (d1 : Dir) (n1 : Nat) (d2 : Dir) (n2 : Nat) (g : GReg) (id : Nat) : Trav :=
  { id := id, word := w, cargo := c, x := s.core.px, y := s.core.py, dir := d1
    due := s.ctx.rcycle + s.hop true s.core.px s.core.py d1 - 1, dir1 := d1, left1 := n1 - 1, dir2 := d2, left2 := n2
    ox := s.core.px, oy := s.core.py, hops := n1 + n2, dest := g, rcyc := s.ctx.rcycle }

/-- Everything that a program sees as a register or as memory of its isle stands, the performance counters aside: its place, the scalar,
predicate, vector, mask, stream and parameter registers, flags, trap and system registers, buffers, ballast, microstore, routine table,
instruction memory and its page map. -/
structure Isle.SameArch (c d : Isle) : Prop where
  px : d.px = c.px
  py : d.py = c.py
  imem : d.imem = c.imem
  imap : d.imap = c.imap
  a : d.a = c.a
  b : d.b = c.b
  p : d.p = c.p
  v : d.v = c.v
  tag : d.tag = c.tag
  vm : d.vm = c.vm
  st : d.st = c.st
  mp : d.mp = c.mp
  flag : d.flag = c.flag
  tcause : d.tcause = c.tcause
  taddr : d.taddr = c.taddr
  tslot : d.tslot = c.tslot
  tinfo : d.tinfo = c.tinfo
  tcause2 : d.tcause2 = c.tcause2
  srseed : d.srseed = c.srseed
  sbmode : d.sbmode = c.sbmode
  bkpt : d.bkpt = c.bkpt
  wb : d.wb = c.wb
  ab : d.ab = c.ab
  acb : d.acb = c.acb
  ballast : d.ballast = c.ballast
  btag : d.btag = c.btag
  latch : d.latch = c.latch
  rtab : d.rtab = c.rtab
  ustore : d.ustore = c.ustore
  statq : d.statq = c.statq
  pc : d.pc = c.pc
  handler : d.handler = c.handler

/-- Nothing outside the isle, the operations, the context's words and waits and the model's own counters and agenda has changed: of the
context, what its system registers read stands (RCYCLE, CLKD, CTXID, ASID, FEAT, and PW and PH with its image). -/
structure State.SameRest (s t : State) : Prop where
  live : t.ctx.live = s.ctx.live
  slot : t.ctx.slot = s.ctx.slot
  pid : t.ctx.pid = s.ctx.pid
  rid : t.ctx.rid = s.ctx.rid
  rcycle : t.ctx.rcycle = s.ctx.rcycle
  div : t.ctx.div = s.ctx.div
  ctxid : t.ctx.ctxid = s.ctx.ctxid
  asid : t.ctx.asid = s.ctx.asid
  feat : t.ctx.feat = s.ctx.feat
  image : t.ctx.image = s.ctx.image
  left : t.left = s.left
  right : t.right = s.right
  others : t.others = s.others
  dram : t.dram = s.dram
  slots : t.slots = s.slots
  parts : t.parts = s.parts
  fns : t.fns = s.fns
  regions : t.regions = s.regions
  asids : t.asids = s.asids
  socks : t.socks = s.socks

/-- The memories of an isle are in canonical form. -/
def Isle.MemCanonical (c : Isle) : Prop := c.wb.wf = true ∧ c.ab.wf = true ∧ c.acb.wf = true ∧ c.ballast.wf = true

/-- The memories of every isle of every live context are in canonical form. -/
def State.IslesCanonical (s : State) : Prop :=
  s.core.MemCanonical ∧ (∀ c ∈ s.left, c.MemCanonical) ∧ (∀ c ∈ s.right, c.MemCanonical) ∧ ∀ r ∈ s.others, ∀ c ∈ r.isles, c.MemCanonical

/-- Device memory is in canonical form. -/
def State.DramCanonical (s : State) : Prop := s.dram.wf = true

/-- A context of one isle is in focus and its region gives it its turn: nothing freezes it, nothing holds its bundle, no wait
stands and no handler runs (R38, R42). -/
structure State.Runs (s : State) (r : Region) : Prop where
  live : s.ctx.live = true
  alone : s.left = [] ∧ s.right = []
  region : s.region s.ctx.rid = some r
  selected : s.selected = true
  notSuspending : s.ctx.cstate ≠ .suspending
  free : r.throttled = false ∧ r.ramp = false ∧ r.replay = false
  notOwed : s.core.mat.owed = none
  normal : s.core.handler = false
  notOverdue : s.isOverdue = false
  notHeld : s.core.hold = none
  noWait : s.core.wait = none
  notEnded : s.core.ended = false
  noStall : s.core.stall = 0

/-- The words of a bundle executed on the isle in focus: slot C's first, then the others in slot order (R89). -/
def State.executed (s : State) (l : List (SlotId × Instr)) : State :=
  ((l.filter (·.1 == .C)) ++ l.filter (·.1 != .C)).foldl (fun s w => ({ s with slot := w.1 } : State).run w.2) s

/-- The counts of EVSEL 0x01 and 0x02 for a bundle that has issued (R387). -/
def State.counted (s : State) (c : Isle) (l : List (SlotId × Instr)) : State :=
  let t := s.onCore (·.count 0x01 1)
  if l.any (vecWord c) then t.onCore (·.count 0x02 1) else t

/-- The state in which the bundle of a context of one isle issues: the context issues, at no safe point, and the isle has nothing of an
earlier rc left (R37, R42, R87). -/
def State.issuing (s : State) : State :=
  { s with mark := s.seq, ctx := { s.ctx with safeList := none, cstate := .issuing }, core := s.core.begin_ }

/-- A function's register block listens: it is not frozen (R397) and its partition is not being reset (R396). -/
def State.Hears (s : State) (fn : Nat) : Prop := (s.fn fn).frozen = false ∧ s.fnResetting fn = false

/-- A host command reaches its slot: from a function that may command it and is not frozen, with no earlier host write waiting on its port (R264,
R337, R397). -/
def State.Reaches (s : State) (fn slot : Nat) : Prop :=
  (s.fn fn).frozen = false ∧ s.commands fn slot = true ∧ s.hostWrites (fun r => portOf r.fn == portOf fn) = false

/-- Launch slots other than one stand. -/
def State.SlotsBut (s : State) (slot : Nat) (t : State) : Prop := ∀ m, m ≠ slot → t.slotAt m = s.slotAt m

end Sys2Proof.Machine
end

