-- ==== Sys2Proof/Certificates/Slice0/Obligations.lean ====
section
/-! DEFINITION. The statements for the provers. -/

open Sys2Proof Sys2Proof.Machine

/-! ## Issue (R89, R92, R93, R107) -/

/-- A word whose predicate is false has no effect and no fault; a C word's stall count applies whether the predicate is true or false; a
predicate is read as it stood, since no word's issue changes one; the prefix reads p0 as true and PNEG inverts (R89, R92, R93, R115). -/
def Obligations.PredicatesDecide : Prop :=
  (∀ (i : Instr) (p : Pred) (s : State), i.pred? = some p → s.stallShort i = false → s.core.predTrue p = false →
    exec i s = .next { s with core := { s.core with nextStall := (i.stallOf s.slot).getD s.core.nextStall } }) ∧
  (∀ (i : Instr) (p : Pred) (n : Nat) (s t : State), i.pred? = some p → i.stallOf s.slot = some n → s.slot = .C → exec i s = .next t →
    t.core.nextStall = n) ∧
  (∀ (i : Instr) (p : Pred) (s t : State), i.pred? = some p → exec i s = .next t → t.core.p = s.core.p) ∧
  (∀ (c : Isle) (p : Pred), c.predTrue p = ((p.idx = 0 || c.p[p.idx]) != p.neg))

/-- Under SBMODE 1 a word that reads a result in flight raises STALL_SHORT 0x51 before issue, TADDR its bundle, and does nothing else
(R107). -/
def Obligations.StallShortTraps : Prop :=
  ∀ (i : Instr) (p : Pred) (s : State), i.pred? = some p → s.stallShort i = true → s.core.early = none →
    exec i s = .next { s with core := { s.core with
      nextStall := (i.stallOf s.slot).getD s.core.nextStall
      early := some { cause := 0x05, addr := s.core.pc, info := 0x51, slot := s.slot.idx, issued := false } } }

/-- NOP, HINT, XPF and PHASE.a change nothing that a program sees: NOP and a hint nothing at all but a stall count, XPF and PHASE.a
only the class cycle that a word of slot D holds (R90, R92, R300, R305). -/
def Obligations.WordsWithoutEffect : Prop :=
  ∀ (s : State) (p : Pred) (n : Fin 16) (h : Fin 4) (o : BitVec 22) (bva blen : Fin 32) (sc : Scope),
    s.Gives (.nop p) s ∧
    s.Gives (.nopC p n) (s.withStall n).holdClass ∧
    (s.slot ≠ .C → exec (.hint p h o) s = .next s) ∧
    (s.slot = .C → exec (.hint p h o) s = .next (s.withStall (Fin.ofNat 16 (o.toNat / 2 ^ 18)))) ∧
    s.Gives (.xpf p bva blen) s.holdClass ∧
    s.Gives (.phaseA p sc) s.holdClass

/-- The frame of every slot word: its issue leaves every register that a program reads but the performance counters, every buffer, all of
device memory, every other isle, context, slot, partition and region, and what the context's own system registers read (RCYCLE, CLKD, CTXID,
ASID, FEAT, PX, PY, PW, PH) as they were: results land later (R87, R94). The performance counters move, since an issue is counted (R387). What
may change besides is the engine's own state, the sequencer's next bundle and stacks, a trap found, what has been put in flight, and, where the
word meets an uncorrectable error, which ends the context, TCAUSE, TADDR and TSLOT (R207, R257). -/
def Obligations.IssueChangesNoRegister : Prop :=
  ∀ (i : Instr) (p : Pred) (s t : State), i.pred? = some p → exec i s = .next t →
    s.SameRest t ∧ ∃ c : Isle, c.SameArch t.core ∧ (c = s.core ∨ ∃ x y, c = { s.core with tcause := 0x0E, taddr := x, tslot := y })

/-! ## Slots A and B (R116-R127) -/

/-- ADD, ADDI, SUB, ADDW, LI, LUI, MOVX and SEL land their value in the slot's own cluster after their class's latency; MUL lands the low half of
the product, MULH and MULHN the high half of the signed and of the unsigned product, after LAT[1]; MIN, MAX, MINN and MAXN land one of their
two sources, the smaller or the larger as signed or as unsigned numbers (R119-R121, R123, R126). -/
def Obligations.ScalarArithmetic : Prop :=
  (∀ (s : State) (p : Pred) (d s1 s2 : Fin 32) (imm : BitVec 12) (k : BitVec 17) (ps : Fin 8), s.slot = .A ∨ s.slot = .B →
    let x := s.core.rdC s.slot s1
    let y := s.core.rdC s.slot s2
    let g := ownG s.slot d
    s.Gives (.add p d s1 s2) (s.land 0 (.scalar g (x + y))) ∧
    s.Gives (.addi p d s1 imm) (s.land 0 (.scalar g (x + imm.signExtend 64))) ∧
    s.Gives (.sub p d s1 s2) (s.land 0 (.scalar g (x - y))) ∧
    s.Gives (.addw p d s1 s2) (s.land 0 (.scalar g ((x.extractLsb' 0 32 + y.extractLsb' 0 32).signExtend 64))) ∧
    s.Gives (.li p d k) (s.land 0 (.scalar g (k.signExtend 64))) ∧
    s.Gives (.lui p d k) (s.land 0 (.scalar g ((s.core.rdC s.slot d).extractLsb' 0 47 ++ k))) ∧
    s.Gives (.movx p d s1) (s.land 2 (.scalar g (s.core.rdO s.slot s1))) ∧
    s.Gives (.sel p d s1 s2 ps) (s.land 0 (.scalar g (if ps = 0 ∨ s.core.p[ps] = true then x else y)))) ∧
  (∀ (s : State) (p : Pred) (d s1 s2 : Fin 32), s.slot = .A ∨ s.slot = .B →
    let x := s.core.rdC s.slot s1
    let y := s.core.rdC s.slot s2
    let g := ownG s.slot d
    s.Gives (.mul p d s1 s2) (s.land 1 (.scalar g ((x.zeroExtend 128 * y.zeroExtend 128).extractLsb' 0 64))) ∧
    s.Gives (.mulh p d s1 s2) (s.land 1 (.scalar g ((x.signExtend 128 * y.signExtend 128).extractLsb' 64 64))) ∧
    s.Gives (.mulhn p d s1 s2) (s.land 1 (.scalar g ((x.zeroExtend 128 * y.zeroExtend 128).extractLsb' 64 64)))) ∧
  (∀ (s : State) (p : Pred) (d s1 s2 : Fin 32), s.slot = .A ∨ s.slot = .B →
    let x := s.core.rdC s.slot s1
    let y := s.core.rdC s.slot s2
    let lands (i : Instr) (ok : W64 → Prop) : Prop :=
      ∃ z : W64, (z = x ∨ z = y) ∧ ok z ∧ s.Gives i (s.land 0 (.scalar (ownG s.slot d) z))
    lands (.min p d s1 s2) (fun z => z.toInt ≤ x.toInt ∧ z.toInt ≤ y.toInt) ∧
    lands (.max p d s1 s2) (fun z => x.toInt ≤ z.toInt ∧ y.toInt ≤ z.toInt) ∧
    lands (.minn p d s1 s2) (fun z => z.toNat ≤ x.toNat ∧ z.toNat ≤ y.toNat) ∧
    lands (.maxn p d s1 s2) (fun z => x.toNat ≤ z.toNat ∧ y.toNat ≤ z.toNat))

/-- AND, OR, XOR, the six shifts and the immediate forms, bit by bit; an immediate is zero-extended, and a register count is bits [5:0] of the
second source (R119, R120). -/
def Obligations.ScalarLogicAndShifts : Prop :=
  (∀ (s : State) (p : Pred) (d s1 s2 : Fin 32) (imm : BitVec 12), s.slot = .A ∨ s.slot = .B →
    let x := s.core.rdC s.slot s1
    let y := s.core.rdC s.slot s2
    let lands (i : Instr) (f : Nat → Bool) : Prop :=
      ∃ z : W64, (∀ k, k < 64 → z.getLsbD k = f k) ∧ s.Gives i (s.land 0 (.scalar (ownG s.slot d) z))
    lands (.and p d s1 s2) (fun k => x.getLsbD k && y.getLsbD k) ∧
    lands (.or p d s1 s2) (fun k => x.getLsbD k || y.getLsbD k) ∧
    lands (.xor p d s1 s2) (fun k => x.getLsbD k != y.getLsbD k) ∧
    lands (.andi p d s1 imm) (fun k => x.getLsbD k && (decide (k < 12) && imm.getLsbD k)) ∧
    lands (.ori p d s1 imm) (fun k => x.getLsbD k || (decide (k < 12) && imm.getLsbD k)) ∧
    lands (.xori p d s1 imm) (fun k => x.getLsbD k != (decide (k < 12) && imm.getLsbD k))) ∧
  (∀ (s : State) (p : Pred) (d s1 s2 : Fin 32) (sh : BitVec 6), s.slot = .A ∨ s.slot = .B →
    let x := s.core.rdC s.slot s1
    let n := (s.core.rdC s.slot s2).toNat % 64
    let lands (i : Instr) (f : Nat → Bool) : Prop :=
      ∃ z : W64, (∀ k, k < 64 → z.getLsbD k = f k) ∧ s.Gives i (s.land 0 (.scalar (ownG s.slot d) z))
    let left (m k : Nat) : Bool := decide (m ≤ k) && x.getLsbD (k - m)
    let right (m k : Nat) : Bool := decide (k + m < 64) && x.getLsbD (k + m)
    let arith (m k : Nat) : Bool := x.getLsbD (min (k + m) 63)
    lands (.shl p d s1 s2) (left n) ∧ lands (.shr p d s1 s2) (right n) ∧ lands (.sar p d s1 s2) (arith n) ∧
    lands (.shli p d s1 sh) (left sh.toNat) ∧ lands (.shri p d s1 sh) (right sh.toNat) ∧ lands (.sari p d s1 sh) (arith sh.toNat))

/-- CLZ, POPC, BEXT and BINS: the count of leading zeros, the count of ones, and the two field words bit by bit; a CLZ or POPC word with one of
the bits [11:0] set is refused with reason 0x02 (R91, R122, R124). -/
def Obligations.ScalarBitFields : Prop :=
  (∀ w : W32, (w.extractLsb' 22 6 = 0x1D ∨ w.extractLsb' 22 6 = 0x1E) → w.extractLsb' 0 12 ≠ 0 →
    decodeSlot .A w = .error 2 ∧ decodeSlot .B w = .error 2) ∧
  ∀ (s : State) (p : Pred) (d s1 : Fin 32) (lo lenM1 : BitVec 6), s.slot = .A ∨ s.slot = .B → lo.toNat + lenM1.toNat < 64 →
    let x := s.core.rdC s.slot s1
    let old := s.core.rdC s.slot d
    let lands (i : Instr) (ok : W64 → Prop) : Prop := ∃ z : W64, ok z ∧ s.Gives i (s.land 0 (.scalar (ownG s.slot d) z))
    lands (.clz p d s1) (fun z => z.toNat ≤ 64 ∧ (∀ k, k < 64 → 64 - z.toNat ≤ k → x.getLsbD k = false) ∧
      (z.toNat < 64 → x.getLsbD (63 - z.toNat) = true)) ∧
    lands (.popc p d s1) (fun z => z.toNat = ((List.range 64).filter fun k => x.getLsbD k).length) ∧
    lands (.bext p d s1 lo lenM1) (fun z => ∀ k, k < 64 → z.getLsbD k = (decide (k ≤ lenM1.toNat) && x.getLsbD (lo.toNat + k))) ∧
    lands (.bins p d s1 lo lenM1) (fun z => ∀ k, k < 64 → z.getLsbD k =
      if lo.toNat ≤ k ∧ k ≤ lo.toNat + lenM1.toNat then x.getLsbD (k - lo.toNat) else old.getLsbD k)

/-- CMP and CMPI land their condition's bit and PLOG the bit of its truth table that its two predicates select (R125, R127). -/
def Obligations.ScalarPredicates : Prop :=
  ∀ (s : State) (p : Pred) (pd pa pb : Fin 8) (c : Cond) (s1 s2 : Fin 32) (imm : BitVec 11) (tt : BitVec 4), s.slot = .A ∨ s.slot = .B →
    let x := s.core.rdC s.slot s1
    let holds (y : W64) : Prop := match c with
      | .eq => x = y
      | .ne => x ≠ y
      | .lt => x.toInt < y.toInt
      | .ge => ¬ x.toInt < y.toInt
      | .ltu => x.toNat < y.toNat
      | .geu => ¬ x.toNat < y.toNat
    let b (r : Fin 8) : Bool := r = 0 || s.core.p[r]
    (∃ z : Bool, (z = true ↔ holds (s.core.rdC s.slot s2)) ∧ s.Gives (.cmp p pd c s1 s2) (s.land 0 (.pred pd z))) ∧
    (∃ z : Bool, (z = true ↔ holds (imm.signExtend 64)) ∧ s.Gives (.cmpi p pd c s1 imm) (s.land 0 (.pred pd z))) ∧
    s.Gives (.plog p pd pa pb tt) (s.land 0 (.pred pd (tt.getLsbD (2 * (b pa).toNat + (b pb).toNat))))

/-! ## Slot C (R178-R200, R366-R377) -/

/-- BR, BRI, CALL, RET, LOOP, LOOPR and LBRK set the next bundle and the stacks as R179, R183, R184 and R185 say. -/
def Obligations.SequencerWords : Prop :=
  ∀ (s : State) (p : Pred) (n : Fin 16) (tgt : BitVec 12) (bs : Fin 32) (lenM1 : BitVec 8) (cntM1 : BitVec 10), s.slot = .C →
    let u := s.withStall n
    let x := (s.core.rdB bs).toNat
    let len := lenM1.toNat + 1
    let nests : Prop := (∀ e, s.core.loopStack.head? = some e → s.core.pc + len ≤ e.fin) ∧ ∀ e ∈ s.core.loopStack, e.fin ≠ s.core.pc
    let push (k : Nat) : State :=
      u.onCore (·.setLoops ({ start := s.core.pc + 1, fin := s.core.pc + len, count := k, index := 0 } :: s.core.loopStack))
    let jump (y : Nat) : State := (u.onCore fun c => { c with next := .jump y })
    s.Gives (.br p n tgt) (jump tgt.toNat) ∧
    (modeRange s.core.handler x = true → s.Gives (.bri p n bs) (jump x)) ∧
    (s.core.callStack.length < s.core.callDepth →
      s.Gives (.call p n tgt) (u.onCore fun c => { c.setCalls ((s.core.pc + 1) :: s.core.callStack) with next := .jump tgt.toNat })) ∧
    (∀ y t, s.core.callStack = y :: t → modeRange s.core.handler y = true →
      s.Gives (.ret p n) (u.onCore fun c => { c.setCalls t with next := .jump y })) ∧
    (nests → s.core.loopStack.length < s.core.loopDepth → s.Gives (.loop p n lenM1 cntM1) (push (cntM1.toNat + 1))) ∧
    (nests → x = 0 → s.Gives (.loopr p n lenM1 bs) (jump (s.core.pc + len + 1))) ∧
    (nests → 0 < x → x < 2 ^ 32 → s.core.loopStack.length < s.core.loopDepth → s.Gives (.loopr p n lenM1 bs) (push x)) ∧
    (s.core.loopStack ≠ [] → s.Gives (.lbrk p n) (u.onCore fun c => { c with next := .lbrk }))

/-- The sequencer's words trap before issue with INSTR_ILLEGAL, TADDR the bundle: a full stack 0x07 or an empty one 0x08, a target or a return
address out of range, a body that ends beyond the loop around it or a LOOP at the end of a loop 0x09, a count of 2^32 or more 0x0B; of several the
first in the order 0x0B, 0x09, 0x07, and a count of 0 pushes nothing, so it never finds the stack full; a POSTF that would take its flag past 65,535 raises FLAG_OVERFLOW, and one that follows a release not
yet performed holds its bundle (R181, R184, R368, R372). -/
def Obligations.ControlTraps : Prop :=
  (∀ (s : State) (p : Pred) (n : Fin 16) (tgt : BitVec 12) (bs : Fin 32) (lenM1 : BitVec 8) (cntM1 : BitVec 10), s.slot = .C →
    let x := (s.core.rdB bs).toNat
    let traps (i : Instr) (reason : Nat) : Prop :=
      s.core.early = none → s.Gives i ((s.withStall n).trapping 1 reason s.core.pc)
    (modeRange s.core.handler x = false → traps (.bri p n bs) 0x09) ∧
    (s.core.callDepth ≤ s.core.callStack.length → traps (.call p n tgt) 0x07) ∧
    (s.core.callStack = [] → traps (.ret p n) 0x08) ∧
    (∀ y t, s.core.callStack = y :: t → modeRange s.core.handler y = false → traps (.ret p n) 0x09) ∧
    (∀ i, i = .loop p n lenM1 cntM1 ∨ i = .loopr p n lenM1 bs ∧ x < 2 ^ 32 →
      let fin := s.core.pc + lenM1.toNat + 1
      let ends : Prop := (∃ e ∈ s.core.loopStack, e.fin = s.core.pc) ∨ ∃ e, s.core.loopStack.head? = some e ∧ e.fin < fin
      (ends → traps i 0x09) ∧
      (¬ ends → s.core.loopDepth ≤ s.core.loopStack.length → i = .loop p n lenM1 cntM1 ∨ x ≠ 0 → traps i 0x07)) ∧
    (s.core.loopStack = [] → traps (.lbrk p n) 0x08) ∧
    (2 ^ 32 ≤ x → traps (.loopr p n lenM1 bs) 0x0B)) ∧
  (∀ (s : State) (p : Pred) (n : Fin 16) (f : Fin 32) (sig : Option (Fin 4)) (cnt : BitVec 10) (x : BitVec 16), s.slot = .C →
    (s.flagOf (sig.getD s.ctx.ctxid).val f = some x → s.ctx.releases = [] → s.core.early = none → 65535 < x.toNat + cnt.toNat →
      s.Gives (.postf p n f sig cnt)
        ((s.withStall n).trapping 0x13 (0x90 + f.val * 2 ^ 8 + (sig.getD s.ctx.ctxid).val * 2 ^ 13) cnt.toNat)) ∧
    (s.ctx.releases ≠ [] → s.core.hold = none → ∃ t, s.Gives (.postf p n f sig cnt) t ∧ t.core.hold = some .releasePending))

/-- A loop runs its body COUNT times: from its first bundle, with nothing but the next bundle in between, count x length bundles
later the sequencer stands behind the loop and its entry has left the stack (R178, R179). -/
def Obligations.LoopRunsItsCount : Prop :=
  ∀ (c : Isle) (e : LoopEnt) (t : List LoopEnt), c.handler = false → c.ended = false → c.next = .seq → c.loops = e :: t →
    e.index = 0 → 0 < e.count → c.pc = e.start → e.start ≤ e.fin → (∀ d, t.head? = some d → d.fin ≠ e.fin) →
    ∀ k, k = e.count * (e.fin + 1 - e.start) →
      (Nat.iterate Isle.advance k c).pc = e.fin + 1 ∧ (Nat.iterate Isle.advance k c).loops = t

/-- END, SAFEPT, TRET, YIELD and CLKDIV leave what the end of the rc takes up; TRAP and BRK raise their cause after issue, TADDR a
value that no rule states (R45, R187-R191).
That TADDR is open and free is the model's choice (log 10). -/
def Obligations.ControlWords : Prop :=
  ∀ (s : State) (p : Pred) (n : Fin 16) (list : Fin 16) (sig : Option (Fin 4)) (cls : ClkClass) (divM1 : Fin 8) (code : BitVec 8),
    s.slot = .C →
    let u := s.withStall n
    let late (cause info a : Nat) : State :=
      { u with core := { u.core with late := some { cause := cause, addr := a, info := info, slot := 0, issued := true } } }
    s.Gives (.endC p n) (u.onCore fun c => { c with ended := true }) ∧
    (s.exposed = false → s.Gives (.safept p n list) (u.onCore fun c => { c with safe := some list.val })) ∧
    s.Gives (.tret p n) (u.onCore fun c => { c with next := .leave }) ∧
    s.Gives (.yieldC p n sig) (u.onCore fun c => { c with wait := some (.yielding sig) }) ∧
    (s.exposed = false → s.Gives (.clkdiv p n cls divM1) (u.onCore fun c => { c with clk := some (cls, divM1.val) })) ∧
    (s.core.late = none → ∃ a, s.Gives (.trap p n code) (late code.toNat 0 a)) ∧
    (s.core.late = none → ∃ a, s.Gives (.brk p n) (late 0x11 2 a))

/-- SYSRD lands the register as it stood, SYSWR lands its write at the end of the issue rc, and STATPOP lands the oldest record, which
leaves the queue, or 0 (R192, R195-R200, R209, R377). -/
def Obligations.SystemWords : Prop :=
  ∀ (s : State) (p : Pred) (n : Fin 16) (g : GReg) (r : SysReg) (k4 : Fin 4) (k8 : Fin 8), s.slot = .C →
    let u := s.withStall n
    let reads (r : SysReg) (x : W64) : Prop := s.Gives (.sysrd p n g r) (u.land 0 (.scalar g x))
    reads .tcause s.core.tcause ∧ reads .taddr s.core.taddr ∧ reads .tslot s.core.tslot ∧ reads .tinfo s.core.tinfo ∧
    reads .tcause2 s.core.tcause2 ∧ reads .ctxid (BitVec.ofNat 64 s.ctx.ctxid.val) ∧ reads .asid (BitVec.ofNat 64 s.ctx.asid) ∧
    reads .px (BitVec.ofNat 64 s.core.px) ∧ reads .py (BitVec.ofNat 64 s.core.py) ∧ reads .pw (BitVec.ofNat 64 s.ctx.image.w) ∧
    reads .ph (BitVec.ofNat 64 s.ctx.image.h) ∧ reads .rcycle (BitVec.ofNat 64 s.ctx.rcycle) ∧
    ((∀ k, 1 ≤ s.divOf k ∧ s.divOf k ≤ 8) → ∃ z : W64, reads .clkd z ∧ z.toNat < 2 ^ 16 ∧ (z.extractLsb' 0 4).toNat = s.divOf .ctl - 1 ∧ (z.extractLsb' 4 4).toNat = s.divOf .mat - 1 ∧
      (z.extractLsb' 8 4).toNat = s.divOf .vec - 1 ∧ (z.extractLsb' 12 4).toNat = s.divOf .cpy - 1) ∧
    reads .regbase (BitVec.ofNat 64 ((if s.ctx.image.mclass then 2097152 else 8388608) - 57344 + 10240 * s.ctx.ctxid.val)) ∧
    reads .sbmode (s.core.sbmode.zeroExtend 64) ∧ reads .feat s.ctx.feat ∧ reads .srseed s.core.srseed ∧
    reads (.bkpt k4) s.core.bkpt[k4] ∧ reads (.perf k8) s.core.perf[k8] ∧
    s.Gives (.syswr p n r g) (u.after 0 (.sys r (s.core.rdG g))) ∧
    (s.core.statq = [] → s.Gives (.statpop p n g) (u.land 0 (.scalar g 0))) ∧
    (∀ x t, s.core.statq = x :: t → s.Gives (.statpop p n g) ((u.land 0 (.scalar g x)).after 0 .pop))

/-- What a landed SYSWR changes (R192, R196-R199): TSLOT only in handler mode and only its RPC, SBMODE never to 3, a breakpoint
register without its reserved bits, SRSEED and the counters whole, and no other register. An event moves the counters whose EVSEL names it, modulo
2^56, and nothing else (R198, R387). -/
def Obligations.SystemWriteFields : Prop :=
  ∀ (c : Isle) (x : W64) (k4 : Fin 4) (k8 : Fin 8),
    (∀ r ∈ [SysReg.tcause, .taddr, .tinfo, .tcause2, .regbase, .ctxid, .asid, .px, .py, .pw, .ph, .rcycle, .clkd, .feat], c.sysWrite r x = c) ∧
    (c.handler = false → c.sysWrite .tslot x = c) ∧
    (c.handler = true → ∃ y : W64, c.sysWrite .tslot x = { c with tslot := y } ∧
      ∀ k, k < 64 → y.getLsbD k = if 16 ≤ k ∧ k < 28 then x.getLsbD k else c.tslot.getLsbD k) ∧
    (x.extractLsb' 0 2 = 3 → c.sysWrite .sbmode x = c) ∧
    (x.extractLsb' 0 2 ≠ 3 → c.sysWrite .sbmode x = { c with sbmode := x.extractLsb' 0 2 }) ∧
    c.sysWrite .srseed x = { c with srseed := x } ∧
    (∃ y : W64, c.sysWrite (.bkpt k4) x = { c with bkpt := c.bkpt.set k4 y } ∧
      ∀ k, k < 64 → y.getLsbD k = (x.getLsbD k && !(decide (12 ≤ k) && decide (k < 18)))) ∧
    c.sysWrite (.perf k8) x = { c with perf := c.perf.set k8 x } ∧
    (∀ ev n, let y := (c.count ev n).perf[k8]
      c.count ev n = { c with perf := (c.count ev n).perf } ∧
      ((c.perf[k8].extractLsb' 56 8).toNat ≠ ev → y = c.perf[k8]) ∧
      ((c.perf[k8].extractLsb' 56 8).toNat = ev → (y.extractLsb' 56 8).toNat = ev ∧
        (y.extractLsb' 0 56).toNat = ((c.perf[k8].extractLsb' 0 56).toNat + n) % 2 ^ 56))

/-- WAITF with no recorded fault on its flag and WAITB on a barrier that the isle holds stand as the isle's wait; POSTF with no release
pending and room in the flag lands its addition at the end of the rc (R369, R371, R372, R375). -/
def Obligations.WaitsAndPosts : Prop :=
  ∀ (s : State) (p : Pred) (n : Fin 16) (f : Fin 32) (sig : Option (Fin 4)) (cnt : BitVec 10) (bbar : Fin 32) (ph : Fin 16), s.slot = .C →
    let u := s.withStall n
    (s.flagFaults f = [] → s.Gives (.waitf p n f sig cnt) (u.onCore fun c => { c with wait := some (.flag f cnt.toNat sig) })) ∧
    (∀ x, s.flagOf (sig.getD s.ctx.ctxid).val f = some x → s.ctx.releases = [] → x.toNat + cnt.toNat ≤ 65535 →
      s.Gives (.postf p n f sig cnt) (u.after 0 (.post f (sig.getD s.ctx.ctxid).val cnt.toNat))) ∧
    (∀ b, s.lookBar (s.core.rdB bbar) = .phase b → ∃ t w, s.Gives (.waitb p n bbar sig ph) t ∧
      t.core.wait = some (.barrier (s.core.rdB bbar) ph.val sig w) ∧ (w = true ↔ (b.phase + 16 - ph.val) % 16 < 8) ∧
      s.core.SameArch t.core ∧ s.SameRest t)

/-! ## Results that land (R94, R95, R112, R114, R134) -/

/-- The event of a landing writes exactly the register that the operation names, by its own rule, and takes the operation out of
flight: a0, b0, p0 and vm0 discard the write, a vector write leaves the bits outside its mask, a tag is written whole; a system register takes its
write, the ballast its bytes and tag word, a latch empties, a window opens, a record leaves the queue, ACCOVF clears, a flag takes what a POSTF
adds (R192, R221, R274, R283, R367, R377). The events that a vector
word owes enter the statistics queue as its result lands, one record each: the queue takes 63, then one LOST record, which keeps the first lost
record's SLOT, BUNDLE, UPC and RCYC and counts what is lost, up to 65,535 (R154, R332). -/
def Obligations.LandingWritesItsRegister : Prop :=
  (∀ (s : State) (f : Flight), s.core.handler = false → s.core.flights.filter (fun x => x.seq == f.seq && s.dueNow x.due) = [f] →
    let c : Isle := { s.core with flights := s.core.flights.filter (· != f) }
    let lands (d : Isle) : Prop := exec (.resultLanding f.seq) s = .next { s with core := d }
    (∀ r x, f.eff = .scalar (.a r) x → lands (if r = 0 then c else { c with a := c.a.set r x })) ∧
    (∀ r x, f.eff = .scalar (.b r) x → lands (if r = 0 then c else { c with b := c.b.set r x })) ∧
    (∀ r x, f.eff = .pred r x → lands (if r = 0 then c else { c with p := c.p.set r x })) ∧
    (∀ r x, f.eff = .mask r x → lands (if r = 0 then c else { c with vm := c.vm.set r x })) ∧
    (∀ r x, f.eff = .stream r x → lands { c with st := c.st.set r x }) ∧
    (∀ r x, f.eff = .mp r x → lands { c with mp := c.mp.set r x }) ∧
    (∀ x, f.eff = .mpLine x → ∃ y : Vector W32 8, (∀ k : Fin 8, y[k] = x.extractLsb' (32 * k.val) 32) ∧ lands { c with mp := y }) ∧
    (∀ r x, f.eff = .tag r x → lands { c with tag := c.tag.set r x }) ∧
    (∀ r x, f.eff = .sys r x → lands (c.sysWrite r x)) ∧
    (∀ l k, f.eff = .spill l k → ∃ y, lands { c with
      ballast := c.ballast.wrList l, poison := y
      btag := match k with | some (r, x) => c.btag.set r x | none => c.btag }) ∧
    (∀ d, f.eff = .drainLatch d → lands { c with latch := c.latch.set d.ix none }) ∧
    (∀ d w, f.eff = .window d w → lands { c with fwd := c.fwd.set d.ix (some w) }) ∧
    (f.eff = .pop → lands { c with statq := c.statq.drop 1 }) ∧
    (f.eff = .clearAccovf → lands { c with mat := { c.mat with accovf := false } }) ∧
    (∀ g n, f.eff = .post g s.ctx.ctxid.val n → (c.flag[g]).toNat + n ≤ 65535 →
      lands { c with flag := c.flag.set g (BitVec.ofNat 16 ((c.flag[g]).toNat + n)) }) ∧
    (∀ r x en t evs, f.eff = .vec r x en t evs → ∃ y : V2048, (∀ k, k < 2048 → y.getLsbD k = if en.getLsbD k then x.getLsbD k else c.v[r].getLsbD k) ∧
      lands (evs.foldl (fun (d : Isle) e => d.record (statRecord e.1 4 f.bundle 0 e.2 f.rcyc))
        { c with v := c.v.set r y, tag := c.tag.set r (t.getD c.tag[r]) }))) ∧
  (∀ (c : Isle) (r : W64), (c.record r).statq = statArrive c.statq r) ∧
  (∀ (q : List W64) (r l : W64),
    let elem (x : W64) : Nat := (x.extractLsb' 19 16).toNat
    (q.length < 63 → statArrive q r = q ++ [r]) ∧
    (63 ≤ q.length + 1 → l.extractLsb' 60 4 = 15 → elem l = 65535 → statArrive (q ++ [l]) r = q ++ [l]) ∧
    (63 ≤ q.length + 1 → l.extractLsb' 60 4 = 15 → elem l < 65535 → ∃ x, statArrive (q ++ [l]) r = q ++ [x] ∧ elem x = elem l + 1 ∧
      ∀ k, k < 64 → k < 19 ∨ 35 ≤ k → x.getLsbD k = l.getLsbD k) ∧
    (63 ≤ q.length + 1 → l.extractLsb' 60 4 ≠ 15 → ∃ x, statArrive (q ++ [l]) r = q ++ [l, x] ∧ x.extractLsb' 60 4 = 15 ∧ elem x = 1 ∧
      ∀ k, k < 60 → k < 19 ∨ 35 ≤ k → x.getLsbD k = r.getLsbD k)) ∧
  (∀ (k : EvKind) (slot bundle upc elem rcyc : Nat), slot < 8 →
    let x := statRecord k slot bundle upc elem rcyc
    (x.extractLsb' 60 4).toNat = k.code ∧ (x.extractLsb' 57 3).toNat = slot ∧ (x.extractLsb' 45 12).toNat = bundle % 4096 ∧
      (x.extractLsb' 35 10).toNat = upc % 1024 ∧ (x.extractLsb' 19 16).toNat = elem % 65536 ∧ (x.extractLsb' 0 19).toNat = rcyc % 2 ^ 19)

/-- Bytes that land in a buffer: each byte of the store reads back, every other byte of every buffer reads as before, and no register
changes. An access reads in its access rc, least significant byte first, and its result stays in flight until it lands: the value of an LD,
sign-extended where the size says so; the 256 bytes of an LDV under a raw tag; the window of an LDV.T, each code in the low bits of its byte; the
elements of an LDIDX, each in its own place, with every other byte of the register kept; whether the header of a HDRCHK passes; the chunk of an
SREAD, each element in its lane and zero beyond the tile, or the scales of a scale access; and the old word of a LAOP, whose new word is the
chain's running result: what a further atomic operation on that word in the same rc finds (R3, R62, R157, R163, R211, R213, R216-R218, R220, R223,
R225). -/
def Obligations.StoresAndLoadsMoveTheirBytes : Prop :=
  (∀ (s : State) (f : Flight) (u : Buf) (a : Nat) (l : List Byte), s.core.handler = false →
    s.core.flights.filter (fun x => x.seq == f.seq && s.dueNow x.due) = [f] → f.eff = .store u (place a l) → (s.core.buf u).wf = true →
    ∃ t, exec (.resultLanding f.seq) s = .next t ∧ s.SameRest t ∧
      (∀ k, k < l.length → (t.core.buf u).rd (a + k) = l.getD k 0) ∧
      (∀ v b, v ≠ u ∨ b < a ∨ a + l.length ≤ b → (t.core.buf v).rd b = (s.core.buf v).rd b) ∧
      t.core.a = s.core.a ∧ t.core.b = s.core.b ∧ t.core.p = s.core.p ∧ t.core.v = s.core.v ∧ t.core.tag = s.core.tag ∧
      t.core.vm = s.core.vm ∧ t.core.st = s.core.st ∧ t.core.mp = s.core.mp ∧ t.core.ballast = s.core.ballast ∧ t.core.flag = s.core.flag) ∧
  (∀ (s : State) (f : Flight) (g : GReg) (r : Fin 32) (rp : Fin 8) (u : Buf) (a n w : Nat) (sg : Bool) (tg : W32) (land : Due)
    (l : List (Nat × Nat)) (sr : StreamReg), s.core.handler = false → s.core.flights = [f] → s.dueNow f.due = true →
    let m := s.core.buf u
    let bitAt (k : Nat) : Bool := (m.rd (a + k / 8)).getLsbD (k % 8)
    let reads (x : Access) (ok : Eff → Prop) : Prop := (∀ y ∈ x.ranges, s.core.spoiled y.1 y.2.1 y.2.2 = false) → f.eff = .access x land →
      ∃ e, ok e ∧ exec (.bufferAccess f.seq) s = .next { s with core := { s.core with flights := [{ f with due := land, eff := e }] } }
    let whole (t : W32) (bits : Nat → Bool) (e : Eff) : Prop :=
      ∃ x : V2048, e = .vec r x (BitVec.allOnes 2048) (some t) [] ∧ ∀ k, k < 2048 → x.getLsbD k = bits k
    let h := Hdr.ofStream sr
    (0 < n → n ≤ 8 → reads (.scalar g u a n sg) fun e => ∃ x : W64, e = .scalar g x ∧
      ∀ k, k < 64 → x.getLsbD k = if k < 8 * n then bitAt k else sg && (m.rd (a + n - 1)).getLsbD 7) ∧
    reads (.rawVec r u a) (whole 0 bitAt) ∧
    (0 < w → w ≤ 8 → reads (.tileVec r u a w tg) (whole tg fun k => decide (k % 8 < w) && bitAt (k / 8 * w + k % 8))) ∧
    (n ∈ [1, 2, 4, 8] → (l.map (·.1)).Nodup → (∀ e ∈ l, e.1 < 256 / n) → reads (.gather r u n l) fun e => ∃ x en : V2048, e = .vec r x en none [] ∧
      (∀ k, k < 2048 → (en.getLsbD k = true ↔ ∃ y ∈ l, k / (8 * n) = y.1)) ∧
      ∀ y ∈ l, ∀ k, k < 8 * n → x.getLsbD (8 * n * y.1 + k) = (m.rd (y.2 + k / 8)).getLsbD (k % 8)) ∧
    reads (.header rp u a) (fun e => ∃ z : Bool, e = .pred rp z ∧ (z = true ↔ hdrCheck 0 (m.bytes a 32) = none)) ∧
    (sr.buf = u → sr.sph = true → reads (.stream r sr) (whole (scaleTag h.sfmt h.bsize) fun k =>
      decide (k < 8 * (sr.scales.2 * scaleBytes h.sfmt)) &&
        (m.rd (sr.base + h.scaleStart + sr.scales.1 * scaleBytes h.sfmt + k / 8)).getLsbD (k % 8))) ∧
    (sr.buf = u → sr.sph = false → reads (.stream r sr) fun e => ∃ x : V2048, e = .vec r x (BitVec.allOnes 2048) (some (streamTag h)) [] ∧
      ∀ j, j < laneCount (streamLw h) → lane x (streamLw h) j =
        if j < sr.inside then h.elem (tagFmt (BitVec.ofNat 32 (h.efd % 2 ^ 24))) m sr.base sr.row (sr.col + j) % 2 ^ laneBits (streamLw h)
        else 0)) ∧
  (∀ (s : State) (f : Flight) (g : GReg) (u : Buf) (a : Nat) (op : AtomOp) (y : W64) (land : Due), s.core.handler = false → s.dueNow f.due = true →
    s.core.spoiled u a 8 = false → f.eff = .access (.atomic g u a op y) land →
    let done (old : W64) (x : Flight) : State := { s with core := { s.core with flights :=
      [{ f with due := land, eff := .scalar g old }, { x with due := s.dueIn 0, cls := chainClass
                                                              eff := .store u (place a (toLe 8 (atomic op old y).toNat)) }] } }
    (s.core.flights = [f] → exec (.bufferAccess f.seq) s = .next (done (BitVec.ofNat 64 ((s.core.buf u).rdN a 8)) f)) ∧
    (∀ c w, s.core.flights = [f, c] → c.cls = chainClass → c.eff = .store u (place a (toLe 8 w.toNat)) →
      ∃ x, (x.seq = f.seq ∨ x.seq = c.seq) ∧ exec (.bufferAccess f.seq) s = .next (done w x))) ∧
  (∀ (old y : W64),
    atomic .add old y = old + y ∧ atomic .and old y = old &&& y ∧ atomic .or old y = old ||| y ∧ atomic .xor old y = old ^^^ y ∧
    atomic .swap old y = y ∧ (∀ op, atomic op old y = old ∨ atomic op old y = y ∨ op ∈ [AtomOp.add, .and, .or, .xor]) ∧
    (atomic .min old y).toInt = min old.toInt y.toInt ∧ (atomic .max old y).toInt = max old.toInt y.toInt ∧
    (atomic .minn old y).toNat = min old.toNat y.toNat ∧ (atomic .maxn old y).toNat = max old.toNat y.toNat)

/-! ## Slot M (R208-R225) -/

/-- An aligned load inside the footprint issues its access for the access rc, its result after LAT[3]; an aligned store lands its bytes at its own
address in the access rc, BCLR its lines; SPILL, FILL, SPILLV and FILLV move a register to and from its slot of the ballast quarter, a vector
with its tag word (R208, R211, R216, R217, R220, R221, R223, R224). -/
def Obligations.MemoryWords : Prop :=
  (∀ (s : State) (p : Pred) (g : GReg) (vd : Fin 32) (pd : Fin 8) (u : Buf) (ba bv : Fin 32) (sz : Fin 8) (o6 : BitVec 6) (o9 : BitVec 9)
    (op : AtomOp), s.slot = .M →
    let n := 2 ^ (sz.val % 4)
    let base := (s.core.rdB ba).toNat
    let fits (a n al : Nat) : Prop := a % al = 0 ∧ a + n ≤ s.ctx.image.foot u
    (fits (base + o6.toNat * n) n n → s.Gives (.ld p g u ba sz o6) (s.access 3 (.scalar g u (base + o6.toNat * n) n (4 ≤ sz.val)))) ∧
    (fits (base + 32 * o9.toNat) 256 32 → s.Gives (.ldv p vd u ba o9) (s.access 3 (.rawVec vd u (base + 32 * o9.toNat)))) ∧
    (fits (base + 32 * o9.toNat) 32 32 → s.Gives (.hdrchk p pd u ba o9) (s.access 3 (.header pd u (base + 32 * o9.toNat)))) ∧
    (fits base 8 8 → s.Gives (.laop p op g u ba bv) (s.access 3 (.atomic g u base op (s.core.rdB bv))))) ∧
  (∀ (s : State) (p : Pred) (g : GReg) (vs : Fin 32) (u : Buf) (ba bl : Fin 32) (sz : Fin 8) (o6 : BitVec 6) (o9 : BitVec 9), s.slot = .M →
    let n := 2 ^ (sz.val % 4)
    let base := (s.core.rdB ba).toNat
    let len := (s.core.rdB bl).toNat
    let fits (a n al : Nat) : Prop := a % al = 0 ∧ a + n ≤ s.ctx.image.foot u
    (fits (base + o6.toNat * n) n n →
      s.Gives (.st p g u ba sz o6) (s.after 3 (.store u (place (base + o6.toNat * n) (toLe n (s.core.rdG g).toNat))))) ∧
    (fits (base + 32 * o9.toNat) 256 32 →
      s.Gives (.stv p vs u ba o9) (s.after 3 (.store u (place (base + 32 * o9.toNat) (toLe 256 s.core.v[vs].toNat))))) ∧
    (s.core.clearing = false → fits base len 256 → len % 256 = 0 → 0 < len →
      s.Gives (.bclr p u ba bl) (s.after 3 (.clear u base (len / 256)))) ∧
    (s.core.clearing = false → base % 256 = 0 → base ≤ s.ctx.image.foot u → len = 0 → s.Gives (.bclr p u ba bl) s)) ∧
  (∀ (s : State) (p : Pred) (g : GReg) (v : Fin 32) (o9 : BitVec 9) (o4 : Fin 16), s.slot = .M →
    s.Gives (.spill p g o9) (s.after 0 (.spill (place (8 * o9.toNat) (toLe 8 (s.core.rdG g).toNat)) none)) ∧
    s.Gives (.spillv p v o4) (s.after 0 (.spill (place (256 * o4.val) (toLe 256 s.core.v[v].toNat)) (some (o4, s.core.tag[v])))) ∧
    (s.core.spoilt 3 (8 * o9.toNat) 8 = false →
      s.Gives (.fill p g o9) (s.land 4 (.scalar g (BitVec.ofNat 64 (s.core.ballast.rdN (8 * o9.toNat) 8))))) ∧
    (s.core.spoilt 3 (256 * o4.val) 256 = false →
      s.Gives (.fillv p v o4) (s.land 4
        (.vec v (BitVec.ofNat 2048 (s.core.ballast.rdN (256 * o4.val) 256)) (BitVec.allOnes 2048) (some s.core.btag[o4]) []))))

/-- A misaligned access traps with BUF_BOUNDS 0x36 and one outside the footprint with 0x37, TADDR its address: LD, ST, LDV, STV, LAOP, HDRMK, HDRCHK,
BCLR, and LDV.T and STV.T at their header; a second BCLR while one runs traps with 0x53, which the model raises before the address checks, and
TADDR of a BCLR whose length is no multiple of 256 is its address (log 78). A stream word on a closed stream traps with 0x30, a read of a write stream or a write of a read stream with 0x31; a call of an entry whose
COUNT is 0 traps with 0x34, one whose START lies outside the microstore with 0x35 (R159, R162-R164, R173, R208, R215, R224). -/
def Obligations.OperandTraps : Prop :=
  (∀ (s : State) (p : Pred) (g : GReg) (vd : Fin 32) (pd : Fin 8) (u : Buf) (ba bl : Fin 32) (sz : Fin 8) (o6 : BitVec 6) (o9 : BitVec 9)
    (op : AtomOp), s.slot = .M →
    let n := 2 ^ (sz.val % 4)
    let a := (s.core.rdB ba).toNat
    let len := (s.core.rdB bl).toNat
    let a6 := (s.core.rdB ba).toNat + o6.toNat * n
    let a9 := (s.core.rdB ba).toNat + 32 * o9.toNat
    let foot := s.ctx.image.foot u
    (a6 % n ≠ 0 → s.Traps (.ld p g u ba sz o6) 8 0x36 a6 ∧ s.Traps (.st p g u ba sz o6) 8 0x36 a6) ∧
    (a6 % n = 0 → foot < a6 + n → s.Traps (.ld p g u ba sz o6) 8 0x37 a6 ∧ s.Traps (.st p g u ba sz o6) 8 0x37 a6) ∧
    (a9 % 32 ≠ 0 → s.Traps (.ldv p vd u ba o9) 8 0x36 a9 ∧ s.Traps (.stv p vd u ba o9) 8 0x36 a9) ∧
    (a9 % 32 = 0 → foot < a9 + 256 → s.Traps (.ldv p vd u ba o9) 8 0x37 a9 ∧ s.Traps (.stv p vd u ba o9) 8 0x37 a9) ∧
    (∀ i ∈ [Instr.hdrmk p vd u ba o9, .hdrchk p pd u ba o9], (a9 % 32 ≠ 0 → s.Traps i 8 0x36 a9) ∧ (a9 % 32 = 0 → foot < a9 + 32 → s.Traps i 8 0x37 a9)) ∧
    (∀ i ∈ [Instr.ldvT p vd u ba o9, .stvT p vd u ba o9],
      (a % 32 ≠ 0 → s.Traps i 8 0x36 a) ∧ (a % 32 = 0 → foot < a + 32 → s.Traps i 8 0x37 a)) ∧
    (a % 8 ≠ 0 → s.Traps (.laop p op g u ba bl) 8 0x36 a) ∧
    (a % 8 = 0 → foot < a + 8 → s.Traps (.laop p op g u ba bl) 8 0x37 a) ∧
    (s.core.clearing = false → a % 256 ≠ 0 ∨ len % 256 ≠ 0 → s.Traps (.bclr p u ba bl) 8 0x36 a) ∧
    (s.core.clearing = false → a % 256 = 0 → len % 256 = 0 → foot < a + len → s.Traps (.bclr p u ba bl) 8 0x37 a) ∧
    (s.core.clearing = true → s.Traps (.bclr p u ba bl) 5 0x53 s.core.pc)) ∧
  (∀ (s : State) (p : Pred) (t : Fin 16) (brow bcol v : Fin 32), s.slot = .M →
    (s.core.st[t].opened = false →
      s.Traps (.sread p v t) 8 0x30 t.val ∧ s.Traps (.swrite p t v) 8 0x30 t.val ∧ s.Traps (.sseek p t brow bcol) 8 0x30 t.val) ∧
    (s.core.st[t].opened = true → s.core.st[t].write = true → s.Traps (.sread p v t) 8 0x31 t.val) ∧
    (s.core.st[t].opened = true → s.core.st[t].write = false → s.Traps (.swrite p t v) 8 0x31 t.val)) ∧
  (∀ (s : State) (p : Pred) (idx : Fin 64) (pm : BitVec 8), s.core.early = none →
    ((s.core.rtab[idx]).extractLsb' 16 16 = 0 → s.Gives (.mcall p idx pm) (s.trapping 8 0x34 idx.val).holdClass) ∧
    ((s.core.rtab[idx]).extractLsb' 16 16 ≠ 0 → s.core.ustore.length ≤ ((s.core.rtab[idx]).extractLsb' 0 10).toNat →
      s.Gives (.mcall p idx pm) (s.trapping 8 0x35 ((s.core.rtab[idx]).extractLsb' 0 10).toNat).holdClass))

/-- LDV.T, STV.T and HDRMK on a tile whose header passes: the window at the header's data offset, as wide as the format's elements; HDRMK
writes thirty bytes of the register and their CRC. A header that fails its check traps with that reason, HDRMK's with COMBO_UNSUPPORTED, and a window
outside the footprint with 0x37 (R84, R85, R218, R219). -/
def Obligations.TileWords : Prop :=
  ∀ (s : State) (p : Pred) (v : Fin 32) (u : Buf) (ba : Fin 32) (o9 : BitVec 9), s.slot = .M →
    let base := (s.core.rdB ba).toNat
    let l := (s.core.buf u).bytes base 32
    let h := Hdr.ofNat (ofLe l)
    let a := base + 32 * o9.toNat
    let made := (toBytes s.core.v[v]).take 30 ++ toLe 2 (crc16 ((toBytes s.core.v[v]).take 30))
    let d := base + h.doff + 32 * o9.toNat
    (base % 32 = 0 → base + 32 ≤ s.ctx.image.foot u → s.core.spoiled u base 32 = false → hdrCheck 0 l = none → tileFit 0 h = none →
      let f := tagFmt (BitVec.ofNat 32 (h.efd % 2 ^ 24))
      (d + windowBytes f ≤ s.ctx.image.foot u →
        s.Gives (.ldvT p v u ba o9) (s.access 3 (.tileVec v u d (if f.wide then 8 else f.width) (headerTag h)))) ∧
      (s.ctx.image.foot u < d + windowBytes f → s.Traps (.ldvT p v u ba o9) 8 0x37 d)) ∧
    (∀ e, base % 32 = 0 → base + 32 ≤ s.ctx.image.foot u → s.core.spoiled u base 32 = false → hdrCheck 0 l = some e →
      s.Traps (.ldvT p v u ba o9) e.1 e.info base) ∧
    (base % 32 = 0 → base + 32 ≤ s.ctx.image.foot u → s.core.spoiled u base 32 = false → hdrCheck 3 l = none → tileFit 3 h = none →
      tagCheck 0 s.core.tag[v] false = none → tagPairs s.core.tag[v] h = true →
      let f := tagFmt s.core.tag[v]
      (s.ctx.image.foot u < d + windowBytes f → s.Traps (.stvT p v u ba o9) 8 0x37 d) ∧
      (d + windowBytes f ≤ s.ctx.image.foot u → ∃ x, (f.wide = true → x = s.core.v[v].toNat) ∧
        (f.wide = false → ∀ k, k < 256 * f.width → x.testBit k = s.core.v[v].getLsbD (8 * (k / f.width) + k % f.width)) ∧
        s.Gives (.stvT p v u ba o9) (s.after 3 (.store u (place d (toLe (windowBytes f) x)))))) ∧
    (∀ e, a % 32 = 0 → a + 32 ≤ s.ctx.image.foot u → hdrCheck 3 made = some e →
      s.Traps (.hdrmk p v u ba o9) causeCombo (3 * 256 + e.2.2) a) ∧
    (a % 32 = 0 → a + 32 ≤ s.ctx.image.foot u → hdrCheck 3 made = none →
      s.Gives (.hdrmk p v u ba o9) (s.after 3 (.store u (place a made))))

/-- LDIDX and STIDX move the enabled elements, each from or to its own address, where every one is aligned and inside the footprint; the
first that is not traps with its number, 0x36 where it is misaligned and 0x37 where it lies outside (R225). -/
def Obligations.IndexedWords : Prop :=
  ∀ (s : State) (p : Pred) (v vi : Fin 32) (u : Buf) (ba : Fin 32) (esz : Fin 4) (vm : Fin 8), s.slot = .M →
    let n := 2 ^ esz.val
    let addr (e : Nat) : Nat := (s.core.rdB ba).toNat + n * (s.core.v[vi].extractLsb' (32 * e) 32).toNat
    let on (e : Nat) : Prop := e < min 64 (256 / n) ∧ (s.core.rdVm vm).getLsbD e = true
    ((∀ e, on e → addr e % n = 0 ∧ addr e + n ≤ s.ctx.image.foot u) →
      (∃ l : List (Nat × Nat), (∀ e a, (e, a) ∈ l ↔ on e ∧ a = addr e) ∧ s.Gives (.ldidx p v vi u ba esz vm) (s.access 3 (.gather v u n l))) ∧
      (∃ l : List (Nat × Byte), (∀ a x, (a, x) ∈ l ↔ ∃ e j, on e ∧ j < n ∧ a = addr e + j ∧
          x = s.core.v[v].extractLsb' (8 * n * e + 8 * j) 8) ∧
        s.Gives (.stidx p v vi u ba esz vm) (s.after 3 (.store u l)))) ∧
    (∀ e r, on e → (∀ e', e' < e → on e' → addr e' % n = 0 ∧ addr e' + n ≤ s.ctx.image.foot u) →
      (addr e % n ≠ 0 ∧ r = 0x36 ∨ addr e % n = 0 ∧ s.ctx.image.foot u < addr e + n ∧ r = 0x37) →
      s.Traps (.ldidx p v vi u ba esz vm) 8 (e * 256 + r) (addr e) ∧ s.Traps (.stidx p v vi u ba esz vm) 8 (e * 256 + r) (addr e))

/-- SOPEN opens the stream that the header at its base describes, SCLOSE closes one, SREAD and SWRITE move a chunk and their cursor, SSEEK
moves the cursor alone (R157, R160-R164). -/
def Obligations.StreamWords : Prop :=
  ∀ (s : State) (p : Pred) (t : Fin 16) (u : Buf) (ba brow bcol v : Fin 32), s.slot = .M →
    let base := (s.core.rdB ba).toNat
    let l := (s.core.buf u).bytes base 32
    let h := Hdr.ofNat (ofLe l)
    let r := s.core.st[t]
    let opens (w : Bool) : State := s.land 3 (.stream t
      { opened := true, write := w, buf := u, base := base, tscale := h.tscale, moff := h.moff, soff := h.soff, doff := h.doff,
        stride := h.stride, cols := h.cols, rows := h.rows, kind := h.kind, geom := h.geom, efd := h.efd })
    let sound : Prop := base % 32 = 0 ∧ base + 32 ≤ s.ctx.image.foot u ∧ s.core.spoiled u base 32 = false ∧ hdrCheck 0 l = none ∧
      base + h.extent ≤ s.ctx.image.foot u ∧ h.kind ≠ 4
    (sound → s.Gives (.sopenR p t u ba) (opens false)) ∧
    (sound → (h.kind = 0 ∨ h.kind = 3) → h.sparse = 0 → s.Gives (.sopenW p t u ba) (opens true)) ∧
    s.Gives (.sclose p t) (s.after 0 (.stream t {})) ∧
    (r = {} → s.core.st.set t {} = s.core.st) ∧
    (r.opened = true → r.write = false → hdrValid 0 (Hdr.ofStream r) = none → tileFit 0 (Hdr.ofStream r) = none →
      ((Hdr.ofStream r).sfmt = 0 ∨ (Hdr.ofStream r).baxis ≠ 1) →
      s.Gives (.sread p v t) ((s.access 5 (.stream v r)).after 0 (.stream t r.advance))) ∧
    (r.opened = true → r.write = true → tagCheck 0 s.core.tag[v] false = none →
      (if r.sph then tagSreg s.core.tag[v] && tagSfmt s.core.tag[v] == (Hdr.ofStream r).sfmt && tagSblk s.core.tag[v] == (Hdr.ofStream r).bsize
        else tagPairs s.core.tag[v] (Hdr.ofStream r)) = true →
      s.Gives (.swrite p t v) ((s.after 3 (streamStore r s.core.v[v])).after 0 (.stream t r.advance))) ∧
    (r.opened = true → (s.core.rdB brow).toNat < r.rows → (s.core.rdB bcol).toNat < r.cols → (Hdr.ofStream r).sfmt = 0 →
      s.Gives (.sseek p t brow bcol) (s.after 0 (.stream t { r with row := (s.core.rdB brow).toNat, col := (s.core.rdB bcol).toNat, sph := false })))

/-! ## Slot V (R129-R154) -/

/-- VADD, VSUB, VMUL, VDIV, VMAX and VMIN on two sources of one format, VABS, VNEG, VEXP2, VLOG2, VRCP, VRSQ and VSQRT on one, and VFMA, VFMS and VFNMA
on three write each enabled element with the operation's element result, under the first source's tag (R133-R135, R137-R140). -/
def Obligations.VectorElementwise : Prop :=
  (∀ (s : State) (p : Pred) (vd va vb : Fin 32) (vm : Fin 8) (rm : Rm) (sat : Bool),
    let t := s.core.tag[va]
    let u := s.core.tag[vb]
    let f := tagFmt t
    let x (e : Nat) : Nat := lane s.core.v[va] f.lw e
    let y (e : Nat) : Nat := lane s.core.v[vb] f.lw e
    let on (e : Nat) : Bool := vm = 0 || (s.core.vm[vm]).getLsbD (e * laneBits f.lw / 32)
    let m (e : Nat) : RMode := s.rmode rm sat e
    let pairs (ok : Fmt → Bool) : Prop := arithSource 0 t ok = none ∧ arithSource 1 u ok = none ∧ tagLw t = tagLw u ∧ tagEfd t = tagEfd u
    (pairs isFI → s.WritesElems (.vadd p vd va vb vm rm sat) 6 vd f.lw on (fun e => addElem f (m e) (x e) (y e)) t) ∧
    (pairs isFI → s.WritesElems (.vsub p vd va vb vm rm sat) 6 vd f.lw on (fun e => subElem f (m e) (x e) (y e)) t) ∧
    (pairs isFI → s.WritesElems (.vmul p vd va vb vm rm sat) 7 vd f.lw on (fun e => mulElem f (m e) (x e) (y e)) t) ∧
    (pairs Fmt.isF → s.WritesElems (.vdiv p vd va vb vm rm sat) 12 vd f.lw on (fun e => divElem f (m e) (x e) (y e)) t) ∧
    (pairs isFI → s.WritesElems (.vmax p vd va vb vm) 6 vd f.lw on (fun e => (pickElem f true (x e) (y e), none)) t) ∧
    (pairs isFI → s.WritesElems (.vmin p vd va vb vm) 6 vd f.lw on (fun e => (pickElem f false (x e) (y e), none)) t)) ∧
  (∀ (s : State) (p : Pred) (vd va : Fin 32) (vm : Fin 8) (rm : Rm) (sat : Bool),
    let t := s.core.tag[va]
    let f := tagFmt t
    let x (e : Nat) : Nat := lane s.core.v[va] f.lw e
    let on (e : Nat) : Bool := vm = 0 || (s.core.vm[vm]).getLsbD (e * laneBits f.lw / 32)
    let writes (i : Instr) (cls : Nat) (ok : Fmt → Bool) (g : Nat → Elem) : Prop := arithSource 0 t ok = none → s.WritesElems i cls vd f.lw on g t
    writes (.vabs p vd va vm sat) 6 isFI (fun e => absElem f sat (x e)) ∧
    writes (.vneg p vd va vm sat) 6 isFI (fun e => negElem f sat (x e)) ∧
    writes (.vexp2 p vd va vm rm sat) 11 Fmt.isF (fun e => exp2Elem f (s.rmode rm sat e) (x e)) ∧
    writes (.vlog2 p vd va vm rm sat) 11 Fmt.isF (fun e => log2Elem f (s.rmode rm sat e) (x e)) ∧
    writes (.vrcp p vd va vm rm sat) 11 Fmt.isF (fun e => rcpElem f (s.rmode rm sat e) (x e)) ∧
    writes (.vrsq p vd va vm rm sat) 11 Fmt.isF (fun e => rsqElem f (s.rmode rm sat e) (x e)) ∧
    writes (.vsqrt p vd va vm rm sat) 12 Fmt.isF (fun e => sqrtElem f (s.rmode rm sat e) (x e))) ∧
  (∀ (s : State) (p : Pred) (vd va vb vc : Fin 32) (rm : Rm),
    let t := s.core.tag[va]
    let f := tagFmt t
    let el (r : Fin 32) (e : Nat) : Nat := lane s.core.v[r] f.lw e
    let val (negP negC : Bool) (e : Nat) : Elem := fmaElem f (s.rmode rm false e) negP negC (el va e) (el vb e) (el vc e)
    arithSource 0 t Fmt.isF = none → arithSource 1 s.core.tag[vb] Fmt.isF = none → arithSource 2 s.core.tag[vc] Fmt.isF = none →
    tagLw t = tagLw s.core.tag[vb] → tagLw t = tagLw s.core.tag[vc] → tagEfd t = tagEfd s.core.tag[vb] → tagEfd t = tagEfd s.core.tag[vc] →
    s.WritesElems (.vfma p vd va vb vc rm) 8 vd f.lw (fun _ => true) (val false false) t ∧
    s.WritesElems (.vfms p vd va vb vc rm) 8 vd f.lw (fun _ => true) (val false true) t ∧
    s.WritesElems (.vfnma p vd va vb vc rm) 8 vd f.lw (fun _ => true) (val true false) t)

/-- Integer elements wrap: without SAT the sum, the difference and the product of two codes are those modulo 2^W, signed and unsigned
alike (R135, R137). -/
def Obligations.IntegerElementsWrap : Prop :=
  ∀ (f : Fmt) (m : RMode) (x y : Nat), f.isInt = true → 0 < f.width → m.sat = false → x < 2 ^ f.width → y < 2 ^ f.width →
    (addElem f m x y).1 = (x + y) % 2 ^ f.width ∧
    (subElem f m x y).1 = (x + (2 ^ f.width - y)) % 2 ^ f.width ∧
    (mulElem f m x y).1 = x * y % 2 ^ f.width

/-- The words of bit patterns: each element written is the operation's bits, cut to the width of the first source's elements (R129, R130,
R142, R143, R150). -/
def Obligations.VectorBitPatterns : Prop :=
  ∀ (s : State) (p : Pred) (vd va vb : Fin 32) (vm : Fin 8) (amt : BitVec 8) (a6 : BitVec 6),
    let t := s.core.tag[va]
    let u := s.core.tag[vb]
    let lw := tagLw t
    let w := tagWidth t
    let x (e : Nat) : Nat := lane s.core.v[va] lw e % 2 ^ w
    let y (e : Nat) : Nat := lane s.core.v[vb] lw e % 2 ^ tagWidth u
    let n := laneCount lw
    let on (e : Nat) : Bool := vm = 0 || (s.core.vm[vm]).getLsbD (e * laneBits lw / 32)
    let one (i : Instr) (cls : Nat) (g : Nat → Bool) (v : Nat → Nat) : Prop :=
      tagCheck 0 t true = none → s.WritesBits i cls vd lw g (fun e => v e % 2 ^ w) t
    let two (i : Instr) (cls : Nat) (g : Nat → Bool) (v : Nat → Nat) : Prop :=
      tagCheck 0 t true = none → tagCheck 1 u true = none → tagLw t = tagLw u → s.WritesBits i cls vd lw g (fun e => v e % 2 ^ w) t
    two (.vand p vd va vb vm) 6 on (fun e => x e &&& y e) ∧
    two (.vor p vd va vb vm) 6 on (fun e => x e ||| y e) ∧
    two (.vxor p vd va vb vm) 6 on (fun e => x e ^^^ y e) ∧
    two (.vshl p vd va vb vm) 6 on (fun e => if w ≤ y e % 64 then 0 else x e * 2 ^ (y e % 64)) ∧
    two (.vshr p vd va vb vm) 6 on (fun e => x e / 2 ^ (y e % 64)) ∧
    two (.vsar p vd va vb vm) 6 on (fun e => wrap (sext (x e) w / 2 ^ (y e % 64)) w) ∧
    two (.vsel p vd va vb vm) 6 (fun _ => true) (fun e => if on e then x e else y e) ∧
    two (.vperm p vd va vb vm) 14 on (fun e => x (y e % n)) ∧
    one (.vnot p vd va vm) 6 on (fun e => 2 ^ w - 1 - x e) ∧
    one (.vmov p vd va vm) 6 on x ∧
    one (.vrot p vd va amt) 14 (fun _ => true) (fun e => x ((e + amt.toNat) % n)) ∧
    (tagCheck 0 t true = none → tagCheck 1 u true = none →
      s.WritesBits (.vext p vd va vb a6) 14 vd lw (fun _ => true)
        (fun e => lane ((s.core.v[vb] ++ s.core.v[va]).extractLsb' (32 * a6.toNat) 2048) lw e % 2 ^ w) t)

/-- VCVT, VQNT, VDQNT and VBSCL write their part of the destination and zero the rest of what they enable, under a tag made from the target
(R144-R148). The element that an event of VBSCL names, the position of its block's scale in the destination, is the model's choice (log 56), and
so is the order in which the events of one word enter the queue (log 55). -/
def Obligations.VectorConversions : Prop :=
  ∀ (s : State) (p : Pred) (vd va vsc bt : Fin 32) (vm : Fin 8) (rm : Rm) (sat : Bool) (g : Fmt),
    let t := s.core.tag[va]
    let sc := s.core.tag[vsc]
    let u : W32 := (s.core.rdB bt).truncate 32
    let q := ((s.core.rdB bt).extractLsb' 32 2).toNat
    let f := tagFmt t
    let el (e : Nat) : XVal := valueOf f (lane s.core.v[va] f.lw e)
    let scale (k : Nat) : XVal := s.scaleReg vsc k
    let on (e : Nat) : Bool := vm = 0 || (s.core.vm[vm]).getLsbD (e * laneBits g.lw / 32)
    let n := laneCount f.lw
    let b := blockOf (tagSblk u)
    let first := q % (256 / n) * n / b
    fmtOf (tagEfd u) = some g →
    (notAcc 0 t = none → tagScl t = false → g.acc = false →
      s.WritesElems (.vcvt p vd va bt vm rm sat) 9 vd g.lw on
        (fun e => ((partOf n (laneCount g.lw) q e).map fun k => convert g (el k) (s.rmode rm sat e)).getD (0, none))
        (mkTag (tagEfd u) g.lw false false 0 0)) ∧
    (plainSource 0 t = none → notAcc 1 sc = none → g.wide = false → scalePairs sc u = true →
      s.WritesElems (.vqnt p vd va vsc bt rm) 10 vd 0 (fun _ => true)
        (fun e => ((partOf n 256 q e).map fun k => quantElem g (el k) (scale (e / b)) (s.rmode rm true e)).getD (0, none))
        (mkTag (tagEfd u) 0 true false (tagSfmt u) (tagSblk u))) ∧
    (tagCheck 0 t false = none → f.wide = false → tagScl t = true → notAcc 1 sc = none → g.isF = true → scalePairs sc t = true →
      s.WritesElems (.vdqnt p vd va vsc bt rm) 9 vd g.lw (fun _ => true)
        (fun e => ((partOf 256 (laneCount g.lw) q e).map fun k =>
          convert g ((valueOf f (lane s.core.v[va] 0 k)).mul (scale (k / blockOf (tagSblk t)))) (s.rmode rm false e)).getD (0, none))
        (mkTag (tagEfd u) g.lw false false 0 0)) ∧
    (plainSource 0 t = none → g.wide = false → tagSfmt u ≠ 0 → b ≤ n →
      s.WritesElems (.vbscl p vd va bt) 10 vd (if tagSfmt u = 3 then 1 else 0) (fun _ => true)
        (fun e => if first ≤ e ∧ e < first + n / b then
            blockScale (tagSfmt u) g ((List.range b).map fun j => el ((e - first) * b + j)) else (0, none))
        (scaleTag (tagSfmt u) (tagSblk u)))

/-- VREDADD, VREDMAX and VREDMIN write one result to element 0 and zero every other element: the root of R149's tree over the enabled elements,
whose nodes are VADD's element sum, rounded at each node for a float, or VMAX's or VMIN's choice; a NaN root is the canonical NaN. An integer
VREDADD is the exact sum of the enabled elements, modulo 2^W without SAT and clamped with it (R63, R138, R149). -/
def Obligations.VectorReductions : Prop :=
  ∀ (s : State) (p : Pred) (vd va : Fin 32) (vm : Fin 8) (rm : Rm) (sat : Bool),
    let t := s.core.tag[va]
    let f := tagFmt t
    let on (e : Nat) : Bool := vm = 0 || (s.core.vm[vm]).getLsbD (e * laneBits f.lw / 32)
    let x (e : Nat) : Nat := lane s.core.v[va] f.lw e
    let leaf (e : Nat) : Option Nat := if e < laneCount f.lw ∧ on e = true then some (x e) else none
    let root (node : Nat → Nat → Nat → Nat) : Nat := canonical f ((redNode node leaf 8 0).getD 0)
    let sum : Int := (((List.range (laneCount f.lw)).filter on).map fun e => intOf f (x e)).sum
    let reduces (i : Instr) (root : Nat) (owes : List (EvKind × Nat) → Prop) : Prop := s.WritesLanes i 13 vd f.lw (fun _ => true) (fun e => if e = 0 then root else 0) t owes
    arithSource 0 t isWideFI = none →
    (f.isInt = true → reduces (.vredadd p vd va vm rm sat) (if sat then (clampInt f sum).1 else wrap sum f.width)
      (· = if f.range.1 ≤ sum ∧ sum ≤ f.range.2 then [] else [(.of, 0)])) ∧
    (f.isInt = false → reduces (.vredadd p vd va vm rm sat) (root fun e a b => (addElem f (s.rmode rm sat e) a b).1) (∀ x ∈ ·, x.2 = 0)) ∧
    reduces (.vredmax p vd va vm) (root fun _ a b => pickElem f true a b) (· = []) ∧
    reduces (.vredmin p vd va vm) (root fun _ a b => pickElem f false a b) (· = [])

/-- VBCAST, VINS and VIOTA write elements under the destination's own tag; VTAG writes the tag alone and VSEED the stochastic bits as
INT32; VMASK, VMASK.b and VCMP write a mask (R141, R151-R153). -/
def Obligations.VectorTagsAndMasks : Prop :=
  ∀ (s : State) (p : Pred) (vd va vb bs bi : Fin 32) (vmd vma vmb vm : Fin 8) (tt : BitVec 4) (c : VCond),
    let t := s.core.tag[vd]
    let lw := tagLw t
    let x := (s.core.rdB bs).toNat
    let n := laneCount lw
    let own (i : Instr) (g : Nat → Bool) (v : Nat → Nat) : Prop :=
      tagCheck 3 t true = none → s.WritesBits i 6 vd lw g (fun e => v e % 2 ^ tagWidth t) t
    let mask (r : Fin 8) (k : Nat) : Bool := r = 0 || (s.core.vm[r]).getLsbD k
    let f := tagFmt s.core.tag[va]
    let hit (e : Nat) : Bool := cmpElem f c (lane s.core.v[va] f.lw e) (lane s.core.v[vb] f.lw e)
    own (.vbcast p vd bs) (fun _ => true) (fun _ => x) ∧
    own (.vins p vd bs bi) (fun e => decide (e = (s.core.rdB bi).toNat % n)) (fun _ => x) ∧
    own (.viota p vd bs) (fun _ => true) (fun e => x + e) ∧
    s.Gives (.vtag p vd bs) (s.land 6 (.tag vd ((s.core.rdB bs).truncate 32))).holdClass ∧
    s.WritesBits (.vseed p vd) 6 vd 2 (fun _ => true)
      (fun e => srBits s.core.srseed s.ctx.rcycle (s.core.py * s.ctx.image.w + s.core.px) e) 0x08003011#32 ∧
    s.Gives (.vmaskB p vmd bs) (s.land 6 (.mask vmd (s.core.rdB bs))).holdClass ∧
    (∃ z : W64, (∀ k, k < 64 → z.getLsbD k = tt.getLsbD (2 * (mask vma k).toNat + (mask vmb k).toNat)) ∧
      s.Gives (.vmask p vmd vma vmb tt) (s.land 6 (.mask vmd z)).holdClass) ∧
    (arithSource 0 s.core.tag[va] isFI = none → arithSource 1 s.core.tag[vb] isFI = none → tagLw s.core.tag[va] = tagLw s.core.tag[vb] →
      tagEfd s.core.tag[va] = tagEfd s.core.tag[vb] → ∃ z : W64,
      (∀ k, k < 64 → f.lw = 2 → z.getLsbD k = (mask vm k && hit k)) ∧
      (∀ k, k < 64 → f.lw = 3 → z.getLsbD k = (mask vm (k / 2 * 2) && hit (k / 2))) ∧
      s.Gives (.vcmp p vmd c va vb vm) (s.land 6 (.mask vmd z)).holdClass)

/-! ## Slot X (R165-R175, R232) -/

/-- MPSET lands the low 32 bits of its register or its immediate, MPLD the eight words of a line in one landing, MSTAT the engine's state: busy, latched, ACTSET and
ACCOVF; the rc that the engine's words still take; the words that have ended; and the first again, which clears ACCOVF (R167, R168, R172). -/
def Obligations.EngineReadsAndParameters : Prop :=
  (∀ (s : State) (p : Pred) (mp : Fin 8) (g : GReg) (bs : Fin 32) (imm : BitVec 16) (o9 : BitVec 9) (sel : Fin 16),
    let a := (s.core.rdB bs).toNat + 32 * o9.toNat
    s.Gives (.mpset p mp bs) (s.after 0 (.mp mp ((s.core.rdB bs).extractLsb' 0 32))).holdClass ∧
    s.Gives (.mpsetImm p mp imm) (s.after 0 (.mp mp (imm.zeroExtend 32))).holdClass ∧
    (a % 32 = 0 → a + 32 ≤ s.ctx.image.foot .ab → s.core.spoiled .ab a 32 = false →
      s.Gives (.mpld p bs o9) (s.after 3 (.mpLine (BitVec.ofNat 256 (s.core.ab.rdN a 32)))).holdClass) ∧
    (sel ≠ 3 → s.Gives (.mstat p g sel) (s.land 3 (.scalar g (s.engineState sel))).holdClass) ∧
    (sel = 3 → s.Gives (.mstat p g sel) ((s.land 3 (.scalar g (s.engineState sel))).after 0 .clearAccovf).holdClass)) ∧
  (∀ (s : State),
    let m := s.core.mat
    (∀ k ∈ [(0 : Fin 16), 3], (s.engineState k).getLsbD 0 = m.running.isSome ∧ (s.engineState k).getLsbD 1 = m.latched.isSome ∧
      (s.engineState k).getLsbD 2 = m.actset ∧ (s.engineState k).getLsbD 3 = m.accovf ∧ (s.engineState k).toNat < 16) ∧
    (m.running = none → m.latched = none → s.engineState 1 = 0) ∧
    (∀ x, m.running = some x → m.latched = none → s.ctx.rcycle ≤ x.first + x.len → x.first + x.len < 2 ^ 64 →
      (s.engineState 1).toNat = x.first + x.len - s.ctx.rcycle) ∧
    s.engineState 2 = BitVec.ofNat 64 m.done)

/-- A word that occupies the engine starts where the engine is idle, waits in the latch where a word runs, and traps with STALL 0x52 where
one waits already (R166); MSEL and MRTSET take one cycle, MUWR its words, a call its COUNT (R169-R171, R173). An MUWR reads its words from AB in the
rc in which it starts: where that is the rc of its issue, they stand staged. Under SBMODE 1 a record call whose A stream has a producer in flight
raises STALL_SHORT (R107, R169, R175). -/
def Obligations.OccupyingWords : Prop :=
  ∀ (s : State) (p : Pred) (idx : Fin 64) (pm : BitVec 8) (bs bu : Fin 32) (cntM1 : BitVec 8),
    let c := s.core.count 0x03 1
    let run (w : XWord) (len : Nat) : XRun := { word := w, first := s.rcOfTick s.startTick, len := len, bundle := s.core.pc, rcyc := s.ctx.rcycle }
    let takes (i : Instr) (w : XWord) (len : Nat) : Prop :=
      (s.core.mat.latched = none → s.core.mat.running = none → s.Gives i (s.onCore fun _ => c.startX (run w len)).holdClass) ∧
      (s.core.mat.latched = none → s.core.mat.running ≠ none →
        s.Gives i (s.onCore fun _ => { c with mat := { c.mat with latched := some (run w len) } }).holdClass) ∧
      (s.core.mat.latched ≠ none → s.core.early = none → s.Gives i (s.trapping 5 0x52 s.core.pc).holdClass)
    let n := cntM1.toNat + 1
    let src := (s.core.rdB bs).toNat
    let dst := (s.core.rdB bu).toNat
    takes (.mselSwap p) (.msel 0) 1 ∧ takes (.mselS0 p) (.msel 1) 1 ∧ takes (.mselS1 p) (.msel 2) 1 ∧
    takes (.mrtset p idx bs) (.mrtset idx (s.core.rdB bs &&& 0x00000000FFFF07FF#64)) 1 ∧
    (src % 8 = 0 → src + 8 * n ≤ s.ctx.image.foot .ab → dst + n ≤ s.core.ustore.length →
      let x := run (.muwr src dst n) ((n + 3) / 4 + 4)
      (x.first ≠ s.ctx.rcycle ∨ s.core.mat.running ≠ none ∨ s.core.mat.latched ≠ none → takes (.muwr p bs bu cntM1) x.word x.len) ∧
      (x.first = s.ctx.rcycle → s.core.mat.latched = none → s.core.mat.running = none → s.core.spoiled .ab src (8 * n) = false →
        ∃ l : List W64, l.length = n ∧ (∀ j, j < n → l[j]? = some (BitVec.ofNat 64 (s.core.ab.rdN (src + 8 * j) 8))) ∧
          s.Gives (.muwr p bs bu cntM1) (s.onCore fun _ => { c with mat := { c.mat with running := some x, staged := l } }).holdClass)) ∧
    (∀ count k, s.mcallLook idx pm = .ok (count, k) → takes (.mcall p idx pm) (.call k) count) ∧
    (s.recordShort idx bs = true → s.core.early = none → s.Gives (.mcallr p idx bs) (s.trapping 5 0x51 s.core.pc).holdClass) ∧
    (∀ count k, s.recordShort idx bs = false → s.mcallrLook idx bs = .call count k → takes (.mcallr p idx bs) (.call k) count)

/-- At the end of its interval MSEL has set ACTSET, MRTSET its entry and MUWR its words; a call whose routine has not returned is stopped with
STALL 0x50; the count of ended words goes up, and a latched word starts in the next rc (R166, R169-R171, R232). -/
def Obligations.IntervalEnds : Prop :=
  ∀ (s : State) (x : XRun), s.core.mat.running = some x → x.first + x.len ≤ s.ctx.rcycle + 1 → ∃ t, exec .engineIntervalEnd s = .next t ∧
    s.SameRest t ∧
    (s.core.mat.latched = none → t.core.mat.running = none ∧ t.core.mat.done = s.core.mat.done + 1) ∧
    (∀ y, s.core.mat.latched = some y → t.core.mat.latched = none ∧ t.core.mat.running = some { y with first := s.ctx.rcycle + 1 }) ∧
    (x.word = .msel 0 → t.core.mat.actset = !s.core.mat.actset) ∧ (x.word = .msel 1 → t.core.mat.actset = false) ∧
    (x.word = .msel 2 → t.core.mat.actset = true) ∧
    (∀ i w, x.word = .mrtset i w → t.core.rtab = s.core.rtab.set i w) ∧
    (∀ a dst n, x.word = .muwr a dst n → t.core.ustore = s.core.ustore.take dst ++ s.core.mat.staged ++ s.core.ustore.drop (dst + n)) ∧
    (∀ k r, x.word = .call k → s.core.mat.routine = some r → s.core.late = none →
      t.core.late = some { cause := 5, addr := r.upc, info := 0x50 + r.upc * 2 ^ 18, slot := 5, issued := true })

/-! ## Micro-words (R227-R244) -/

/-- NOP, MASK, XPOSE, PADD, LOOP and ENDL on the micro-sequencer (R233, R235, R236). -/
def Obligations.MicroSequencerWords : Prop :=
  ∀ (s : State) (r : Routine) (n x : BitVec 16) (mp : Fin 8) (on set h : Bool), s.MuAt r .seq →
    let q : Routine := { r with upc := r.upc + 1, seqFree := r.cycle + 1 }
    let runs (i : Instr) (t : Routine) : Prop := exec i s = .next (s.withRoutine t)
    let m := r.call.arg mp.val
    let half := m / 2 ^ (if h then 16 else 0) % 65536
    let moved (old y : Nat) : Nat := if set then y else (old + y) % 65536
    runs (.muNop n) { q with seqFree := r.cycle + (n.toNat + 1) } ∧
    runs (.muMask false mp) { q with rlim := m % 8192, clim := m / 8192 % 8192 } ∧
    runs (.muMask true mp) { q with dlim := m / 65536 % 8192 } ∧
    runs (.muXpose on) { q with xpose := on } ∧
    runs (.muPadd set .mi (.imm x)) { q with mi := moved r.mi x.toNat } ∧
    runs (.muPadd set .nj (.imm x)) { q with nj := moved r.nj x.toNat } ∧
    runs (.muPadd set .ko (.imm x)) { q with ko := moved r.ko x.toNat } ∧
    runs (.muPadd set .mi (.mp h mp)) { q with mi := moved r.mi half } ∧
    runs (.muPadd set .nj (.mp h mp)) { q with nj := moved r.nj half } ∧
    runs (.muPadd set .ko (.mp h mp)) { q with ko := moved r.ko half } ∧
    (r.loops.length < 2 → runs (.muLoop (.imm n)) { q with loops := (n.toNat + 1, r.upc + 1) :: r.loops }) ∧
    (r.loops.length < 2 → m % 65536 ≠ 0 → runs (.muLoop (.mp mp)) { q with loops := (m % 65536, r.upc + 1) :: r.loops }) ∧
    (∀ k u t, r.loops = (k, u) :: t → 1 < k → runs .muEndl { q with upc := u, loops := (k - 1, u) :: t }) ∧
    (∀ k u t, r.loops = (k, u) :: t → k ≤ 1 → runs .muEndl { q with loops := t })

/-- LDA, LDB and SCL stage a panel of their operand, or its factors, in a slot that no STEP reads, and ZERO with LD = 1 loads the bound
group of the accumulator, each from sectors that hold no uncorrectable error, in the buffers as the segments that have passed leave them; a load that
meets one ends the context. In a rerun a load delivers what it delivered before (R207, R231, R233, R234, R236, R242, R243). -/
def Obligations.MicroLoads : Prop :=
  ∀ (s : State) (r : Routine) (slot : Fin 2), s.MuAt r .load →
    let q : Routine := { r with upc := r.upc + 1 }
    let runs (i : Instr) (n : Nat) (t : Routine) : Prop := exec i s = .next (s.withRoutine { t with loadFree := r.cycle + n })
    let width (h : Hdr) : Nat := ((fmtOf h.efd).map (·.width)).getD 0
    let c := s.core.engineView
    let brings (r : Routine) (reads : List (Nat × Nat × Nat)) (x y : Loaded) (t : List Loaded) : Prop :=
      (r.feed = [] ∧ c.spoiltIn reads = none ∧ y = x ∧ t = []) ∨ r.feed = y :: t
    let got (q : Routine) (y : Loaded) (t : List Loaded) : Routine := { q with loads := q.loads ++ [y], feed := t }
    let stagedA (q : Routine) (y : Loaded) : Routine := q.setStage slot ({ q.stage slot with sa := y.scales? } : Stage)
    let stagedB (q : Routine) (y : Loaded) : Routine := q.setStage slot ({ q.stage slot with sb := y.scales? } : Stage)
    let scalesA (o : Operand) (r : Routine) (y : Loaded) (t : List Loaded) : Prop :=
      brings r (o.panelReads r.kb fun i k => o.hdr.scaleReads o.base (r.mi + i) (r.ko + k))
        (.scales (panelOf r.kb fun i k => o.hdr.factor o.mem o.base (r.mi + i) (r.ko + k))) y t
    let scalesB (o : Operand) (r : Routine) (y : Loaded) (t : List Loaded) : Prop :=
      brings r (o.panelReads r.kb fun j k => o.hdr.scaleReads o.base (r.ko + k) (r.nj + j))
        (.scales (panelOf r.kb fun j k => o.hdr.factor o.mem o.base (r.ko + k) (r.nj + j))) y t
    (∀ o y t n, q.opA c = .ok o → r.slotIdle slot = true → n = max 1 (ceilDiv (128 * r.kb * width o.hdr) 2048) →
      brings r (o.panelReads r.kb fun i k => o.hdr.reads o.base (r.mi + i) (r.ko + k))
        (.panel { elems := panelOf r.kb fun i k => o.hdr.value o.mem o.base (r.mi + i) (r.ko + k), width := width o.hdr, sparse := o.hdr.sparse }) y t →
      runs (.muLda slot) n (((got q y t).setStage slot ({ r.stage slot with a := y.panel? } : Stage)).loading slot (r.cycle + n))) ∧
    (∀ o y t n, q.opB c s.residentArea = .ok o → r.slotIdle slot = true → n = max 1 (ceilDiv (panelBits o.hdr (width o.hdr) r.kb) 2048) →
      brings r (o.panelReads r.kb fun j k => o.hdr.reads o.base (r.ko + k) (r.nj + j))
        (.panel { elems := panelOf r.kb fun j k => o.hdr.value o.mem o.base (r.ko + k) (r.nj + j), width := width o.hdr, sparse := o.hdr.sparse }) y t →
      runs (.muLdb slot) n (((got q y t).setStage slot ({ r.stage slot with b := y.panel? } : Stage)).loading slot (r.cycle + n))) ∧
    (∀ o y t, q.opA c = .ok o → r.slotIdle slot = true → scalesA o r y t →
      runs (.muScl true false slot) 1 ((stagedA (got q y t) y).loading slot (r.cycle + 1))) ∧
    (∀ o y t, q.opB c s.residentArea = .ok o → r.slotIdle slot = true → scalesB o r y t →
      runs (.muScl false true slot) 1 ((stagedB (got q y t) y).loading slot (r.cycle + 1))) ∧
    (∀ o o' y y' t t', q.opA c = .ok o → q.opB c s.residentArea = .ok o' → r.slotIdle slot = true → scalesA o r y t →
      scalesB o' (got q y t) y' t' →
      runs (.muScl true true slot) 1 ((stagedB (got (stagedA (got q y t) y) y' t') y').loading slot (r.cycle + 1))) ∧
    (r.slotIdle slot = true → runs (.muScl false false slot) 1 (q.loading slot (r.cycle + 1))) ∧
    (∀ r1 r2 y t, r.nj % 128 = 0 → q.meetAcc c (s.ctx.image.foot .acb) = .ok r1 →
      let h : Option Hdr := if r1.held then r1.acc.map fun w => .ofNat w.toNat else none
      brings r1 ((h.map fun h => rowRanges (r.call.arg 2) h r1.mi r1.nj).getD [])
        (.rows ((h.map fun h => loadRows c.acb (r.call.arg 2) h r1.mi r1.nj).getD [])) y t →
      (got r1 y t).zeroed (y.rows?.getD []) = .ok r2 → runs (.muZero true) 264 r2) ∧
    (∀ o a, r.feed = [] → q.opA c = .ok o → r.slotIdle slot = true →
      c.spoiltIn (o.panelReads r.kb fun i k => o.hdr.reads o.base (r.mi + i) (r.ko + k)) = some a →
      exec (.muLda slot) s = .next (s.loseAt .X a))

/-- STEP forms the window sums of its slot, FOLD adds the window to the active set and empties it, and ZERO with LD = 0 clears the set; a STEP
with a window and a FOLD without one are illegal (R231, R236, R237). -/
def Obligations.MicroArrayWords : Prop :=
  ∀ (s : State) (r : Routine) (adv : Bool) (slot : Fin 2), s.core.mat.routine = some r → r.returned = false →
    let q : Routine := { r with upc := r.upc + 1 }
    let dur := r.kb / r.rate * (if s.ctx.image.mclass then 1 else 4)
    (r.arrayFree ≤ r.cycle → r.loaded slot ≤ r.cycle → r.foldEnd ≤ r.cycle → r.window = none →
      exec (.muStep adv slot) s = .next (s.withRoutine { q with
        window := some (q.sums slot), stepSlot := slot.val, ko := if adv then (r.ko + r.kb) % 65536 else r.ko, arrayFree := r.cycle + dur })) ∧
    (r.arrayFree ≤ r.cycle → r.loaded slot ≤ r.cycle → r.window ≠ none → exec (.muStep adv slot) s = .next (s.muFault r (1, 0x0E))) ∧
    (∀ w r1 r2, r.foldFree ≤ r.cycle → r.arrayFree ≤ r.cycle → r.window = some w → (∀ k, r.lastKo = some k → k < w.ko) →
      (if q.work.bind = none then { q with work := { bind := some q.bound } } else q).needAcc s = .ok r1 → r1.touch = .ok r2 →
      exec .muFold s = .next (s.withRoutine { r2.folded w (r2.upc - 1) with foldFree := r.cycle + 4 })) ∧
    (r.foldFree ≤ r.cycle → r.arrayFree ≤ r.cycle → r.window = none → exec .muFold s = .next (s.muFault r (1, 0x0E))) ∧
    (∀ r1, r.foldFree ≤ r.cycle → q.zeroed [] = .ok r1 → exec (.muZero false) s = .next (s.withRoutine { r1 with foldFree := r.cycle + 1 }))

/-- DRAIN buffers the drain set's elements that lie in its stream's tile, each converted and at its own address, DRNC their significands and the
exponents of their groups, HDR its tile's header, in 128, 128 and 1 cycles of the drain unit; CHK and RET wait for every unit, take two cycles
and one for each 512 buffered bytes, and close the segment: its buffered writes, then, where the active set has changed, the rows of that set
under its accumulator's header; RET ends the routine. Nothing reaches a buffer before the segment commits (R231, R233, R238, R239, R241, R242).
The exponent of a row that shares none is free (log 10); the residues compared are R240's. -/
def Obligations.MicroDrainsAndCommits : Prop :=
  (∀ (s : State) (r : Routine) (mp mpE : Fin 8), s.MuAt r .drain →
    let q : Routine := { r with upc := r.upc + 1 }
    let n := r.call.arg mp.val % 16
    let runs (i : Instr) (w : Routine) : Prop := exec i s = .next (s.withRoutine w)
    let c := s.core.engineView
    let d := s.core.mat.drainSet
    let fails := r.segment.failed || !d.sound
    (∀ t b h w, q.drainLook c n false = .ok (t, b, h, w) →
      let f := tagFmt (BitVec.ofNat 32 (h.efd % 2 ^ 24))
      let size := r.segment.size + 128 * ((128 * f.width + 7) / 8)
      let x := r.call.arg mp.val
      let rc := (s.core.mat.running.map fun x => x.rcyc).getD 0
      let elem (e : (Nat × Nat) × (Nat × Nat)) : Elem := convert f ((d.row e.1.1).values.getD e.1.2 (.fin false 0 0))
        { rm := [Rm.rne, .rtz, .rna, .sr].getD (x / 16 % 4) .sr, sat := x.testBit 6
          r := srBits r.call.seed rc (s.core.py * s.ctx.image.w + s.core.px) (e.2.1 * h.cols + e.2.2) }
      let l := w.drained b h
      let g : Segment := l.foldl (fun g e => match (elem e).2 with
        | some k => g.event k (e.1.1 * 128 + e.1.2) r.upc
        | none => g) { r.segment with size := size }
      let writes := l.map fun e =>
        let p := h.elemAt f t.base e.2.1 e.2.2
        Eff.storeBits t.buf p.1 p.2.1 p.2.2 (elem e).1
      size ≤ 294912 → runs (.muDrain mp)
        { w with drainFree := r.cycle + 128, segment := { g with writes := r.segment.writes ++ writes, failed := fails } }) ∧
    (∀ t b h w, q.drainLook c n true = .ok (t, b, h, w) →
      let l := w.drained b h
      let group (row g : Nat) : Nat := t.base + h.doff + row * h.stride + 1056 * g
      let sig := l.map fun e =>
        Eff.store t.buf (place (group e.2.1 (e.2.2 / 128) + 32 + 8 * (e.2.2 % 128)) (toLe 8 ((d.row e.1.1).s.getD e.1.2 0).toNat))
      r.segment.size + 135168 ≤ 294912 → ∃ x : Nat × Nat → Int,
        (∀ g y, (∃ e ∈ l, (e.2.1, e.2.2 / 128) = g) → (∀ e ∈ l, (e.2.1, e.2.2 / 128) = g → (d.row e.1.1).e = y) → x g = y) ∧
        runs (.muDrnc mp) { w with
          drainFree := r.cycle + 128
          segment := { r.segment with
            size := r.segment.size + 135168, failed := fails
            writes := r.segment.writes ++ sig ++ (l.map fun e => (e.2.1, e.2.2 / 128)).dedup.map fun g =>
              Eff.store t.buf (place (group g.1 g.2) (toLe 2 (wrap (x g) 16))) } }) ∧
    (∀ t b a w, q.writeStream n = .ok t → q.drainBound c = .ok (b, a, w) → r.segment.size + 32 ≤ 294912 →
      ∀ h : Hdr, h = ({ kind := 0, efd := r.call.arg mpE.val / 256 % 2 ^ 24, rows := a.rows, cols := a.cols } : Hdr).packed →
      h.unwritable = none → t.base + h.extent ≤ s.ctx.image.foot t.buf → runs (.muHdr mp mpE) { w with
        drainFree := r.cycle + 1
        st := r.st.set n { t with tscale := h.tscale, moff := h.moff, soff := h.soff, doff := h.doff, stride := h.stride, cols := h.cols, rows := h.rows
                                  kind := h.kind, geom := h.geom, efd := h.efd }
        segment := { r.segment with
          size := r.segment.size + 32, writes := r.segment.writes ++ [.store t.buf (place t.base h.image)] } })) ∧
  (∀ (s : State) (r : Routine), s.core.mat.routine = some r → r.returned = false →
    let c := r.cycle
    r.seqFree ≤ c → r.loadFree ≤ c → r.arrayFree ≤ c → r.foldFree ≤ c → r.drainFree ≤ c →
    (r.segment.dirty = true → ∀ b, r.work.bind = some b → b.nj % 128 = 0) →
    let n := 2 + (r.segment.size + 511) / 512
    ∀ h q, (if r.segment.dirty then ({ r with upc := r.upc + 1 } : Routine).boundHdr s.core.engineView else .ok (none, { r with upc := r.upc + 1 })) =
      .ok (h, q) →
    let g := q.close s.core.mat.actset h
    let w (ret : Bool) : Routine := { q with
      pending := some (c + n - 1, ret, g), segment := {}, logged := r.logged ++ g.events.map (·.1), returned := ret
      work := if r.segment.dirty then q.sealed h else r.work, window := if ret then none else r.window, foldFree := c + n }
    let runs (i : Instr) (ret : Bool) : Prop := exec i s = .next (s.onCore fun d =>
      { d with mat := { d.mat with chk := some (w ret).opening, past := q.loads, routine := some { w ret with loads := [] } } })
    runs .muChk false ∧ runs .muRet true) ∧
  (∀ (r : Routine) (act : Bool) (h : Hdr),
    (r.segment.dirty = false → (r.close act (some h)).writes = r.segment.writes ∧ (r.close act (some h)).set = r.segment.set) ∧
    (r.segment.dirty = true → (r.close act (some h)).writes = r.segment.writes ++ (r.sealed (some h)).commits h ∧
      (r.close act (some h)).set = some (act, r.sealed (some h))))

/-- A micro-word whose unit is busy, or that stands behind RET, changes nothing: the attempt is made again in the next cycle (R231). -/
def Obligations.MicroWaits : Prop :=
  ∀ (s : State) (r : Routine) (n : BitVec 16) (mp mpE : Fin 8) (slot : Fin 2) (a b adv on depth : Bool), s.core.mat.routine = some r →
    (r.returned = true ∨ r.cycle < r.seqFree → exec (.muNop n) s = .next s ∧ exec (.muMask depth mp) s = .next s ∧
      exec (.muXpose on) s = .next s ∧ exec .muEndl s = .next s) ∧
    (r.returned = true ∨ r.cycle < r.loadFree → exec (.muLda slot) s = .next s ∧ exec (.muLdb slot) s = .next s ∧
      exec (.muScl a b slot) s = .next s ∧ exec (.muZero true) s = .next s) ∧
    (r.returned = true ∨ r.cycle < r.arrayFree → exec (.muStep adv slot) s = .next s ∧ exec .muFold s = .next s ∧ exec .muChk s = .next s) ∧
    (r.returned = true ∨ r.cycle < r.drainFree → exec (.muDrain mp) s = .next s ∧ exec (.muHdr mp mpE) s = .next s ∧ exec .muRet s = .next s)

/-! ## Slot N and the network (R273-R285) -/

/-- SEND and SENDS put one word on the first hop of a route inside the region, NBC one for each direction of its axis that has isles beyond, and
NRMT a request; RECV and RECVS land the latch's word, or zero and a raw tag where it is empty, and empty it; FWD opens its window (R274,
R275, R281-R285). -/
def Obligations.NetworkWords : Prop :=
  ∀ (s : State) (p : Pred) (v : Fin 32) (g : GReg) (h : Bool) (r : Route) (dir dout : Dir) (cntM1 : BitVec 10) (op : AtomOp) (ba bv : Fin 32),
    s.slot = .N →
    let c := s.core.count 0x05 1
    let half : NWord := { data := s.core.v[v].extractLsb' (if h then 1024 else 0) 1024, tag := s.core.tag[v] }
    let sends (i : Instr) (l : List Trav) : Prop := ∃ t, s.Gives i t ∧ t.ctx.words = s.ctx.words ++ l ∧ t.seq = s.seq + l.length ∧
      s.core.SameArch t.core ∧ t.core.flights = s.core.flights ∧ s.SameRest t
    let east := s.ctx.image.w - 1 - s.core.px
    let south := s.ctx.image.h - 1 - s.core.py
    let copy (d : Dir) (n id : Nat) : Trav := s.firstHop half .copies d n d 0 (.a 0) id
    let w : NWord := (s.core.latch[dir.ix]).getD { data := 0, tag := 0 }
    let low : V2048 := BitVec.ofNat 2048 (2 ^ 1024 - 1)
    let ref := s.core.rdB ba
    let dx := (ref.extractLsb' 32 6).toInt
    let dy := (ref.extractLsb' 40 6).toInt
    let a := (ref.extractLsb' 0 24).toNat
    (s.leaves r.dir1 r.step1.val r.dir2 r.step2.val = none →
      sends (.send p v h r) [s.firstHop half .plain r.dir1 r.step1.val r.dir2 r.step2.val (.a 0) s.seq] ∧
      sends (.sends p g r)
        [s.firstHop { data := (s.core.rdG g).zeroExtend 1024, tag := 0 } .plain r.dir1 r.step1.val r.dir2 r.step2.val (.a 0) s.seq]) ∧
    (0 < east → 0 < s.core.px → sends (.nbcRow p v h) [copy .e east s.seq, copy .w s.core.px (s.seq + 1)]) ∧
    (0 < east → s.core.px = 0 → sends (.nbcRow p v h) [copy .e east s.seq]) ∧
    (east = 0 → 0 < s.core.px → sends (.nbcRow p v h) [copy .w s.core.px s.seq]) ∧
    (east = 0 → s.core.px = 0 → sends (.nbcRow p v h) []) ∧
    (0 < s.core.py → 0 < south → sends (.nbcCol p v h) [copy .n s.core.py s.seq, copy .s south (s.seq + 1)]) ∧
    (0 < s.core.py → south = 0 → sends (.nbcCol p v h) [copy .n s.core.py s.seq]) ∧
    (s.core.py = 0 → 0 < south → sends (.nbcCol p v h) [copy .s south s.seq]) ∧
    (s.core.py = 0 → south = 0 → sends (.nbcCol p v h) []) ∧
    s.Gives (.recv p v h dir) ((s.after 0 (.vec v (if h then w.data.zeroExtend 2048 <<< 1024 else w.data.zeroExtend 2048)
      (if h then low <<< 1024 else low) (some w.tag) [])).after 0 (.drainLatch dir)) ∧
    s.Gives (.recvs p g dir) ((s.after 0 (.scalar g (w.data.extractLsb' 0 64))).after 0 (.drainLatch dir)) ∧
    (s.inside (dout.step s.core.px s.core.py).1 (dout.step s.core.px s.core.py).2 = true →
      s.Gives (.fwd p dir dout cntM1) (s.after 0 (.window dir { dout := dout, last := s.ctx.rcycle + cntM1.toNat }))) ∧
    (∀ u, bufOf (ref.extractLsb' 24 2).toNat = some u → ref.extractLsb' 46 18 = 0 → ref.extractLsb' 38 2 = 0 → ref.extractLsb' 26 6 = 0 →
      dx ≠ 0 → a % 8 = 0 → a + 8 ≤ s.ctx.image.foot u → s.inside (s.core.px + dx) (s.core.py + dy) = true → s.inside s.core.px s.core.py = true →
      sends (.nrmt p op g ba bv) [s.firstHop { data := 0, tag := 0 } (.request op u a (s.core.rdB bv)) (if 0 < dx then .e else .w) dx.natAbs
        (if 0 < dy then .s else .n) dy.natAbs g s.seq]) ∧
    (∀ u, bufOf (ref.extractLsb' 24 2).toNat = some u → ref.extractLsb' 46 18 = 0 → ref.extractLsb' 38 2 = 0 → ref.extractLsb' 26 6 = 0 →
      dx = 0 → dy ≠ 0 → a % 8 = 0 → a + 8 ≤ s.ctx.image.foot u → s.inside s.core.px (s.core.py + dy) = true → s.inside s.core.px s.core.py = true →
      sends (.nrmt p op g ba bv) [s.firstHop { data := 0, tag := 0 } (.request op u a (s.core.rdB bv)) (if 0 < dy then .s else .n) dy.natAbs
        (if 0 < dy then .s else .n) 0 g s.seq])

/-- A word that ends its last hop alone on its link enters the empty latch of its side; a full latch loses its word to it and the isle
takes LINK_COLLISION 0x79; an open window sends it on; a window closes once its last rc has passed; a remote atomic that has reached its target
is performed there and answered with the old word (R275, R278, R283, R285).
The order among remote atomics is the model's choice (log 39). -/
def Obligations.NetworkEvents : Prop :=
  ∀ (s : State) (k : Trav) (dir : Dir) (w : FwdWin),
    let side := k.dir.opp
    let dst := k.dir.step k.x k.y
    let reaches (q : State → Prop) : Prop := s.ctx.words.find? (fun t => t.id == k.id && t.due == s.ctx.rcycle) = some k → k.due = s.ctx.rcycle →
      s.onLink k = [k] → k.cargo = .plain → k.left1 = 0 → k.left2 = 0 → s.left.length = s.ixOf dst.1.toNat dst.2.toNat → s.core.late = none →
      ∃ t, exec (.networkWordArrival k.id) s = .next t ∧ s.SameRest t ∧ q t
    let rest := s.ctx.words.filter (· != k)
    (s.core.fwd[side.ix] = none → s.core.latch[side.ix] = none →
      reaches fun t => t.ctx.words = rest ∧ t.core.latch = s.core.latch.set side.ix (some k.word) ∧ t.core.late = none) ∧
    (s.core.fwd[side.ix] = none → s.core.latch[side.ix] ≠ none → reaches fun t => t.core.latch = s.core.latch.set side.ix (some k.word) ∧
      ∃ e, t.core.late = some e ∧ e.cause = 7 ∧ e.addr = s.ctx.rcycle ∧ e.info % 2 ^ 10 = 0x79 + side.ix.val * 2 ^ 8) ∧
    (s.core.fwd[side.ix] = some w → s.ctx.rcycle ≤ w.last → reaches fun t => t.core.latch = s.core.latch ∧
      ∃ n, t.ctx.words = rest ++ [n] ∧ n.word = k.word ∧ n.dir = w.dout ∧ n.x = s.core.px ∧ n.y = s.core.py ∧
        n.due = s.ctx.rcycle + s.hop false s.core.px s.core.py w.dout) ∧
    exec (.fwdWindowExpiry dir) s = .next (s.onCore fun c =>
      { c with fwd := match c.fwd[dir.ix] with
          | some w => if w.last < s.ctx.rcycle then c.fwd.set dir.ix none else c.fwd
          | none => c.fwd }) ∧
    (∀ op u a y, s.requestOf k.id = some k → k.cargo = .request op u a y → k.due < s.ctx.rcycle → s.left.length = s.ixOf k.x k.y →
      s.core.handler = false → s.core.flights = [] → s.core.spoiled u a 8 = false → ∃ t, exec (.nrmtArrival k.id) s = .next t ∧ s.SameRest t ∧
        (∃ f, t.core.flights = [f] ∧ f.eff = .store u (place a (toLe 8 (atomic op (BitVec.ofNat 64 ((s.core.buf u).rdN a 8)) y).toNat))) ∧
        ∃ n, t.ctx.words = rest ++ [n] ∧ n.cargo = .reply k.dest (BitVec.ofNat 64 ((s.core.buf u).rdN a 8)) k.id ∧
          n.hops = ((k.ox : Int) - s.core.px).natAbs + ((k.oy : Int) - s.core.py).natAbs)

/-- A source without a format and a route that leaves the region: a vector word whose source holds a raw tag traps with COMBO_UNSUPPORTED 0x10, and
SEND, SENDS and FWD off the region with FENCE and the direction of the step, TADDR a value that no rule states (R82, R130, R279).
That TADDR is open and free is the model's choice (log 10). -/
def Obligations.FormatAndFenceTraps : Prop :=
  (∀ (s : State) (p : Pred) (vd va vb : Fin 32) (vm : Fin 8) (rm : Rm) (sat : Bool),
    s.core.tag[va] = 0 → s.core.early = none → s.slot = .V → s.core.handler = false →
    ∃ addr info, ∀ i ∈ [Instr.vadd p vd va vb vm rm sat, .vsub p vd va vb vm rm sat, .vmul p vd va vb vm rm sat, .vmax p vd va vb vm,
        .vmin p vd va vb vm, .vabs p vd va vm sat, .vneg p vd va vm sat, .vexp2 p vd va vm rm sat, .vdiv p vd va vb vm rm sat,
        .vsqrt p vd va vm rm sat, .vredmax p vd va vm],
      s.Issues i → ∃ t, exec i s = .next t ∧ s.core.SameArch t.core ∧
        t.core.early = some { cause := causeCombo, addr := addr, info := info, slot := 4, issued := false } ∧ info % 256 = 0x10) ∧
  (∀ (s : State) (p : Pred) (v : Fin 32) (g : GReg) (h : Bool) (r : Route) (dir dout d : Dir) (cntM1 : BitVec 10), s.slot = .N → s.core.early = none →
    let fenced (i : Instr) (reason : Nat) (d : Dir) : Prop := ∃ a, s.Gives i
      (s.onCore fun c =>
        { c with early := some { cause := 6, addr := a, info := reason + d.ix.val * 2 ^ 8, slot := 6, issued := false } })
    (s.leaves r.dir1 r.step1.val r.dir2 r.step2.val = some d → fenced (.send p v h r) 0x70 d ∧ fenced (.sends p g r) 0x70 d) ∧
    (s.inside (dout.step s.core.px s.core.py).1 (dout.step s.core.px s.core.py).2 = false → fenced (.fwd p dir dout cntM1) 0x71 dout))

/-! ## Slot D (R288-R310) -/

/-- XLD, XST, XATOM, BARINIT, BARARR, BARADD and the PHASE words: an operation enters the copy unit, an AB barrier is updated in the access rc,
BARARR and PHASE.r release first (R288, R292, R298, R299, R302, R303, R305). -/
def Obligations.TransferAndBarrierWords : Prop :=
  ∀ (s : State) (p : Pred) (u : Buf) (bbuf bva f bv bbar bx : Fin 32) (sz : Fin 8) (op : AtomOp) (sc : Scope),
    let n := [8, 32, 256, 1024, 4096].getD sz.val 8
    let al := if n = 8 then 8 else 32
    let a := (s.core.rdB bbuf).toNat
    let va := (s.core.rdB bva).toNat
    let x := s.core.rdB bx
    let ref := s.core.rdB bbar
    let flag := some (f.val, s.core.px, s.core.py)
    let count : Int := (x.extractLsb' 0 48).toInt
    let ab (i : Instr) (t : State) (up : BarUpd) : Prop := ∀ o, barRef ref = some (.ab o) → o + 16 ≤ s.ctx.image.foot .ab →
      s.Gives i (t.fly s.dAccess noClass (.barrier o up t.seq)).holdClass
    let dm (i : Instr) (t : State) (up : BarUpd) : Prop := ∀ o, barRef ref = some (.dm o) → s.HasEntry →
      s.Gives i (t.newOp (.bar ref up) none (some ref) true).holdClass
    (a % al = 0 → a + n ≤ s.ctx.image.foot u → va < 2 ^ 52 → va % al = 0 → s.HasEntry →
      s.Gives (.xld p u bbuf bva f sz) (s.newOp (.xld u a va n 0) flag none true).holdClass ∧
      s.Gives (.xst p u bbuf bva f sz) (s.newOp (.xst u a va n 0) flag none true).holdClass) ∧
    (va < 2 ^ 52 → va % 8 = 0 → (s.core.rdB (bv + 1)).toNat % 8 = 0 → (s.core.rdB (bv + 1)).toNat + 8 ≤ s.ctx.image.foot .ab → s.HasEntry →
      s.Gives (.xatom p op bva bv f) (s.newOp (.xatom op va (s.core.rdB bv) (s.core.rdB (bv + 1)).toNat false) flag none true).holdClass) ∧
    (barInitFault true x = none → ab (.barinit p bbar bx) s (.init x)) ∧ dm (.barinit p bbar bx) s (.init x) ∧
    ab (.bararr p bbar bx) s.release (.arrive count) ∧ dm (.bararr p bbar bx) s.release (.arrive count) ∧
    ab (.baradd p bbar bx) s (.add count) ∧ dm (.baradd p bbar bx) s (.add count) ∧
    s.Gives (.phaseR p sc) s.release.holdClass ∧ s.Gives (.phaseRa p sc) s.release.holdClass

/-- XCOPY, COLL, OVL, LAUNCH and KPOST enter their operation where their operands pass: an XCOPY from and to device memory or a buffer, with a header
or without, its flag on an isle of the region and its barrier where it names them; LAUNCH and KPOST as releases that read their record or packet in
the access rc; KSTAT lands a reading of its socket (R296, R301, R306, R309, R310, R314, R315, R355, R356). That a buffer's header gives its DOFF at
issue is the model's choice (log 71). -/
def Obligations.OperationWords : Prop :=
  ∀ (s : State) (p : Pred) (tidx : BitVec 8) (bb bbar bslot brec bpkt f : Fin 32) (g : GReg) (sock : Fin 2) (sel : Fin 8), s.HasEntry →
    let t := s.ctx.tmpl.getD tidx.toNat 0
    let base := (s.core.rdB bb).toNat
    let src := tmplBase t 464 10 base
    let dst := tmplBase t 416 11 base
    let rec_ := (s.core.rdB brec).toNat
    let n := (s.core.rdB bslot).toNat
    let pkt := (s.core.rdB bpkt).toNat
    let w := s.core.ab.rdN pkt 64
    let x := s.sock sock.val
    let r := s.release
    let h := tmplHmode t
    let bar : Option W64 := if bbar = 0 then none else some (s.core.rdB bbar)
    let barOk : Prop := ∀ ref, bar = some ref → ∃ r, barRef ref = some r ∧ ∀ o, r = .ab o → o + 16 ≤ s.ctx.image.foot .ab
    let side (code base hdr off stride : Nat) : Prop :=
      (sideBuf code = none → base < 2 ^ 52 ∧ base % 32 = 0 ∧ (tmplRows t = 1 ∨ stride % 32 = 0)) ∧
      ∀ u, sideBuf code = some u → base % 32 = 0 ∧ base + hdr ≤ s.ctx.image.foot u ∧
        ∀ row, row < tmplRows t → let x := (base + off) % 2 ^ 64 + row * stride
          x % 32 = 0 ∧ x + tmplRowBytes t ≤ s.ctx.image.foot u
    let doff : Option Nat := (sideBuf (tmplFld t 4 2)).map fun u => if h = 0 then 0 else (Hdr.ofNat ((s.core.buf u).rdN src 32)).doff
    let fx := (s.core.px : Int) + sext (tmplFld t 18 6) 6
    let fy := (s.core.py : Int) + sext (tmplFld t 24 6) 6
    (copyTmplOk t = true → barOk → side (tmplFld t 4 2) src (if h = 0 then 0 else 32) (doff.getD 0) (tmplSstride t) →
      side (tmplFld t 6 2) dst (if h = 2 then 32 else 0) (if h = 2 then 32 else 0) (tmplDstride t) →
      (tmplFld t 12 1 = 0 → s.Gives (.xcopy p tidx bb bbar) (s.newOp (.xcopy src dst t 0 0 doff none false) none bar true).holdClass) ∧
      (tmplFld t 12 1 = 1 → s.inside fx fy = true → s.Gives (.xcopy p tidx bb bbar)
        (s.newOp (.xcopy src dst t 0 0 doff none false) (some (tmplFld t 13 5, fx.toNat, fy.toNat)) bar true).holdClass)) ∧
    (collTmplOk t = true → s.groupServes (collGid t) = true → barOk → collSrc t base < 2 ^ 52 → collSrc t base % 32 = 0 → collDst t base < 2 ^ 52 →
      collDst t base % 32 = 0 → s.Gives (.coll p tidx bb bbar) (s.newOp (.coll t base false false 0 0) none bar true).holdClass) ∧
    (∀ id : BitVec 8, id ≠ 0 → (∃ o ∈ s.ctx.image.ovls, o.ovl = id.toNat ∧ (o.isle = none ∨ o.isle = some s.isleIx)) →
      s.Gives (.ovl p id f) (s.newOp (.ovl id.toNat 0) (some (f.val, s.core.px, s.core.py)) none true).holdClass) ∧
    (rec_ % 32 = 0 → rec_ + 128 ≤ s.ctx.image.foot .ab → (s.partOfSlot n).map (·.pid) = some s.ctx.pid →
      s.Gives (.launch p bslot brec)
        ((r.newOp (.launch n []) none none true).fly s.dAccess noClass (.access (.record r.seq rec_) s.dAccess)).holdClass) ∧
    (∀ c, pkt % 32 = 0 → pkt + 64 ≤ s.ctx.image.foot .ab → s.ctx.kctx sock.val = some c → x.present = true → x.frozen = false →
      s.core.spoiled .ab pkt 64 = false → packetBad w = false →
      (x.packets.filter fun q => q.kctx == c).length + (s.posting sock.val).length < 16 →
      s.Gives (.kpost p sock bpkt)
        ((r.newOp (.kpost sock.val []) none (some (BitVec.ofNat 64 (w / 2 ^ 384))) false).fly s.dAccess noClass
          (.access (.packet r.seq pkt) s.dAccess)).holdClass) ∧
    s.Gives (.kstat p g sock sel) (s.land 3 (.scalar g (s.kstatOf sock.val sel.val))).holdClass

/-- One update of a barrier (R302-R304): BARINIT writes phase 0 and its counts; an arrival takes one from PEND and announces bytes, an announcement or a
byte count leaves PEND; an arrival where none is pending and a count outside 48 bits are misuse; and any update that leaves nothing pending ends the
phase: its number goes up modulo 16 and PEND starts again at INIT. -/
def Obligations.BarrierUpdates : Prop :=
  (∀ (b c : BarW) (ab : Bool) (u : BarUpd), (∀ x, u ≠ .init x) → b.phase < 16 → barUpdate ab u b = .ok c →
    let counted : Nat × Int := match u with
      | .arrive y => (1, y)
      | .add y => (0, y)
      | .bytes n => (0, -(n : Int))
      | .kite n => (1, -(n : Int))
      | .coll => (1, 0)
      | .init _ => (0, 0)
    let pend := b.pend - counted.1
    let bytes := b.bytes + counted.2
    counted.1 ≤ b.pend ∧
    (pend = 0 → bytes = 0 → c = { b with phase := (b.phase + 1) % 16, pend := b.init, bytes := 0 }) ∧
    (pend ≠ 0 ∨ bytes ≠ 0 → c = { b with pend := pend, bytes := bytes })) ∧
  (∀ (b : BarW) (x : W64) (y : Int), b.scope = 0 →
    let fits (z : Int) : Prop := -(2 ^ 47 : Int) ≤ z ∧ z < 2 ^ 47
    (x.extractLsb' 0 20 ≠ 0 → x.extractLsb' 20 4 = 0 → ∃ c, barUpdate true (.init x) b = .ok c ∧ c.phase = 0 ∧
      c.pend = (x.extractLsb' 0 20).toNat ∧ c.init = c.pend ∧ c.bytes = 0 ∧ c.scope = 0 ∧ c.sig = (x.extractLsb' 32 32).toNat) ∧
    (x.extractLsb' 0 20 = 0 → barUpdate true (.init x) b = .error 0x83) ∧
    (b.pend = 0 → barUpdate true (.arrive y) b = .error 0x81) ∧
    (0 < b.pend → ¬ fits (b.bytes + y) → barUpdate true (.arrive y) b = .error 0x82) ∧
    (0 < b.pend → fits (b.bytes + y) → ∃ c, barUpdate true (.arrive y) b = .ok c) ∧
    (fits (b.bytes + y) → ∃ c, barUpdate true (.add y) b = .ok c) ∧
    (∀ c, barUpdate false (.add y) b = .ok c → False))

/-- The events of operations. A sector of XLD is read through the context's translation and filled into its buffer, one of XST read from its
buffer and written through the translation; XATOM reads its word, lands the old value in AB and writes the new one, in one step; a copy checks its
header, moves its rows' sectors from side to side and rewrites its header last. A sector that has been read and whose write must wait is kept. An operation that accesses device memory waits for the releases
issued before it. The end of a finished transfer posts 1 to its flag and frees its entry; a barrier's own operation updates it; an overlay's end
maps its pages; a LAUNCH whose record has been read arms a FREE slot. A collective's participant joins with its header and its rows; where all
have joined and agree, its result is written, the sum rounded once, the choice of R138 or the exact aligned sum, and its arrival counts. A
bundle held for an entry is due again (R258, R264, R288-R291, R298, R299, R301, R306-R310, R356).
That an operation moves a sector in each of its turns is the model's choice (logs 4 and 6), and so are the sums of operations 0 to 2, which take no
TSCALE (log 60), and the header of their result, which is the contribution's (log 67). -/
def Obligations.OperationEvents : Prop :=
  (∀ (s : State) (o : Op), s.AtOp o → s.ops = [o] →
    let moves (t : State) : Prop := exec (.asyncSectorTransfer o.seq) s = .next t
    let open_ : Prop := o.finished = false ∧ (o.usesDm = true → s.mayReport o = true)
    let at_ (k : OpKind) (fin : Bool) : Op := { o with kind := k, finished := fin, held := false }
    (o.usesDm = true → s.mayReport o = false → moves s) ∧
    (∀ u a va n k pl t, o.kind = .xld u a va n k → open_ → s.ctxRead s.ctx (va + k) = .ok pl → s.poisoned pl = false → s.letIn pl = some t →
      moves (((t.ctxTouch (va + k) true false).fill u (a + k) (s.devRead pl (min 32 (n - k)))).setOp
        (at_ (.xld u a va n (k + 32)) (decide (n ≤ k + 32))))) ∧
    (∀ u a va n k pl t, o.kind = .xst u a va n k → open_ → s.core.spoiled u (a + k) (min 32 (n - k)) = false → s.ctxWrite s.ctx (va + k) = .ok pl →
      pl.bad = false → s.letIn pl = some t → ∃ t', moves t' ∧ t'.ops = [at_ (.xst u a va n (k + 32)) (decide (n ≤ k + 32))] ∧ t'.core = s.core ∧
        t'.dram = ((t.ctxTouch (va + k) false true).devWrite pl ((s.core.buf u).bytes (a + k) (min 32 (n - k)))).dram) ∧
    (∀ op va y res d pl t, o.kind = .xatom op va y res d → open_ → s.ctxModify s.ctx va = .ok pl → s.poisoned pl = false → s.letIn pl = some t →
      let old := BitVec.ofNat 64 (ofLe (s.devRead pl 8))
      ∃ t', moves t' ∧ t'.ops = [at_ (.xatom op va y res true) true] ∧
        t'.core = { s.core with ab := s.core.ab.wrList (place res (toLe 8 old.toNat)) } ∧
        t'.dram = ((t.ctxTouch va true true).devWrite pl (toLe 8 (atomic op old y).toNat)).dram) ∧
    (∀ src dst t row col sd hdr d, o.kind = .xcopy src dst t row col sd hdr d → open_ →
      let ss := tmplFld t 4 2
      let ds := tmplFld t 6 2
      let h := tmplHmode t
      let off := match sd with
        | some d => d
        | none => if h = 0 then 0 else (Hdr.ofNat ((hdr.getD 0).toNat)).doff
      let next := if col + 32 < tmplRowBytes t then (row, col + 32) else (row + 1, 0)
      (∀ t1 l, h ≠ 0 → hdr = none → s.take ss src 32 = .bytes t1 l →
        (copyHdrFault t l = none → moves (t1.setOp (at_ (.xcopy src dst t row col sd (some (BitVec.ofNat 256 (ofLe l))) d) false))) ∧
        (∀ f, copyHdrFault t l = some f → moves (t1.stopOp (at_ o.kind false) f.1 f.info (if f.2.1 = 3 then dst else src)))) ∧
      (∀ t1 l, h = 0 ∨ hdr ≠ none → row < tmplRows t →
        (o.got = none ∧ s.take ss ((src + off + row * tmplSstride t + col) % 2 ^ 64) 32 = .bytes t1 l) ∨ (o.got = some l ∧ t1 = s) →
        let put := t1.put ds ((dst + (if h = 2 then 32 else 0) + row * tmplDstride t + col) % 2 ^ 64) l
        (∀ t2 x, put = .bytes t2 x →
          moves (t2.moved { at_ (.xcopy src dst t next.1 next.2 sd hdr d) (decide (next.1 = tmplRows t ∧ h ≠ 2)) with got := none } 32)) ∧
        (put = .held → moves (t1.holdSector { at_ o.kind false with got := some l }))) ∧
      (∀ t2 x, h = 2 → hdr ≠ none → tmplRows t ≤ row →
        s.put ds dst (rewrittenHdr t (Hdr.ofNat ((hdr.getD 0).toNat))).image = .bytes t2 x →
        moves (t2.moved (at_ (.xcopy src dst t row col sd hdr true) true) 32))) ∧
    (∀ u a va n k f c, o.kind = .xld u a va n k → o.finished = true → o.waitRel = [] → o.bar = none → o.flag = some (f, o.px, o.py) → f < 32 →
      s.core.addFlag (Fin.ofNat 32 f) 1 = some c → exec (.asyncOperationComplete o.seq) s = .next { s.dropOp o with core := c }) ∧
    ((∃ u a va n k, o.kind = .xld u a va n k) ∨ (∃ u a va n k, o.kind = .xst u a va n k) ∨ (∃ op va y res d, o.kind = .xatom op va y res d) ∨
        (∃ src dst t row col sd hdr d, o.kind = .xcopy src dst t row col sd hdr d) →
      o.finished = true → s.mayReport o = true → o.bar = none ∨ o.owed = 0 →
      exec (.asyncOperationComplete o.seq) s = .next ((s.opPost o).dropOp o)) ∧
    (∀ ref u t ok, o.kind = .bar ref u → s.mayReport o = true → s.barHeld ref u = false → s.opBar o ref u = (t, ok) →
      exec (.asyncOperationComplete o.seq) s = .next (t.dropOp o)) ∧
    (∀ id k e code t n, o.kind = .ovl id k → o.waitRel = [] → s.ctx.image.ovls.find? (fun e => e.ovl == id && (e.isle.getD s.isleIx == s.isleIx)) = some e →
      s.overlayCode e = .ok code → s.pass ((s.overlaySectors e).drop k) = (t, n) →
      (n = (s.overlaySectors e).length - k → exec (.ovlComplete o.seq) s =
        .next (((({ t with core := t.core.mapOverlay e code } : State).overlayTouch e).opPost o).dropOp o)) ∧
      (n < (s.overlaySectors e).length - k → ∃ b, let q : Op := { o with kind := .ovl id (k + n), held := b }
        exec (.ovlComplete o.seq) s = .next ((t.setOp q).holdSector q))) ∧
    (∀ n l, o.kind = .launch n l → l.length = 128 → o.waitRel = [] → (s.slotAt n).st = .free →
      ∃ t, exec (.launchReachesTable o.seq) s = .next t ∧ t.ops = [] ∧ t = (s.arm n fun x =>
        { x with wfn := 0xFF, record := Mem.wrList [] (place 8 (l.drop 8)) }).dropOp o) ∧
    (∀ t base failed dst n, o.kind = .coll t base true failed dst n → o.finished = true → o.waitRel = [] → o.bar = none →
      exec (.collComplete o.seq) s = .next (s.dropOp o)) ∧
    (∀ t base f dst n, o.kind = .coll t base false f dst n → open_ → s.collSector t base n = none →
      moves (s.joinColl (at_ o.kind false) t base)) ∧
    (∀ t base f dst n g c, o.kind = .coll t base true f dst n → o.finished = false → nextColl (collGid t) s.contribs = some g →
      g.filter (fun c => c.origin.isSome) = [c] → c.origin = some o.seq → (∀ c ∈ g, c.failed = false) → collAgrees g = true →
      s.resultPlace o = none → (s.writeResult g o).2 = none →
      exec (.collComplete o.seq) s = .next (collArrive (at_ o.kind true)
        (giveResult g o { s with contribs := s.contribs.filter fun c => !g.contains c })))) ∧
  (∀ (s : State) (o : Op) (t : BitVec 512) (base : Nat) (a b l : List Byte), s.readVa s.ctx.asid s.ctx.pid (collSrc t base) 32 = .ok a →
    s.readVa s.ctx.asid s.ctx.pid (collDst t base) 32 = .ok b →
    let c : Contribution :=
      { gid := collGid t, rank := collRank t, npart := collParts t, op := collOp t, failed := false, header := BitVec.ofNat 256 (ofLe a), bytes := l
        who := (o.slot, o.px, o.py), origin := some o.seq }
    (collHdrFault (collOp t) a b = none → s.readVa s.ctx.asid s.ctx.pid (collSrc t base) (Hdr.ofNat (ofLe a)).dataEnd = .ok l →
      s.joinColl o t base = ({ s with contribs := s.contribs ++ [c] } : State).setOp
        { o with kind := .coll t base true false (BitVec.ofNat 256 (ofLe (if collOp t = 3 then b else a))) 0 }) ∧
    (∀ f, collHdrFault (collOp t) a b = some f → (s.joinColl o t base).contribs = s.contribs ++ [{ c with failed := true, header := 0, bytes := [] }])) ∧
  (∀ (dst : Hdr) (parts : List (Hdr × Mem)) (op : Nat),
    let f := tagFmt (BitVec.ofNat 32 (dst.efd % 2 ^ 24))
    (op ≠ 3 → (reduction op dst parts).1 = (List.range dst.rows).map fun r =>
      (dst.doff + r * dst.stride, (List.range dst.cols).flatMap fun c =>
        toLe (f.width / 8) (reduceElem op f (parts.map fun p => p.1.elem f p.2 0 r c)).1)) ∧
    (∀ r g, r < dst.rows → g < ceilDiv dst.cols 128 →
      let row := (exactGroup (parts.map fun p => readGroup p.2 (accAddr 0 p.1 r g))).1
      (accAddr 0 dst r g, toLe 2 (wrap row.e 16) ++ List.replicate 30 0 ++ (List.range 128).flatMap fun j =>
        toLe 8 (if 128 * g + j < dst.cols then (row.s.getD j 0).toNat else 0)) ∈ (reduction 3 dst parts).1)) ∧
  (∀ (f : Fmt) (x : Nat) (l : List Nat),
    (f.isInt = true → reduceElem 0 f l = clampInt f (l.map (intOf f)).sum) ∧
    (f.isInt = false → reduceElem 0 f (x :: l) = floatResult f ((x :: l).any fun y => (valueOf f y).isNan)
      (l.foldl (fun a y => a.add (valueOf f y)) (valueOf f x)) { rm := .rne, sat := false, r := 0 }) ∧
    reduceElem 1 f (x :: l) = (l.foldl (pickElem f true) x, none) ∧ reduceElem 2 f (x :: l) = (l.foldl (pickElem f false) x, none)) ∧
  (∀ (parts : List AccRow) (e : Int) (j : Nat), (∀ p ∈ parts, p.e = e ∧ ∀ x ∈ p.s, x ≠ accNan) → (∃ p ∈ parts, ∃ x ∈ p.s, x ≠ 0) → j < 128 →
    (exactGroup parts).1 = (packRow 0 (alignedSum parts).1).1 ∧
    (alignedSum parts).1[j]? = some (.ofInt ((parts.map fun p => (p.s.getD j 0).toInt).sum) e) ∧ (exactGroup parts).2.1 = false) ∧
  (∀ (z : State) (pl : Place) (n : Nat) (l : List Byte), z.dram.wf = true →
    (z.awaitsZero pl = false → z.devRead pl n = z.dram.bytes pl.key n ∧ ∀ b, (z.devWrite pl l).dram.rd b =
      if pl.key ≤ b ∧ b < pl.key + l.length then l.getD (b - pl.key) 0 else z.dram.rd b) ∧
    (z.awaitsZero pl = true → z.devRead pl n = List.replicate n 0 ∧ ∀ b, (z.devWrite pl l).dram.rd b =
      if pl.key ≤ b ∧ b < pl.key + l.length then l.getD (b - pl.key) 0
      else if pl.frame ≤ b ∧ b < pl.frame + pl.size then 0 else z.dram.rd b)) ∧
  (∀ (s : State) (side a n : Nat) (l : List Byte),
    (∀ u, sideBuf side = some u → s.put side a l = .bytes (s.fill u a l) [] ∧
      (s.core.spoiled u a n = false → s.take side a n = .bytes s ((s.core.buf u).bytes a n))) ∧
    (∀ pl t, sideBuf side = none → s.letIn pl = some t →
      (s.ctxRead s.ctx a = .ok pl → s.poisoned pl = false → s.take side a n = .bytes (t.ctxTouch a true false) (s.devRead pl n)) ∧
      (s.ctxWrite s.ctx a = .ok pl → pl.bad = false → ∃ t', s.put side a l = .bytes t' [] ∧
        t'.dram = ((t.ctxTouch a false true).devWrite pl l).dram ∧ t'.core = s.core))) ∧
  (∀ s : State, s.left = [] → s.right = [] →
    exec .copyUnitEntryFree s = .next (if s.holdOver then s.onCore fun c => { c with hold := none } else s))

/-- The events of waits: where every isle's wait is satisfied, and only there, the waits of all isles of the region are consumed together, a WAITF by
its count from its own isle's flag; a barrier's phase
read lets the bundle that waits for it issue as soon as its sector has passed the arbiters, and a handle's entry fetch likewise. An unsatisfied wait with a signaller enters the wait-for table of its die as R359 lays
its entry out, once, and is counted where the table holds 4,096 (R352, R359, R371, R375, R384).
Where a known phase is kept is the model's choice (log 45). -/
def Obligations.WaitEvents : Prop :=
  (∀ (s : State),
    (s.allWaitsMet = true ↔ ∀ n, n < s.isleCount → (s.focusIsle n).waitMet = true) ∧
    (s.allWaitsMet = false → exec .waitSatisfied s = .next s) ∧
    (s.allWaitsMet = true → ∃ t, exec .waitSatisfied s = .next t ∧ t.isleCount = s.isleCount ∧ t.ctx = s.ctx ∧ t.others = s.others ∧
      ∀ n, n < s.isleCount →
        let c := (s.focusIsle n).core
        let d := (t.focusIsle n).core
        d.wait = none ∧
        (∀ f k sig, c.wait = some (.flag f k sig) → d.flag = c.flag.set f (c.flag[f] - BitVec.ofNat 16 k)) ∧
        ((∀ f k sig, c.wait ≠ some (.flag f k sig)) → d.flag = c.flag))) ∧
  ∀ (s : State), s.left = [] → s.right = [] →
    (∀ f n sig, s.core.wait = some (.flag f n sig) → n ≤ (s.core.flag[f]).toNat → ∃ x : BitVec 16, x.toNat = (s.core.flag[f]).toNat - n ∧
      exec .waitSatisfied s = .next (s.onCore fun c => { c with wait := none, flag := c.flag.set f x })) ∧
    (∀ f n sig, s.core.wait = some (.flag f n sig) → (s.core.flag[f]).toNat < n → exec .waitSatisfied s = .next s) ∧
    (∀ sig, s.core.wait = some (.yielding sig) → exec .waitSatisfied s = .next (s.onCore fun c => { c with wait := none })) ∧
    (∀ va pl, s.ctx.live = true → s.core.hold = some (.phaseRead va) ∨ s.core.hold = some (.phaseWait va) → s.ctxRead s.ctx va = .ok pl →
      (∀ t, (s.ctxTouch va true false).letIn pl = some t → exec (.barrierPhaseRead s.ctx.slot va) s = .next { t with core :=
        { s.core with hold := none, phases := ((va, pl.key) :: s.core.phases.filter (·.1 != va)).take 16 } }) ∧
      ((s.ctxTouch va true false).letIn pl = none → s.core.hold = some (.phaseRead va) → exec (.barrierPhaseRead s.ctx.slot va) s =
        .next ((s.onCore fun c => { c.count 0x14 1 with hold := some (.phaseWait va) }).await (.barrierPhaseRead s.ctx.slot va))) ∧
      ((s.ctxTouch va true false).letIn pl = none → s.core.hold = some (.phaseWait va) →
        exec (.barrierPhaseRead s.ctx.slot va) s = .next (s.await (.barrierPhaseRead s.ctx.slot va)))) ∧
    (∀ q idx, s.parts = [q] → q.pid = s.ctx.pid → q.handles = [] → q.whtBusy = none → s.others = [] → s.core.hold = some (.handleFetch idx) →
      ∃ t, exec (.whtEntryFetch q.pid idx) s = .next t ∧ t.core = { s.core with hold := none } ∧
        ∃ e, t.parts = [{ q with handles := [e] }] ∧ e.idx = idx ∧ e.valid = false) ∧
    (∀ kind sig obj, s.waitMet = false → s.waitEntry = some (kind, sig, obj) → kind < 8 → s.ctx.slot < 4096 → sig < 4096 →
      let held := (s.waitfor.filter fun e => e.1 / 2 ^ 24 == s.waitKey / 2 ^ 24).length
      ((∃ e ∈ s.waitfor, e.1 = s.waitKey) → s.enterWait = s) ∧
      ((∀ e ∈ s.waitfor, e.1 ≠ s.waitKey) → 4096 ≤ held → s.enterWait = { s with waitforLost := s.waitforLost + 1 }) ∧
      ((∀ e ∈ s.waitfor, e.1 ≠ s.waitKey) → held < 4096 → ∃ x : BitVec 128, s.enterWait = { s with waitfor := s.waitfor ++ [(s.waitKey, x)] } ∧
        x.getLsbD 127 = true ∧ (x.extractLsb' 124 3).toNat = kind ∧ (x.extractLsb' 112 12).toNat = s.ctx.slot ∧
        (x.extractLsb' 100 12).toNat = sig ∧ x.extractLsb' 64 36 = 0 ∧ (x.extractLsb' 0 64).toNat = obj % 2 ^ 64))

/-! ## Kites and the launch table (R311-R342) -/

/-- The events of a kite: an arrival and a fault packet end the packet that they name, a fault packet recording KITE_FAULT 0x8A with its code; one
that names no outstanding packet freezes the kite and resets its socket; an arrival whose barrier's sector must wait, or that follows a write of its packet which waits, keeps the packet until that has passed; ABANDON ends the QUIESCE and parks the packets of its context; a QUIESCE unanswered after its time freezes the kite; a socket comes
up, its firmware measured; a tether access moves the bytes at its VA once its sectors have passed, or answers an error (R313, R316-R319, R384,
R399).
The corners of R311 to R319 are the model's choice (log 33), the measurement itself is open (log 8). -/
def Obligations.KiteEvents : Prop :=
  ∀ (s : State) (k kctx n cbar bytes code : Nat), (s.sock k).present = true → (s.sock k).frozen = false →
    let freezes (i : Instr) : Prop := ∃ t, exec i s = .next t ∧ (t.sock k).frozen = true ∧ (t.sock k).link = false ∧ (t.sock k).packets = []
    let pidOf (q : Packet) : Nat := ((s.partOfSlot q.slot).map (·.pid)).getD 0
    (s.packetOf k kctx n = none → (s.endingPacket k kctx n bytes = none → freezes (.kiteArrive k kctx n cbar bytes)) ∧
      freezes (.faultPacket k kctx n code)) ∧
    (∀ q, s.packetOf k kctx n = some q →
      (q.cbar ≠ cbar → freezes (.kiteArrive k kctx n cbar bytes)) ∧
      (∀ t, q.cbar = cbar → s.writesWait k q = false → s.arriveHeld q (pidOf q) bytes = false →
        ((s.touch q.asid (pidOf q) ((BarUpd.kite bytes).asked cbar true)).withSlot q.slot fun s =>
          (s.barLetIn q.asid (pidOf q) cbar true (.kite bytes)).getD s).barAt q.asid (pidOf q) cbar true (.kite bytes) = .ok t →
        exec (.kiteArrive k kctx n cbar bytes) s = .next (t.endPacket k q)) ∧
      (∀ own, q.cbar = cbar → (s.writesWait k q = true ∧ own = false) ∨ (s.writesWait k q = false ∧ s.arriveHeld q (pidOf q) bytes = true ∧ own = true) →
        ∃ t, exec (.kiteArrive k kctx n cbar bytes) s = .next t ∧ t.dram = s.dram ∧ .kiteArrive k q.kctx (q.seq % 65536) q.cbar bytes ∈ t.waits ∧
        (t.sock k).packets = (s.sock k).packets.map fun y =>
          if y.kctx == q.kctx && y.seq == q.seq then { y with ending := some bytes, metered := y.metered || own } else y) ∧
      (q.abandoned = false → q.faulted = false → s.ctx.live = true → s.ctx.slot = q.slot → ∃ t, exec (.faultPacket k kctx n code) s = .next t ∧
        (t.sock k).packets = (s.sock k).packets.filter (fun y => !(y.kctx == q.kctx && y.seq == q.seq)) ∧
        t.ctx.faults = s.ctx.faults ++ [{ seq := q.issue, px := q.px, py := q.py, flag := none, bar := some (BitVec.ofNat 64 q.cbar)
                                          trap := { cause := 0x0D, addr := q.seq, info := 0x8A + code % 2 ^ 32 * 2 ^ 32, slot := 0, issued := false } }])) ∧
    (∀ seqs : List Nat,
      let mine := (s.sock k).packets.filter fun q => q.kctx == kctx && q.ending.isNone
      (∃ d, (kctx, d) ∈ (s.sock k).quiesce) → seqs.length ≤ 16 → (∀ x ∈ seqs, ∃ q ∈ mine, q.seq % 65536 = x) →
      (∀ q ∈ mine, q.seq % 65536 ∈ seqs) → ∃ t, exec (.abandon k kctx seqs) s = .next t ∧
        (t.sock k).packets = (s.sock k).packets.filter (fun q => q.kctx != kctx || q.ending.isSome) ∧
        (t.sock k).parked = (s.sock k).parked ++ mine.filter (fun q => !q.abandoned) ∧ (∀ d, (kctx, d) ∉ (t.sock k).quiesce)) ∧
    ((∀ q ∈ (s.sock k).quiesce, s.now < q.2) → exec (.kiteQuiesceTimeout k) s = .next s) ∧
    ((∃ q ∈ (s.sock k).quiesce, q.2 ≤ s.now) → freezes (.kiteQuiesceTimeout k)) ∧
    (∀ (vendor device : Nat) (identity : List Byte), ∃ m : List Byte, exec (.socketBringUp k vendor device identity) s = .next
      (({ s with
        measured := (6 + 2 * k, m) :: s.measured.filter (·.1 != 6 + 2 * k)
        fresh := s.fresh + 1 } : State).onSock k fun x =>
          { x with present := true, link := true, frozen := false, vendor := vendor, device := device, identity := identity })) ∧
    (∀ (r : TetherReq) (q : Packet), r.sock = k → s.packetOf k r.kctx r.seq16 = some q →
      (q.asid ≠ r.asid ∨ r.wellFormed = false → freezes (.tetherRequest r)) ∧
      (∀ l, q.asid = r.asid → r.wellFormed = true → r.write = none →
        let u := s.touchAll r.asid (pidOf q) (.tether r.va false) r.len
        u.tetherPlaces r.asid (pidOf q) false r.va r.len = .ok l → (∀ pl ∈ l, pl.bad = false ∧ u.poisoned pl = false) →
        (∀ t, u.tetherPays r q l = (t, true) →
          exec (.tetherRequest r) s = .next (t.onSock k fun x => { x with answer := some (l.flatMap fun pl => u.devRead pl 1) })) ∧
        (∀ t, u.tetherPays r q l = (t, false) → exec (.tetherRequest r) s = .next t)) ∧
      (∀ l b, q.asid = r.asid → r.wellFormed = true → r.write = some b →
        let u := s.touchAll r.asid (pidOf q) (.tether r.va true) b.length
        u.tetherPlaces r.asid (pidOf q) true r.va b.length = .ok l → (∀ pl ∈ l, pl.bad = false) →
        (∀ t, u.tetherPays r q l = (t, true) →
          exec (.tetherRequest r) s = .next ((State.writePlaces (l.zip b) t).onSock k fun x => { x with answer := some [] })) ∧
        (∀ t, u.tetherPays r q l = (t, false) → exec (.tetherRequest r) s = .next t)) ∧
      (∀ l, s.hasCtx q.slot = false → s.tetherPays r q l = (s.onSock k fun x => { x with tether := x.tether.filter (·.1 != r) }, true)) ∧
      (∀ l t, s.tetherPays r q l = (t, false) → t.dram = s.dram ∧ .tetherRequest r ∈ t.waits ∧ ∃ m, (r, m) ∈ (t.sock k).tether) ∧
      (∀ f, q.asid = r.asid → r.wellFormed = true → r.write = none →
        let u := s.touchAll r.asid (pidOf q) (.tether r.va false) r.len
        u.tetherPlaces r.asid (pidOf q) false r.va r.len = .error f →
        ∃ t, exec (.tetherRequest r) s = .next t ∧ t.dram = u.dram ∧ (t.sock k).answer = none))

/-- The host's commands on a launch slot, from every state that R337 admits, and the bit that says that a command was dropped in every other; a
command behind a host write that waits waits with it; SUSPEND of a slot with its context records the request with its region. DEPENDENCE_SATISFIED
with the checks of arming, the image's reads and the dependences, PLACEMENT of a slot that is turned away, waits or is placed, and the aging of a READY slot
(R264, R334-R342, R344).
Which commands a state drops is the model's choice where R337 does not say it (logs 31 and 65), and when the state word shows the level of a
READY slot (log 64). -/
def Obligations.SlotCommands : Prop :=
  ∀ (s : State) (fn slot : Nat),
    let x := s.slotAt slot
    let after (i : Instr) (y : LSlot) : Prop := ∃ t, exec i s = .next t ∧ t.slotAt slot = y ∧ s.SlotsBut slot t ∧ t.dram = s.dram ∧ t.core = s.core
    let from_ (u : State) (i : Instr) (y : LSlot) : Prop := ∃ t, exec i s = .next t ∧ t.slotAt slot = y ∧ s.SlotsBut slot t ∧ t.dram = u.dram ∧
      t.core = s.core
    let armed (y : LSlot) : LSlot := { y with st := .armed, checked := false, found := none, dep0 := false, dep1 := false, savedMid := false }
    let entered (y : LSlot) : LSlot := { y with st := .ready, readyAt := s.now, eprio := x.prio }
    let held : Prop := x.st = .armed ∨ x.st = .ready ∨ x.st = .placed ∨ x.st = .running ∨ x.st = .suspending ∨ x.st = .suspended
    let asked := if isPf fn then { x with hreq := true } else { x with greq := true }
    let freed := if isPf fn then { x with hreq := false } else { x with greq := false }
    ((s.fn fn).frozen = true → ∀ k off b, exec (.slotSet fn slot 0) s = .next s ∧ exec (.slotSet fn slot 2) s = .next s ∧
      exec (.suspend fn slot) s = .next s ∧ exec (.resume fn slot) s = .next s ∧ exec (.kill fn slot) s = .next s ∧
      exec (.hostRecordWrite fn (slot + k) off b) s = .next s) ∧
    ((s.fn fn).frozen = false → s.hostWrites (fun r => portOf r.fn == portOf fn) = true → ∀ st off b,
      ∀ i ∈ [Instr.slotSet fn slot st, .suspend fn slot, .resume fn slot, .kill fn slot, .hostRecordWrite fn slot off b],
        exec i s = .next { s with waits := s.waits ++ [i] }) ∧
    (s.Reaches fn slot →
      (x.st = .free → after (.slotSet fn slot 2) (armed { x with wfn := fn })) ∧
      (x.st = .writing → x.wfn = fn → after (.slotSet fn slot 2) (armed x) ∧ after (.slotSet fn slot 0) { n := slot }) ∧
      (x.st = .retired ∨ x.st = .faulted → after (.slotSet fn slot 0) { n := slot }) ∧
      (∀ off b, 8 ≤ off → off < 128 → x.st = .free →
        after (.hostRecordWrite fn slot off b) { x with st := .writing, wfn := fn, record := x.record.wr off b }) ∧
      (∀ off b, 8 ≤ off → off < 128 → x.st = .writing → x.wfn = fn →
        after (.hostRecordWrite fn slot off b) { x with record := x.record.wr off b }) ∧
      (x.st = .armed ∨ x.st = .suspending → after (.suspend fn slot) asked) ∧
      (x.st = .suspended → exec (.suspend fn slot) s = .next s) ∧
      (x.st = .ready → after (.suspend fn slot) { asked with st := .suspended }) ∧
      (x.st = .placed ∨ x.st = .running → s.hasCtx slot = false → after (.suspend fn slot) { asked with st := .suspending }) ∧
      (x.st = .placed ∨ x.st = .running → s.hasCtx slot = true → ∃ t, exec (.suspend fn slot) s = .next t ∧
        t.slotAt slot = { asked with st := .suspending } ∧ s.SlotsBut slot t ∧ t.dram = s.dram ∧ (s.ctx.live = true → s.ctx.slot = slot → t.core = s.core) ∧
        .suspensionRequest slot ∈ t.agenda ∧ (∀ g, s.region x.rid = some g → ∃ h, t.region x.rid = some h ∧ slot ∈ h.preempt ∧ h.act = g.act) ∧
        (s.pressed slot = false → s.ctx.live = true → s.ctx.slot = slot →
          t.ctx = { s.ctx with sinceSafe := 0, overdue := 0, reqAt := s.now })) ∧
      (x.st = .armed ∨ x.st = .ready ∨ x.st = .placed ∨ x.st = .running ∨ x.st = .suspending → after (.resume fn slot) freed) ∧
      (x.st = .suspended → freed.wanted = true → after (.resume fn slot) freed) ∧
      (x.st = .suspended → freed.wanted = false → after (.resume fn slot) (entered freed)) ∧
      (held → s.hasCtx slot = true → exec (.kill fn slot) s = .next { s with agenda := .teardown slot 0 1 :: s.agenda }) ∧
      (held → s.hasCtx slot = false → x.cbar = 0 → (s.saved.any fun r => r.ctx.slot == slot) = false →
        after (.kill fn slot) { x with st := .faulted, fcause := 0, freason := 1 }) ∧
      (held → s.hasCtx slot = false → x.cbar = 0 → (s.saved.any fun r => r.ctx.slot == slot) = true →
        after (.kill fn slot) { x with st := .faulted, fcause := 0, freason := 1, dying := none, savedMid := false }) ∧
      (¬ held → exec (.kill fn slot) s = .next (s.dropped fn) ∧ exec (.suspend fn slot) s = .next (s.dropped fn) ∧
        exec (.resume fn slot) s = .next (s.dropped fn))) ∧
    (∀ p, s.partOfSlot slot = some p → x.st = .armed → x.checked = true → x.dep0 = true → x.dep1 = true →
      (x.wanted = false → after (.dependenceSatisfied slot) (entered x)) ∧
      (x.wanted = true → after (.dependenceSatisfied slot) { x with st := .suspended })) ∧
    (∀ p, s.partOfSlot slot = some p → x.st = .armed → x.checked = false →
      let u := s.armTouch p x
      (∀ r, u.armCheck p x = .error r → x.cbar = 0 →
        from_ u (.dependenceSatisfied slot) { x with st := .faulted, fcause := 0, freason := r.1 }) ∧
      (∀ va, u.armCheck p x = .ok va →
        let y := { x with checked := true, chosen := va }
        let v := u.imageTouch y p
        (∀ r, v.armLoad p y = .error r → x.cbar = 0 →
          from_ v (.dependenceSatisfied slot) { x with st := .faulted, fcause := 0, freason := r.1 }) ∧
        (∀ z, v.armLoad p y = .ok z →
          let w := v.depTouch p x
          (∀ a b, w.lookDep x 0 = .ok a → w.lookDep x 1 = .ok b →
            let y := { z with dep0 := a, dep1 := b }
            from_ w (.dependenceSatisfied slot) (if a && b then (if x.wanted then { y with st := .suspended } else entered y) else y)) ∧
          (∀ r, w.lookDep x 0 = .error r ∨ (∃ a, w.lookDep x 0 = .ok a) ∧ w.lookDep x 1 = .error r → x.cbar = 0 →
            from_ w (.dependenceSatisfied slot) { x with st := .faulted, fcause := 0, freason := r.1 })))) ∧
    (∀ p, s.partOfSlot slot = some p → p.placing x = false → exec (.placement slot) s = .next s) ∧
    (∀ p, s.partOfSlot slot = some p → p.placing x = true → (s.passOrder p).head? = some x →
      let u := if x.image.isNone && x.found.isNone then s.imageTouch x p else s
      (∀ r, x.cbar = 0 → (s.saved.any fun r => r.ctx.slot == slot) = false → u.attempt p x = .reject r →
        from_ u (.placement slot) { x with st := .faulted, fcause := 0, freason := r.1 }) ∧
      (∀ i, u.attempt p x = .pass i → from_ u (.placement slot) { x with image := some i }) ∧
      (∀ i q v, u.attempt p x = .plan i q → u.bringIn x p i q = .ok v → ∃ t, exec (.placement slot) s = .next t ∧ (t.slotAt slot).st = .placed ∧
        (t.slotAt slot).rid = q.region.rid ∧ (t.slotAt slot).ctx = q.ctxid.val ∧ (t.slotAt slot).image = some i)) ∧
    (x.st = .ready → after (.eprioAging slot) { x with eprio := min 7 (x.prio + (s.now - x.readyAt) / 200000) }) ∧
    (x.st ≠ .ready → exec (.eprioAging slot) s = .next s)

/-- The events of a region and its contexts: the selector's choice, a suspension asked for and completed, a relocation, an overdue safe point,
retirement, and a teardown (R36, R50, R52, R330, R343-R346).
Which context is ready since when, and how an overdue safe point is raised, is the model's choice (logs 26 and 35); so are the region number 512 of a
saved record (log 20) and, inferred, the point at which a suspension is complete (log 66). -/
def Obligations.RegionEvents : Prop :=
  (∀ (s : State) (rid : Nat) (r : Region), s.region rid = some r → s.mayChoose r = true → (∀ c ∈ r.cells, c ∉ s.waking) →
    (s.choose r = none → exec (.contextSwitch rid) s = .next (s.onRegion rid fun r => { r with switchReq := false })) ∧
    (∀ c, s.choose r = some c → some c.ctxid ≠ r.act → ∃ t, exec (.contextSwitch rid) s = .next t ∧
      (∃ g, t.region rid = some g ∧ g.act = some c.ctxid ∧ g.switchReq = false) ∧
      ((s.slotAt c.slot).st = .placed → (t.slotAt c.slot).st = .running)) ∧
    (∀ c, s.choose r = some c → (∀ d ∈ s.residents r.rid, d.sig = none) → c ∈ s.residents r.rid ∧ s.readySlot c.slot = true ∧
      ∀ d ∈ s.residents r.rid, s.readySlot d.slot = true → d.eprio < c.eprio ∨ d.eprio = c.eprio ∧ (c.since < d.since ∨
        c.since = d.since ∧ c.ctxid ≤ d.ctxid))) ∧
  (∀ (s : State) (slot fcause freason : Nat), s.ctx.live = true → s.ctx.slot = slot →
    let x := s.slotAt slot
    (x.st = .suspending → x.rid = s.ctx.rid → s.ctx.cstate ≠ .suspending → s.selected = true → s.atSafePoint = false →
      exec (.suspensionRequest slot) s = .next s) ∧
    (x.st = .suspending → x.rid = s.ctx.rid → s.ctx.cstate ≠ .suspending → s.selected = false ∨ s.atSafePoint = true →
      ∃ t, exec (.suspensionRequest slot) s = .next t ∧ t.ctx.cstate = .suspending ∧
        ∀ g, t.region s.ctx.rid = some g → g.act ≠ some s.ctx.ctxid ∧ slot ∉ g.preempt) ∧
    (x.st = .suspending → x.dying = none → s.quietForSave = true →
      (∀ u, s.writeSave x.save = (u, false) → exec (.suspensionComplete slot) s = .next { u with agenda := .teardown slot 0 6 :: u.agenda }) ∧
      (∀ u, s.writeSave x.save = (u, true) → ∃ t, exec (.suspensionComplete slot) s = .next t ∧ t.dram = u.dram ∧
        (∃ r : CtxRec, t.saved = r :: u.saved.filter (·.ctx.slot != slot) ∧ r.ctx = { u.ctx with rid := 512 } ∧ r.isles.length = u.isles.length) ∧
        (t.slotAt slot).savedMid = true ∧ ((u.slotAt slot).wanted = true → (t.slotAt slot).st = .suspended) ∧
        ((u.slotAt slot).wanted = false → (t.slotAt slot).st = .ready ∧ (t.slotAt slot).readyAt = s.now))) ∧
    (x.st = .placed ∨ x.st = .running → ∃ t, exec (.relocation slot) s = .next t ∧ t.slotAt slot = { x with st := .suspending, dreq := true }) ∧
    (s.left = [] → s.right = [] → s.others = [] → s.selected = true → s.requested = true → s.atSafePoint = false →
      (s.ctx.overdue ≠ 0 ∨ s.core.handler = true → exec (.safepointOverdue s.ctx.rid) s = .next { s with agenda := .teardown slot 0x12 0 :: s.agenda }) ∧
      (s.ctx.overdue = 0 → s.core.handler = false → s.core.spoilt 3 3072 32 = false → ∃ t, exec (.safepointOverdue s.ctx.rid) s = .next t ∧
        t.core.handler = true ∧ t.core.pc = 0 ∧ t.core.tcause = 0x12 ∧ t.core.tinfo = 0 ∧ t.core.tslot = tslotOf s.core.pc false 0 ∧
        t.ctx.overdue = 1)) ∧
    (x.st = .running → s.allEnded = true → s.drained = true → (∀ c ∈ s.isles, c.handler = false) → s.ctx.cstate ≠ .suspending → s.ctx.faults = [] →
      ∃ t, exec (.retirement slot) s = .next t ∧ t.ctx.live = false ∧ t.slotAt slot = { x with st := .retiring }) ∧
    (x.dying = none → s.ctx.kctx0 = none → s.ctx.kctx1 = none → x.cbar = 0 → ∃ t, exec (.teardown slot fcause freason) s = .next t ∧ t.ctx.live = false ∧
      t.ops = s.ops.filter (fun o => o.slot != slot) ∧ (t.slotAt slot).st = .faulted ∧ (t.slotAt slot).fcause = fcause ∧
      (t.slotAt slot).freason = freason)) ∧
  (∀ (s : State) (slot : Nat),
    ((s.slotAt slot).st = .retiring → (s.slotAt slot).cbar = 0 → ∃ t, exec (.retirementComplete slot) s = .next t ∧
      t.slotAt slot = { s.slotAt slot with st := .retired }) ∧
    ((s.slotAt slot).st = .suspended → s.checkpointing slot = false → (s.slotAt slot).dreq = true → (s.slotAt slot).hreq = false →
      (s.slotAt slot).greq = false → ∃ t, exec (.relocation slot) s = .next t ∧ t.slotAt slot = { s.slotAt slot with st := .ready, dreq := false }) ∧
    (s.hasCtx slot = false → (s.saved.any fun r => r.ctx.slot == slot) = false → exec (.teardown slot 0 0) s = .next s) ∧
    (s.hasCtx slot = false → (s.saved.any fun r => r.ctx.slot == slot) = true → (s.slotAt slot).cbar = 0 →
      ∃ t, exec (.teardown slot 0 6) s = .next t ∧ (t.slotAt slot).st = .faulted ∧ (t.slotAt slot).freason = 6 ∧
        (∀ r ∈ t.saved, r.ctx.slot ≠ slot) ∧ t.ops = s.ops.filter (·.slot != slot)))

/-! ## Functions and partitions (R254-R262, R351-R363, R386-R397) -/

/-- The registers of a function: FEATWR, ASIDCMD, DBGSEL, RSWIN, XINVCMD, WHTCMD and the registers that REGISTER_WRITE names, each with what it leaves and
when it is dropped; the completions of their commands, the coalescing timer, a host's read of memory and a function-level reset; an access through an
ASID that is not live in its partition misses with 0x63, a VA of more than 52 bits with 0x64; a host's request to the register block (R207, R250, R252,
R254-R257, R261, R262, R353, R363, R385, R389-R393, R397, R403). Where a command's end, an answer and a timer stand is the model's choice (logs 1 and 31); so
is that a function-level reset takes the interface out of ERROR (log 19), and what a frozen function answers (log 31). -/
def Obligations.FunctionRegisters : Prop :=
  (∀ (s : State) (fn off : Nat) (x : W64) (b : Byte) (idx : Nat),
    ((s.fn fn).frozen = true → ∀ i ∈ [Instr.featwr fn x, .asidcmdSet fn x, .asidcmdClear fn x, .dbgsel fn x, .rswin fn off b, .registerWrite fn 8 x,
      .invalidation fn x, .whtLoad fn idx, .whtUnload fn idx], exec i s = .next s) ∧
    (s.Hears fn → isPf fn = false → ∀ i ∈ [Instr.featwr fn x, .whtLoad fn idx, .whtUnload fn idx, .registerWrite fn 0x10 x], exec i s = .next (s.dropped fn)) ∧
    ((s.fn fn).drop = true → s.dropped fn = s) ∧
    ((s.fn fn).drop = false → ((s.dropped fn).fn fn).drop = true ∧ ((s.fn fn).frozen = false → (s.fn fn).mask[3] = false →
      ((s.dropped fn).fn fn).msix[3] = (s.fn fn).msix[3] + 1) ∧
      ((s.fn fn).mask[3] = true → ((s.dropped fn).fn fn).pend[3] = true ∧ ((s.dropped fn).fn fn).msix[3] = (s.fn fn).msix[3])) ∧
    (s.Hears fn → exec (.registerWrite fn 8 x) s = .next (s.onFn fn fun f =>
      { f with drop := f.drop && !x.getLsbD 0, evlost := f.evlost && !x.getLsbD 1 })) ∧
    (s.Hears fn → isPf fn = true → exec (.registerWrite fn 0x10 x) s = .next (s.onFn fn fun f => { f with pfsel := x.toNat % 128 })) ∧
    (s.hostWrites (·.fn == fn) = false → exec (.invalidationComplete fn) s = .next (s.onFn fn fun f => { f with xinvBusy := false })) ∧
    (s.hostWrites (·.fn == fn) = true → exec (.invalidationComplete fn) s = .next s) ∧
    ((s.fn fn).coalescing = true → (s.fn fn).coalAt ≤ s.now → (s.fn fn).frozen = false → (s.fn fn).mask[0] = false → ∃ t, exec (.msixCoalesceTimer fn) s = .next t ∧
      (t.fn fn).coalescing = false ∧ (t.fn fn).msix[0] = (s.fn fn).msix[0] + 1) ∧
    ((s.fn fn).coalescing = false ∨ s.now < (s.fn fn).coalAt →
      ((∀ k : Fin 4, (s.fn fn).pend[k] = true → (s.fn fn).mask[k] = true) → exec (.msixCoalesceTimer fn) s = .next s) ∧
      ((s.fn fn).frozen = true → exec (.msixCoalesceTimer fn) s = .next s) ∧
      ((s.fn fn).frozen = false → ∃ t, exec (.msixCoalesceTimer fn) s = .next t ∧ ∀ k : Fin 4,
        (t.fn fn).pend[k] = ((s.fn fn).pend[k] && (s.fn fn).mask[k]) ∧
        (t.fn fn).msix[k] = (s.fn fn).msix[k] + (if (s.fn fn).pend[k] && !(s.fn fn).mask[k] then 1 else 0))) ∧
    (∃ t, exec (.functionLevelReset fn) s = .next t ∧ (t.fn fn).frozen = false ∧ (t.fn fn).tdisp ≠ .error ∧
      ∀ k : Fin 4, (t.fn fn).pend[k] = ((s.fn fn).pend[k] && (s.fn fn).mask[k]) ∧
        (t.fn fn).msix[k] = (s.fn fn).msix[k] + (if (s.fn fn).pend[k] && !(s.fn fn).mask[k] then 1 else 0))) ∧
  (∀ (s : State) (fn idx off : Nat) (x : W64) (b : Byte) (p : Part), s.Hears fn → s.actsOn fn = some p →
    let root := (x.extractLsb' 16 32).toNat
    let a := (x.extractLsb' 0 16).toNat
    let named : Prop := ∃ y ∈ s.slots, y.st ≠ .free ∧ y.asid = a ∧ p.slotBase ≤ y.n ∧ y.n < p.slotBase + p.slotCnt
    (isPf fn = true → s.isLocked p = false →
      (p.featOpen = true → exec (.featwr fn x) s = .next (s.onPart p.pid fun p => { p with featAccept := x.toNat &&& p.featOffer, featOpen := false })) ∧
      (p.featOpen = false → exec (.featwr fn x) s = .next (s.dropped fn)) ∧
      exec (.whtLoad fn idx) s = .next (s.onPart p.pid fun p => if p.whtBusy.isSome then { p with whtErr := true, whtReason := 6 } else
        { p with whtBusy := some (BitVec.ofNat 64 (idx % 2 ^ 20)) }) ∧
      exec (.whtUnload fn idx) s = .next (s.onPart p.pid fun p => if p.whtBusy.isSome then { p with whtErr := true, whtReason := 6 } else
        { p with whtBusy := some (BitVec.ofNat 64 (2 ^ 62 + idx % 2 ^ 20)) })) ∧
    (x.extractLsb' 48 15 = 0 → p.asidBase ≤ a → a < p.asidBase + p.asidCnt →
      exec (.asidcmdSet fn x) s = .next { s with asids := (a, p.pid, root) :: s.asids.filter (·.1 != a) } ∧
      (¬ named → exec (.asidcmdClear fn x) s = .next { s with asids := s.asids.filter (·.1 != a) }) ∧
      (named → exec (.asidcmdClear fn x) s = .next (s.dropped fn))) ∧
    (a < p.asidBase ∨ p.asidBase + p.asidCnt ≤ a → exec (.asidcmdSet fn x) s = .next (s.dropped fn) ∧ exec (.asidcmdClear fn x) s = .next (s.dropped fn)) ∧
    (s.badInvalidation fn p x.toNat = false → exec (.invalidation fn x) s = .next (s.onFn fn fun f => { f with xinvBusy := true })) ∧
    (s.badInvalidation fn p x.toNat = true → exec (.invalidation fn x) s = .next (s.onFn fn fun f => { f with xinvErr := true })) ∧
    (isPf fn = false → (∀ q, s.partOfSlot (x.extractLsb' 0 12).toNat = some q → q.pid = p.pid → (s.fn fn).pid = some p.pid →
      exec (.dbgsel fn x) s = .next (s.onFn fn fun f => { f with
        dbgSlot := (x.extractLsb' 0 12).toNat, dbgPx := (x.extractLsb' 16 5).toNat, dbgPy := (x.extractLsb' 24 5).toNat, dbgRid := 0 }))) ∧
    (s.window fn = none → exec (.rswin fn off b) s = .next (s.dropped fn)) ∧
    (∀ (pid : Nat) (q : Asked), (∀ e ∈ s.asids, e.1 = a → e.2.1 ≠ pid) → s.translate a pid q =
      .error (9, (if q.va < 2 ^ 52 then 0x63 else 0x64) + (if q.wr then 2 ^ 11 else 0) + (if q.kite then 2 ^ 12 else 0))) ∧
    (∀ asid pid va t, s.window fn = some (asid, pid, va) → off < 10240 → s.writeVa asid pid (va + off) [b] = (t, none) →
      exec (.rswin fn off b) s = .next t)) ∧
  (∀ (s : State) (r : HostReq),
    let word (l : List Byte) : List Byte := (l.drop (r.gpa % 8)).take r.len
    let off := r.gpa / 8 * 8
    ((s.fn r.fn).frozen = true → exec (.hostMemoryRequest r) s = .next (s.onFn r.fn fun f => { f with answer := [1] })) ∧
    ((s.fn r.fn).frozen = false → s.wrongStream r = false → r.bar = true →
      (∀ w t, r.write = some w → exec (.registerWrite r.fn r.gpa (BitVec.ofNat 64 (ofLe w))) s = .next t →
        exec (.hostMemoryRequest r) s = .next (t.onFn r.fn fun f => { f with answer := [0] })) ∧
      (r.write = none → off < 0x12000 ∨ 0x14800 ≤ off ∨ s.window r.fn = none → exec (.hostMemoryRequest r) s =
        .next (s.onFn r.fn fun f => { f with answer := 0 :: word (toLe 8 (s.regAt r.fn off)) })) ∧
      (∀ asid pid va, r.write = none → 0x12000 ≤ off → off < 0x14800 → s.window r.fn = some (asid, pid, va) →
        let u := s.touchVa asid pid (va + (off - 0x12000)) 8
        (∀ l, u.readVa asid pid (va + (off - 0x12000)) 8 = .ok l → u.window r.fn = s.window r.fn →
          exec (.hostMemoryRequest r) s = .next (u.onFn r.fn fun f => { f with answer := 0 :: word (toLe 8 (ofLe l)) })) ∧
        (∀ a e, u.readVa asid pid (va + (off - 0x12000)) 8 = .error (.ecc a e) →
          ∃ t, exec (.hostMemoryRequest r) s = .next t ∧ (t.fn r.fn).answer = [2] ∧ t.dram = u.dram)))) ∧
  (∀ (s : State) (r : HostReq) (n : Nat) (p : Part), (s.fn r.fn).frozen = false → (s.fn r.fn).pid = some n → s.part n = some p → r.bar = false →
    (s.wrongStream r = true →
      exec (.hostMemoryRequest r) s = .next (({ s with agenda := .tdispBreach r.fn :: s.agenda } : State).onFn r.fn fun f => { f with answer := [1] })) ∧
    (s.wrongStream r = false → p.resetting = true → r.write.isSome = true → exec (.hostMemoryRequest r) s = .next (s.dropped r.fn)) ∧
    (∀ l, s.wrongStream r = false → r.write = none → s.gpaPlaces p false r.gpa r.len = some l → (∀ pl ∈ l, s.poisoned pl = false) →
      (∀ t now, s.hostPays r l = (t, now, true) →
        exec (.hostMemoryRequest r) s = .next ((t.zeroFrames l).onFn r.fn fun f => { f with answer := 0 :: l.flatMap fun pl => s.devRead pl 1 })) ∧
      (∀ t now, s.hostPays r l = (t, now, false) → exec (.hostMemoryRequest r) s = .next t)) ∧
    (∀ l, s.wrongStream r = false → r.write = none → s.gpaPlaces p false r.gpa r.len = some l → (∃ pl ∈ l, s.poisoned pl = true) →
      ∃ t, exec (.hostMemoryRequest r) s = .next t ∧ (t.fn r.fn).answer = [2] ∧ t.dram = s.dram) ∧
    (∀ l w, s.wrongStream r = false → p.resetting = false → r.write = some w → s.gpaPlaces p true r.gpa w.length = some l →
      (∀ t now, s.hostPays r l = (t, now, true) →
        exec (.hostMemoryRequest r) s = .next ((t.writeSectors now (l.zip w)).onFn r.fn fun f => { f with answer := [0] })) ∧
      (∀ t now, s.hostPays r l = (t, now, false) → exec (.hostMemoryRequest r) s = .next (t.writeSectors now (l.zip w)))) ∧
    (s.wrongStream r = false → r.write = none → s.gpaPlaces p false r.gpa r.len = none →
      exec (.hostMemoryRequest r) s = .next (s.onFn r.fn fun f => { f with answer := [1] }))) ∧
  (∀ (s : State) (p : Part) (w : W64), s.part p.pid = some p → p.whtBusy = some w → s.handleInUse p.pid (w.extractLsb' 0 20).toNat = false →
    (∀ h body, w.extractLsb' 62 2 = 0 → s.loadHandle p (w.extractLsb' 0 20).toNat = .ok (h, body) →
      exec (.whtCommandComplete p.pid) s = .next (((s.loadTouch p (w.extractLsb' 0 20).toNat).healResident p.pid h body.length).onPart p.pid fun p =>
        { p with
          whM := if h.bclass then p.whM else p.whM.wrList (place h.rwb body)
          whB := if h.bclass then p.whB.wrList (place h.rwb body) else p.whB
          whtBusy := none, handles := h :: p.handles.filter (·.idx != (w.extractLsb' 0 20).toNat) })) ∧
    (∀ r u, w.extractLsb' 62 2 = 0 → s.loadHandle p (w.extractLsb' 0 20).toNat = .error (r, u) →
      exec (.whtCommandComplete p.pid) s = .next (((if p.handleCount ≤ (w.extractLsb' 0 20).toNat then s else
        s.loadTouch p (w.extractLsb' 0 20).toNat).blame u).onPart p.pid fun p => { p with whtBusy := none, whtErr := true, whtReason := r })) ∧
    (w.extractLsb' 62 2 ≠ 0 → (w.extractLsb' 0 20).toNat < p.handleCount → exec (.whtCommandComplete p.pid) s = .next (s.onPart p.pid fun p =>
      { p with whtBusy := none, handles := p.handles.map fun h => if h.idx == (w.extractLsb' 0 20).toNat then { h with res := false } else h })))

/-- PARTCMD of a physical function: CREATE adds the partition of its descriptor or names its reason, one that meets a running command has
reason 0x07; RESET and DESTROY of a partition with no slot in use begin, and their end leaves its memory zero, its slots FREE, its handles gone,
and after DESTROY no partition (R395, R396).
Which steps come with the command and which with its end is the model's choice (logs 16 and 17). -/
def Obligations.PartitionCommands : Prop :=
  (∀ (s : State) (fn pid : Nat) (desc : List Byte), s.Hears fn → isPf fn = true →
    let p := Part.ofDesc pid fn desc
    ((s.fn fn).partBusy ≠ none → ∀ i ∈ [Instr.create fn pid desc, .partReset fn pid, .partDestroy fn pid],
      exec i s = .next (s.onFn fn fun f => { f with partErr := true, partReason := 7 })) ∧
    ((s.fn fn).partBusy = none → ∀ r, s.createFault p desc = some r →
      exec (.create fn pid desc) s = .next (s.onFn fn fun f => { f with partErr := true, partReason := r })) ∧
    ((∃ q ∈ s.parts, q.pid = pid) → s.createFault p desc = some 1) ∧
    ((s.fn fn).partBusy = none → s.createFault p desc = none → s.retiredFrames = [] → ∃ t, exec (.create fn pid desc) s = .next t ∧
      t.parts = s.parts ++ [s.usable p] ∧ (t.fn fn).partBusy = some (0, pid) ∧ (t.fn fn).partErr = false ∧ ∀ n ∈ p.fnmap, (t.fn n).pid = some pid) ∧
    ((s.fn fn).partBusy = none → s.part pid = none → ∀ i ∈ [Instr.partReset fn pid, .partDestroy fn pid],
      exec i s = .next (s.onFn fn fun f => { f with partErr := true, partReason := 1 })) ∧
    (∀ q, (s.fn fn).partBusy = none → s.part pid = some q → s.shareSlots q = [] →
      (∃ t, exec (.partReset fn pid) s = .next t ∧ (t.fn fn).partBusy = some (1, pid) ∧ t.part pid = some { q with resetting := true }) ∧
      (∃ t, exec (.partDestroy fn pid) s = .next t ∧ (t.fn fn).partBusy = some (2, pid) ∧ t.part pid = some { q with resetting := true }))) ∧
  (∀ (s : State) (fn op pid : Nat) (q : Part), (s.fn fn).partBusy = some (op, pid) → op ≠ 0 → s.part pid = some q →
    ((∃ c ∈ s.allCtx, c.pid = pid) → exec (.partcmdComplete fn) s = .next s) ∧
    ((∀ c ∈ s.allCtx, c.pid ≠ pid) → ∃ t, exec (.partcmdComplete fn) s = .next t ∧ (t.fn fn).partBusy = none ∧
      (∀ c ∈ q.chans, ∀ a, a < 2 ^ 31 → t.dram.rd ((channelBase c).1 * 2 ^ 40 + (channelBase c).2 + a) = 0) ∧
      (∀ n, q.slotBase ≤ n → n < q.slotBase + q.slotCnt → t.slotAt n = { n := n }) ∧ (∀ e ∈ t.asids, e.2.1 ≠ pid) ∧
      (op = 2 → t.part pid = none) ∧
      (op ≠ 2 → ∃ u, t.part pid = some u ∧ u.handles = [] ∧ u.featAccept = 0 ∧ u.featOpen = true ∧ u.resetting = false)))

/-- CKPTCMD and its steps: CHECKPOINT, RESTORE and ABORT start or end a command, one that meets a running command is dropped and a bad descriptor has
reason 0x01; a step of a command that is not running changes nothing; what peers send is kept; a contribution of a peer device joins its group, and
one that its link may not send is a breach (R306, R397, R404-R408).
The dropped second command, the reason of a bad descriptor and the steps of a command are the model's choice (log 18). -/
def Obligations.CheckpointEvents : Prop :=
  (∀ (s : State) (fn : Nat) (p : Part) (d : List Byte), s.Hears fn → s.actsOn fn = some p → s.part p.pid = some p →
    let u := (s.onPart p.pid fun p => { p with ckptPages := 0 }).touchGpa p p.ckptAddr 256
    let command (op : Nat) : Ckpt :=
      { op := op, fn := fn, desc := d, phase := 0, page := 0, entries := [], store := 0, since := s.now, manifest := [] }
    (p.ckpt ≠ none → exec (.checkpoint fn) s = .next (s.dropped fn) ∧ exec (.restore fn) s = .next (s.dropped fn)) ∧
    (p.ckpt = none → u.readGpa p p.ckptAddr 256 = .ok d → descBad p d = true →
      exec (.checkpoint fn) s = .next (u.ckptEnd p.pid fn (some 1)) ∧ exec (.restore fn) s = .next (u.ckptEnd p.pid fn (some 1))) ∧
    (p.ckpt = none → u.readGpa p p.ckptAddr 256 = .ok d → descBad p d = false → s.shareSlots p = [] →
      exec (.checkpoint fn) s = .next (u.onPart p.pid fun p => { p with ckptErr := false, ckptReason := 0, ckpt := some (command 0) }) ∧
      exec (.restore fn) s = .next (u.onPart p.pid fun p => { p with ckptErr := false, ckptReason := 0, ckpt := some (command 1) })) ∧
    (p.ckpt = none → exec (.abort fn) s = .next s) ∧
    (∀ c, p.ckpt = some c → c.op = 0 → s.shareSlots p = [] → exec (.abort fn) s = .next (s.ckptEnd p.pid c.fn none)) ∧
    (∀ c, p.ckpt = some c → c.op = 1 → c.ends = none → s.shareSlots p = [] → exec (.abort fn) s =
      .next ((s.onPart p.pid fun p => { p with resetting := true }).onCkpt p.pid fun c => { c with ends := some none })) ∧
    (∀ c, p.ckpt = some c → c.op = 1 → c.ends ≠ none → exec (.abort fn) s = .next s)) ∧
  (∀ (s : State) (p : Part), s.part p.pid = some p →
    (p.ckpt = none → exec (.checkpointComplete p.pid) s = .next s ∧ exec (.restoreComplete p.pid) s = .next s) ∧
    (∀ c, p.ckpt = some c → c.op = 0 → c.phase = 0 → s.partQuiet p = true → ∃ t, exec (.checkpointComplete p.pid) s = .next t ∧
      t.part p.pid = some { p with ckpt := some { c with phase := 1, page := 0, since := s.now } }) ∧
    (∀ c page pl l, p.ckpt = some c → c.op = 0 → c.phase = 1 → p.pageAt c.page = some page → s.stage2 p (page * 65536) true false = .ok pl → s.awaitsZero pl = false →
      s.readPage p page = .ok l → inRanges c.desc page = none → ∃ t, exec (.checkpointComplete p.pid) s = .next t ∧
        t.part p.pid = some { p with ckpt := some { c with
          page := c.page + 1, entries := c.entries ++ [(page, 0xFFFFFFFF, 0, Config.sha384 l)] } }) ∧
    (∀ c page pl, p.ckpt = some c → c.op = 0 → c.phase = 1 → p.pageAt c.page = some page → s.stage2 p (page * 65536) true false = .ok pl →
      s.awaitsZero pl = true → ∃ t, exec (.checkpointComplete p.pid) s = .next t ∧
        t.part p.pid = some { p with ckpt := some { c with
          page := c.page + 1, entries := c.entries ++ [(page, 0xFFFFFFFE, 0, Config.sha384 (List.replicate 65536 0))] } }) ∧
    (∀ c, p.ckpt = some c → c.op = 1 → c.phase = 0 → c.ends = none →
      let v := s.touchGpa p (le8 c.desc 0x20) 128
      (∀ r, v.checkManifest p c.desc = .error r → exec (.restoreComplete p.pid) s = .next ((v.blame r.2).restoreFails p (some r.1))) ∧
      (∀ l, v.checkManifest p c.desc = .ok l → exec (.restoreComplete p.pid) s = .next ((v.touchGpa p (le8 c.desc 0x20) l.length).onCkpt p.pid fun c =>
        { c with phase := 1, manifest := l, entries := manifestEntries l, since := s.now }))) ∧
    (∀ c r, p.ckpt = some c → c.op = 1 → c.ends = some r →
      ((∀ x ∈ s.allCtx, x.pid ≠ p.pid) → exec (.restoreComplete p.pid) s = .next ((s.powerCycle p).ckptEnd p.pid c.fn r)) ∧
      ((∃ x ∈ s.allCtx, x.pid = p.pid) → exec (.restoreComplete p.pid) s = .next s))) ∧
  (∀ (s : State) (p : Part) (pid rank page : Nat) (job step_ : W64) (h : BitVec 384) (l : List Byte), s.part pid = some p →
    (s.replicasMeet p = true →
      (∃ t, exec (.replicaExchange (.hashes pid rank job step_ [(page, h)])) s = .next t ∧
        ∀ d, le8 d 0 = job.toNat → le8 d 8 = step_.toNat → t.peerHash pid d rank page = some h) ∧
      (∃ t, exec (.replicaExchange (.pages pid rank job step_ [(page, l)])) s = .next t ∧ (pid, rank, page, l) ∈ t.peerPages ∧
        (pid, rank, job, step_) ∈ t.peerManifest) ∧
      ((s.touchPage p page).readPage p page = .ok l → exec (.replicaExchange (.pull pid rank page none)) s =
        .next ((s.touchPage p page).onFn p.pf fun f => { f with answer := l }))) ∧
    (s.replicasMeet p = false → ∀ m, replicaPart m = pid → exec (.replicaExchange m) s = .next s)) ∧
  (∀ (s : State) (r : PeerReq) (pl : Place), r.link ∉ s.frozenLinks → r.link ∉ s.badLinks →
    (s.ownerOfLink r.link = none → exec (.peerAccess r) s = .next { s with agenda := .fabricLinkBreach r.link :: s.agenda }) ∧
    (∀ p, s.ownerOfLink r.link = some p → p.holdsGroup r.gid = false →
      exec (.peerAccess r) s = .next { s with agenda := .fabricLinkBreach r.link :: s.agenda }) ∧
    (∀ p, s.ownerOfLink r.link = some p → p.holdsGroup r.gid = true → p.featAccept.testBit 1 = true → p.asidBase ≤ r.asid →
      r.asid < p.asidBase + p.asidCnt → s.translate r.asid p.pid (.ctx r.va false true) = .ok pl → pl.bad = false →
      exec (.peerAccess r) s = .next (({ s with contribs := s.contribs ++ [{
        gid := r.gid, rank := r.rank, npart := r.npart, op := r.op, failed := r.failed, header := r.header, bytes := r.bytes
        who := (4096 + r.link, r.rank, r.src), origin := none }] } : State).touch r.asid p.pid (.ctx r.va false true))))

/-! ## The device as a whole (R258, R259, R331-R333, R360, R381-R387, R397-R403) -/

/-- Errors, power, temperature and frames: eight corrected errors of an isle within 1 s make it lasting; a ramp ends; an island that no region holds is
gated and a waking one wakes; throttling; an interval begins with the caps of the temperatures; a cycle of the wait-for table is found; a frame
that awaits zeroing is zero afterwards; a frame that R246 leaves unpopulated faults (R246, R258, R259, R331, R333, R360, R381-R385).
What outlasts a module reset, the fault of an unpopulated frame and the counting of errors are the model's choice (logs 22, 43 and 51). -/
def Obligations.DeviceEvents : Prop :=
  (∀ (s : State) (rid die col row stack temp : Nat) (on : Bool),
    let cell := (die, col, row)
    let recent := s.errs.filter fun e => e.1 == ErrUnit.isle die col row && decide (s.now - e.2 ≤ 2000000000)
    (recent.length < 7 → ∃ t, exec (.correctedError (.isle die col row)) s = .next t ∧ t.defects = s.defects ∧
      (ErrUnit.isle die col row, s.now) ∈ t.errs) ∧
    (recent.length = 7 → ∃ t, exec (.correctedError (.isle die col row)) s = .next t ∧ cell ∈ t.defects) ∧
    exec (.voltageRampComplete rid) s = .next (s.onRegion rid fun r => { r with ramp := false }) ∧
    exec (.powerThrottle rid on) s = .next (s.onRegion rid fun r => { r with throttled := on }) ∧
    ((∀ r ∈ s.regions, cell ∉ r.cells) → cell ∉ s.gated → cell ∉ s.waking → exec (.islandIdleGating die col row) s = .next
      { s with gated := cell :: s.gated, overlays := s.overlays.filter fun t => (t.die, t.col, t.row) != cell }) ∧
    ((∃ r ∈ s.regions, cell ∈ r.cells) → exec (.islandIdleGating die col row) s = .next s) ∧
    exec (.islandWake die col row) s = .next { s with waking := s.waking.filter (· != cell), gated := s.gated.filter (· != cell) } ∧
    exec .budgetInterval s = .next { s with
      interval := s.now / 20000
      budgetUse := s.temps.map fun t => (4096 + t.1, capOf t.2)
      agenda := s.agenda ++ s.waits
      waits := [] } ∧
    exec (.thermalPoll stack temp) s = .next { s with temps := (stack, temp % 256) :: s.temps.filter (·.1 != stack) }) ∧
  (∀ t, capOf t = if t < 85 then 1000000 else if t < 95 then 900000 else if t < 105 then 750000 else 500000) ∧
  (∀ (s : State), ∃ t, exec .waitForWalk s = .next t ∧ t.lastWalk = cyclesOf s.edges ++ s.stalls ∧ t.dram = s.dram ∧ t.slots = s.slots ∧
    ((∀ g ∈ t.lastWalk, g ∉ s.lastWalk) → t.fns = s.fns)) ∧
  (∀ (l : List (Nat × Nat)) (a b : Nat), a < b → (a, b) ∈ l → (b, a) ∈ l → ∃ g ∈ cyclesOf l, a ∈ g.drop 1 ∧ b ∈ g.drop 1) ∧
  (∀ s : State, ∃ t, exec .moduleReset s = .next t ∧ t.slots = [] ∧ t.parts = [] ∧ t.regions = [] ∧ t.fns = [] ∧ t.asids = [] ∧ t.dram = [] ∧
    t.ctx.live = false ∧ t.others = [] ∧ t.defects = s.defects ∧ t.retiredFrames = s.retiredFrames ∧ t.fused = s.fused) ∧
  (∀ (s : State) (die frame : Nat),
    (s.frameExists die frame = false → exec (.frameZeroed die frame) s = .fault .unpopulatedAddress ∧
      exec (.frameRetirement die frame) s = .fault .unpopulatedAddress) ∧
    (∀ pl, s.frameExists die frame = true → s.placeOf die frame = some pl → s.awaitsZero pl = true → pl.big = false →
      ∃ t, exec (.frameZeroed die frame) s = .next t ∧ (∀ a, a < 65536 → t.dram.rd (pl.key / 65536 * 65536 + a) = 0) ∧
        ∀ a, a / 65536 ≠ pl.key / 65536 → t.dram.rd a = s.dram.rd a) ∧
    (s.frameExists die frame = true → s.parts = [] → ∃ t, exec (.frameRetirement die frame) s = .next t ∧ t.dram = s.dram ∧
      die * 2 ^ 24 + frame ∈ t.retiredFrames))

/-- Masters that misbehave, TDISP, SPDM and firmware: a frozen link; a breach of a locked interface; LOCK, START and STOP; a report; an SPDM request is
answered by the responder, whose answer joins the transcript; an image that verifies and is new enough replaces the firmware and is
measured. An event of a partition takes the next entry of its physical function's ring, laid out as R394 says, and is lost, with EVLOST, where it would
overwrite one that the host has not consumed (R394, R397-R401).
The codes of the messages and which state takes which is the model's choice (logs 8 and 19). -/
def Obligations.SecurityEvents : Prop :=
  (∀ (s : State) (fn stream link : Nat),
    (link ∈ s.frozenLinks → exec (.fabricLinkBreach link) s = .next s) ∧
    (link ∉ s.frozenLinks → ∃ t, exec (.fabricLinkBreach link) s = .next t ∧ t.frozenLinks = link :: s.frozenLinks ∧ t.dram = s.dram) ∧
    ((s.fn fn).tdisp = .locked ∨ (s.fn fn).tdisp = .run →
      (∃ t, exec (.tdispBreach fn) s = .next t ∧ (t.fn fn).tdisp = .error ∧ (t.fn fn).frozen = true) ∧
      exec (.lockInterface fn stream) s = .next s) ∧
    ((s.fn fn).tdisp = .unlocked ∨ (s.fn fn).tdisp = .error → exec (.tdispBreach fn) s = .next s ∧ exec (.startInterface fn) s = .next s) ∧
    ((s.fn fn).tdisp = .unlocked → (s.fn fn).frozen = false → isPf fn = false → (s.fn fn).pid ≠ none →
      exec (.lockInterface fn stream) s = .next (s.onFn fn fun f => { f with tdisp := .locked, stream := stream })) ∧
    ((s.fn fn).tdisp = .locked → (s.fn fn).frozen = false → exec (.startInterface fn) s = .next (s.onFn fn fun f => { f with tdisp := .run })) ∧
    ((s.fn fn).tdisp ≠ .unlocked → exec (.stopInterface fn) s = .next (s.onFn fn fun f => { f with tdisp := .unlocked })) ∧
    (∀ n p, (s.fn fn).pid = some n → s.part n = some p → exec (.getDeviceInterfaceReport fn) s = .next (s.onFn fn fun f =>
      { f with answer := s.capTable p ++ toLe 48 (Config.sha384 p.desc).toNat }))) ∧
  (∀ (s : State) (pf slot idx : Nat) (nonce data : List Byte), isPf pf = true →
    let f := s.fn pf
    let answers (i : Instr) (log : List Byte) (code : Nat) (l : List Byte) : Prop := ∃ t, exec i s = .next t ∧
      (t.fn pf).answer = Config.spdmAnswer code l log ∧ (t.fn pf).spdmLog = log ++ toLe 1 code ++ l ++ Config.spdmAnswer code l log ∧ t.dram = s.dram
    answers (.getVersion pf) [] 0x84 [] ∧ answers (.getCapabilities pf) f.spdmLog 0xE1 [] ∧ answers (.negotiateAlgorithms pf) f.spdmLog 0xE3 [] ∧
    answers (.getDigests pf) f.spdmLog 0x81 [] ∧ answers (.getCertificate pf slot) f.spdmLog 0x82 (toLe 1 slot) ∧
    answers (.challenge pf nonce) f.spdmLog 0x83 nonce ∧
    answers (.getMeasurements pf idx) f.spdmLog 0xE0 (toLe 1 idx ++ s.measurement idx) ∧
    answers (.keyExchange pf data) f.spdmLog 0xE4 data ∧ answers (.finish pf data) f.spdmLog 0xE5 data) ∧
  (∀ (s : State) (img : FwImage),
    (Config.ecdsaVerifies img.body img.ecdsa = true → Config.lmsVerifies img.body img.lms = true → s.fwFused ≤ img.version →
      ∃ t, exec (.firmwareLoad img) s = .next t ∧ t.fwVersion = img.version ∧ t.measurement 2 = toLe 48 (Config.sha384 img.body).toNat) ∧
    (Config.ecdsaVerifies img.body img.ecdsa = false ∨ Config.lmsVerifies img.body img.lms = false ∨ img.version < s.fwFused →
      exec (.firmwareLoad img) s = .next s)) ∧
  (∀ (s : State) (pid kind : Nat) (l : List Byte) (p : Part), s.part pid = some p → l.length ≤ 24 →
    let f := s.fn p.pf
    let t := s.event pid kind l
    (f.evcons + 64 ≤ f.evprod → t = s.onFn p.pf fun f => { f with evlost := true }) ∧
    (f.evprod < f.evcons + 64 → t.dram = s.dram ∧ (t.fn p.pf).evprod = f.evprod + 1 ∧ ∃ e : List Byte,
      (t.fn p.pf).evring[f.evprod % 64]? = some e ∧ e.length = 32 ∧ e.getD 0 0 = BitVec.ofNat 8 kind ∧ e.getD 1 0 = BitVec.ofNat 8 pid ∧
      ∀ k, 2 ≤ k → k < 32 → e.getD k 0 = if k < 8 then 0 else l.getD (k - 8) 0))

/-! ## Traps (R196, R222, R321-R328) -/

/-- Taking a trap writes the trap registers, keeps a1 and a2 in the handler section, empties the handler's stacks and puts bundle 0 of the trap page
next; returning gives a1 and a2 back and goes on at TSLOT.RPC; a handler that changes neither comes back with every other register as it was
(R191, R196, R222, R326, R327). -/
def Obligations.TrapEntryAndReturn : Prop :=
  (∀ (c : Isle) (t : TrapRec) (rpc resume : Nat), rpc < 4096 → t.slot < 8 → c.ballast.wf = true →
    let d := c.takeTrap t rpc resume
    d.tcause = BitVec.ofNat 64 t.cause ∧ d.taddr = BitVec.ofNat 64 t.addr ∧ d.tinfo = BitVec.ofNat 64 t.info ∧ d.tcause2 = 0 ∧
    d.tslot.extractLsb' 16 12 = BitVec.ofNat 12 rpc ∧ d.tslot.getLsbD 3 = t.issued ∧ d.tslot.extractLsb' 0 3 = BitVec.ofNat 3 t.slot ∧
    d.handler = true ∧ d.pc = 0 ∧ d.hloops = [] ∧ d.hcalls = [] ∧ d.hflights = [] ∧
    d.ballast.rdN 3072 8 = (c.a[1]).toNat ∧ d.ballast.rdN 3080 8 = (c.a[2]).toNat ∧
    (∀ a, a < 3072 ∨ 3088 ≤ a → d.ballast.rd a = c.ballast.rd a) ∧
    d.a = c.a ∧ d.b = c.b ∧ d.p = c.p ∧ d.v = c.v ∧ d.tag = c.tag ∧ d.vm = c.vm ∧ d.st = c.st ∧ d.mp = c.mp ∧ d.flag = c.flag ∧ d.wb = c.wb ∧ d.ab = c.ab ∧
    d.acb = c.acb ∧ d.loops = c.loops ∧ d.calls = c.calls ∧ d.flights = c.flights ∧ d.mat = c.mat ∧ d.sbmode = c.sbmode ∧ d.srseed = c.srseed) ∧
  (∀ c : Isle,
    let d := c.leaveTrap
    d.handler = false ∧ (c.ret = none → d.pc = (c.tslot.extractLsb' 16 12).toNat) ∧
    (∀ x y, c.ret = some (x, y) → x ≠ (c.tslot.extractLsb' 16 12).toNat → d.pc = (c.tslot.extractLsb' 16 12).toNat ∧ d.wait = none) ∧
    (∀ y, c.ret = some ((c.tslot.extractLsb' 16 12).toNat, y) → d.pc = y ∧ d.wait = c.wait) ∧
    d.bksup = (c.bksup || (c.tcause.extractLsb' 0 8 == 0x11 && c.tinfo.extractLsb' 0 8 == 0x01)) ∧
    d.a[1] = BitVec.ofNat 64 (c.ballast.rdN 3072 8) ∧ d.a[2] = BitVec.ofNat 64 (c.ballast.rdN 3080 8) ∧
    (∀ k : Fin 32, k ≠ 1 → k ≠ 2 → d.a[k] = c.a[k]) ∧ d.b = c.b ∧ d.p = c.p ∧ d.v = c.v ∧ d.flights = c.flights ∧ d.loops = c.loops ∧ d.calls = c.calls) ∧
  (∀ (c : Isle) (t : TrapRec) (rpc : Nat), rpc < 4096 → t.slot < 8 → c.ballast.wf = true →
    let d := (c.takeTrap t rpc rpc).leaveTrap
    d.pc = rpc ∧ d.handler = false ∧ d.a = c.a ∧ d.b = c.b ∧ d.p = c.p ∧ d.v = c.v ∧ d.tag = c.tag ∧ d.vm = c.vm ∧ d.st = c.st ∧ d.wait = c.wait ∧
    d.loops = c.loops ∧ d.calls = c.calls ∧ d.flights = c.flights) ∧
  (∀ s : State, s.core.handler = true → s.core.next = .leave → s.core.hflights = [] → s.core.ended = false →
    s.core.spoilt 3 3072 16 = false → 64 ≤ (s.core.tslot.extractLsb' 16 12).toNat → s.tryLeave = { s with
      core := s.core.leaveTrap
      waitfor := if s.core.wait.isSome && s.core.leaveTrap.wait.isNone then s.waitfor.filter (·.1 != s.waitKey) else s.waitfor })

/-! ## Steps (R37, R86, R87, R230, R322) -/

/-- A step runs the event that stands first in the agenda; with none, the context whose turn it is issues the bundle at its PC, decoded, slot C first and then
in slot order, each word by exec, and ends the region cycle; a bundle that traps before issue has none of these effects and enters the handler
instead; a routine's micro-sequencer runs the micro-word at its micro-PC; an rc counts RCYCLE up by one and the enabled ticks by the CTL divisor, and a divisor that a
CLKDIV of it has set holds from its end; with no turn left a new round begins (R37, R86, R87, R89, R322, R378; the
agenda and the round are the model's own, log 4). -/
def Obligations.StepRunsDecodedInstructions : Prop :=
  (∀ (s : State) (i : Instr) (rest : List Instr), s.agenda = i :: rest → step s = exec i { s with agenda := rest }) ∧
  (∀ (i : Instr) (s t : State), exec i s = .next t → s.run i = t) ∧
  (∀ (s : State) (r : Region) (rest : List Nat) (b : BitVec 256),
    s.agenda = [] → s.turn = s.ctx.slot :: rest → s.Runs r → modeRange false s.core.pc = true → (∃ o, (s.core.pc / 64, o) ∈ s.core.imap) →
    s.core.imem.find? (fun x => x.1 == s.core.pc) = some (s.core.pc, b) → (4, s.core.pc) ∉ s.core.poison →
    (∀ k : Fin 4, s.core.bkpt[k].getLsbD 31 = false) →
    let u := ({ s with turn := rest } : State).issuing
    (∀ l, decodeBundle false s.core.pc b = .ok l → u.bundleWaits l = false →
      let a := u.executed l
      a.isles = [a.core] →
      (a.core.early = none → a.core.deferred = none → a.core.hold = none → a.agenda = [] →
        step s = .next ((a.counted u.core l).finishCycle [(0, l)])) ∧
      (∀ t, a.core.early = some t → s.core.spoilt 3 3072 32 = false → ∃ z, step s = .next z ∧ z.core = u.core.takeTrap t s.core.pc s.core.pc)) ∧
    (∀ k reason, decodeBundle false s.core.pc b = .error (k, reason) → s.core.spoilt 3 3072 32 = false → ∃ z, step s = .next z ∧
      z.core = u.core.takeTrap { cause := 1, addr := s.core.pc, info := reason, slot := k.idx, issued := false } s.core.pc s.core.pc)) ∧
  (∀ (s : State) (r : Routine) (w : W64) (i : Instr), r.returned = false → s.core.ustore[r.upc]? = some w → (5, r.upc) ∉ s.core.poison →
    decodeMicro w = some i → s.muIssue r = s.run i) ∧
  (∀ (s : State) (l : List (Nat × List (SlotId × Instr))), s.left = [] → s.right = [] → s.core.handler = false → s.core.flights = [] →
    s.ctx.words = [] → s.core.mat.running = none → s.core.mat.landing = [] →
    let e := s.ctx.e + s.ctx.div[ClkClass.ctl.ix]
    (s.core.clk = none → (s.closeCycle l).ctx = { s.ctx with rcycle := s.ctx.rcycle + 1, e := e }) ∧
    (∀ k d, s.core.clk = some (k, d) → (s.closeCycle l).ctx =
      { s.ctx with rcycle := s.ctx.rcycle + 1, e := e, div := s.ctx.div.set k.ix (d + 1), eX := s.ctx.eX.set k.ix e })) ∧
  (∀ s : State, s.agenda = [] → s.turn = [] →
    let u : State := { s with now := s.now + 1, turn := [] }
    (∃ t, step s = .next t) ∧
    (s.allCtx = [] → u.dueEvents = [] → (s.now + 1) / 20000 ≤ s.interval → (s.now + 1) % 2000000 ≠ 0 → step s = .next u))

/-! ## Encodings (R88-R104, R233) -/

/-- Words that the spec's worked examples write out decode to the instructions beside them (R96-R104). -/
def Obligations.WrittenWordsDecode : Prop :=
  decodeSlot .A 0x10884010#32 = .ok (.addi { neg := false, idx := 1 } 4 4 0x010#12) ∧
  decodeSlot .B 0x068A13C6#32 = .ok (.li { neg := false, idx := 0 } 5 0x013C6#17) ∧
  decodeSlot .C 0x03484001#32 = .ok (.waitf { neg := false, idx := 0 } 2 2 none 1#10) ∧
  decodeSlot .M 0x004452C0#32 = .ok (.ld { neg := false, idx := 0 } (.a 4) .ab 9 3 0#6) ∧
  decodeSlot .V 0x00485300#32 = .ok (.vadd { neg := false, idx := 0 } 4 5 6 0 .rne false) ∧
  decodeSlot .X 0x00C40003#32 = .ok (.mpsetImm { neg := false, idx := 0 } 0 3#16) ∧
  decodeSlot .N 0x00CEC000#32 = .ok (.recv { neg := false, idx := 0 } 7 false .w) ∧
  decodeSlot .D 0x0040D260#32 = .ok (.xcopy { neg := false, idx := 0 } 3#8 9 6)

/-- Decoding the word of a well-formed instruction gives it back, in every slot that its opcode has, with every operand at every value that the encoding
admits; and encoding what a slot decodes gives the word back, so that no two words of a slot have one meaning (R88-R104). -/
def Obligations.SlotWordsRoundTrip : Prop :=
  (∀ (i : Instr) (w : Nat), i.wf = true →
    (encC i = some w → w < 2 ^ 32 ∧ decodeSlot .C (BitVec.ofNat 32 w) = .ok i) ∧
    (encAB i = some w → w < 2 ^ 32 ∧ decodeSlot .A (BitVec.ofNat 32 w) = .ok i ∧ decodeSlot .B (BitVec.ofNat 32 w) = .ok i) ∧
    (encM i = some w → w < 2 ^ 32 ∧ decodeSlot .M (BitVec.ofNat 32 w) = .ok i) ∧
    (encV i = some w → w < 2 ^ 32 ∧ decodeSlot .V (BitVec.ofNat 32 w) = .ok i) ∧
    (encX i = some w → w < 2 ^ 32 ∧ decodeSlot .X (BitVec.ofNat 32 w) = .ok i) ∧
    (encN i = some w → w < 2 ^ 32 ∧ decodeSlot .N (BitVec.ofNat 32 w) = .ok i) ∧
    (encD i = some w → w < 2 ^ 32 ∧ decodeSlot .D (BitVec.ofNat 32 w) = .ok i)) ∧
  (∀ (k : SlotId) (p : Pred) (h : Fin 4) (o : BitVec 22), p.wf = true →
    (k ≠ .C → ∃ w, encodeWord (.nop p) = some w ∧ decodeSlot k (BitVec.ofNat 32 w) = .ok (.nop p)) ∧
    ∃ w, encodeWord (.hint p h o) = some w ∧ decodeSlot k (BitVec.ofNat 32 w) = .ok (.hint p h o)) ∧
  (∀ i : Instr, i.wf = true → (∃ p, i.pred? = some p) → ∃ w, encodeWord i = some w) ∧
  (∀ (k : SlotId) (w : W32) (i : Instr), decodeSlot k w = .ok i → i.wf = true ∧ encodeWord i = some w.toNat)

/-- The same for micro-words (R233). -/
def Obligations.MicroWordsRoundTrip : Prop :=
  (∀ (i : Instr) (w : Nat), i.wf = true → encodeMicro i = some w → w < 2 ^ 64 ∧ decodeMicro (BitVec.ofNat 64 w) = some i) ∧
  (∀ (w : W64) (i : Instr), decodeMicro w = some i → i.wf = true ∧ encodeMicro i = some w.toNat)

/-! ## The whole machine -/

/-- Device memory stays in its canonical form: from every state that has it, every step that answers a next state keeps it.
The form, and that an unlisted byte reads as zero, are the model's choice (log 42). -/
def Obligations.DeviceMemoryStaysCanonical : Prop :=
  ∀ s t : State, s.DramCanonical → step s = .next t → t.DramCanonical

/-- The memories of every isle of every live context stay in their canonical form: from every state that has it, every step that answers a next
state keeps it. The form, and that an unlisted byte reads as zero, are the model's choice (log 42). -/
def Obligations.IsleMemoriesStayCanonical : Prop :=
  ∀ s t : State, s.IslesCanonical → step s = .next t → t.IslesCanonical

/-- After reset no partition, region or context stands, every launch slot is FREE, memory lists nothing and is canonical, the idle isle's registers are
zero but for p0, which is true, and every interface is unlocked (R51, R333, R401).
The idle isle, its values and the empty tables are the model's choice where no rule states them (logs 2, 3 and 42). -/
def Obligations.ResetState : Prop :=
  let s := State.reset
  s.DramCanonical ∧ s.IslesCanonical ∧ s.dram = [] ∧ s.parts = [] ∧ s.regions = [] ∧ s.others = [] ∧ s.ctx.live = false ∧ s.asids = [] ∧
  (∀ n, (s.slotAt n).st = .free) ∧ (∀ r : Fin 32, s.core.a[r] = 0 ∧ s.core.b[r] = 0 ∧ s.core.v[r] = 0 ∧ s.core.tag[r] = 0 ∧ s.core.flag[r] = 0) ∧
  (∀ r : Fin 8, s.core.vm[r] = 0 ∧ s.core.mp[r] = 0 ∧ (s.core.p[r] = true ↔ r = 0)) ∧ (∀ r : Fin 16, s.core.st[r] = {}) ∧
  s.core.handler = false ∧ s.core.sbmode = 0 ∧ s.core.loops = [] ∧ s.core.calls = [] ∧ s.core.flights = [] ∧
  (∀ n, (s.fn n).tdisp = .unlocked ∧ (s.fn n).frozen = false ∧ (s.fn n).pid = none)
end

