-- ==== Sys2Proof/Laws/Mem.lean ====
section
/-! SUPPORT. Memory: every operation keeps the canonical form, and what a read finds after a write. -/

namespace Sys2Proof.Machine

/-- The canonical form, entry by entry: the head is no zero byte and lies below every other address. -/
theorem Mem.wf_cons (k : Nat) (x : Byte) (t : Mem) :
    Mem.wf ((k, x) :: t) = true ↔ x ≠ 0 ∧ (∀ c ∈ t, k < c.1) ∧ Mem.wf t = true := by
  induction t generalizing k x with
  | nil => simp [Mem.wf]
  | cons c t ih =>
    obtain ⟨k', x'⟩ := c
    simp only [Mem.wf, Bool.and_eq_true, bne_iff_ne, decide_eq_true_eq, List.mem_cons, forall_eq_or_imp, ih]
    constructor
    · rintro ⟨⟨h, hk⟩, h', ha, hw⟩
      exact ⟨h, ⟨hk, fun c hc => hk.trans (ha c hc)⟩, h', ha, hw⟩
    · rintro ⟨h, ⟨hk, _⟩, h', ha, hw⟩
      exact ⟨⟨h, hk⟩, h', ha, hw⟩

@[simp] theorem Mem.wf_nil : Mem.wf [] = true := rfl

/-- An address that a write adds is the one written. -/
theorem Mem.mem_wr {m : Mem} {a : Nat} {x : Byte} {c : Host.Cell} (h : c ∈ m.wr a x) : c = (a, x) ∨ c ∈ m := by
  induction m with
  | nil =>
    simp only [Mem.wr] at h
    split at h <;> simp_all
  | cons d t ih =>
    obtain ⟨k, y⟩ := d
    simp only [Mem.wr] at h
    split_ifs at h <;> simp only [List.mem_cons] at h ⊢ <;> tauto

/-- A write keeps the canonical form. -/
theorem Mem.wf_wr {m : Mem} (a : Nat) (x : Byte) (h : m.wf = true) : (m.wr a x).wf = true := by
  induction m with
  | nil =>
    simp only [Mem.wr]
    split_ifs with hx
    · rfl
    · simpa [Mem.wf] using hx
  | cons d t ih =>
    obtain ⟨k, y⟩ := d
    obtain ⟨hy, ht, hw⟩ := (Mem.wf_cons k y t).1 h
    simp only [Mem.wr]
    split_ifs with h1 h2 h3 h4
    · exact h
    · refine (Mem.wf_cons a x _).2 ⟨h2, ?_, h⟩
      intro c hc
      rcases List.mem_cons.1 hc with rfl | hc
      · exact h1
      · exact h1.trans (ht c hc)
    · exact hw
    · exact (Mem.wf_cons a x t).2 ⟨h4, h3 ▸ ht, hw⟩
    · refine (Mem.wf_cons k y _).2 ⟨hy, ?_, ih hw⟩
      intro c hc
      rcases Mem.mem_wr hc with rfl | hc
      · simp only; omega
      · exact ht c hc

/-- A list of writes keeps the canonical form. -/
theorem Mem.wf_wrList {m : Mem} (l : List (Nat × Byte)) (h : m.wf = true) : (m.wrList l).wf = true := by
  induction l generalizing m with
  | nil => exact h
  | cons c l ih => exact ih (Mem.wf_wr c.1 c.2 h)

/-- A value written keeps the canonical form. -/
theorem Mem.wf_wrN {m : Mem} (a n x : Nat) (h : m.wf = true) : (m.wrN a n x).wf = true := Mem.wf_wrList _ h

/-- What is left of a canonical memory under a test is canonical. -/
theorem Mem.wf_filter {m : Mem} (f : Host.Cell → Bool) (h : m.wf = true) : Mem.wf (m.filter f) = true := by
  induction m with
  | nil => rfl
  | cons d t ih =>
    obtain ⟨k, y⟩ := d
    obtain ⟨hy, ht, hw⟩ := (Mem.wf_cons k y t).1 h
    simp only [List.filter_cons]
    split
    · exact (Mem.wf_cons k y _).2 ⟨hy, fun c hc => ht c (List.mem_filter.1 hc).1, ih hw⟩
    · exact ih hw

/-- Clearing a range keeps the canonical form. -/
theorem Mem.wf_clearRange {m : Mem} (a n : Nat) (h : m.wf = true) : (m.clearRange a n).wf = true := Mem.wf_filter _ h

/-- A part of a canonical memory, moved, is canonical. -/
theorem Mem.wf_slice {m : Mem} (a n b : Nat) (h : m.wf = true) : (m.slice a n b).wf = true := by
  induction m with
  | nil => rfl
  | cons d t ih =>
    obtain ⟨k, y⟩ := d
    obtain ⟨hy, ht, hw⟩ := (Mem.wf_cons k y t).1 h
    have ih := ih hw
    simp only [Mem.slice, List.filter_cons] at ih ⊢
    split
    · rename_i hk
      simp only [Bool.and_eq_true, decide_eq_true_eq] at hk
      refine (Mem.wf_cons _ y _).2 ⟨hy, ?_, ih⟩
      intro c hc
      simp only [List.mem_map, List.mem_filter] at hc
      obtain ⟨e, ⟨he, _⟩, rfl⟩ := hc
      have := ht e he
      simp only
      omega
    · exact ih

/-! ## Reads -/

/-- An address below every listed one reads as zero. -/
theorem Mem.rd_low {m : Mem} {a : Nat} (h : ∀ c ∈ m, a < c.1) : m.rd a = 0 := by
  induction m with
  | nil => rfl
  | cons d t ih =>
    obtain ⟨k, y⟩ := d
    have hk : a < k := h (k, y) List.mem_cons_self
    simp only [Mem.rd, if_neg (Nat.ne_of_gt hk)]
    exact ih fun c hc => h c (List.mem_cons_of_mem _ hc)

/-- A read of the byte just written. -/
theorem Mem.rd_wr_same {m : Mem} (a : Nat) (x : Byte) (h : m.wf = true) : (m.wr a x).rd a = x := by
  induction m with
  | nil =>
    simp only [Mem.wr]
    split_ifs with hx
    · simp [Mem.rd, hx]
    · simp [Mem.rd]
  | cons d t ih =>
    obtain ⟨k, y⟩ := d
    obtain ⟨_, ht, hw⟩ := (Mem.wf_cons k y t).1 h
    simp only [Mem.wr]
    split_ifs with h1 h2 h3 h4
    · rw [h2]
      refine Mem.rd_low ?_
      intro c hc
      rcases List.mem_cons.1 hc with rfl | hc
      · exact h1
      · exact h1.trans (ht c hc)
    · simp [Mem.rd]
    · rw [h4]
      exact Mem.rd_low (h3 ▸ ht)
    · simp [Mem.rd]
    · simp only [Mem.rd, if_neg (Ne.symm h3)]
      exact ih hw

/-- A write leaves every other byte alone. -/
theorem Mem.rd_wr_other (m : Mem) {a b : Nat} (x : Byte) (hab : b ≠ a) : (m.wr a x).rd b = m.rd b := by
  induction m with
  | nil =>
    simp only [Mem.wr]
    split_ifs
    · rfl
    · simp [Mem.rd, Ne.symm hab]
  | cons d t ih =>
    obtain ⟨k, y⟩ := d
    simp only [Mem.wr]
    split_ifs with h1 h2 h3 h4
    · rfl
    · simp [Mem.rd, Ne.symm hab]
    · subst h3; simp [Mem.rd, Ne.symm hab]
    · subst h3; simp [Mem.rd, Ne.symm hab]
    · simp only [Mem.rd, ih]

/-- A list of writes leaves alone every byte that it does not name. -/
theorem Mem.rd_wrList_other (m : Mem) (l : List (Nat × Byte)) {b : Nat} (h : ∀ c ∈ l, c.1 ≠ b) : (m.wrList l).rd b = m.rd b := by
  induction l generalizing m with
  | nil => rfl
  | cons c l ih =>
    have h1 := h c List.mem_cons_self
    have h2 := ih (m.wr c.1 c.2) fun d hd => h d (List.mem_cons_of_mem _ hd)
    simpa [Mem.wrList, Mem.rd_wr_other m c.2 (Ne.symm h1)] using h2

/-- The addresses of bytes placed from an address. -/
theorem mem_place {a : Nat} {l : List Byte} {c : Nat × Byte} (h : c ∈ place a l) : a ≤ c.1 ∧ c.1 < a + l.length := by
  induction l generalizing a with
  | nil => simp [place] at h
  | cons x l ih =>
    simp only [place, List.mem_cons] at h
    rcases h with rfl | h
    · simp
    · have := ih h
      simp only [List.length_cons]
      omega

@[simp] theorem length_toLe (n x : Nat) : (toLe n x).length = n := by
  induction n generalizing x with
  | zero => rfl
  | succ n ih => simp [toLe, ih]

/-- A value written as n bytes leaves alone every byte outside them. -/
theorem Mem.rd_wrN_other (m : Mem) {a n b : Nat} (x : Nat) (h : b < a ∨ a + n ≤ b) : (m.wrN a n x).rd b = m.rd b := by
  refine Mem.rd_wrList_other m _ fun c hc => ?_
  have := mem_place hc
  rw [length_toLe] at this
  omega

/-- A cleared range reads as zero. -/
theorem Mem.rd_clearRange_in (m : Mem) {a n b : Nat} (h : a ≤ b ∧ b < a + n) : (m.clearRange a n).rd b = 0 := by
  induction m with
  | nil => rfl
  | cons d t ih =>
    obtain ⟨k, y⟩ := d
    simp only [Mem.clearRange, List.filter_cons] at ih ⊢
    split
    · rename_i hk
      have : k ≠ b := by
        rintro rfl
        simp only [Bool.not_eq_true', Bool.and_eq_false_iff, decide_eq_false_iff_not] at hk
        omega
      simp only [Mem.rd, if_neg this]
      exact ih
    · exact ih

/-- Clearing a range leaves every other byte alone. -/
theorem Mem.rd_clearRange_out (m : Mem) {a n b : Nat} (h : b < a ∨ a + n ≤ b) : (m.clearRange a n).rd b = m.rd b := by
  induction m with
  | nil => rfl
  | cons d t ih =>
    obtain ⟨k, y⟩ := d
    simp only [Mem.clearRange, List.filter_cons] at ih ⊢
    split
    · simp only [Mem.rd, ih]
    · rename_i hk
      have : k ≠ b := by
        rintro rfl
        simp only [Bool.not_eq_true', Bool.not_eq_false, Bool.and_eq_true, decide_eq_true_eq] at hk
        omega
      simp only [Mem.rd, if_neg this]
      exact ih

end Sys2Proof.Machine
end

