-- ==== Sys2Proof/Laws/Device.lean ====
section
/-! SUPPORT. Device memory: its operations keep the canonical form; and launch slots: what is read after a change. -/

namespace Sys2Proof.Machine

@[simp] theorem State.onPart_dram (s : State) (n : Nat) (f : Part → Part) : (s.onPart n f).dram = s.dram := rfl

/-- Zeroing a frame keeps the canonical form. -/
theorem State.zeroFrame_wf {s : State} (pl : Place) (h : s.dram.wf = true) : (s.zeroFrame pl).dram.wf = true := by
  unfold State.zeroFrame
  split
  · exact Mem.wf_clearRange _ _ h
  · exact h

/-- Zeroing several frames keeps the canonical form. -/
theorem State.zeroFrames_wf {s : State} (l : List Place) (h : s.dram.wf = true) : (s.zeroFrames l).dram.wf = true := by
  induction l generalizing s with
  | nil => exact h
  | cons pl l ih => exact ih (State.zeroFrame_wf pl h)

/-- A write at a place keeps the canonical form. -/
theorem State.devWrite_wf {s : State} (pl : Place) (l : List Byte) (h : s.dram.wf = true) : (s.devWrite pl l).dram.wf = true :=
  Mem.wf_wrList _ (State.zeroFrame_wf pl h)

/-- Writes at places keep the canonical form. -/
theorem State.writePlaces_wf {s : State} (l : List (Place × Byte)) (h : s.dram.wf = true) : (State.writePlaces l s).dram.wf = true := by
  induction l generalizing s with
  | nil => exact h
  | cons c l ih => exact ih (State.devWrite_wf c.1 [c.2] h)

/-- A write through an address space keeps the canonical form. -/
theorem State.writeVa_wf {s : State} (asid pid va : Nat) (l : List Byte) (h : s.dram.wf = true) : (s.writeVa asid pid va l).1.dram.wf = true := by
  induction l generalizing s va with
  | nil => exact h
  | cons x l ih =>
    simp only [State.writeVa]
    split
    · exact State.zeroFrames_wf _ h
    · split
      · exact State.zeroFrames_wf _ h
      · exact ih _ (State.devWrite_wf _ _ (State.zeroFrames_wf _ h))

/-! ## Launch slots -/

/-- A changed slot, where the change leaves its number. -/
theorem State.slotAt_onSlot_same (s : State) (n : Nat) (f : LSlot → LSlot) (hf : ∀ x, x.n = n → (f x).n = n) :
    (s.onSlot n f).slotAt n = f (s.slotAt n) := by
  unfold State.onSlot State.slotAt
  split
  · rename_i h
    simp only
    generalize s.slots = l at h
    induction l with
    | nil => simp at h
    | cons x t ih =>
      by_cases hx : x.n = n
      · simp [hx, hf x hx]
      · have ht : (t.any fun y => y.n == n) = true := by simpa [hx] using h
        simpa [hx] using ih ht
  · rename_i h
    simp only
    generalize s.slots = l at h
    induction l with
    | nil => simp [hf]
    | cons x t ih =>
      have hx : x.n ≠ n := by rintro rfl; simp at h
      have ht : ¬ (t.any fun y => y.n == n) = true := by simpa [hx] using h
      simpa [hx] using ih ht

/-- Every other slot stands. -/
theorem State.slotAt_onSlot_other (s : State) (n m : Nat) (f : LSlot → LSlot) (hf : ∀ x, x.n = n → (f x).n = n) (hm : m ≠ n) :
    (s.onSlot n f).slotAt m = s.slotAt m := by
  unfold State.onSlot State.slotAt
  split
  · simp only
    generalize s.slots = l
    induction l with
    | nil => rfl
    | cons x t ih =>
      by_cases hx : x.n = n
      · have : (f x).n ≠ m := by rw [hf x hx]; exact hm.symm
        have hxm : x.n ≠ m := by rw [hx]; exact hm.symm
        simpa [hx, this, hxm, hm.symm, hf x hx] using ih
      · by_cases hxm : x.n = m
        · simp [hxm, hm]
        · simpa [hx, hxm] using ih
  · simp only
    generalize s.slots = l
    induction l with
    | nil => simp [hf { n := n } rfl, hm.symm]
    | cons x t ih =>
      by_cases hxm : x.n = m
      · simp [hxm]
      · simpa [hxm] using ih

end Sys2Proof.Machine
end

