-- ==== Sys2Proof/Laws/State.lean ====
section
/-! SUPPORT. What each update of the state leaves of each field: one lemma per field per update. -/

namespace Sys2Proof.Machine

/-! ## A change of the isle in focus -/

@[simp] theorem State.onCore_core (s : State) (f : Isle → Isle) : (s.onCore f).core = f s.core := rfl
@[simp] theorem State.onCore_ctx (s : State) (f : Isle → Isle) : (s.onCore f).ctx = s.ctx := rfl
@[simp] theorem State.onCore_left (s : State) (f : Isle → Isle) : (s.onCore f).left = s.left := rfl
@[simp] theorem State.onCore_right (s : State) (f : Isle → Isle) : (s.onCore f).right = s.right := rfl
@[simp] theorem State.onCore_slot (s : State) (f : Isle → Isle) : (s.onCore f).slot = s.slot := rfl
@[simp] theorem State.onCore_others (s : State) (f : Isle → Isle) : (s.onCore f).others = s.others := rfl
@[simp] theorem State.onCore_regions (s : State) (f : Isle → Isle) : (s.onCore f).regions = s.regions := rfl
@[simp] theorem State.onCore_turn (s : State) (f : Isle → Isle) : (s.onCore f).turn = s.turn := rfl
@[simp] theorem State.onCore_agenda (s : State) (f : Isle → Isle) : (s.onCore f).agenda = s.agenda := rfl
@[simp] theorem State.onCore_ops (s : State) (f : Isle → Isle) : (s.onCore f).ops = s.ops := rfl
@[simp] theorem State.onCore_opNext (s : State) (f : Isle → Isle) : (s.onCore f).opNext = s.opNext := rfl
@[simp] theorem State.onCore_interval (s : State) (f : Isle → Isle) : (s.onCore f).interval = s.interval := rfl
@[simp] theorem State.onCore_seq (s : State) (f : Isle → Isle) : (s.onCore f).seq = s.seq := rfl
@[simp] theorem State.onCore_mark (s : State) (f : Isle → Isle) : (s.onCore f).mark = s.mark := rfl
@[simp] theorem State.onCore_fresh (s : State) (f : Isle → Isle) : (s.onCore f).fresh = s.fresh := rfl
@[simp] theorem State.onCore_now (s : State) (f : Isle → Isle) : (s.onCore f).now = s.now := rfl
@[simp] theorem State.onCore_dram (s : State) (f : Isle → Isle) : (s.onCore f).dram = s.dram := rfl
@[simp] theorem State.onCore_dpoison (s : State) (f : Isle → Isle) : (s.onCore f).dpoison = s.dpoison := rfl
@[simp] theorem State.onCore_slots (s : State) (f : Isle → Isle) : (s.onCore f).slots = s.slots := rfl
@[simp] theorem State.onCore_parts (s : State) (f : Isle → Isle) : (s.onCore f).parts = s.parts := rfl
@[simp] theorem State.onCore_asids (s : State) (f : Isle → Isle) : (s.onCore f).asids = s.asids := rfl
@[simp] theorem State.onCore_fns (s : State) (f : Isle → Isle) : (s.onCore f).fns = s.fns := rfl
@[simp] theorem State.onCore_socks (s : State) (f : Isle → Isle) : (s.onCore f).socks = s.socks := rfl
@[simp] theorem State.onCore_contribs (s : State) (f : Isle → Isle) : (s.onCore f).contribs = s.contribs := rfl
@[simp] theorem State.onCore_fused (s : State) (f : Isle → Isle) : (s.onCore f).fused = s.fused := rfl
@[simp] theorem State.onCore_defects (s : State) (f : Isle → Isle) : (s.onCore f).defects = s.defects := rfl
@[simp] theorem State.onCore_badStraits (s : State) (f : Isle → Isle) : (s.onCore f).badStraits = s.badStraits := rfl
@[simp] theorem State.onCore_badLinks (s : State) (f : Isle → Isle) : (s.onCore f).badLinks = s.badLinks := rfl
@[simp] theorem State.onCore_frozenLinks (s : State) (f : Isle → Isle) : (s.onCore f).frozenLinks = s.frozenLinks := rfl
@[simp] theorem State.onCore_retiredFrames (s : State) (f : Isle → Isle) : (s.onCore f).retiredFrames = s.retiredFrames := rfl
@[simp] theorem State.onCore_errs (s : State) (f : Isle → Isle) : (s.onCore f).errs = s.errs := rfl
@[simp] theorem State.onCore_gated (s : State) (f : Isle → Isle) : (s.onCore f).gated = s.gated := rfl
@[simp] theorem State.onCore_waking (s : State) (f : Isle → Isle) : (s.onCore f).waking = s.waking := rfl
@[simp] theorem State.onCore_overlays (s : State) (f : Isle → Isle) : (s.onCore f).overlays = s.overlays := rfl
@[simp] theorem State.onCore_waitfor (s : State) (f : Isle → Isle) : (s.onCore f).waitfor = s.waitfor := rfl
@[simp] theorem State.onCore_waitforLost (s : State) (f : Isle → Isle) : (s.onCore f).waitforLost = s.waitforLost := rfl
@[simp] theorem State.onCore_lastWalk (s : State) (f : Isle → Isle) : (s.onCore f).lastWalk = s.lastWalk := rfl
@[simp] theorem State.onCore_temps (s : State) (f : Isle → Isle) : (s.onCore f).temps = s.temps := rfl
@[simp] theorem State.onCore_budgetUse (s : State) (f : Isle → Isle) : (s.onCore f).budgetUse = s.budgetUse := rfl
@[simp] theorem State.onCore_hostWaits (s : State) (f : Isle → Isle) : (s.onCore f).hostWaits = s.hostWaits := rfl
@[simp] theorem State.onCore_waits (s : State) (f : Isle → Isle) : (s.onCore f).waits = s.waits := rfl
@[simp] theorem State.onCore_fwVersion (s : State) (f : Isle → Isle) : (s.onCore f).fwVersion = s.fwVersion := rfl
@[simp] theorem State.onCore_fwFused (s : State) (f : Isle → Isle) : (s.onCore f).fwFused = s.fwFused := rfl
@[simp] theorem State.onCore_measured (s : State) (f : Isle → Isle) : (s.onCore f).measured = s.measured := rfl
@[simp] theorem State.onCore_attest (s : State) (f : Isle → Isle) : (s.onCore f).attest = s.attest := rfl
@[simp] theorem State.onCore_cxlBytes (s : State) (f : Isle → Isle) : (s.onCore f).cxlBytes = s.cxlBytes := rfl
@[simp] theorem State.onCore_peerPages (s : State) (f : Isle → Isle) : (s.onCore f).peerPages = s.peerPages := rfl
@[simp] theorem State.onCore_peerHashes (s : State) (f : Isle → Isle) : (s.onCore f).peerHashes = s.peerHashes := rfl
@[simp] theorem State.onCore_peerManifest (s : State) (f : Isle → Isle) : (s.onCore f).peerManifest = s.peerManifest := rfl
@[simp] theorem State.onCore_saved (s : State) (f : Isle → Isle) : (s.onCore f).saved = s.saved := rfl
@[simp] theorem State.onCore_shards (s : State) (f : Isle → Isle) : (s.onCore f).shards = s.shards := rfl

/-! ## A change of the context in focus -/

@[simp] theorem State.onCtx_core (s : State) (f : Ctx → Ctx) : (s.onCtx f).core = s.core := rfl
@[simp] theorem State.onCtx_ctx (s : State) (f : Ctx → Ctx) : (s.onCtx f).ctx = f s.ctx := rfl
@[simp] theorem State.onCtx_left (s : State) (f : Ctx → Ctx) : (s.onCtx f).left = s.left := rfl
@[simp] theorem State.onCtx_right (s : State) (f : Ctx → Ctx) : (s.onCtx f).right = s.right := rfl
@[simp] theorem State.onCtx_slot (s : State) (f : Ctx → Ctx) : (s.onCtx f).slot = s.slot := rfl
@[simp] theorem State.onCtx_others (s : State) (f : Ctx → Ctx) : (s.onCtx f).others = s.others := rfl
@[simp] theorem State.onCtx_regions (s : State) (f : Ctx → Ctx) : (s.onCtx f).regions = s.regions := rfl
@[simp] theorem State.onCtx_turn (s : State) (f : Ctx → Ctx) : (s.onCtx f).turn = s.turn := rfl
@[simp] theorem State.onCtx_agenda (s : State) (f : Ctx → Ctx) : (s.onCtx f).agenda = s.agenda := rfl
@[simp] theorem State.onCtx_ops (s : State) (f : Ctx → Ctx) : (s.onCtx f).ops = s.ops := rfl
@[simp] theorem State.onCtx_opNext (s : State) (f : Ctx → Ctx) : (s.onCtx f).opNext = s.opNext := rfl
@[simp] theorem State.onCtx_interval (s : State) (f : Ctx → Ctx) : (s.onCtx f).interval = s.interval := rfl
@[simp] theorem State.onCtx_seq (s : State) (f : Ctx → Ctx) : (s.onCtx f).seq = s.seq := rfl
@[simp] theorem State.onCtx_mark (s : State) (f : Ctx → Ctx) : (s.onCtx f).mark = s.mark := rfl
@[simp] theorem State.onCtx_fresh (s : State) (f : Ctx → Ctx) : (s.onCtx f).fresh = s.fresh := rfl
@[simp] theorem State.onCtx_now (s : State) (f : Ctx → Ctx) : (s.onCtx f).now = s.now := rfl
@[simp] theorem State.onCtx_dram (s : State) (f : Ctx → Ctx) : (s.onCtx f).dram = s.dram := rfl
@[simp] theorem State.onCtx_dpoison (s : State) (f : Ctx → Ctx) : (s.onCtx f).dpoison = s.dpoison := rfl
@[simp] theorem State.onCtx_slots (s : State) (f : Ctx → Ctx) : (s.onCtx f).slots = s.slots := rfl
@[simp] theorem State.onCtx_parts (s : State) (f : Ctx → Ctx) : (s.onCtx f).parts = s.parts := rfl
@[simp] theorem State.onCtx_asids (s : State) (f : Ctx → Ctx) : (s.onCtx f).asids = s.asids := rfl
@[simp] theorem State.onCtx_fns (s : State) (f : Ctx → Ctx) : (s.onCtx f).fns = s.fns := rfl
@[simp] theorem State.onCtx_socks (s : State) (f : Ctx → Ctx) : (s.onCtx f).socks = s.socks := rfl
@[simp] theorem State.onCtx_contribs (s : State) (f : Ctx → Ctx) : (s.onCtx f).contribs = s.contribs := rfl
@[simp] theorem State.onCtx_fused (s : State) (f : Ctx → Ctx) : (s.onCtx f).fused = s.fused := rfl
@[simp] theorem State.onCtx_defects (s : State) (f : Ctx → Ctx) : (s.onCtx f).defects = s.defects := rfl
@[simp] theorem State.onCtx_badStraits (s : State) (f : Ctx → Ctx) : (s.onCtx f).badStraits = s.badStraits := rfl
@[simp] theorem State.onCtx_badLinks (s : State) (f : Ctx → Ctx) : (s.onCtx f).badLinks = s.badLinks := rfl
@[simp] theorem State.onCtx_frozenLinks (s : State) (f : Ctx → Ctx) : (s.onCtx f).frozenLinks = s.frozenLinks := rfl
@[simp] theorem State.onCtx_retiredFrames (s : State) (f : Ctx → Ctx) : (s.onCtx f).retiredFrames = s.retiredFrames := rfl
@[simp] theorem State.onCtx_errs (s : State) (f : Ctx → Ctx) : (s.onCtx f).errs = s.errs := rfl
@[simp] theorem State.onCtx_gated (s : State) (f : Ctx → Ctx) : (s.onCtx f).gated = s.gated := rfl
@[simp] theorem State.onCtx_waking (s : State) (f : Ctx → Ctx) : (s.onCtx f).waking = s.waking := rfl
@[simp] theorem State.onCtx_overlays (s : State) (f : Ctx → Ctx) : (s.onCtx f).overlays = s.overlays := rfl
@[simp] theorem State.onCtx_waitfor (s : State) (f : Ctx → Ctx) : (s.onCtx f).waitfor = s.waitfor := rfl
@[simp] theorem State.onCtx_waitforLost (s : State) (f : Ctx → Ctx) : (s.onCtx f).waitforLost = s.waitforLost := rfl
@[simp] theorem State.onCtx_lastWalk (s : State) (f : Ctx → Ctx) : (s.onCtx f).lastWalk = s.lastWalk := rfl
@[simp] theorem State.onCtx_temps (s : State) (f : Ctx → Ctx) : (s.onCtx f).temps = s.temps := rfl
@[simp] theorem State.onCtx_budgetUse (s : State) (f : Ctx → Ctx) : (s.onCtx f).budgetUse = s.budgetUse := rfl
@[simp] theorem State.onCtx_hostWaits (s : State) (f : Ctx → Ctx) : (s.onCtx f).hostWaits = s.hostWaits := rfl
@[simp] theorem State.onCtx_waits (s : State) (f : Ctx → Ctx) : (s.onCtx f).waits = s.waits := rfl
@[simp] theorem State.onCtx_fwVersion (s : State) (f : Ctx → Ctx) : (s.onCtx f).fwVersion = s.fwVersion := rfl
@[simp] theorem State.onCtx_fwFused (s : State) (f : Ctx → Ctx) : (s.onCtx f).fwFused = s.fwFused := rfl
@[simp] theorem State.onCtx_measured (s : State) (f : Ctx → Ctx) : (s.onCtx f).measured = s.measured := rfl
@[simp] theorem State.onCtx_attest (s : State) (f : Ctx → Ctx) : (s.onCtx f).attest = s.attest := rfl
@[simp] theorem State.onCtx_cxlBytes (s : State) (f : Ctx → Ctx) : (s.onCtx f).cxlBytes = s.cxlBytes := rfl
@[simp] theorem State.onCtx_peerPages (s : State) (f : Ctx → Ctx) : (s.onCtx f).peerPages = s.peerPages := rfl
@[simp] theorem State.onCtx_peerHashes (s : State) (f : Ctx → Ctx) : (s.onCtx f).peerHashes = s.peerHashes := rfl
@[simp] theorem State.onCtx_peerManifest (s : State) (f : Ctx → Ctx) : (s.onCtx f).peerManifest = s.peerManifest := rfl
@[simp] theorem State.onCtx_saved (s : State) (f : Ctx → Ctx) : (s.onCtx f).saved = s.saved := rfl
@[simp] theorem State.onCtx_shards (s : State) (f : Ctx → Ctx) : (s.onCtx f).shards = s.shards := rfl

/-! ## An operation put in flight -/

@[simp] theorem State.fly_core (s : State) (d : Due) (c : Nat) (e : Eff) :
    (s.fly d c e).core = s.core.push
      { due := d, seq := s.seq, slot := s.slot, bundle := s.core.pc, rcyc := s.ctx.rcycle
        time := if s.core.handler then s.core.htime else s.ctx.rcycle, cls := c, eff := e } := rfl
@[simp] theorem State.fly_ctx (s : State) (d : Due) (c : Nat) (e : Eff) : (s.fly d c e).ctx = s.ctx := rfl
@[simp] theorem State.fly_left (s : State) (d : Due) (c : Nat) (e : Eff) : (s.fly d c e).left = s.left := rfl
@[simp] theorem State.fly_right (s : State) (d : Due) (c : Nat) (e : Eff) : (s.fly d c e).right = s.right := rfl
@[simp] theorem State.fly_slot (s : State) (d : Due) (c : Nat) (e : Eff) : (s.fly d c e).slot = s.slot := rfl
@[simp] theorem State.fly_others (s : State) (d : Due) (c : Nat) (e : Eff) : (s.fly d c e).others = s.others := rfl
@[simp] theorem State.fly_regions (s : State) (d : Due) (c : Nat) (e : Eff) : (s.fly d c e).regions = s.regions := rfl
@[simp] theorem State.fly_turn (s : State) (d : Due) (c : Nat) (e : Eff) : (s.fly d c e).turn = s.turn := rfl
@[simp] theorem State.fly_agenda (s : State) (d : Due) (c : Nat) (e : Eff) : (s.fly d c e).agenda = s.agenda := rfl
@[simp] theorem State.fly_ops (s : State) (d : Due) (c : Nat) (e : Eff) : (s.fly d c e).ops = s.ops := rfl
@[simp] theorem State.fly_opNext (s : State) (d : Due) (c : Nat) (e : Eff) : (s.fly d c e).opNext = s.opNext := rfl
@[simp] theorem State.fly_interval (s : State) (d : Due) (c : Nat) (e : Eff) : (s.fly d c e).interval = s.interval := rfl
@[simp] theorem State.fly_seq (s : State) (d : Due) (c : Nat) (e : Eff) : (s.fly d c e).seq = s.seq + 1 := rfl
@[simp] theorem State.fly_mark (s : State) (d : Due) (c : Nat) (e : Eff) : (s.fly d c e).mark = s.mark := rfl
@[simp] theorem State.fly_fresh (s : State) (d : Due) (c : Nat) (e : Eff) : (s.fly d c e).fresh = s.fresh := rfl
@[simp] theorem State.fly_now (s : State) (d : Due) (c : Nat) (e : Eff) : (s.fly d c e).now = s.now := rfl
@[simp] theorem State.fly_dram (s : State) (d : Due) (c : Nat) (e : Eff) : (s.fly d c e).dram = s.dram := rfl
@[simp] theorem State.fly_dpoison (s : State) (d : Due) (c : Nat) (e : Eff) : (s.fly d c e).dpoison = s.dpoison := rfl
@[simp] theorem State.fly_slots (s : State) (d : Due) (c : Nat) (e : Eff) : (s.fly d c e).slots = s.slots := rfl
@[simp] theorem State.fly_parts (s : State) (d : Due) (c : Nat) (e : Eff) : (s.fly d c e).parts = s.parts := rfl
@[simp] theorem State.fly_asids (s : State) (d : Due) (c : Nat) (e : Eff) : (s.fly d c e).asids = s.asids := rfl
@[simp] theorem State.fly_fns (s : State) (d : Due) (c : Nat) (e : Eff) : (s.fly d c e).fns = s.fns := rfl
@[simp] theorem State.fly_socks (s : State) (d : Due) (c : Nat) (e : Eff) : (s.fly d c e).socks = s.socks := rfl
@[simp] theorem State.fly_contribs (s : State) (d : Due) (c : Nat) (e : Eff) : (s.fly d c e).contribs = s.contribs := rfl
@[simp] theorem State.fly_fused (s : State) (d : Due) (c : Nat) (e : Eff) : (s.fly d c e).fused = s.fused := rfl
@[simp] theorem State.fly_defects (s : State) (d : Due) (c : Nat) (e : Eff) : (s.fly d c e).defects = s.defects := rfl
@[simp] theorem State.fly_badStraits (s : State) (d : Due) (c : Nat) (e : Eff) : (s.fly d c e).badStraits = s.badStraits := rfl
@[simp] theorem State.fly_badLinks (s : State) (d : Due) (c : Nat) (e : Eff) : (s.fly d c e).badLinks = s.badLinks := rfl
@[simp] theorem State.fly_frozenLinks (s : State) (d : Due) (c : Nat) (e : Eff) : (s.fly d c e).frozenLinks = s.frozenLinks := rfl
@[simp] theorem State.fly_retiredFrames (s : State) (d : Due) (c : Nat) (e : Eff) : (s.fly d c e).retiredFrames = s.retiredFrames := rfl
@[simp] theorem State.fly_errs (s : State) (d : Due) (c : Nat) (e : Eff) : (s.fly d c e).errs = s.errs := rfl
@[simp] theorem State.fly_gated (s : State) (d : Due) (c : Nat) (e : Eff) : (s.fly d c e).gated = s.gated := rfl
@[simp] theorem State.fly_waking (s : State) (d : Due) (c : Nat) (e : Eff) : (s.fly d c e).waking = s.waking := rfl
@[simp] theorem State.fly_overlays (s : State) (d : Due) (c : Nat) (e : Eff) : (s.fly d c e).overlays = s.overlays := rfl
@[simp] theorem State.fly_waitfor (s : State) (d : Due) (c : Nat) (e : Eff) : (s.fly d c e).waitfor = s.waitfor := rfl
@[simp] theorem State.fly_waitforLost (s : State) (d : Due) (c : Nat) (e : Eff) : (s.fly d c e).waitforLost = s.waitforLost := rfl
@[simp] theorem State.fly_lastWalk (s : State) (d : Due) (c : Nat) (e : Eff) : (s.fly d c e).lastWalk = s.lastWalk := rfl
@[simp] theorem State.fly_temps (s : State) (d : Due) (c : Nat) (e : Eff) : (s.fly d c e).temps = s.temps := rfl
@[simp] theorem State.fly_budgetUse (s : State) (d : Due) (c : Nat) (e : Eff) : (s.fly d c e).budgetUse = s.budgetUse := rfl
@[simp] theorem State.fly_hostWaits (s : State) (d : Due) (c : Nat) (e : Eff) : (s.fly d c e).hostWaits = s.hostWaits := rfl
@[simp] theorem State.fly_waits (s : State) (d : Due) (c : Nat) (e : Eff) : (s.fly d c e).waits = s.waits := rfl
@[simp] theorem State.fly_fwVersion (s : State) (d : Due) (c : Nat) (e : Eff) : (s.fly d c e).fwVersion = s.fwVersion := rfl
@[simp] theorem State.fly_fwFused (s : State) (d : Due) (c : Nat) (e : Eff) : (s.fly d c e).fwFused = s.fwFused := rfl
@[simp] theorem State.fly_measured (s : State) (d : Due) (c : Nat) (e : Eff) : (s.fly d c e).measured = s.measured := rfl
@[simp] theorem State.fly_attest (s : State) (d : Due) (c : Nat) (e : Eff) : (s.fly d c e).attest = s.attest := rfl
@[simp] theorem State.fly_cxlBytes (s : State) (d : Due) (c : Nat) (e : Eff) : (s.fly d c e).cxlBytes = s.cxlBytes := rfl
@[simp] theorem State.fly_peerPages (s : State) (d : Due) (c : Nat) (e : Eff) : (s.fly d c e).peerPages = s.peerPages := rfl
@[simp] theorem State.fly_peerHashes (s : State) (d : Due) (c : Nat) (e : Eff) : (s.fly d c e).peerHashes = s.peerHashes := rfl
@[simp] theorem State.fly_peerManifest (s : State) (d : Due) (c : Nat) (e : Eff) : (s.fly d c e).peerManifest = s.peerManifest := rfl
@[simp] theorem State.fly_saved (s : State) (d : Due) (c : Nat) (e : Eff) : (s.fly d c e).saved = s.saved := rfl
@[simp] theorem State.fly_shards (s : State) (d : Due) (c : Nat) (e : Eff) : (s.fly d c e).shards = s.shards := rfl

/-! ## The isle that holds it -/

@[simp] theorem Isle.push_px (c : Isle) (x : Flight) : (c.push x).px = c.px := by unfold Isle.push; split <;> rfl
@[simp] theorem Isle.push_py (c : Isle) (x : Flight) : (c.push x).py = c.py := by unfold Isle.push; split <;> rfl
@[simp] theorem Isle.push_a (c : Isle) (x : Flight) : (c.push x).a = c.a := by unfold Isle.push; split <;> rfl
@[simp] theorem Isle.push_b (c : Isle) (x : Flight) : (c.push x).b = c.b := by unfold Isle.push; split <;> rfl
@[simp] theorem Isle.push_p (c : Isle) (x : Flight) : (c.push x).p = c.p := by unfold Isle.push; split <;> rfl
@[simp] theorem Isle.push_v (c : Isle) (x : Flight) : (c.push x).v = c.v := by unfold Isle.push; split <;> rfl
@[simp] theorem Isle.push_tag (c : Isle) (x : Flight) : (c.push x).tag = c.tag := by unfold Isle.push; split <;> rfl
@[simp] theorem Isle.push_vm (c : Isle) (x : Flight) : (c.push x).vm = c.vm := by unfold Isle.push; split <;> rfl
@[simp] theorem Isle.push_st (c : Isle) (x : Flight) : (c.push x).st = c.st := by unfold Isle.push; split <;> rfl
@[simp] theorem Isle.push_mp (c : Isle) (x : Flight) : (c.push x).mp = c.mp := by unfold Isle.push; split <;> rfl
@[simp] theorem Isle.push_flag (c : Isle) (x : Flight) : (c.push x).flag = c.flag := by unfold Isle.push; split <;> rfl
@[simp] theorem Isle.push_pc (c : Isle) (x : Flight) : (c.push x).pc = c.pc := by unfold Isle.push; split <;> rfl
@[simp] theorem Isle.push_handler (c : Isle) (x : Flight) : (c.push x).handler = c.handler := by unfold Isle.push; split <;> rfl
@[simp] theorem Isle.push_loops (c : Isle) (x : Flight) : (c.push x).loops = c.loops := by unfold Isle.push; split <;> rfl
@[simp] theorem Isle.push_hloops (c : Isle) (x : Flight) : (c.push x).hloops = c.hloops := by unfold Isle.push; split <;> rfl
@[simp] theorem Isle.push_calls (c : Isle) (x : Flight) : (c.push x).calls = c.calls := by unfold Isle.push; split <;> rfl
@[simp] theorem Isle.push_hcalls (c : Isle) (x : Flight) : (c.push x).hcalls = c.hcalls := by unfold Isle.push; split <;> rfl
@[simp] theorem Isle.push_ended (c : Isle) (x : Flight) : (c.push x).ended = c.ended := by unfold Isle.push; split <;> rfl
@[simp] theorem Isle.push_stall (c : Isle) (x : Flight) : (c.push x).stall = c.stall := by unfold Isle.push; split <;> rfl
@[simp] theorem Isle.push_next (c : Isle) (x : Flight) : (c.push x).next = c.next := by unfold Isle.push; split <;> rfl
@[simp] theorem Isle.push_nextStall (c : Isle) (x : Flight) : (c.push x).nextStall = c.nextStall := by unfold Isle.push; split <;> rfl
@[simp] theorem Isle.push_tcause (c : Isle) (x : Flight) : (c.push x).tcause = c.tcause := by unfold Isle.push; split <;> rfl
@[simp] theorem Isle.push_taddr (c : Isle) (x : Flight) : (c.push x).taddr = c.taddr := by unfold Isle.push; split <;> rfl
@[simp] theorem Isle.push_tslot (c : Isle) (x : Flight) : (c.push x).tslot = c.tslot := by unfold Isle.push; split <;> rfl
@[simp] theorem Isle.push_tinfo (c : Isle) (x : Flight) : (c.push x).tinfo = c.tinfo := by unfold Isle.push; split <;> rfl
@[simp] theorem Isle.push_tcause2 (c : Isle) (x : Flight) : (c.push x).tcause2 = c.tcause2 := by unfold Isle.push; split <;> rfl
@[simp] theorem Isle.push_srseed (c : Isle) (x : Flight) : (c.push x).srseed = c.srseed := by unfold Isle.push; split <;> rfl
@[simp] theorem Isle.push_sbmode (c : Isle) (x : Flight) : (c.push x).sbmode = c.sbmode := by unfold Isle.push; split <;> rfl
@[simp] theorem Isle.push_perf (c : Isle) (x : Flight) : (c.push x).perf = c.perf := by unfold Isle.push; split <;> rfl
@[simp] theorem Isle.push_bkpt (c : Isle) (x : Flight) : (c.push x).bkpt = c.bkpt := by unfold Isle.push; split <;> rfl
@[simp] theorem Isle.push_bksup (c : Isle) (x : Flight) : (c.push x).bksup = c.bksup := by unfold Isle.push; split <;> rfl
@[simp] theorem Isle.push_wb (c : Isle) (x : Flight) : (c.push x).wb = c.wb := by unfold Isle.push; split <;> rfl
@[simp] theorem Isle.push_ab (c : Isle) (x : Flight) : (c.push x).ab = c.ab := by unfold Isle.push; split <;> rfl
@[simp] theorem Isle.push_acb (c : Isle) (x : Flight) : (c.push x).acb = c.acb := by unfold Isle.push; split <;> rfl
@[simp] theorem Isle.push_ballast (c : Isle) (x : Flight) : (c.push x).ballast = c.ballast := by unfold Isle.push; split <;> rfl
@[simp] theorem Isle.push_btag (c : Isle) (x : Flight) : (c.push x).btag = c.btag := by unfold Isle.push; split <;> rfl
@[simp] theorem Isle.push_htime (c : Isle) (x : Flight) : (c.push x).htime = c.htime := by unfold Isle.push; split <;> rfl
@[simp] theorem Isle.push_hread (c : Isle) (x : Flight) : (c.push x).hread = c.hread := by unfold Isle.push; split <;> rfl
@[simp] theorem Isle.push_held (c : Isle) (x : Flight) : (c.push x).held = c.held := by unfold Isle.push; split <;> rfl
@[simp] theorem Isle.push_latch (c : Isle) (x : Flight) : (c.push x).latch = c.latch := by unfold Isle.push; split <;> rfl
@[simp] theorem Isle.push_fwd (c : Isle) (x : Flight) : (c.push x).fwd = c.fwd := by unfold Isle.push; split <;> rfl
@[simp] theorem Isle.push_mat (c : Isle) (x : Flight) : (c.push x).mat = c.mat := by unfold Isle.push; split <;> rfl
@[simp] theorem Isle.push_rtab (c : Isle) (x : Flight) : (c.push x).rtab = c.rtab := by unfold Isle.push; split <;> rfl
@[simp] theorem Isle.push_ustore (c : Isle) (x : Flight) : (c.push x).ustore = c.ustore := by unfold Isle.push; split <;> rfl
@[simp] theorem Isle.push_imem (c : Isle) (x : Flight) : (c.push x).imem = c.imem := by unfold Isle.push; split <;> rfl
@[simp] theorem Isle.push_imap (c : Isle) (x : Flight) : (c.push x).imap = c.imap := by unfold Isle.push; split <;> rfl
@[simp] theorem Isle.push_statq (c : Isle) (x : Flight) : (c.push x).statq = c.statq := by unfold Isle.push; split <;> rfl
@[simp] theorem Isle.push_collRecs (c : Isle) (x : Flight) : (c.push x).collRecs = c.collRecs := by unfold Isle.push; split <;> rfl
@[simp] theorem Isle.push_wait (c : Isle) (x : Flight) : (c.push x).wait = c.wait := by unfold Isle.push; split <;> rfl
@[simp] theorem Isle.push_phases (c : Isle) (x : Flight) : (c.push x).phases = c.phases := by unfold Isle.push; split <;> rfl
@[simp] theorem Isle.push_early (c : Isle) (x : Flight) : (c.push x).early = c.early := by unfold Isle.push; split <;> rfl
@[simp] theorem Isle.push_late (c : Isle) (x : Flight) : (c.push x).late = c.late := by unfold Isle.push; split <;> rfl
@[simp] theorem Isle.push_deferred (c : Isle) (x : Flight) : (c.push x).deferred = c.deferred := by unfold Isle.push; split <;> rfl
@[simp] theorem Isle.push_hstall (c : Isle) (x : Flight) : (c.push x).hstall = c.hstall := by unfold Isle.push; split <;> rfl
@[simp] theorem Isle.push_ret (c : Isle) (x : Flight) : (c.push x).ret = c.ret := by unfold Isle.push; split <;> rfl
@[simp] theorem Isle.push_waitPc (c : Isle) (x : Flight) : (c.push x).waitPc = c.waitPc := by unfold Isle.push; split <;> rfl
@[simp] theorem Isle.push_hold (c : Isle) (x : Flight) : (c.push x).hold = c.hold := by unfold Isle.push; split <;> rfl
@[simp] theorem Isle.push_safe (c : Isle) (x : Flight) : (c.push x).safe = c.safe := by unfold Isle.push; split <;> rfl
@[simp] theorem Isle.push_clk (c : Isle) (x : Flight) : (c.push x).clk = c.clk := by unfold Isle.push; split <;> rfl
@[simp] theorem Isle.push_poison (c : Isle) (x : Flight) : (c.push x).poison = c.poison := by unfold Isle.push; split <;> rfl
@[simp] theorem Isle.push_flights (c : Isle) (x : Flight) : (c.push x).flights = if c.handler then c.flights else c.flights ++ [x] := by
  unfold Isle.push; split <;> simp_all
@[simp] theorem Isle.push_hflights (c : Isle) (x : Flight) : (c.push x).hflights = if c.handler then c.hflights ++ [x] else c.hflights := by
  unfold Isle.push; split <;> simp_all

/-! ## Flights changed -/

@[simp] theorem Isle.onFlights_px (c : Isle) (g : List Flight → List Flight) : (c.onFlights g).px = c.px := by unfold Isle.onFlights; split <;> rfl
@[simp] theorem Isle.onFlights_py (c : Isle) (g : List Flight → List Flight) : (c.onFlights g).py = c.py := by unfold Isle.onFlights; split <;> rfl
@[simp] theorem Isle.onFlights_a (c : Isle) (g : List Flight → List Flight) : (c.onFlights g).a = c.a := by unfold Isle.onFlights; split <;> rfl
@[simp] theorem Isle.onFlights_b (c : Isle) (g : List Flight → List Flight) : (c.onFlights g).b = c.b := by unfold Isle.onFlights; split <;> rfl
@[simp] theorem Isle.onFlights_p (c : Isle) (g : List Flight → List Flight) : (c.onFlights g).p = c.p := by unfold Isle.onFlights; split <;> rfl
@[simp] theorem Isle.onFlights_v (c : Isle) (g : List Flight → List Flight) : (c.onFlights g).v = c.v := by unfold Isle.onFlights; split <;> rfl
@[simp] theorem Isle.onFlights_tag (c : Isle) (g : List Flight → List Flight) : (c.onFlights g).tag = c.tag := by unfold Isle.onFlights; split <;> rfl
@[simp] theorem Isle.onFlights_vm (c : Isle) (g : List Flight → List Flight) : (c.onFlights g).vm = c.vm := by unfold Isle.onFlights; split <;> rfl
@[simp] theorem Isle.onFlights_st (c : Isle) (g : List Flight → List Flight) : (c.onFlights g).st = c.st := by unfold Isle.onFlights; split <;> rfl
@[simp] theorem Isle.onFlights_mp (c : Isle) (g : List Flight → List Flight) : (c.onFlights g).mp = c.mp := by unfold Isle.onFlights; split <;> rfl
@[simp] theorem Isle.onFlights_flag (c : Isle) (g : List Flight → List Flight) : (c.onFlights g).flag = c.flag := by unfold Isle.onFlights; split <;> rfl
@[simp] theorem Isle.onFlights_pc (c : Isle) (g : List Flight → List Flight) : (c.onFlights g).pc = c.pc := by unfold Isle.onFlights; split <;> rfl
@[simp] theorem Isle.onFlights_handler (c : Isle) (g : List Flight → List Flight) : (c.onFlights g).handler = c.handler := by unfold Isle.onFlights; split <;> rfl
@[simp] theorem Isle.onFlights_loops (c : Isle) (g : List Flight → List Flight) : (c.onFlights g).loops = c.loops := by unfold Isle.onFlights; split <;> rfl
@[simp] theorem Isle.onFlights_hloops (c : Isle) (g : List Flight → List Flight) : (c.onFlights g).hloops = c.hloops := by unfold Isle.onFlights; split <;> rfl
@[simp] theorem Isle.onFlights_calls (c : Isle) (g : List Flight → List Flight) : (c.onFlights g).calls = c.calls := by unfold Isle.onFlights; split <;> rfl
@[simp] theorem Isle.onFlights_hcalls (c : Isle) (g : List Flight → List Flight) : (c.onFlights g).hcalls = c.hcalls := by unfold Isle.onFlights; split <;> rfl
@[simp] theorem Isle.onFlights_ended (c : Isle) (g : List Flight → List Flight) : (c.onFlights g).ended = c.ended := by unfold Isle.onFlights; split <;> rfl
@[simp] theorem Isle.onFlights_stall (c : Isle) (g : List Flight → List Flight) : (c.onFlights g).stall = c.stall := by unfold Isle.onFlights; split <;> rfl
@[simp] theorem Isle.onFlights_next (c : Isle) (g : List Flight → List Flight) : (c.onFlights g).next = c.next := by unfold Isle.onFlights; split <;> rfl
@[simp] theorem Isle.onFlights_nextStall (c : Isle) (g : List Flight → List Flight) : (c.onFlights g).nextStall = c.nextStall := by unfold Isle.onFlights; split <;> rfl
@[simp] theorem Isle.onFlights_tcause (c : Isle) (g : List Flight → List Flight) : (c.onFlights g).tcause = c.tcause := by unfold Isle.onFlights; split <;> rfl
@[simp] theorem Isle.onFlights_taddr (c : Isle) (g : List Flight → List Flight) : (c.onFlights g).taddr = c.taddr := by unfold Isle.onFlights; split <;> rfl
@[simp] theorem Isle.onFlights_tslot (c : Isle) (g : List Flight → List Flight) : (c.onFlights g).tslot = c.tslot := by unfold Isle.onFlights; split <;> rfl
@[simp] theorem Isle.onFlights_tinfo (c : Isle) (g : List Flight → List Flight) : (c.onFlights g).tinfo = c.tinfo := by unfold Isle.onFlights; split <;> rfl
@[simp] theorem Isle.onFlights_tcause2 (c : Isle) (g : List Flight → List Flight) : (c.onFlights g).tcause2 = c.tcause2 := by unfold Isle.onFlights; split <;> rfl
@[simp] theorem Isle.onFlights_srseed (c : Isle) (g : List Flight → List Flight) : (c.onFlights g).srseed = c.srseed := by unfold Isle.onFlights; split <;> rfl
@[simp] theorem Isle.onFlights_sbmode (c : Isle) (g : List Flight → List Flight) : (c.onFlights g).sbmode = c.sbmode := by unfold Isle.onFlights; split <;> rfl
@[simp] theorem Isle.onFlights_perf (c : Isle) (g : List Flight → List Flight) : (c.onFlights g).perf = c.perf := by unfold Isle.onFlights; split <;> rfl
@[simp] theorem Isle.onFlights_bkpt (c : Isle) (g : List Flight → List Flight) : (c.onFlights g).bkpt = c.bkpt := by unfold Isle.onFlights; split <;> rfl
@[simp] theorem Isle.onFlights_bksup (c : Isle) (g : List Flight → List Flight) : (c.onFlights g).bksup = c.bksup := by unfold Isle.onFlights; split <;> rfl
@[simp] theorem Isle.onFlights_wb (c : Isle) (g : List Flight → List Flight) : (c.onFlights g).wb = c.wb := by unfold Isle.onFlights; split <;> rfl
@[simp] theorem Isle.onFlights_ab (c : Isle) (g : List Flight → List Flight) : (c.onFlights g).ab = c.ab := by unfold Isle.onFlights; split <;> rfl
@[simp] theorem Isle.onFlights_acb (c : Isle) (g : List Flight → List Flight) : (c.onFlights g).acb = c.acb := by unfold Isle.onFlights; split <;> rfl
@[simp] theorem Isle.onFlights_ballast (c : Isle) (g : List Flight → List Flight) : (c.onFlights g).ballast = c.ballast := by unfold Isle.onFlights; split <;> rfl
@[simp] theorem Isle.onFlights_btag (c : Isle) (g : List Flight → List Flight) : (c.onFlights g).btag = c.btag := by unfold Isle.onFlights; split <;> rfl
@[simp] theorem Isle.onFlights_htime (c : Isle) (g : List Flight → List Flight) : (c.onFlights g).htime = c.htime := by unfold Isle.onFlights; split <;> rfl
@[simp] theorem Isle.onFlights_hread (c : Isle) (g : List Flight → List Flight) : (c.onFlights g).hread = c.hread := by unfold Isle.onFlights; split <;> rfl
@[simp] theorem Isle.onFlights_held (c : Isle) (g : List Flight → List Flight) : (c.onFlights g).held = c.held := by unfold Isle.onFlights; split <;> rfl
@[simp] theorem Isle.onFlights_latch (c : Isle) (g : List Flight → List Flight) : (c.onFlights g).latch = c.latch := by unfold Isle.onFlights; split <;> rfl
@[simp] theorem Isle.onFlights_fwd (c : Isle) (g : List Flight → List Flight) : (c.onFlights g).fwd = c.fwd := by unfold Isle.onFlights; split <;> rfl
@[simp] theorem Isle.onFlights_mat (c : Isle) (g : List Flight → List Flight) : (c.onFlights g).mat = c.mat := by unfold Isle.onFlights; split <;> rfl
@[simp] theorem Isle.onFlights_rtab (c : Isle) (g : List Flight → List Flight) : (c.onFlights g).rtab = c.rtab := by unfold Isle.onFlights; split <;> rfl
@[simp] theorem Isle.onFlights_ustore (c : Isle) (g : List Flight → List Flight) : (c.onFlights g).ustore = c.ustore := by unfold Isle.onFlights; split <;> rfl
@[simp] theorem Isle.onFlights_imem (c : Isle) (g : List Flight → List Flight) : (c.onFlights g).imem = c.imem := by unfold Isle.onFlights; split <;> rfl
@[simp] theorem Isle.onFlights_imap (c : Isle) (g : List Flight → List Flight) : (c.onFlights g).imap = c.imap := by unfold Isle.onFlights; split <;> rfl
@[simp] theorem Isle.onFlights_statq (c : Isle) (g : List Flight → List Flight) : (c.onFlights g).statq = c.statq := by unfold Isle.onFlights; split <;> rfl
@[simp] theorem Isle.onFlights_collRecs (c : Isle) (g : List Flight → List Flight) : (c.onFlights g).collRecs = c.collRecs := by unfold Isle.onFlights; split <;> rfl
@[simp] theorem Isle.onFlights_wait (c : Isle) (g : List Flight → List Flight) : (c.onFlights g).wait = c.wait := by unfold Isle.onFlights; split <;> rfl
@[simp] theorem Isle.onFlights_phases (c : Isle) (g : List Flight → List Flight) : (c.onFlights g).phases = c.phases := by unfold Isle.onFlights; split <;> rfl
@[simp] theorem Isle.onFlights_early (c : Isle) (g : List Flight → List Flight) : (c.onFlights g).early = c.early := by unfold Isle.onFlights; split <;> rfl
@[simp] theorem Isle.onFlights_late (c : Isle) (g : List Flight → List Flight) : (c.onFlights g).late = c.late := by unfold Isle.onFlights; split <;> rfl
@[simp] theorem Isle.onFlights_deferred (c : Isle) (g : List Flight → List Flight) : (c.onFlights g).deferred = c.deferred := by unfold Isle.onFlights; split <;> rfl
@[simp] theorem Isle.onFlights_hstall (c : Isle) (g : List Flight → List Flight) : (c.onFlights g).hstall = c.hstall := by unfold Isle.onFlights; split <;> rfl
@[simp] theorem Isle.onFlights_ret (c : Isle) (g : List Flight → List Flight) : (c.onFlights g).ret = c.ret := by unfold Isle.onFlights; split <;> rfl
@[simp] theorem Isle.onFlights_waitPc (c : Isle) (g : List Flight → List Flight) : (c.onFlights g).waitPc = c.waitPc := by unfold Isle.onFlights; split <;> rfl
@[simp] theorem Isle.onFlights_hold (c : Isle) (g : List Flight → List Flight) : (c.onFlights g).hold = c.hold := by unfold Isle.onFlights; split <;> rfl
@[simp] theorem Isle.onFlights_safe (c : Isle) (g : List Flight → List Flight) : (c.onFlights g).safe = c.safe := by unfold Isle.onFlights; split <;> rfl
@[simp] theorem Isle.onFlights_clk (c : Isle) (g : List Flight → List Flight) : (c.onFlights g).clk = c.clk := by unfold Isle.onFlights; split <;> rfl
@[simp] theorem Isle.onFlights_poison (c : Isle) (g : List Flight → List Flight) : (c.onFlights g).poison = c.poison := by unfold Isle.onFlights; split <;> rfl

/-! ## A counter event -/

@[simp] theorem Isle.count_px (c : Isle) (e n : Nat) : (c.count e n).px = c.px := rfl
@[simp] theorem Isle.count_py (c : Isle) (e n : Nat) : (c.count e n).py = c.py := rfl
@[simp] theorem Isle.count_a (c : Isle) (e n : Nat) : (c.count e n).a = c.a := rfl
@[simp] theorem Isle.count_b (c : Isle) (e n : Nat) : (c.count e n).b = c.b := rfl
@[simp] theorem Isle.count_p (c : Isle) (e n : Nat) : (c.count e n).p = c.p := rfl
@[simp] theorem Isle.count_v (c : Isle) (e n : Nat) : (c.count e n).v = c.v := rfl
@[simp] theorem Isle.count_tag (c : Isle) (e n : Nat) : (c.count e n).tag = c.tag := rfl
@[simp] theorem Isle.count_vm (c : Isle) (e n : Nat) : (c.count e n).vm = c.vm := rfl
@[simp] theorem Isle.count_st (c : Isle) (e n : Nat) : (c.count e n).st = c.st := rfl
@[simp] theorem Isle.count_mp (c : Isle) (e n : Nat) : (c.count e n).mp = c.mp := rfl
@[simp] theorem Isle.count_flag (c : Isle) (e n : Nat) : (c.count e n).flag = c.flag := rfl
@[simp] theorem Isle.count_pc (c : Isle) (e n : Nat) : (c.count e n).pc = c.pc := rfl
@[simp] theorem Isle.count_handler (c : Isle) (e n : Nat) : (c.count e n).handler = c.handler := rfl
@[simp] theorem Isle.count_loops (c : Isle) (e n : Nat) : (c.count e n).loops = c.loops := rfl
@[simp] theorem Isle.count_hloops (c : Isle) (e n : Nat) : (c.count e n).hloops = c.hloops := rfl
@[simp] theorem Isle.count_calls (c : Isle) (e n : Nat) : (c.count e n).calls = c.calls := rfl
@[simp] theorem Isle.count_hcalls (c : Isle) (e n : Nat) : (c.count e n).hcalls = c.hcalls := rfl
@[simp] theorem Isle.count_ended (c : Isle) (e n : Nat) : (c.count e n).ended = c.ended := rfl
@[simp] theorem Isle.count_stall (c : Isle) (e n : Nat) : (c.count e n).stall = c.stall := rfl
@[simp] theorem Isle.count_next (c : Isle) (e n : Nat) : (c.count e n).next = c.next := rfl
@[simp] theorem Isle.count_nextStall (c : Isle) (e n : Nat) : (c.count e n).nextStall = c.nextStall := rfl
@[simp] theorem Isle.count_tcause (c : Isle) (e n : Nat) : (c.count e n).tcause = c.tcause := rfl
@[simp] theorem Isle.count_taddr (c : Isle) (e n : Nat) : (c.count e n).taddr = c.taddr := rfl
@[simp] theorem Isle.count_tslot (c : Isle) (e n : Nat) : (c.count e n).tslot = c.tslot := rfl
@[simp] theorem Isle.count_tinfo (c : Isle) (e n : Nat) : (c.count e n).tinfo = c.tinfo := rfl
@[simp] theorem Isle.count_tcause2 (c : Isle) (e n : Nat) : (c.count e n).tcause2 = c.tcause2 := rfl
@[simp] theorem Isle.count_srseed (c : Isle) (e n : Nat) : (c.count e n).srseed = c.srseed := rfl
@[simp] theorem Isle.count_sbmode (c : Isle) (e n : Nat) : (c.count e n).sbmode = c.sbmode := rfl
@[simp] theorem Isle.count_bkpt (c : Isle) (e n : Nat) : (c.count e n).bkpt = c.bkpt := rfl
@[simp] theorem Isle.count_bksup (c : Isle) (e n : Nat) : (c.count e n).bksup = c.bksup := rfl
@[simp] theorem Isle.count_wb (c : Isle) (e n : Nat) : (c.count e n).wb = c.wb := rfl
@[simp] theorem Isle.count_ab (c : Isle) (e n : Nat) : (c.count e n).ab = c.ab := rfl
@[simp] theorem Isle.count_acb (c : Isle) (e n : Nat) : (c.count e n).acb = c.acb := rfl
@[simp] theorem Isle.count_ballast (c : Isle) (e n : Nat) : (c.count e n).ballast = c.ballast := rfl
@[simp] theorem Isle.count_btag (c : Isle) (e n : Nat) : (c.count e n).btag = c.btag := rfl
@[simp] theorem Isle.count_flights (c : Isle) (e n : Nat) : (c.count e n).flights = c.flights := rfl
@[simp] theorem Isle.count_hflights (c : Isle) (e n : Nat) : (c.count e n).hflights = c.hflights := rfl
@[simp] theorem Isle.count_htime (c : Isle) (e n : Nat) : (c.count e n).htime = c.htime := rfl
@[simp] theorem Isle.count_hread (c : Isle) (e n : Nat) : (c.count e n).hread = c.hread := rfl
@[simp] theorem Isle.count_held (c : Isle) (e n : Nat) : (c.count e n).held = c.held := rfl
@[simp] theorem Isle.count_latch (c : Isle) (e n : Nat) : (c.count e n).latch = c.latch := rfl
@[simp] theorem Isle.count_fwd (c : Isle) (e n : Nat) : (c.count e n).fwd = c.fwd := rfl
@[simp] theorem Isle.count_mat (c : Isle) (e n : Nat) : (c.count e n).mat = c.mat := rfl
@[simp] theorem Isle.count_rtab (c : Isle) (e n : Nat) : (c.count e n).rtab = c.rtab := rfl
@[simp] theorem Isle.count_ustore (c : Isle) (e n : Nat) : (c.count e n).ustore = c.ustore := rfl
@[simp] theorem Isle.count_imem (c : Isle) (e n : Nat) : (c.count e n).imem = c.imem := rfl
@[simp] theorem Isle.count_imap (c : Isle) (e n : Nat) : (c.count e n).imap = c.imap := rfl
@[simp] theorem Isle.count_statq (c : Isle) (e n : Nat) : (c.count e n).statq = c.statq := rfl
@[simp] theorem Isle.count_collRecs (c : Isle) (e n : Nat) : (c.count e n).collRecs = c.collRecs := rfl
@[simp] theorem Isle.count_wait (c : Isle) (e n : Nat) : (c.count e n).wait = c.wait := rfl
@[simp] theorem Isle.count_phases (c : Isle) (e n : Nat) : (c.count e n).phases = c.phases := rfl
@[simp] theorem Isle.count_early (c : Isle) (e n : Nat) : (c.count e n).early = c.early := rfl
@[simp] theorem Isle.count_late (c : Isle) (e n : Nat) : (c.count e n).late = c.late := rfl
@[simp] theorem Isle.count_deferred (c : Isle) (e n : Nat) : (c.count e n).deferred = c.deferred := rfl
@[simp] theorem Isle.count_hstall (c : Isle) (e n : Nat) : (c.count e n).hstall = c.hstall := rfl
@[simp] theorem Isle.count_ret (c : Isle) (e n : Nat) : (c.count e n).ret = c.ret := rfl
@[simp] theorem Isle.count_waitPc (c : Isle) (e n : Nat) : (c.count e n).waitPc = c.waitPc := rfl
@[simp] theorem Isle.count_hold (c : Isle) (e n : Nat) : (c.count e n).hold = c.hold := rfl
@[simp] theorem Isle.count_safe (c : Isle) (e n : Nat) : (c.count e n).safe = c.safe := rfl
@[simp] theorem Isle.count_clk (c : Isle) (e n : Nat) : (c.count e n).clk = c.clk := rfl
@[simp] theorem Isle.count_poison (c : Isle) (e n : Nat) : (c.count e n).poison = c.poison := rfl

/-! ## A write to a G operand -/

@[simp] theorem Isle.wrG_px (c : Isle) (g : GReg) (x : W64) : (c.wrG g x).px = c.px := by unfold Isle.wrG; split <;> split <;> rfl
@[simp] theorem Isle.wrG_py (c : Isle) (g : GReg) (x : W64) : (c.wrG g x).py = c.py := by unfold Isle.wrG; split <;> split <;> rfl
@[simp] theorem Isle.wrG_p (c : Isle) (g : GReg) (x : W64) : (c.wrG g x).p = c.p := by unfold Isle.wrG; split <;> split <;> rfl
@[simp] theorem Isle.wrG_v (c : Isle) (g : GReg) (x : W64) : (c.wrG g x).v = c.v := by unfold Isle.wrG; split <;> split <;> rfl
@[simp] theorem Isle.wrG_tag (c : Isle) (g : GReg) (x : W64) : (c.wrG g x).tag = c.tag := by unfold Isle.wrG; split <;> split <;> rfl
@[simp] theorem Isle.wrG_vm (c : Isle) (g : GReg) (x : W64) : (c.wrG g x).vm = c.vm := by unfold Isle.wrG; split <;> split <;> rfl
@[simp] theorem Isle.wrG_st (c : Isle) (g : GReg) (x : W64) : (c.wrG g x).st = c.st := by unfold Isle.wrG; split <;> split <;> rfl
@[simp] theorem Isle.wrG_mp (c : Isle) (g : GReg) (x : W64) : (c.wrG g x).mp = c.mp := by unfold Isle.wrG; split <;> split <;> rfl
@[simp] theorem Isle.wrG_flag (c : Isle) (g : GReg) (x : W64) : (c.wrG g x).flag = c.flag := by unfold Isle.wrG; split <;> split <;> rfl
@[simp] theorem Isle.wrG_pc (c : Isle) (g : GReg) (x : W64) : (c.wrG g x).pc = c.pc := by unfold Isle.wrG; split <;> split <;> rfl
@[simp] theorem Isle.wrG_handler (c : Isle) (g : GReg) (x : W64) : (c.wrG g x).handler = c.handler := by unfold Isle.wrG; split <;> split <;> rfl
@[simp] theorem Isle.wrG_loops (c : Isle) (g : GReg) (x : W64) : (c.wrG g x).loops = c.loops := by unfold Isle.wrG; split <;> split <;> rfl
@[simp] theorem Isle.wrG_hloops (c : Isle) (g : GReg) (x : W64) : (c.wrG g x).hloops = c.hloops := by unfold Isle.wrG; split <;> split <;> rfl
@[simp] theorem Isle.wrG_calls (c : Isle) (g : GReg) (x : W64) : (c.wrG g x).calls = c.calls := by unfold Isle.wrG; split <;> split <;> rfl
@[simp] theorem Isle.wrG_hcalls (c : Isle) (g : GReg) (x : W64) : (c.wrG g x).hcalls = c.hcalls := by unfold Isle.wrG; split <;> split <;> rfl
@[simp] theorem Isle.wrG_ended (c : Isle) (g : GReg) (x : W64) : (c.wrG g x).ended = c.ended := by unfold Isle.wrG; split <;> split <;> rfl
@[simp] theorem Isle.wrG_stall (c : Isle) (g : GReg) (x : W64) : (c.wrG g x).stall = c.stall := by unfold Isle.wrG; split <;> split <;> rfl
@[simp] theorem Isle.wrG_next (c : Isle) (g : GReg) (x : W64) : (c.wrG g x).next = c.next := by unfold Isle.wrG; split <;> split <;> rfl
@[simp] theorem Isle.wrG_nextStall (c : Isle) (g : GReg) (x : W64) : (c.wrG g x).nextStall = c.nextStall := by unfold Isle.wrG; split <;> split <;> rfl
@[simp] theorem Isle.wrG_tcause (c : Isle) (g : GReg) (x : W64) : (c.wrG g x).tcause = c.tcause := by unfold Isle.wrG; split <;> split <;> rfl
@[simp] theorem Isle.wrG_taddr (c : Isle) (g : GReg) (x : W64) : (c.wrG g x).taddr = c.taddr := by unfold Isle.wrG; split <;> split <;> rfl
@[simp] theorem Isle.wrG_tslot (c : Isle) (g : GReg) (x : W64) : (c.wrG g x).tslot = c.tslot := by unfold Isle.wrG; split <;> split <;> rfl
@[simp] theorem Isle.wrG_tinfo (c : Isle) (g : GReg) (x : W64) : (c.wrG g x).tinfo = c.tinfo := by unfold Isle.wrG; split <;> split <;> rfl
@[simp] theorem Isle.wrG_tcause2 (c : Isle) (g : GReg) (x : W64) : (c.wrG g x).tcause2 = c.tcause2 := by unfold Isle.wrG; split <;> split <;> rfl
@[simp] theorem Isle.wrG_srseed (c : Isle) (g : GReg) (x : W64) : (c.wrG g x).srseed = c.srseed := by unfold Isle.wrG; split <;> split <;> rfl
@[simp] theorem Isle.wrG_sbmode (c : Isle) (g : GReg) (x : W64) : (c.wrG g x).sbmode = c.sbmode := by unfold Isle.wrG; split <;> split <;> rfl
@[simp] theorem Isle.wrG_perf (c : Isle) (g : GReg) (x : W64) : (c.wrG g x).perf = c.perf := by unfold Isle.wrG; split <;> split <;> rfl
@[simp] theorem Isle.wrG_bkpt (c : Isle) (g : GReg) (x : W64) : (c.wrG g x).bkpt = c.bkpt := by unfold Isle.wrG; split <;> split <;> rfl
@[simp] theorem Isle.wrG_bksup (c : Isle) (g : GReg) (x : W64) : (c.wrG g x).bksup = c.bksup := by unfold Isle.wrG; split <;> split <;> rfl
@[simp] theorem Isle.wrG_wb (c : Isle) (g : GReg) (x : W64) : (c.wrG g x).wb = c.wb := by unfold Isle.wrG; split <;> split <;> rfl
@[simp] theorem Isle.wrG_ab (c : Isle) (g : GReg) (x : W64) : (c.wrG g x).ab = c.ab := by unfold Isle.wrG; split <;> split <;> rfl
@[simp] theorem Isle.wrG_acb (c : Isle) (g : GReg) (x : W64) : (c.wrG g x).acb = c.acb := by unfold Isle.wrG; split <;> split <;> rfl
@[simp] theorem Isle.wrG_ballast (c : Isle) (g : GReg) (x : W64) : (c.wrG g x).ballast = c.ballast := by unfold Isle.wrG; split <;> split <;> rfl
@[simp] theorem Isle.wrG_btag (c : Isle) (g : GReg) (x : W64) : (c.wrG g x).btag = c.btag := by unfold Isle.wrG; split <;> split <;> rfl
@[simp] theorem Isle.wrG_flights (c : Isle) (g : GReg) (x : W64) : (c.wrG g x).flights = c.flights := by unfold Isle.wrG; split <;> split <;> rfl
@[simp] theorem Isle.wrG_hflights (c : Isle) (g : GReg) (x : W64) : (c.wrG g x).hflights = c.hflights := by unfold Isle.wrG; split <;> split <;> rfl
@[simp] theorem Isle.wrG_htime (c : Isle) (g : GReg) (x : W64) : (c.wrG g x).htime = c.htime := by unfold Isle.wrG; split <;> split <;> rfl
@[simp] theorem Isle.wrG_hread (c : Isle) (g : GReg) (x : W64) : (c.wrG g x).hread = c.hread := by unfold Isle.wrG; split <;> split <;> rfl
@[simp] theorem Isle.wrG_held (c : Isle) (g : GReg) (x : W64) : (c.wrG g x).held = c.held := by unfold Isle.wrG; split <;> split <;> rfl
@[simp] theorem Isle.wrG_latch (c : Isle) (g : GReg) (x : W64) : (c.wrG g x).latch = c.latch := by unfold Isle.wrG; split <;> split <;> rfl
@[simp] theorem Isle.wrG_fwd (c : Isle) (g : GReg) (x : W64) : (c.wrG g x).fwd = c.fwd := by unfold Isle.wrG; split <;> split <;> rfl
@[simp] theorem Isle.wrG_mat (c : Isle) (g : GReg) (x : W64) : (c.wrG g x).mat = c.mat := by unfold Isle.wrG; split <;> split <;> rfl
@[simp] theorem Isle.wrG_rtab (c : Isle) (g : GReg) (x : W64) : (c.wrG g x).rtab = c.rtab := by unfold Isle.wrG; split <;> split <;> rfl
@[simp] theorem Isle.wrG_ustore (c : Isle) (g : GReg) (x : W64) : (c.wrG g x).ustore = c.ustore := by unfold Isle.wrG; split <;> split <;> rfl
@[simp] theorem Isle.wrG_imem (c : Isle) (g : GReg) (x : W64) : (c.wrG g x).imem = c.imem := by unfold Isle.wrG; split <;> split <;> rfl
@[simp] theorem Isle.wrG_imap (c : Isle) (g : GReg) (x : W64) : (c.wrG g x).imap = c.imap := by unfold Isle.wrG; split <;> split <;> rfl
@[simp] theorem Isle.wrG_statq (c : Isle) (g : GReg) (x : W64) : (c.wrG g x).statq = c.statq := by unfold Isle.wrG; split <;> split <;> rfl
@[simp] theorem Isle.wrG_collRecs (c : Isle) (g : GReg) (x : W64) : (c.wrG g x).collRecs = c.collRecs := by unfold Isle.wrG; split <;> split <;> rfl
@[simp] theorem Isle.wrG_wait (c : Isle) (g : GReg) (x : W64) : (c.wrG g x).wait = c.wait := by unfold Isle.wrG; split <;> split <;> rfl
@[simp] theorem Isle.wrG_phases (c : Isle) (g : GReg) (x : W64) : (c.wrG g x).phases = c.phases := by unfold Isle.wrG; split <;> split <;> rfl
@[simp] theorem Isle.wrG_early (c : Isle) (g : GReg) (x : W64) : (c.wrG g x).early = c.early := by unfold Isle.wrG; split <;> split <;> rfl
@[simp] theorem Isle.wrG_late (c : Isle) (g : GReg) (x : W64) : (c.wrG g x).late = c.late := by unfold Isle.wrG; split <;> split <;> rfl
@[simp] theorem Isle.wrG_deferred (c : Isle) (g : GReg) (x : W64) : (c.wrG g x).deferred = c.deferred := by unfold Isle.wrG; split <;> split <;> rfl
@[simp] theorem Isle.wrG_hstall (c : Isle) (g : GReg) (x : W64) : (c.wrG g x).hstall = c.hstall := by unfold Isle.wrG; split <;> split <;> rfl
@[simp] theorem Isle.wrG_ret (c : Isle) (g : GReg) (x : W64) : (c.wrG g x).ret = c.ret := by unfold Isle.wrG; split <;> split <;> rfl
@[simp] theorem Isle.wrG_waitPc (c : Isle) (g : GReg) (x : W64) : (c.wrG g x).waitPc = c.waitPc := by unfold Isle.wrG; split <;> split <;> rfl
@[simp] theorem Isle.wrG_hold (c : Isle) (g : GReg) (x : W64) : (c.wrG g x).hold = c.hold := by unfold Isle.wrG; split <;> split <;> rfl
@[simp] theorem Isle.wrG_safe (c : Isle) (g : GReg) (x : W64) : (c.wrG g x).safe = c.safe := by unfold Isle.wrG; split <;> split <;> rfl
@[simp] theorem Isle.wrG_clk (c : Isle) (g : GReg) (x : W64) : (c.wrG g x).clk = c.clk := by unfold Isle.wrG; split <;> split <;> rfl
@[simp] theorem Isle.wrG_poison (c : Isle) (g : GReg) (x : W64) : (c.wrG g x).poison = c.poison := by unfold Isle.wrG; split <;> split <;> rfl

/-! ## A buffer replaced -/

@[simp] theorem Isle.setBuf_px (c : Isle) (u : Buf) (m : Mem) : (c.setBuf u m).px = c.px := by cases u <;> rfl
@[simp] theorem Isle.setBuf_py (c : Isle) (u : Buf) (m : Mem) : (c.setBuf u m).py = c.py := by cases u <;> rfl
@[simp] theorem Isle.setBuf_a (c : Isle) (u : Buf) (m : Mem) : (c.setBuf u m).a = c.a := by cases u <;> rfl
@[simp] theorem Isle.setBuf_b (c : Isle) (u : Buf) (m : Mem) : (c.setBuf u m).b = c.b := by cases u <;> rfl
@[simp] theorem Isle.setBuf_p (c : Isle) (u : Buf) (m : Mem) : (c.setBuf u m).p = c.p := by cases u <;> rfl
@[simp] theorem Isle.setBuf_v (c : Isle) (u : Buf) (m : Mem) : (c.setBuf u m).v = c.v := by cases u <;> rfl
@[simp] theorem Isle.setBuf_tag (c : Isle) (u : Buf) (m : Mem) : (c.setBuf u m).tag = c.tag := by cases u <;> rfl
@[simp] theorem Isle.setBuf_vm (c : Isle) (u : Buf) (m : Mem) : (c.setBuf u m).vm = c.vm := by cases u <;> rfl
@[simp] theorem Isle.setBuf_st (c : Isle) (u : Buf) (m : Mem) : (c.setBuf u m).st = c.st := by cases u <;> rfl
@[simp] theorem Isle.setBuf_mp (c : Isle) (u : Buf) (m : Mem) : (c.setBuf u m).mp = c.mp := by cases u <;> rfl
@[simp] theorem Isle.setBuf_flag (c : Isle) (u : Buf) (m : Mem) : (c.setBuf u m).flag = c.flag := by cases u <;> rfl
@[simp] theorem Isle.setBuf_pc (c : Isle) (u : Buf) (m : Mem) : (c.setBuf u m).pc = c.pc := by cases u <;> rfl
@[simp] theorem Isle.setBuf_handler (c : Isle) (u : Buf) (m : Mem) : (c.setBuf u m).handler = c.handler := by cases u <;> rfl
@[simp] theorem Isle.setBuf_loops (c : Isle) (u : Buf) (m : Mem) : (c.setBuf u m).loops = c.loops := by cases u <;> rfl
@[simp] theorem Isle.setBuf_hloops (c : Isle) (u : Buf) (m : Mem) : (c.setBuf u m).hloops = c.hloops := by cases u <;> rfl
@[simp] theorem Isle.setBuf_calls (c : Isle) (u : Buf) (m : Mem) : (c.setBuf u m).calls = c.calls := by cases u <;> rfl
@[simp] theorem Isle.setBuf_hcalls (c : Isle) (u : Buf) (m : Mem) : (c.setBuf u m).hcalls = c.hcalls := by cases u <;> rfl
@[simp] theorem Isle.setBuf_ended (c : Isle) (u : Buf) (m : Mem) : (c.setBuf u m).ended = c.ended := by cases u <;> rfl
@[simp] theorem Isle.setBuf_stall (c : Isle) (u : Buf) (m : Mem) : (c.setBuf u m).stall = c.stall := by cases u <;> rfl
@[simp] theorem Isle.setBuf_next (c : Isle) (u : Buf) (m : Mem) : (c.setBuf u m).next = c.next := by cases u <;> rfl
@[simp] theorem Isle.setBuf_nextStall (c : Isle) (u : Buf) (m : Mem) : (c.setBuf u m).nextStall = c.nextStall := by cases u <;> rfl
@[simp] theorem Isle.setBuf_tcause (c : Isle) (u : Buf) (m : Mem) : (c.setBuf u m).tcause = c.tcause := by cases u <;> rfl
@[simp] theorem Isle.setBuf_taddr (c : Isle) (u : Buf) (m : Mem) : (c.setBuf u m).taddr = c.taddr := by cases u <;> rfl
@[simp] theorem Isle.setBuf_tslot (c : Isle) (u : Buf) (m : Mem) : (c.setBuf u m).tslot = c.tslot := by cases u <;> rfl
@[simp] theorem Isle.setBuf_tinfo (c : Isle) (u : Buf) (m : Mem) : (c.setBuf u m).tinfo = c.tinfo := by cases u <;> rfl
@[simp] theorem Isle.setBuf_tcause2 (c : Isle) (u : Buf) (m : Mem) : (c.setBuf u m).tcause2 = c.tcause2 := by cases u <;> rfl
@[simp] theorem Isle.setBuf_srseed (c : Isle) (u : Buf) (m : Mem) : (c.setBuf u m).srseed = c.srseed := by cases u <;> rfl
@[simp] theorem Isle.setBuf_sbmode (c : Isle) (u : Buf) (m : Mem) : (c.setBuf u m).sbmode = c.sbmode := by cases u <;> rfl
@[simp] theorem Isle.setBuf_perf (c : Isle) (u : Buf) (m : Mem) : (c.setBuf u m).perf = c.perf := by cases u <;> rfl
@[simp] theorem Isle.setBuf_bkpt (c : Isle) (u : Buf) (m : Mem) : (c.setBuf u m).bkpt = c.bkpt := by cases u <;> rfl
@[simp] theorem Isle.setBuf_bksup (c : Isle) (u : Buf) (m : Mem) : (c.setBuf u m).bksup = c.bksup := by cases u <;> rfl
@[simp] theorem Isle.setBuf_ballast (c : Isle) (u : Buf) (m : Mem) : (c.setBuf u m).ballast = c.ballast := by cases u <;> rfl
@[simp] theorem Isle.setBuf_btag (c : Isle) (u : Buf) (m : Mem) : (c.setBuf u m).btag = c.btag := by cases u <;> rfl
@[simp] theorem Isle.setBuf_flights (c : Isle) (u : Buf) (m : Mem) : (c.setBuf u m).flights = c.flights := by cases u <;> rfl
@[simp] theorem Isle.setBuf_hflights (c : Isle) (u : Buf) (m : Mem) : (c.setBuf u m).hflights = c.hflights := by cases u <;> rfl
@[simp] theorem Isle.setBuf_htime (c : Isle) (u : Buf) (m : Mem) : (c.setBuf u m).htime = c.htime := by cases u <;> rfl
@[simp] theorem Isle.setBuf_hread (c : Isle) (u : Buf) (m : Mem) : (c.setBuf u m).hread = c.hread := by cases u <;> rfl
@[simp] theorem Isle.setBuf_held (c : Isle) (u : Buf) (m : Mem) : (c.setBuf u m).held = c.held := by cases u <;> rfl
@[simp] theorem Isle.setBuf_latch (c : Isle) (u : Buf) (m : Mem) : (c.setBuf u m).latch = c.latch := by cases u <;> rfl
@[simp] theorem Isle.setBuf_fwd (c : Isle) (u : Buf) (m : Mem) : (c.setBuf u m).fwd = c.fwd := by cases u <;> rfl
@[simp] theorem Isle.setBuf_mat (c : Isle) (u : Buf) (m : Mem) : (c.setBuf u m).mat = c.mat := by cases u <;> rfl
@[simp] theorem Isle.setBuf_rtab (c : Isle) (u : Buf) (m : Mem) : (c.setBuf u m).rtab = c.rtab := by cases u <;> rfl
@[simp] theorem Isle.setBuf_ustore (c : Isle) (u : Buf) (m : Mem) : (c.setBuf u m).ustore = c.ustore := by cases u <;> rfl
@[simp] theorem Isle.setBuf_imem (c : Isle) (u : Buf) (m : Mem) : (c.setBuf u m).imem = c.imem := by cases u <;> rfl
@[simp] theorem Isle.setBuf_imap (c : Isle) (u : Buf) (m : Mem) : (c.setBuf u m).imap = c.imap := by cases u <;> rfl
@[simp] theorem Isle.setBuf_statq (c : Isle) (u : Buf) (m : Mem) : (c.setBuf u m).statq = c.statq := by cases u <;> rfl
@[simp] theorem Isle.setBuf_collRecs (c : Isle) (u : Buf) (m : Mem) : (c.setBuf u m).collRecs = c.collRecs := by cases u <;> rfl
@[simp] theorem Isle.setBuf_wait (c : Isle) (u : Buf) (m : Mem) : (c.setBuf u m).wait = c.wait := by cases u <;> rfl
@[simp] theorem Isle.setBuf_phases (c : Isle) (u : Buf) (m : Mem) : (c.setBuf u m).phases = c.phases := by cases u <;> rfl
@[simp] theorem Isle.setBuf_early (c : Isle) (u : Buf) (m : Mem) : (c.setBuf u m).early = c.early := by cases u <;> rfl
@[simp] theorem Isle.setBuf_late (c : Isle) (u : Buf) (m : Mem) : (c.setBuf u m).late = c.late := by cases u <;> rfl
@[simp] theorem Isle.setBuf_deferred (c : Isle) (u : Buf) (m : Mem) : (c.setBuf u m).deferred = c.deferred := by cases u <;> rfl
@[simp] theorem Isle.setBuf_hstall (c : Isle) (u : Buf) (m : Mem) : (c.setBuf u m).hstall = c.hstall := by cases u <;> rfl
@[simp] theorem Isle.setBuf_ret (c : Isle) (u : Buf) (m : Mem) : (c.setBuf u m).ret = c.ret := by cases u <;> rfl
@[simp] theorem Isle.setBuf_waitPc (c : Isle) (u : Buf) (m : Mem) : (c.setBuf u m).waitPc = c.waitPc := by cases u <;> rfl
@[simp] theorem Isle.setBuf_hold (c : Isle) (u : Buf) (m : Mem) : (c.setBuf u m).hold = c.hold := by cases u <;> rfl
@[simp] theorem Isle.setBuf_safe (c : Isle) (u : Buf) (m : Mem) : (c.setBuf u m).safe = c.safe := by cases u <;> rfl
@[simp] theorem Isle.setBuf_clk (c : Isle) (u : Buf) (m : Mem) : (c.setBuf u m).clk = c.clk := by cases u <;> rfl
@[simp] theorem Isle.setBuf_poison (c : Isle) (u : Buf) (m : Mem) : (c.setBuf u m).poison = c.poison := by cases u <;> rfl
@[simp] theorem Isle.buf_setBuf (c : Isle) (u : Buf) (m : Mem) : (c.setBuf u m).buf u = m := by cases u <;> rfl
theorem Isle.buf_setBuf_other (c : Isle) {u v : Buf} (m : Mem) (h : v ≠ u) : (c.setBuf u m).buf v = c.buf v := by
  cases u <;> cases v <;> first | rfl | exact absurd rfl h

end Sys2Proof.Machine
end

