-- ==== Sys2Proof/Laws/Ops.lean ====
section
/-! SUPPORT. What the shared operations of a slot word can do: issue (R89, R107), a trap before issue (R322), the class cycle
(R378). -/

namespace Sys2Proof.Machine

/-! ## Raising before issue -/

/-- The first trap of a bundle is recorded. -/
theorem State.raise_first {s : State} (cause info addr : Nat) (h : s.core.early = none) : s.raise cause info addr = s.trapping cause info addr := by
  simp [State.raise, h, State.trapping, State.onCore]

/-- A later trap of a bundle changes nothing. -/
theorem State.raise_later {s : State} {t : TrapRec} (cause info addr : Nat) (h : s.core.early = some t) : s.raise cause info addr = s := by
  simp [State.raise, h]

/-- A trap before issue changes the isle's record of it and nothing else. -/
theorem State.raise_cases (s : State) (cause info addr : Nat) :
    s.raise cause info addr = s ∨ s.raise cause info addr = s.trapping cause info addr := by
  cases h : s.core.early with
  | none => exact .inr (State.raise_first cause info addr h)
  | some t => exact .inl (State.raise_later cause info addr h)

/-! ## The class cycle -/

/-- A word of a CTL slot holds no class cycle. -/
theorem State.holdClass_ctl {s : State} (h : s.slot.cls = .ctl) : s.holdClass = s := by simp [State.holdClass, h]

/-- A word in handler mode holds no class cycle. -/
theorem State.holdClass_handler {s : State} (h : s.core.handler = true) : s.holdClass = s := by simp [State.holdClass, h]

/-- A class cycle changes what the class holds, and may put the wait before its start in flight. -/
theorem State.holdClass_cases (s : State) :
    s.holdClass = s ∨ ∃ t d h, (t = s ∨ t = s.fly d noClass .begin_) ∧ s.holdClass = { t with core := { t.core with held := h } } := by
  unfold State.holdClass
  split
  · exact .inl rfl
  · refine .inr ⟨_, .tick (s.startTick - 1), _, ?_, rfl⟩
    split
    · exact .inr rfl
    · exact .inl rfl

/-! ## Issue -/

/-- A word that reads a result in flight under SBMODE 1 traps and does nothing else (R107). -/
theorem State.issue_stall {s : State} {i : Instr} (p : Pred) (b : State → State) (h : s.stallShort i = true) :
    s.issue i p b = s.raise 0x05 0x51 s.core.pc := by simp [State.issue, h]

/-- A word whose predicate is false does nothing (R89). -/
theorem State.issue_false {s : State} {i : Instr} {p : Pred} (b : State → State) (h : s.stallShort i = false) (hp : s.core.predTrue p = false) :
    s.issue i p b = s := by simp [State.issue, h, hp]

/-- A word that issues has its effect. -/
theorem State.issue_true {s : State} {i : Instr} {p : Pred} (b : State → State) (h : s.Issues i) (hp : i.pred? = some p) :
    s.issue i p b = (b s).holdClass := by
  obtain ⟨q, hq, h1, h2⟩ := h
  rw [hp] at hq
  cases hq
  simp [State.issue, h1, h2]

/-- A word of slots A, B, M and N that issues has its effect and nothing more. -/
theorem State.issue_ctl {s : State} {i : Instr} {p : Pred} (b : State → State) (h : s.Issues i) (hp : i.pred? = some p)
    (hb : (b s).slot.cls = .ctl) : s.issue i p b = b s := by rw [State.issue_true b h hp, State.holdClass_ctl hb]

/-- A C word leaves its stall count first, then it is a word like every other (R89, R93). -/
theorem State.issueC_eq (s : State) (i : Instr) (p : Pred) (n : Fin 16) (b : State → State) : s.issueC i p n b = (s.withStall n).issue i p b := rfl

/-- Whether a word issues does not depend on the stall count. -/
theorem State.Issues.withStall {s : State} {i : Instr} (n : Fin 16) (h : s.Issues i) : (s.withStall n).Issues i := h

/-- A C word that issues has its effect (R89, R93). -/
theorem State.issueC_true {s : State} {i : Instr} {p : Pred} {n : Fin 16} (b : State → State) (h : s.Issues i) (hp : i.pred? = some p) :
    s.issueC i p n b = (b (s.withStall n)).holdClass := State.issue_true (s := s.withStall n) b h hp

end Sys2Proof.Machine
end

