-- ==== Sys2Proof/Tests/Slice0.lean ====
section
/-! SUPPORT. The model's own tests: ill-formed terms that the check refuses, words written out from the spec's encodings, one step of
single instructions with results from the spec, and for every statement with hypotheses a state that meets them. -/

namespace Sys2Proof.Tests

open Sys2Proof Sys2Proof.Machine

set_option Elab.async false

/-! ## Well-formedness (R91, R96-R104, R233): an ill-formed term for each check is refused -/

def q0 : Pred := { neg := false, idx := 0 }

theorem test_ill_formed_is_refused : ([
    .add { neg := true, idx := 0 } 1 2 3, .trap q0 0 0x7F#8, .cmp q0 0 .eq 1 2, .cmpi q0 0 .eq 1 0#11, .plog q0 0 1 2 0#4,
    .hdrchk q0 0 .wb 1 0#9, .bext q0 1 2 60#6 4#6, .bins q0 1 2 1#6 63#6, .ld q0 (.a 1) .wb 1 7 0#6, .st q0 (.a 1) .wb 1 4 0#6,
    .vcmp q0 0 .eq 1 2 0, .vmask q0 0 1 2 0#4, .vmaskB q0 0 1, .mstat q0 (.a 1) 4, .send q0 1 false ⟨.e, 0, .n, 0⟩,
    .send q0 1 false ⟨.e, 1, .w, 1⟩, .sends q0 (.a 1) ⟨.e, 1, .s, 0⟩, .fwd q0 .e .e 0#10, .xld q0 .ab 1 2 3 5, .xst q0 .ab 1 2 3 7,
    .xatom q0 .add 1 31 2, .kstat q0 (.a 1) 0 4, .muScl false false 0, .barinit q0 0 1, .bararr q0 0 1, .baradd q0 0 1] : List Instr).all
      (fun i => !i.wf) = true := by decide

theorem test_well_formed_is_accepted : ([
    .add { neg := true, idx := 1 } 1 2 3, .trap q0 0 0x80#8, .cmp q0 1 .eq 1 2, .bext q0 1 2 60#6 3#6, .ld q0 (.a 1) .wb 1 6 0#6,
    .st q0 (.a 1) .wb 1 3 0#6, .mstat q0 (.a 1) 3, .send q0 1 false ⟨.e, 1, .n, 0⟩, .send q0 1 false ⟨.e, 1, .s, 1⟩, .fwd q0 .e .w 0#10,
    .xld q0 .ab 1 2 3 4, .xatom q0 .add 1 30 2, .kstat q0 (.a 1) 0 3, .muScl true false 0, .barinit q0 1 1] : List Instr).all
      (fun i => i.wf) = true := by decide

/-! ## Words written out from the encodings of R90-R104: predicate !p5, stall count 9 where the format carries one -/

def q : Pred := { neg := true, idx := 5 }

theorem test_words_of_slot_C : ([
    (0xD0240000#32, .nopC q 9),
    (0xDF812345#32, .hint q 2 0x12345#22),
    (0xD0640ABC#32, .br q 9 0xABC#12),
    (0xD0A40011#32, .bri q 9 17),
    (0xD0E407FF#32, .call q 9 0x7FF#12),
    (0xD1240000#32, .ret q 9),
    (0xD16723E8#32, .loop q 9 200#8 1000#10),
    (0xD1A41EA0#32, .loopr q 9 7#8 21),
    (0xD1E40000#32, .lbrk q 9),
    (0xD224000B#32, .safept q 9 11),
    (0xD2640000#32, .endC q 9),
    (0xD2A400C1#32, .trap q 9 0xC1#8),
    (0xD2E40000#32, .tret q 9),
    (0xD3240000#32, .brk q 9),
    (0xD3667A01#32, .waitf q 9 19 (some 2) 513#10),
    (0xD3A7FC01#32, .postf q 9 31 (some 3) 1#10),
    (0xD3E6540E#32, .waitb q 9 18 (some 1) 14),
    (0xD4241C00#32, .yieldC q 9 (some 3)),
    (0xD465C000#32, .clkdiv q 9 .mat 6),
    (0xD4A65020#32, .sysrd q 9 (.b 5) .tslot),
    (0xD4E46020#32, .syswr q 9 .tslot (.a 6)),
    (0xD527F000#32, .statpop q 9 (.b 31))] : List (W32 × Instr)).all (fun x => decodeSlot .C x.1 == .ok x.2) = true := by decide

theorem test_words_of_slot_A_1 : ([
    (0xD0000000#32, .nop q),
    (0xD07CDB00#32, .add q 30 13 22),
    (0xD0FCDB00#32, .sub q 30 13 22),
    (0xD13CDB00#32, .mul q 30 13 22),
    (0xD17CDB00#32, .mulh q 30 13 22),
    (0xD1BCDB00#32, .mulhn q 30 13 22),
    (0xD1FCDB00#32, .and q 30 13 22),
    (0xD27CDB00#32, .or q 30 13 22),
    (0xD2FCDB00#32, .xor q 30 13 22),
    (0xD37CDB00#32, .shl q 30 13 22),
    (0xD3BCDB00#32, .shr q 30 13 22),
    (0xD3FCDB00#32, .sar q 30 13 22),
    (0xD4FCDB00#32, .min q 30 13 22),
    (0xD53CDB00#32, .max q 30 13 22),
    (0xD57CDB00#32, .minn q 30 13 22),
    (0xD5BCDB00#32, .maxn q 30 13 22),
    (0xD73CDB00#32, .addw q 30 13 22),
    (0xD0BCD801#32, .addi q 30 13 0x801#12),
    (0xD23CD801#32, .andi q 30 13 0x801#12),
    (0xD2BCD801#32, .ori q 30 13 0x801#12),
    (0xD33CD801#32, .xori q 30 13 0x801#12),
    (0xD43CD021#32, .shli q 30 13 33#6),
    (0xD47CD021#32, .shri q 30 13 33#6)] : List (W32 × Instr)).all (fun x => decodeSlot .A x.1 == .ok x.2) = true := by decide

theorem test_words_of_slot_A_2 : ([
    (0xD4BCD021#32, .sari q 30 13 33#6),
    (0xD5F46D80#32, .cmp q 6 .ltu 13 22),
    (0xD6336C01#32, .cmpi q 6 .ge 13 0x401#11),
    (0xD67CDB30#32, .sel q 30 13 22 3),
    (0xD6BD0001#32, .li q 30 0x10001#17),
    (0xD6FD0001#32, .lui q 30 0x10001#17),
    (0xD77CD000#32, .clz q 30 13),
    (0xD7BCD000#32, .popc q 30 13),
    (0xD7FCDC8D#32, .bext q 30 13 50#6 13#6),
    (0xD83CDC8D#32, .bins q 30 13 50#6 13#6),
    (0xD87CD000#32, .movx q 30 13),
    (0xD8A63C00#32, .plog q 4 6 1 14#4)] : List (W32 × Instr)).all (fun x => decodeSlot .A x.1 == .ok x.2) = true := by decide

theorem test_words_of_slot_M : ([
    (0xD0659BA1#32, .ld q (.b 5) .acb 13 6 33#6),
    (0xD0A51AE1#32, .st q (.b 5) .wb 13 3 33#6),
    (0xD0FC5B01#32, .ldv q 30 .ab 13 257#9),
    (0xD0FD5B01#32, .ldvT q 30 .ab 13 257#9),
    (0xD13C5B01#32, .stv q 30 .ab 13 257#9),
    (0xD13D5B01#32, .stvT q 30 .ab 13 257#9),
    (0xD3BC5B01#32, .hdrmk q 30 .ab 13 257#9),
    (0xD1650101#32, .fill q (.b 5) 257#9),
    (0xD1A50101#32, .spill q (.b 5) 257#9),
    (0xD1FC0009#32, .fillv q 30 9),
    (0xD23C0009#32, .spillv q 30 9),
    (0xD26E6800#32, .sopenR q 11 .acb 13),
    (0xD26C6C00#32, .sopenW q 11 .wb 13),
    (0xD2AC0000#32, .sclose q 11),
    (0xD2FD6000#32, .sread q 30 11),
    (0xD32FC000#32, .swrite q 11 30),
    (0xD36DB600#32, .sseek q 11 13 22),
    (0xD3F05B01#32, .hdrchk q 6 .ab 13 257#9),
    (0xD4255B68#32, .laop q .swap (.b 5) .ab 13 22),
    (0xD4409B60#32, .bclr q .acb 13 22),
    (0xD4BCD6D6#32, .ldidx q 30 13 .ab 22 2 6),
    (0xD4FCD2DE#32, .stidx q 30 13 .wb 22 3 6)] : List (W32 × Instr)).all (fun x => decodeSlot .M x.1 == .ok x.2) = true := by decide

theorem test_words_of_slot_V_1 : ([
    (0xD07CDB6E#32, .vadd q 30 13 22 6 .sr true),
    (0xD0BCDB6E#32, .vsub q 30 13 22 6 .sr true),
    (0xD0FCDB6E#32, .vmul q 30 13 22 6 .sr true),
    (0xD73CDB6E#32, .vdiv q 30 13 22 6 .sr true),
    (0xD13CDB25#32, .vfma q 30 13 22 9 .rtz),
    (0xD17CDB25#32, .vfms q 30 13 22 9 .rtz),
    (0xD1BCDB25#32, .vfnma q 30 13 22 9 .rtz),
    (0xD1FCDB60#32, .vmax q 30 13 22 6),
    (0xD23CDB60#32, .vmin q 30 13 22 6),
    (0xD33CDB60#32, .vsel q 30 13 22 6),
    (0xD37CDB60#32, .vand q 30 13 22 6),
    (0xD3BCDB60#32, .vor q 30 13 22 6),
    (0xD3FCDB60#32, .vxor q 30 13 22 6),
    (0xD47CDB60#32, .vshl q 30 13 22 6),
    (0xD4BCDB60#32, .vshr q 30 13 22 6),
    (0xD4FCDB60#32, .vsar q 30 13 22 6),
    (0xD87CDB60#32, .vperm q 30 13 22 6),
    (0xD27CD062#32, .vabs q 30 13 6 true),
    (0xD2BCD062#32, .vneg q 30 13 6 true),
    (0xD2F66DA8#32, .vcmp q 6 .un 13 22 5),
    (0xD43CD060#32, .vnot q 30 13 6),
    (0xD7FCD060#32, .vredmax q 30 13 6),
    (0xD83CD060#32, .vredmin q 30 13 6)] : List (W32 × Instr)).all (fun x => decodeSlot .V x.1 == .ok x.2) = true := by decide

theorem test_words_of_slot_V_2 : ([
    (0xD9FCD060#32, .vmov q 30 13 6),
    (0xD53CDB6A#32, .vcvt q 30 13 22 6 .rna true),
    (0xD57CDB27#32, .vqnt q 30 13 22 9 .sr),
    (0xD5BCDB26#32, .vdqnt q 30 13 22 9 .rna),
    (0xD5FCDB00#32, .vbscl q 30 13 22),
    (0xD63CD066#32, .vexp2 q 30 13 6 .rtz true),
    (0xD67CD066#32, .vlog2 q 30 13 6 .rtz true),
    (0xD6BCD066#32, .vrcp q 30 13 6 .rtz true),
    (0xD6FCD066#32, .vrsq q 30 13 6 .rtz true),
    (0xD77CD066#32, .vsqrt q 30 13 6 .rtz true),
    (0xD7BCD066#32, .vredadd q 30 13 6 .rtz true),
    (0xD8BCDC80#32, .vrot q 30 13 200#8),
    (0xD8FCD000#32, .vbcast q 30 13),
    (0xD93CDB00#32, .vins q 30 13 22),
    (0xD97CDB42#32, .vext q 30 13 22 33#6),
    (0xD9BCD000#32, .vtag q 30 13),
    (0xDA3CD000#32, .viota q 30 13),
    (0xDA7C0000#32, .vseed q 30),
    (0xDAB57200#32, .vmask q 6 5 3 9#4),
    (0xDAB0010D#32, .vmaskB q 6 13)] : List (W32 × Instr)).all (fun x => decodeSlot .V x.1 == .ok x.2) = true := by decide

theorem test_words_of_slot_X : ([
    (0xD072A500#32, .mcall q 50 0xA5#8),
    (0xD0B26800#32, .mcallr q 50 13),
    (0xD0F1A000#32, .mpset q 6 13),
    (0xD0F4BEEF#32, .mpsetImm q 6 0xBEEF#16),
    (0xD11B0100#32, .mpld q 13 257#9),
    (0xD15B6C80#32, .muwr q 13 22 200#8),
    (0xD1B26800#32, .mrtset q 50 13),
    (0xD1C00000#32, .mselSwap q),
    (0xD1D00000#32, .mselS0 q),
    (0xD1E00000#32, .mselS1 q),
    (0xD2253000#32, .mstat q (.b 5) 3)] : List (W32 × Instr)).all (fun x => decodeSlot .X x.1 == .ok x.2) = true := by decide

theorem test_words_of_slot_N : ([
    (0xD07DCB1C#32, .send q 30 true ⟨.w, 5, .s, 7⟩),
    (0xD0A54A1C#32, .sends q (.b 5) ⟨.e, 5, .n, 7⟩),
    (0xD0FD8000#32, .recv q 30 true .s),
    (0xD125C000#32, .recvs q (.b 5) .w),
    (0xD15E5800#32, .fwd q .e .w 600#10),
    (0xD1BD0000#32, .nbcRow q 30 true),
    (0xD1BC8000#32, .nbcCol q 30 false),
    (0xD1E56D94#32, .nrmt q .max (.b 5) 13 22)] : List (W32 × Instr)).all (fun x => decodeSlot .N x.1 == .ok x.2) = true := by decide

theorem test_words_of_slot_D : ([
    (0xD0721B60#32, .xcopy q 200#8 13 22),
    (0xD096DBEC#32, .xld q .ab 13 22 31 3),
    (0xD0E6DBF0#32, .xst q .acb 13 22 31 4),
    (0xD11B64C0#32, .xatom q .swap 13 22 9),
    (0xD15B6000#32, .barinit q 13 22),
    (0xD19B6000#32, .bararr q 13 22),
    (0xD1DB6000#32, .baradd q 13 22),
    (0xD2280000#32, .phaseR q .fabric),
    (0xD2140000#32, .phaseA q .device),
    (0xD2300000#32, .phaseRa q .isle),
    (0xD2721B60#32, .coll q 200#8 13 22),
    (0xD29B6000#32, .launch q 13 22),
    (0xD2ED0000#32, .kpost q 1 13),
    (0xD325B000#32, .kstat q (.b 5) 1 3),
    (0xD35B6000#32, .xpf q 13 22),
    (0xD3B23E00#32, .ovl q 200#8 31)] : List (W32 × Instr)).all (fun x => decodeSlot .D x.1 == .ok x.2) = true := by decide

/-- Micro-words from the table of R233 and the listing of R245. -/
theorem test_micro_words : ([
    (0x000000000000FFFF#64, .muNop 0xFFFF#16), (0x0400000000000001#64, .muLda 1), (0x0800000000000000#64, .muLdb 0),
    (0x0C00000000000002#64, .muStep true 0), (0x1000000000000010#64, .muMask false 4), (0x1000000000000015#64, .muMask true 5),
    (0x1400000000000006#64, .muScl true true 0), (0x1400000000000003#64, .muScl true false 1), (0x1800000000000001#64, .muZero true),
    (0x1C00000000000000#64, .muFold), (0x2000000000000007#64, .muDrain 7), (0x2400000000000006#64, .muDrnc 6),
    (0x2800000000000001#64, .muXpose true), (0x2C000000000B0000#64, .muLoop (.mp 5)), (0x2C00000000000003#64, .muLoop (.imm 3#16)),
    (0x3000000000000000#64, .muEndl), (0x3400000000060080#64, .muPadd true .ko (.imm 0x80#16)),
    (0x3400000000B90000#64, .muPadd false .nj (.mp true 3)), (0x3800000000000000#64, .muChk), (0x3C0000000000001F#64, .muHdr 7 3),
    (0x4000000000000000#64, .muRet)] : List (W64 × Instr)).all (fun x => decodeMicro x.1 == some x.2) = true := by decide

/-- Micro-words that R233 refuses: an unassigned UOP, a reserved WHICH, a reserved CUR, a zero-marked bit. -/
theorem test_micro_words_refused : ([0x4400000000000000#64, 0x1000000000000002#64, 0x1400000000000000#64, 0x3400000000030000#64,
    0x1C00000000000001#64, 0x2C00000000020000#64] : List W64).all (fun w => decodeMicro w == none) = true := by decide

/-- R91: the reasons of illegal words: unassigned opcode, a zero-marked bit, a reserved operand, PNEG with p0, the lowest of several. -/
theorem test_illegal_words : ([
    (.C, 0x05400000#32, 1), (.A, 0x08C00000#32, 1), (.D, 0x03C00000#32, 1), (.N, 0x02000000#32, 1),
    (.A, 0x00400001#32, 2), (.C, 0x00400000#32 + 0x1000#32, 2), (.A, 0x05C00000#32, 3), (.M, 0x0040C000#32, 3), (.D, 0x02000000#32, 3),
    (.A, 0x80400000#32, 4), (.A, 0x80400001#32, 2)] : List (SlotId × W32 × Nat)).all
      (fun x => decodeSlot x.1 x.2.1 == .error x.2.2) = true := by decide

/-- R92: a word of the hint region, OPC 0x3C-0x3F, and the NOP of every slot. -/
theorem test_hints_and_nops : decodeSlot .V 0x0F412345#32 = .ok (.hint q0 1 0x012345#22) ∧ decodeSlot .D 0x0#32 = .ok (.nop q0) ∧
    decodeSlot .C 0x00140000#32 = .ok (.nopC q0 5) := by decide

/-- Encoding what was decoded gives the word back, one word of each slot. -/
theorem test_encoder : ([
    (.C, 0xD527F000#32), (.C, 0xD2A400C1#32), (.A, 0xD8A63C00#32), (.A, 0xD77CD000#32), (.M, 0xD4FCD2DE#32), (.M, 0xD26E6800#32), (.V, 0xDAB0010D#32), (.V, 0xD7BCD066#32), (.X, 0xD2253000#32), (.X, 0xD15B6C80#32), (.N, 0xD1E56D94#32), (.N, 0xD15E5800#32), (.D, 0xD3B23E00#32), (.D, 0xD2140000#32)] : List (SlotId × W32)).all
      (fun x => (decodeSlot x.1 x.2).toOption.bind encodeWord == some x.2.toNat) = true := by decide

/-! ## A small machine: one partition, one M-region of two by two isles, the context of slot 3 -/

def image : Image :=
  { w := 2, h := 2, footWb := 4096, footAb := 4096, footAcb := 4096, lat := (List.range 17).map ownLatency, live := [[]], ucount := 8, spdist := 64 }

/-- A partition of one channel; pages 1 to 4 of it have been zeroed. -/
def part : Part :=
  let p : Part :=
    { Part.ofDesc 7 0 [] with
      chans := [0], isles := [(0, 0, 0), (0, 1, 0), (0, 0, 1), (0, 1, 1)], slotCnt := 16, asidCnt := 16, featAccept := 15, featOffer := 15
      fnmap := [5], kctx := 1, gidCnt := 4, whtCnt := 4, links := 1 }
  { p with s2 := [1, 2, 3, 4].map fun k => (p.leafAt 0 k, entryWord k 0x0F) }

def region : Region :=
  { rid := 1, mclass := true, pid := 7, die := 0, ox := 0, oy := 0, rot := 0, w := 2, h := 2, straits := 0, chans := [0], act := some 1
    switchReq := false, preempt := [], throttled := false, ramp := false, replay := false }

def context : Ctx := { live := true, slot := 3, rid := 1, ctxid := 1, asid := 5, pid := 7, image := image, rcycle := 100, started := true }

/-- Stage 1 of address space 5 (R251): root frame 1, then frames 2 and 3; the page at VA 0x30000 is frame 4. -/
def tables : Mem := [(0x10000, 1), (0x10002, 2), (0x20000, 1), (0x20002, 3), (0x30018, 0x2F), (0x3001A, 4)]

/-- The isle at (0, 0) in focus, changed as asked, with the word of one slot about to execute. -/
def machine (k : SlotId) (f : Isle → Isle := id) : State :=
  { State.reset with
    core := f (Isle.start 0 0 64), right := [Isle.start 1 0 64, Isle.start 0 1 64, Isle.start 1 1 64], ctx := context, slot := k
    regions := [region], parts := [part], asids := [(5, 7, 1)], dram := tables, fns := [{ n := 0, pfsel := 7 }, { n := 5, pid := some 7 }]
    slots := [{ n := 3, st := .running, rid := 1, ctx := 1, image := some image }] }

/-- The same with one isle only. -/
def alone (k : SlotId) (f : Isle → Isle := id) : State :=
  { machine k f with right := [], ctx := { context with image := { image with w := 1, h := 1 } }, regions := [{ region with w := 1, h := 1 }] }

/-- The state that an instruction leaves; a stop would show as the state after reset. -/
def out (o : Host.Outcome State Fault Refusal) : State :=
  match o with
  | .next t => t
  | _ => State.reset

/-- What an instruction puts in flight. -/
def effs (k : SlotId) (i : Instr) (f : Isle → Isle := id) : List Eff := (out (exec i (machine k f))).core.flights.map (·.eff)

/-- a5 and a6 set. -/
def regs (x y : W64) (c : Isle) : Isle := { c with a := (c.a.set 5 x).set 6 y }

/-- b5 and b6 set. -/
def bregs (x y : W64) (c : Isle) : Isle := { c with b := (c.b.set 5 x).set 6 y }

/-- v5 and v6 set, with one tag. -/
def vregs (t : W32) (lw : Nat) (x y : List Nat) (c : Isle) : Isle :=
  { c with v := (c.v.set 5 (ofLanes lw x)).set 6 (ofLanes lw y), tag := (c.tag.set 5 t).set 6 t }

/-- Lane e of the one vector result in flight. -/
def laneOut (lw e : Nat) : List Eff → Option Nat
  | [.vec _ x _ _ _] => some (lane x lw e)
  | _ => none

/-- The traps found so far in the bundle: cause, TINFO, TADDR. -/
def trapOf (s : State) : Option (Nat × Nat × Nat) := s.core.early.map fun t => (t.cause, t.info, t.addr)

/-! ## Slots A and B (R119-R127), by hand from the rules' tables -/

theorem test_add_wraps : effs .A (.add q0 4 5 6) (regs (BitVec.allOnes 64) 2) = [.scalar (.a 4) 1] := by decide
theorem test_addi_sign : effs .A (.addi q0 4 5 0xFFF#12) (regs 0 0) = [.scalar (.a 4) (BitVec.allOnes 64)] := by decide
theorem test_sub : effs .A (.sub q0 4 5 6) (regs 3 5) = [.scalar (.a 4) 0xFFFFFFFFFFFFFFFE#64] := by decide
theorem test_addw_sign : effs .A (.addw q0 4 5 6) (regs 0x1_7FFFFFFF#64 1) = [.scalar (.a 4) 0xFFFFFFFF80000000#64] := by decide
theorem test_mulh_signed : effs .A (.mulh q0 4 5 6) (regs (BitVec.allOnes 64) (BitVec.allOnes 64)) = [.scalar (.a 4) 0] := by decide
theorem test_mulhn_unsigned : effs .A (.mulhn q0 4 5 6) (regs (BitVec.allOnes 64) (BitVec.allOnes 64)) = [.scalar (.a 4) 0xFFFFFFFFFFFFFFFE#64] := by decide
theorem test_andi_zero_extends : effs .A (.andi q0 4 5 0x800#12) (regs (BitVec.allOnes 64) 0) = [.scalar (.a 4) 0x800#64] := by decide
theorem test_shl_count_mod_64 : effs .A (.shl q0 4 5 6) (regs 1 65) = [.scalar (.a 4) 2] := by decide
theorem test_sar_sign : effs .A (.sari q0 4 5 63#6) (regs 0x8000000000000000#64 0) = [.scalar (.a 4) (BitVec.allOnes 64)] := by decide
theorem test_min_signed : effs .A (.min q0 4 5 6) (regs (BitVec.allOnes 64) 1) = [.scalar (.a 4) (BitVec.allOnes 64)] := by decide
theorem test_minn_unsigned : effs .A (.minn q0 4 5 6) (regs (BitVec.allOnes 64) 1) = [.scalar (.a 4) 1] := by decide
theorem test_lui_shifts_itself : effs .A (.lui q0 5 0x00003#17) (regs 1 0) = [.scalar (.a 5) 0x20003#64] := by decide
theorem test_clz_of_zero : effs .A (.clz q0 4 5) (regs 0 0) = [.scalar (.a 4) 64] := by decide
theorem test_bext : effs .A (.bext q0 4 5 60#6 3#6) (regs 0xA000000000000000#64 0) = [.scalar (.a 4) 0xA] := by decide
theorem test_bins : effs .A (.bins q0 6 5 4#6 3#6) (regs 0xAB 0xFFFF) = [.scalar (.a 6) 0xFFBF] := by decide
theorem test_movx_reads_other_cluster : effs .B (.movx q0 4 5) (regs 9 0) = [.scalar (.b 4) 9] := by decide

/-- R125: `cmpi.ltu p1, a4, -1` is true for every a4 except all ones. -/
theorem test_cmpi_ltu : effs .A (.cmpi q0 1 .ltu 5 0x7FF#11) (regs 0xFFFFFFFFFFFFFFFE#64 0) = [.pred 1 true] ∧
    effs .A (.cmpi q0 1 .ltu 5 0x7FF#11) (regs (BitVec.allOnes 64) 0) = [.pred 1 false] := by decide

/-- R127: the row 'not pa' of the table. -/
theorem test_plog_not : effs .A (.plog q0 1 0 0 0b0011#4) = [.pred 1 false] ∧ effs .A (.plog q0 1 2 2 0b0011#4) = [.pred 1 true] := by decide

/-- R89: a word whose predicate is false puts nothing in flight. -/
theorem test_false_predicate : effs .A (.addi { neg := false, idx := 1 } 4 5 1#12) = [] := by decide

/-! ## Slot V (R129-R153) -/

theorem test_vadd_fp32 : laneOut 2 1 (effs .V (.vadd q0 4 5 6 0 .rne false) (vregs 0x08002011#32 2 [0, 0x3F800000] [0, 0x40000000])) =
    some 0x40400000 := by decide +kernel
theorem test_vadd_int32_sat : laneOut 2 0 (effs .V (.vadd q0 4 5 6 0 .rne true) (vregs 0x08003011#32 2 [0x7FFFFFFF] [1])) = some 0x7FFFFFFF ∧
    laneOut 2 0 (effs .V (.vadd q0 4 5 6 0 .rne false) (vregs 0x08003011#32 2 [0x7FFFFFFF] [1])) = some 0x80000000 := by decide +kernel
theorem test_vdiv_third : laneOut 2 0 (effs .V (.vdiv q0 4 5 6 0 .rne false) (vregs 0x08002011#32 2 [0x3F800000] (List.replicate 64 0x40400000))) =
    some 0x3EAAAAAB := by decide +kernel
theorem test_vsqrt_two : laneOut 2 0 (effs .V (.vsqrt q0 4 5 0 .rne false) (vregs 0x08002011#32 2 [0x40000000] [])) = some 0x3FB504F3 := by decide +kernel
theorem test_vexp2_three : laneOut 2 0 (effs .V (.vexp2 q0 4 5 0 .rne false) (vregs 0x08002011#32 2 [0x40400000] [])) = some 0x41000000 := by decide +kernel
theorem test_vrot : laneOut 2 0 (effs .V (.vrot q0 4 5 1#8) (vregs 0x08003011#32 2 [7, 9] [])) = some 9 := by decide +kernel
theorem test_vredadd : laneOut 2 0 (effs .V (.vredadd q0 4 5 0 .rne false) (vregs 0x08003011#32 2 [7, 9, 1] [])) = some 17 := by decide +kernel
theorem test_raw_source_traps : (trapOf (out (exec (.vadd q0 4 5 6 0 .rne false) (machine .V)))).map (fun t => (t.1, t.2.1 % 256)) =
    some (0x04, 0x10) := by decide +kernel

/-! ## Slots C, M, X, N and D -/

theorem test_loop_pushes : (out (exec (.loop q0 0 2#8 9#10) (machine .C))).core.loops = [{ start := 65, fin := 67, count := 10, index := 0 }] := by decide
theorem test_loopr_zero_jumps : (out (exec (.loopr q0 0 2#8 5) (machine .C))).core.next = .jump 68 := by decide
theorem test_ret_of_empty_stack : trapOf (out (exec (.ret q0 0) (machine .C))) = some (1, 8, 64) := by decide
theorem test_syswr_px_ignored : (Isle.start 3 4 64).sysWrite .px 9 = Isle.start 3 4 64 := rfl
theorem test_st_little_endian : effs .M (.st q0 (.a 5) .ab 5 1 3#6) (fun c => bregs 8 0 (regs 0xABCD 0 c)) =
    [.store .ab [(14, 0xCD), (15, 0xAB)]] := by decide +kernel
theorem test_ld_misaligned : trapOf (out (exec (.ld q0 (.a 4) .ab 5 3 0#6) (machine .M (bregs 12 0)))) = some (8, 0x36, 12) := by decide
theorem test_ld_beyond_footprint : trapOf (out (exec (.ld q0 (.a 4) .ab 5 3 0#6) (machine .M (bregs 4096 0)))) = some (8, 0x37, 4096) := by decide
theorem test_ld_last_word : effs .M (.ld q0 (.a 4) .ab 5 6 0#6) (bregs 4092 0) =
    [.access (.scalar (.a 4) .ab 4092 4 true) ((machine .M).dueAfter 4)] := by decide
theorem test_mpset_imm : effs .X (.mpsetImm q0 1 0xFFFF#16) = [.mp 1 0xFFFF] := by decide
theorem test_second_call_stalls : trapOf (out (exec (.mselSwap q0)
    (machine .X fun c => { c with mat := { c.mat with latched := some { word := .msel 0, first := 0, len := 1, bundle := 0, rcyc := 0 } } }))) =
    some (5, 0x52, 64) := by decide
theorem test_send_off_region : (trapOf (out (exec (.send q0 1 false ⟨.e, 2, .n, 0⟩) (machine .N)))).map (fun t => (t.1, t.2.1)) =
    some (6, 0x170) := by decide
theorem test_phase_r_without_writes : effs .D (.phaseR q0 .device) = [] := by decide
theorem test_xld_enters_the_copy_unit : (out (exec (.xld q0 .ab 5 6 9 1) (machine .D (bregs 32 0x30020)))).ops.map (fun o => (o.kind, o.flag)) =
    [(.xld .ab 32 0x30020 32 0, some (9, 0, 0))] := by decide

/-! ## Micro-words (R233-R239) -/

/-- A routine that has just begun, in its first cycle. -/
def routine : Routine :=
  { call := { idx := 0, start := 0, mp := [0, 0, 0, 0, 0, 0, 0, 0], st := [], handle := none, acc := none, read := true, seed := 0 }
    upc := 0, cycle := 0, mi := 0, nj := 0, ko := 0, st := [], acc := none, read := true, held := false, work := {} }

def engine (r : Routine) (c : Isle) : Isle := { c with mat := { c.mat with routine := some r } }

theorem test_padd_wraps : (out (exec (.muPadd false .ko (.imm 0xFFFF#16)) (machine .X (engine { routine with ko := 3 })))).core.mat.routine.map
    (fun r => (r.ko, r.upc)) = some (2, 1) := by decide
theorem test_endl_repeats : (out (exec .muEndl (machine .X (engine { routine with upc := 5, loops := [(2, 3)] })))).core.mat.routine.map
    (fun r => (r.upc, r.loops)) = some (3, [(1, 3)]) := by decide

/-! ## Memory, traps, barriers, reset -/

theorem test_memory_overlapping_write : ((Mem.wrN [] 4 4 0x11223344).wrN 6 2 0).rdN 4 4 = 0x3344 ∧ ((Mem.wrN [] 4 4 0x11223344).wrN 6 2 0).wf = true := by decide
theorem test_translation : ((machine .D).ctxRead context 0x30020).toOption.map (·.key) = some 0x40020 := by decide +kernel
theorem test_translation_miss : ((machine .D).ctxRead context 0x40000) = .error (0x09, 0x260) := by decide +kernel
theorem test_tslot_bits : tslotOf 0x123 true 4 = 0x0123000C#64 := by decide
theorem test_barrier_phase_ends : barUpdate true (.arrive 0) { barInit 1#64 with phase := 15 } = .ok { barInit 1#64 with phase := 0 } := by decide
theorem test_reset_memory_canonical : State.reset.dram.wf = true ∧ State.reset.core.ab.wf = true := by decide

/-- A bundle whose A word and M word name one destination is illegal in slot M with reason 0x05 (R91). -/
theorem test_same_destination_twice :
    decodeBundle false 64 (BitVec.ofNat 256 (0x00884000 * 2 ^ 32 + 0x004440C0 * 2 ^ 96)) = .error (.M, 5) := by decide

/-- Reset, then one instruction placed where the next step runs it. -/
theorem test_step_runs_a_placed_word : (step (State.reset.withFetchWord 32 0x06800007) |> out).core.pc = 65 := by decide +kernel


/-! ## Witnesses: states and operands that meet the hypotheses of the statements, all of a clause together -/

/-- A word with predicate p0 issues wherever SBMODE is not 1. -/
theorem issues_plain {s : State} {i : Instr} (h : i.pred? = some q0) (hs : (s.core.sbmode == 1) = false) : s.Issues i := by
  refine ⟨q0, h, ?_, rfl⟩
  have h1 : ¬ s.core.sbmode = 1#2 := by simpa using hs
  simp [State.stallShort, h1]

/-- An exec that answers a next state. -/
abbrev Answers (i : Instr) (s : State) : Prop := exec i s = .next (out (exec i s))

/-- An operation in flight that is due in the present rc. -/
def flight (e : Eff) : Flight := { due := .rc 100, seq := 0, slot := .A, bundle := 64, rcyc := 97, time := 97, cls := 0, eff := e }

/-- The isle with one operation in flight. -/
def flying (e : Eff) (c : Isle) : Isle := { c with flights := [flight e] }

def stallState : State := { machine .A (fun c => { flying (.scalar (.a 5) 1) c with sbmode := 1 }) with mark := 1 }

theorem witness_PredicatesDecide :
    ((Instr.nopC ⟨false, 1⟩ 5).pred? = some ⟨false, 1⟩ ∧ (machine .C).stallShort (.nopC ⟨false, 1⟩ 5) = false ∧
      (machine .C).core.predTrue ⟨false, 1⟩ = false) ∧
    ((Instr.nopC ⟨false, 1⟩ 5).stallOf (machine .C).slot = some 5 ∧ (machine .C).slot = .C ∧ Answers (.nopC ⟨false, 1⟩ 5) (machine .C)) ∧
    ((Instr.cmp q0 1 .eq 5 6).pred? = some q0 ∧ Answers (.cmp q0 1 .eq 5 6) (machine .A)) := by
  refine ⟨⟨rfl, ?_, rfl⟩, ⟨rfl, rfl, rfl⟩, rfl, rfl⟩
  decide

theorem witness_StallShortTraps : (Instr.add q0 4 5 6).pred? = some q0 ∧ stallState.stallShort (.add q0 4 5 6) = true ∧
    stallState.core.early = none := by decide

theorem witness_WordsWithoutEffect : (machine .A).Issues (.nop q0) ∧ (machine .C).Issues (.nopC q0 3) ∧ (machine .D).Issues (.xpf q0 1 2) ∧
    (machine .D).Issues (.phaseA q0 .isle) ∧ (machine .V).slot ≠ .C ∧ (machine .C).slot = .C :=
  ⟨issues_plain rfl rfl, issues_plain rfl rfl, issues_plain rfl rfl, issues_plain rfl rfl, by decide, rfl⟩

theorem witness_IssueChangesNoRegister : (Instr.st q0 (.a 5) .ab 5 1 3#6).pred? = some q0 ∧ Answers (.st q0 (.a 5) .ab 5 1 3#6) (machine .M) := ⟨rfl, rfl⟩

theorem witness_ScalarArithmetic : ((machine .A).slot = .A ∨ (machine .A).slot = .B) ∧ ((machine .B).slot = .A ∨ (machine .B).slot = .B) ∧
    (machine .A).Issues (.add q0 4 5 6) ∧ (machine .B).Issues (.mulh q0 4 5 6) ∧ (machine .A).Issues (.min q0 4 5 6) :=
  ⟨.inl rfl, .inr rfl, issues_plain rfl rfl, issues_plain rfl rfl, issues_plain rfl rfl⟩

theorem witness_ScalarLogicAndShifts : ((machine .B).slot = .A ∨ (machine .B).slot = .B) ∧ (machine .B).Issues (.xori q0 4 5 0#12) ∧
    (machine .B).Issues (.sar q0 4 5 6) := ⟨.inr rfl, issues_plain rfl rfl, issues_plain rfl rfl⟩

/-- The whole register, 0 + 64 bits, and the word 0x1D with bit 0 set. -/
theorem witness_ScalarBitFields : (0#6).toNat + (63#6).toNat < 64 ∧ (machine .A).Issues (.bins q0 4 5 0#6 63#6) ∧ (machine .A).Issues (.clz q0 4 5) ∧
    (0x07400001#32).extractLsb' 22 6 = 0x1D ∧ (0x07400001#32).extractLsb' 0 12 ≠ 0 :=
  ⟨by decide, issues_plain rfl rfl, issues_plain rfl rfl, by decide, by decide⟩

theorem witness_ScalarPredicates : (machine .A).Issues (.cmpi q0 1 .geu 5 0x7FF#11) ∧ (machine .A).Issues (.plog q0 1 0 0 1#4) :=
  ⟨issues_plain rfl rfl, issues_plain rfl rfl⟩

/-- Five nested loops of the body 64-66, an address on the call stack. -/
def nested (c : Isle) : Isle := { c with loops := List.replicate 5 { start := 64, fin := 66, count := 2, index := 0 }, calls := [4095] }

theorem witness_SequencerWords :
    (modeRange false 64 = true ∧ modeRange false 4095 = true) ∧
    ((machine .C).core.callStack.length < (machine .C).core.callDepth) ∧
    ((machine .C nested).core.callStack = 4095 :: [] ∧ modeRange (machine .C nested).core.handler 4095 = true) ∧
    ((∀ e, (machine .C nested).core.loopStack.head? = some e → (machine .C nested).core.pc + 2 ≤ e.fin) ∧
      (∀ e ∈ (machine .C nested).core.loopStack, e.fin ≠ (machine .C nested).core.pc) ∧
      (machine .C nested).core.loopStack.length < (machine .C nested).core.loopDepth) ∧
    (((machine .C (bregs 0 1)).core.rdB 5).toNat = 0 ∧ 0 < ((machine .C (bregs 0xFFFFFFFF 1)).core.rdB 5).toNat ∧
      ((machine .C (bregs 0xFFFFFFFF 1)).core.rdB 5).toNat < 2 ^ 32) ∧
    (machine .C nested).core.loopStack ≠ [] ∧ (machine .C nested).Issues (.loop q0 0 1#8 3#10) := by
  refine ⟨by decide, by decide, by decide, ⟨?_, ?_, by decide⟩, by decide, by decide, issues_plain rfl rfl⟩
  · intro e h
    cases h
    decide
  · decide

theorem witness_ControlTraps :
    modeRange false ((machine .C (bregs 63 0)).core.rdB 5).toNat = false ∧
    (machine .C fun c => { c with calls := List.replicate 8 65 }).core.callDepth ≤ (machine .C fun c => { c with calls := List.replicate 8 65 }).core.callStack.length ∧
    (machine .C).core.callStack = [] ∧ (∃ e ∈ (machine .C fun c => { c with loops := [⟨62, 64, 1, 0⟩] }).core.loopStack, e.fin = 64) ∧
    (machine .C).core.loopStack = [] ∧ 2 ^ 32 ≤ ((machine .C (bregs 0x100000000 0)).core.rdB 5).toNat ∧ (machine .C).core.early = none ∧
    ((machine .C fun c => { c with flag := c.flag.set 7 65535 }).flagOf 1 7 = some 65535 ∧ (machine .C).ctx.releases = [] ∧
      65535 < (65535#16).toNat + (1#10).toNat) ∧
    (({ machine .C with ctx := { context with releases := [(0, [1])] } } : State).ctx.releases ≠ [] ∧ (machine .C).core.hold = none) := by
  refine ⟨by decide, by decide, by decide, ⟨_, List.mem_singleton.2 rfl, rfl⟩, by decide, by decide, by decide, by decide, by decide, by decide⟩

/-- A RET to bundle 63; a loop that ends at the PC, one that ends before the body of a new one, and six that do not; a count of 0 among them. -/
theorem witness_ControlTraps_stacks :
    (let s := machine .C fun c => { c with calls := [63] }
     s.core.callStack = 63 :: [] ∧ modeRange s.core.handler 63 = false) ∧
    (let s := machine .C nested
     let t := machine .C fun c => { c with loops := List.replicate 6 ⟨60, 90, 1, 0⟩ }
     let ends (s : State) (fin : Nat) : Prop := (∃ e ∈ s.core.loopStack, e.fin = s.core.pc) ∨ ∃ e, s.core.loopStack.head? = some e ∧ e.fin < fin
     ends s (s.core.pc + (2#8).toNat + 1) ∧ ¬ ends t (t.core.pc + (2#8).toNat + 1) ∧ t.core.loopDepth ≤ t.core.loopStack.length ∧
       (t.core.rdB 5).toNat < 2 ^ 32 ∧ ((machine .C (bregs 1 0)).core.rdB 5).toNat ≠ 0) := by
  refine ⟨by decide, .inr ⟨_, rfl, by decide⟩, ?_, by decide, by decide, by decide⟩
  rintro (⟨e, he, h⟩ | ⟨e, he, h⟩)
  · rw [List.eq_of_mem_replicate he] at h
    exact absurd h (by decide)
  · cases he
    exact absurd h (by decide)

theorem witness_LoopRunsItsCount :
    let c : Isle := { Isle.start 0 0 65 with loops := [{ start := 65, fin := 66, count := 3, index := 0 }] }
    c.handler = false ∧ c.ended = false ∧ c.next = .seq ∧ c.loops = ⟨65, 66, 3, 0⟩ :: [] ∧ (0 : Nat) < 3 ∧ c.pc = 65 ∧
      (∀ d, ([] : List LoopEnt).head? = some d → d.fin ≠ 66) ∧ 6 = 3 * (66 + 1 - 65) := by
  refine ⟨rfl, rfl, rfl, rfl, by decide, rfl, by simp, by decide⟩

theorem witness_ControlWords : (machine .C).slot = .C ∧ (machine .C).exposed = false ∧ (machine .C).core.late = none ∧ (machine .C).Issues (.endC q0 0) ∧
    (machine .C).Issues (.trap q0 0 0x80#8) := ⟨rfl, by decide, rfl, issues_plain rfl rfl, issues_plain rfl rfl⟩

theorem witness_SystemWords : (∀ k, 1 ≤ (machine .C).divOf k ∧ (machine .C).divOf k ≤ 8) ∧ (machine .C).Issues (.sysrd q0 0 (.a 4) .rcycle) ∧ (machine .C).core.statq = [] ∧
    (machine .C fun c => { c with statq := [5, 6] }).core.statq = 5 :: [6] := ⟨by intro k; cases k <;> decide, issues_plain rfl rfl, rfl, rfl⟩

theorem witness_SystemWriteFields : (Isle.start 0 0 64).handler = false ∧ ({ Isle.start 0 0 64 with handler := true } : Isle).handler = true ∧
    (0x7#64).extractLsb' 0 2 = 3 ∧ (0x6#64).extractLsb' 0 2 ≠ 3 ∧ SysReg.tcause ∈ [SysReg.tcause, .taddr] ∧
    (((Isle.start 0 0 64).perf[(7 : Fin 8)].extractLsb' 56 8).toNat = 0 ∧ ((Isle.start 0 0 64).perf[(7 : Fin 8)].extractLsb' 56 8).toNat ≠ 6) := by decide

theorem witness_WaitsAndPosts : (machine .C).flagFaults 31 = [] ∧ (machine .C).flagOf 1 31 = some 0 ∧ (machine .C).ctx.releases = [] ∧
    (0#16).toNat + (1023#10).toNat ≤ 65535 ∧ (∃ b, (machine .C (bregs 0x8000000000000010#64 0)).lookBar 0x8000000000000010#64 = .phase b) ∧
    (machine .C).Issues (.waitb q0 0 5 none 0) := by
  refine ⟨by decide, by decide, rfl, by decide, ⟨_, rfl⟩, issues_plain rfl rfl⟩

/-- Each kind of effect that lands a register, due now and alone. -/
theorem witness_LandingWritesItsRegister : ([.scalar (.a 0) 5, .scalar (.b 31) 5, .pred 7 true, .mask 0 5, .stream 15 {}, .mp 7 9,
    .vec 31 5 3 none [], .tag 31 9, .sys .srseed 5, .spill (place 0 [1]) (some (0, 1)), .drainLatch .w, .window .n { dout := .e, last := 9 }, .pop,
    .clearAccovf, .post 31 1 65535, .mpLine 5] : List Eff).all (fun e => let s := machine .A (flying e)
      !s.core.handler && s.core.flights.filter (fun x => x.seq == 0 && s.dueNow x.due) == [flight e]) = true := by decide +kernel

/-- An open stream of the raw FP32 tile of 2 by 64 elements, its header at 512. -/
def opened (w : Bool) : StreamReg :=
  { opened := true, write := w, buf := .ab, base := 512, tscale := 0, moff := 0, soff := 0, doff := 32, stride := 256, cols := 64, rows := 2, kind := 0, geom := 0
    efd := 0x2011 }

theorem witness_StoresAndLoadsMoveTheirBytes :
    (let s := machine .M (flying (.store .ab (place 4094 [1, 2])))
     s.core.handler = false ∧ s.core.flights.filter (fun x => x.seq == 0 && s.dueNow x.due) = [flight (.store .ab (place 4094 [1, 2]))] ∧
       (s.core.buf .ab).wf = true) ∧
    (let e : Eff := .access (.scalar (.a 4) .ab 4088 8 true) (.tick 9)
     let s := machine .M (flying e)
     s.core.handler = false ∧ s.core.flights = [flight e] ∧ s.dueNow (flight e).due = true ∧ s.core.spoiled .ab 4088 8 = false) := by decide

/-- An access of each kind, due and alone, with the ranges that it reads clean. -/
theorem witness_StoresAndLoadsMoveTheirBytes_kinds :
    (let sr : StreamReg := opened false
     ([.rawVec 4 .ab 3840, .tileVec 4 .ab 3968 4 0, .gather 4 .ab 8 [(0, 4088), (31, 0)], .header 1 .ab 4064, .stream 4 sr,
       .stream 4 { sr with sph := true }] : List Access).all fun x =>
      let s := machine .M (flying (.access x (.rc 101)))
      !s.core.handler && s.core.flights == [flight (.access x (.rc 101))] && s.dueNow (flight (.access x (.rc 101))).due &&
        x.ranges.all fun y => !s.core.spoiled y.1 y.2.1 y.2.2) = true ∧
    (8 ∈ [1, 2, 4, 8] ∧ ([(0, 4088), (31, 0)].map (·.1)).Nodup ∧ ∀ e ∈ [(0, 4088), (31, 0)], e.1 < 256 / 8) ∧
    ((opened false).buf = .ab ∧ (opened false).sph = false ∧ ({ opened false with sph := true } : StreamReg).sph = true) ∧
    (let e : Eff := .access (.atomic (.a 4) .ab 4088 .add 5) (.rc 101)
     let c : Flight := { flight (.store .ab (place 4088 (toLe 8 (7#64).toNat))) with cls := chainClass }
     let s := machine .M fun c' => { c' with flights := [flight e, c] }
     (machine .M (flying e)).core.flights = [flight e] ∧ s.core.handler = false ∧ s.core.flights = [flight e, c] ∧ s.dueNow (flight e).due = true ∧
       s.core.spoiled .ab 4088 8 = false ∧ c.cls = chainClass ∧ c.eff = .store .ab (place 4088 (toLe 8 (7#64).toNat))) := by decide +kernel


/-- The isle with b5, b6 and bytes in its AB. -/
def filled (x y : W64) (a : Nat) (l : List Byte) (c : Isle) : Isle := { bregs x y c with ab := Mem.wrList [] (place a l) }

/-- An access that ends at the footprint's last byte, one line of it, and all of it. -/
theorem witness_MemoryWords :
    (let s := machine .M (bregs 4088 0)
     s.slot = .M ∧ ((s.core.rdB 5).toNat + (0#6).toNat * 2 ^ (3 % 4)) % 8 = 0 ∧ (s.core.rdB 5).toNat + (0#6).toNat * 8 + 8 ≤ s.ctx.image.foot .ab ∧
       (s.core.rdB 5).toNat % 8 = 0) ∧
    (let s := machine .M (bregs 3840 256)
     s.slot = .M ∧ ((s.core.rdB 5).toNat + 32 * (0#9).toNat) % 32 = 0 ∧ (s.core.rdB 5).toNat + 32 * (0#9).toNat + 256 ≤ s.ctx.image.foot .acb ∧
       s.core.clearing = false ∧ (s.core.rdB 5).toNat % 256 = 0 ∧ (s.core.rdB 6).toNat % 256 = 0 ∧ 0 < (s.core.rdB 6).toNat ∧
       (s.core.rdB 5).toNat + (s.core.rdB 6).toNat ≤ s.ctx.image.foot .acb) ∧
    (let s := machine .M (bregs 4096 0)
     (s.core.rdB 5).toNat % 256 = 0 ∧ (s.core.rdB 5).toNat ≤ s.ctx.image.foot .wb ∧ (s.core.rdB 6).toNat = 0) ∧
    (machine .M).core.spoilt 3 (8 * (511#9).toNat) 8 = false ∧ (machine .M).core.spoilt 3 (256 * 15) 256 = false ∧
    (machine .M).Issues (.ld q0 (.a 4) .ab 5 3 0#6) ∧ (machine .M).Issues (.bclr q0 .acb 5 6) ∧ (machine .M).Issues (.fillv q0 31 15) :=
  ⟨by decide, by decide, by decide, by decide, by decide, issues_plain rfl rfl, issues_plain rfl rfl, issues_plain rfl rfl⟩

def streaming (w : Bool) (c : Isle) : Isle := { c with st := c.st.set 3 (opened w) }

theorem witness_OperandTraps :
    (let s := machine .M (bregs 12 0)
     s.slot = .M ∧ ((s.core.rdB 5).toNat + (0#6).toNat * 8) % 8 ≠ 0 ∧ ((s.core.rdB 5).toNat + 32 * (0#9).toNat) % 32 ≠ 0 ∧ s.core.early = none) ∧
    (let s := machine .M (bregs 4096 0)
     ((s.core.rdB 5).toNat + (0#6).toNat * 8) % 8 = 0 ∧ s.ctx.image.foot .ab < (s.core.rdB 5).toNat + (0#6).toNat * 8 + 8) ∧
    (let s := machine .M (bregs 3872 0)
     ((s.core.rdB 5).toNat + 32 * (0#9).toNat) % 32 = 0 ∧ s.ctx.image.foot .ab < (s.core.rdB 5).toNat + 32 * (0#9).toNat + 256) ∧
    (let s := machine .M (bregs 4072 0)
     ((s.core.rdB 5).toNat + 32 * (0#9).toNat) % 32 ≠ 0 ∧ (s.core.rdB 5).toNat % 8 = 0 ∧ s.core.clearing = false ∧ (s.core.rdB 5).toNat % 256 ≠ 0) ∧
    (let s := machine .M (bregs 4096 256)
     (s.core.rdB 5).toNat % 8 = 0 ∧ s.ctx.image.foot .ab < (s.core.rdB 5).toNat + 8 ∧ (s.core.rdB 5).toNat % 32 = 0 ∧
       s.ctx.image.foot .ab < (s.core.rdB 5).toNat + 32 ∧ s.core.clearing = false ∧ (s.core.rdB 5).toNat % 256 = 0 ∧ (s.core.rdB 6).toNat % 256 = 0 ∧
       s.ctx.image.foot .ab < (s.core.rdB 5).toNat + (s.core.rdB 6).toNat) ∧
    (machine .M (flying (.clear .ab 0 1))).core.clearing = true ∧ (machine .M).core.st[3].opened = false ∧
    ((machine .M (streaming true)).core.st[3].opened = true ∧ (machine .M (streaming true)).core.st[3].write = true) ∧
    ((machine .M (streaming false)).core.st[3].opened = true ∧ (machine .M (streaming false)).core.st[3].write = false) ∧
    ((machine .X).core.rtab[(0 : Fin 64)]).extractLsb' 16 16 = 0 ∧
    (let s := machine .X fun c => { c with rtab := c.rtab.set 63 0x10000#64 }
     (s.core.rtab[(63 : Fin 64)]).extractLsb' 16 16 ≠ 0 ∧ s.core.ustore.length ≤ ((s.core.rtab[(63 : Fin 64)]).extractLsb' 0 10).toNat) := by decide

/-- A header of one kind of tile: FP32, two rows of 64 elements. -/
def tileHdr : Hdr := ({ kind := 0, efd := 0x2011, rows := 2, cols := 64 } : Hdr).packed

theorem witness_TileWords :
    (let s := machine .M (filled 512 0 512 tileHdr.image)
     let l := (s.core.buf .ab).bytes (s.core.rdB 5).toNat 32
     let h := Hdr.ofNat (ofLe l)
     s.slot = .M ∧ (s.core.rdB 5).toNat % 32 = 0 ∧ (s.core.rdB 5).toNat + 32 ≤ s.ctx.image.foot .ab ∧ s.core.spoiled .ab 512 32 = false ∧
       hdrCheck 0 l = none ∧ tileFit 0 h = none ∧ 512 + h.doff + 32 * (1#9).toNat + windowBytes (tagFmt (BitVec.ofNat 32 (h.efd % 2 ^ 24))) ≤ s.ctx.image.foot .ab ∧
       h.doff = 32 ∧ h.rows = 2) ∧
    (let s := machine .M fun c => filled 512 0 512 tileHdr.image (vregs 0x08002011#32 2 [1] [] c)
     let l := (s.core.buf .ab).bytes (s.core.rdB 5).toNat 32
     let h := Hdr.ofNat (ofLe l)
     hdrCheck 3 l = none ∧ tileFit 3 h = none ∧ tagCheck 0 s.core.tag[(5 : Fin 32)] false = none ∧ tagPairs s.core.tag[(5 : Fin 32)] h = true) ∧
    (let s := machine .M fun c => filled 512 0 0 [] { c with v := c.v.set 7 (BitVec.ofNat 2048 (ofLe tileHdr.image)) }
     let l := (toBytes s.core.v[(7 : Fin 32)]).take 30
     ((s.core.rdB 5).toNat + 32 * (0#9).toNat) % 32 = 0 ∧ (s.core.rdB 5).toNat + 32 * (0#9).toNat + 32 ≤ s.ctx.image.foot .ab ∧
       hdrCheck 3 (l ++ toLe 2 (crc16 l)) = none) ∧
    (let s := machine .M (filled 512 0 512 tileHdr.image)
     s.ctx.image.foot .ab < 512 + tileHdr.doff + 32 * (511#9).toNat + windowBytes (tagFmt (BitVec.ofNat 32 (tileHdr.efd % 2 ^ 24)))) ∧
    (let s := machine .M (bregs 512 0)
     (hdrCheck 0 ((s.core.buf .ab).bytes (s.core.rdB 5).toNat 32)).isSome = true ∧
       (hdrCheck 3 ((toBytes s.core.v[(7 : Fin 32)]).take 30 ++ toLe 2 (crc16 ((toBytes s.core.v[(7 : Fin 32)]).take 30)))).isSome = true) := by decide +kernel

theorem witness_IndexedWords :
    (let s := machine .M (bregs 4092 0)
     s.slot = .M ∧ ∀ e, (e < min 64 (256 / 2 ^ 2) ∧ (s.core.rdVm 0).getLsbD e = true) →
       ((s.core.rdB 5).toNat + 4 * (s.core.v[(6 : Fin 32)].extractLsb' (32 * e) 32).toNat) % 4 = 0 ∧
       (s.core.rdB 5).toNat + 4 * (s.core.v[(6 : Fin 32)].extractLsb' (32 * e) 32).toNat + 4 ≤ s.ctx.image.foot .ab) ∧
    (let s := machine .M (bregs 4092 0)
     (0 < min 64 (256 / 2 ^ 3) ∧ (s.core.rdVm 0).getLsbD 0 = true) ∧
       ((s.core.rdB 5).toNat + 8 * (s.core.v[(6 : Fin 32)].extractLsb' (32 * 0) 32).toNat) % 8 ≠ 0) ∧
    (let s := machine .M (bregs 4096 0)
     ((s.core.rdB 5).toNat + 8 * (s.core.v[(6 : Fin 32)].extractLsb' (32 * 0) 32).toNat) % 8 = 0 ∧
       s.ctx.image.foot .ab < (s.core.rdB 5).toNat + 8 * (s.core.v[(6 : Fin 32)].extractLsb' (32 * 0) 32).toNat + 8) ∧
    (machine .M).Issues (.ldidx q0 4 6 .ab 5 2 0) := by
  refine ⟨⟨rfl, fun e _ => ?_⟩, by decide +kernel, by decide +kernel, issues_plain rfl rfl⟩
  have h : (machine .M (bregs 4092 0)).core.v[(6 : Fin 32)].extractLsb' (32 * e) 32 = 0 := by simp [machine, bregs, Isle.start]
  simp only [h]
  decide

theorem witness_StreamWords :
    (let s := machine .M (filled 512 0 512 tileHdr.image)
     let l := (s.core.buf .ab).bytes (s.core.rdB 5).toNat 32
     let h := Hdr.ofNat (ofLe l)
     s.slot = .M ∧ (s.core.rdB 5).toNat % 32 = 0 ∧ (s.core.rdB 5).toNat + 32 ≤ s.ctx.image.foot .ab ∧ s.core.spoiled .ab 512 32 = false ∧
       hdrCheck 0 l = none ∧ (s.core.rdB 5).toNat + h.extent ≤ s.ctx.image.foot .ab ∧ h.kind ≠ 4 ∧ h.kind = 0 ∧ h.sparse = 0) ∧
    (machine .M).core.st[(3 : Fin 16)] = {} ∧
    (let r := (machine .M (streaming false)).core.st[(3 : Fin 16)]
     r.opened = true ∧ r.write = false ∧ hdrValid 0 (Hdr.ofStream r) = none ∧ tileFit 0 (Hdr.ofStream r) = none ∧ (Hdr.ofStream r).sfmt = 0) ∧
    (let s := machine .M fun c => streaming true (vregs 0x08002011#32 2 [1] [] c)
     let r := s.core.st[(3 : Fin 16)]
     r.opened = true ∧ r.write = true ∧ r.sph = false ∧ (({ r with sph := true } : StreamReg).sph = true ∧ tagSreg (scaleTag 1 0) = true) ∧ tagCheck 0 s.core.tag[(5 : Fin 32)] false = none ∧
       tagPairs s.core.tag[(5 : Fin 32)] (Hdr.ofStream r) = true) ∧
    (let s := machine .M fun c => streaming false (bregs 1 63 c)
     let r := s.core.st[(3 : Fin 16)]
     r.opened = true ∧ (s.core.rdB 5).toNat < r.rows ∧ (s.core.rdB 6).toNat < r.cols ∧ (Hdr.ofStream r).sfmt = 0) := by decide +kernel

/-- FP32 sources of one tag, and integer ones. -/
def fp : State := machine .V (vregs 0x08002011#32 2 [0x3F800000] [0x40000000])
def int32 : State := machine .V (vregs 0x08003011#32 2 [1, 2] [3, 4])

theorem witness_VectorElementwise :
    (arithSource 0 fp.core.tag[(5 : Fin 32)] Fmt.isF = none ∧ arithSource 0 fp.core.tag[(5 : Fin 32)] isFI = none ∧
      arithSource 1 fp.core.tag[(6 : Fin 32)] Fmt.isF = none ∧ arithSource 2 fp.core.tag[(6 : Fin 32)] Fmt.isF = none ∧
      tagLw fp.core.tag[(5 : Fin 32)] = tagLw fp.core.tag[(6 : Fin 32)] ∧ tagEfd fp.core.tag[(5 : Fin 32)] = tagEfd fp.core.tag[(6 : Fin 32)]) ∧
    (arithSource 0 int32.core.tag[(5 : Fin 32)] isFI = none ∧ arithSource 1 int32.core.tag[(6 : Fin 32)] isFI = none ∧
      tagLw int32.core.tag[(5 : Fin 32)] = tagLw int32.core.tag[(6 : Fin 32)] ∧ tagEfd int32.core.tag[(5 : Fin 32)] = tagEfd int32.core.tag[(6 : Fin 32)]) ∧
    fp.Issues (.vfma q0 4 5 6 7 .rne) := ⟨by decide +kernel, by decide +kernel, issues_plain rfl rfl⟩

theorem witness_IntegerElementsWrap : (tagFmt 0x08003011#32).isInt = true ∧ 0 < (tagFmt 0x08003011#32).width ∧
    ({ rm := .rne, sat := false, r := 0 } : RMode).sat = false ∧ 0xFFFFFFFF < 2 ^ (tagFmt 0x08003011#32).width := by decide

theorem witness_VectorBitPatterns : tagCheck 0 fp.core.tag[(5 : Fin 32)] true = none ∧ tagCheck 1 fp.core.tag[(6 : Fin 32)] true = none ∧
    tagLw fp.core.tag[(5 : Fin 32)] = tagLw fp.core.tag[(6 : Fin 32)] ∧
    tagCheck 0 (machine .V).core.tag[(5 : Fin 32)] true = none ∧ tagCheck 1 (machine .V).core.tag[(6 : Fin 32)] true = none := by decide +kernel

/-- FP32 to FP16; FP32 to INT8 with scales in FP8 form of blocks of 32; and back. -/
theorem witness_VectorConversions :
    (fmtOf (tagEfd 0x04000010#32) ≠ none ∧ notAcc 0 fp.core.tag[(5 : Fin 32)] = none ∧ tagScl fp.core.tag[(5 : Fin 32)] = false ∧
      plainSource 0 fp.core.tag[(5 : Fin 32)] = none) ∧
    (let u : W32 := mkTag 0x908 0 true false 1 0
     (∃ g, fmtOf (tagEfd u) = some g ∧ g.acc = false ∧ g.wide = false) ∧ notAcc 1 (scaleTag 1 0) = none ∧ scalePairs (scaleTag 1 0) u = true ∧
       tagSfmt u ≠ 0 ∧ blockOf (tagSblk u) ≤ laneCount (tagFmt fp.core.tag[(5 : Fin 32)]).lw ∧
       tagCheck 0 u false = none ∧ (tagFmt u).wide = false ∧ tagScl u = true ∧ tagSreg u = false) ∧
    (∃ g, fmtOf (tagEfd 0x08002011#32) = some g ∧ g.isF = true) := by
  refine ⟨by decide +kernel, ⟨⟨_, rfl, rfl, rfl⟩, by decide +kernel⟩, _, rfl, rfl⟩

theorem witness_VectorReductions : arithSource 0 fp.core.tag[(5 : Fin 32)] isWideFI = none ∧ arithSource 0 int32.core.tag[(5 : Fin 32)] isWideFI = none ∧
    (tagFmt fp.core.tag[(5 : Fin 32)]).isInt = false ∧ (tagFmt int32.core.tag[(5 : Fin 32)]).isInt = true ∧ int32.Issues (.vredadd q0 4 5 0 .rne false) := ⟨by decide +kernel, by decide +kernel, by decide, by decide, issues_plain rfl rfl⟩

theorem witness_VectorTagsAndMasks : tagCheck 3 fp.core.tag[(5 : Fin 32)] true = none ∧ arithSource 0 int32.core.tag[(5 : Fin 32)] isFI = none ∧
    (tagFmt int32.core.tag[(5 : Fin 32)]).lw = 2 ∧ (tagFmt 0x0C006012#32).lw = 3 ∧ arithSource 0 0x0C006012#32 isFI = none := by decide +kernel

/-! ## The matrix engine -/

def word (w : XWord) (first len : Nat) : XRun := { word := w, first := first, len := len, bundle := 64, rcyc := first }

/-- A word running and one latched. -/
def working (x : XRun) (y : Option XRun) (c : Isle) : Isle := { c with mat := { c.mat with running := some x, latched := y } }

theorem witness_EngineReadsAndParameters :
    (let s := machine .X (bregs 4064 0)
     ((s.core.rdB 5).toNat + 32 * (0#9).toNat) % 32 = 0 ∧ (s.core.rdB 5).toNat + 32 * (0#9).toNat + 32 ≤ s.ctx.image.foot .ab ∧
       s.core.spoiled .ab 4064 32 = false) ∧
    (let s := machine .X (working (word (.msel 0) 90 10) none)
     s.core.mat.running = some (word (.msel 0) 90 10) ∧ s.core.mat.latched = none ∧ s.ctx.rcycle ≤ 90 + 10 ∧ 90 + 10 < 2 ^ 64) ∧
    ((machine .X).core.mat.running = none ∧ (machine .X).core.mat.latched = none) := by decide

/-- The isle with one narrow read stream of 2 by 64 and one of 64 by 3, routine 0 of three cycles, and a microstore of 8 words. -/
def panelsIn (c : Isle) : Isle :=
  { c with
    st := (c.st.set 3 { opened false with efd := 0x908, stride := 64 }).set 4 { opened false with efd := 0x908, rows := 64, cols := 3, stride := 32 }
    mp := (c.mp.set 0 3).set 1 4, rtab := (c.rtab.set 0 0x30000#64).set 63 0x107F0000#64, ustore := List.replicate 8 0 }

/-- A partition that may use weight handles, with one handle that is valid and resident. -/
def handler (r : Region) : Part :=
  { part with handles := [{ idx := 2, valid := true, res := true, key := 0x55, kmask := 0xFFFF, bclass := false, rwb := 0
                            hdr := BitVec.ofNat 256 (ofLe ({ kind := 0, efd := 0x908, rows := 64, cols := 3 } : Hdr).packed.image), tva := 0x30100, tasid := 5 }],
              chans := r.chans }

/-- An operand record of 64 bytes (R174): stream 3, handle 2 of key 0x55, accumulator at 0. -/
def record : List Byte :=
  (({ kind := 4, efd := 0x3011, rows := 1, cols := 8 } : Hdr).packed).image ++ toLe 32 (3 + 2 * 2 ^ 32 + 0x55 * 2 ^ 96)

def recordState : State :=
  { machine .X (fun c => { panelsIn (filled 64 0 64 record c) with rtab := c.rtab.set 0 0x30400#64 }) with parts := [handler region] }

def isCall : RecordLook → Bool
  | .call _ _ => true
  | _ => false

theorem call_of_isCall {x : RecordLook} (h : isCall x = true) : ∃ n k, x = .call n k := by
  cases x <;> simp_all [isCall]

/-- The staged words up to the last of the microstore, a call, and the latch full. -/
theorem witness_OccupyingWords :
    (let s := machine .X fun c => panelsIn (bregs 4064 4 c)
     s.core.mat.latched = none ∧ s.core.mat.running = none ∧ (s.core.rdB 5).toNat % 8 = 0 ∧ (s.core.rdB 5).toNat + 8 * ((3#8).toNat + 1) ≤ s.ctx.image.foot .ab ∧
       (s.core.rdB 6).toNat + ((3#8).toNat + 1) ≤ s.core.ustore.length ∧ s.core.spoiled .ab 4064 32 = false ∧
       (∃ count k, s.mcallLook 0 0xFF#8 = .ok (count, k))) ∧
    (let s := machine .X (working (word (.msel 0) 90 100) (some (word (.msel 1) 0 1)))
     s.core.mat.running ≠ none ∧ s.core.mat.latched ≠ none ∧ s.core.early = none) ∧
    (∃ count k, recordState.mcallrLook 0 5 = .call count k) ∧ recordState.core.spoiled .ab 64 64 = false ∧ (machine .X).Issues (.mselSwap q0) := by
  refine ⟨⟨by decide, by decide, by decide, by decide, by decide, by decide, ?_⟩, by decide, ?_, by decide, issues_plain rfl rfl⟩
  · exact ⟨_, _, rfl⟩
  · exact call_of_isCall (by decide +kernel)

/-- An MUWR that must wait for the next MAT boundary, and one that reads its words at once; a record call whose A stream is in flight. -/
theorem witness_OccupyingWords_first :
    (let s : State := { machine .X panelsIn with ctx := { context with div := context.div.set 1 4, e := 1, eX := context.eX.set 1 0 } }
     s.rcOfTick s.startTick ≠ s.ctx.rcycle) ∧
    (let s := machine .X panelsIn
     s.rcOfTick s.startTick = s.ctx.rcycle) ∧
    (let s : State := { recordState with mark := 1 }
     let t : State := s.onCore fun c => { c with sbmode := 1, flights := [flight (.stream 3 {})] }
     t.recordShort 0 5 = true ∧ t.core.early = none ∧ s.recordShort 0 5 = false) := by decide +kernel

theorem witness_IntervalEnds :
    (let s := machine .X (working (word (.mrtset 3 7) 100 1) (some (word (.msel 0) 0 1)))
     s.core.mat.running = some (word (.mrtset 3 7) 100 1) ∧ 100 + 1 ≤ s.ctx.rcycle + 1 ∧ s.core.mat.latched = some (word (.msel 0) 0 1)) ∧
    (let k := routine.call
     let s := machine .X fun c => engine routine (working (word (.call k) 98 3) none c)
     s.core.mat.running = some (word (.call k) 98 3) ∧ 98 + 3 ≤ s.ctx.rcycle + 1 ∧ s.core.mat.routine = some routine ∧ s.core.late = none) := by decide

/-! ## Micro-words -/

/-- An answer found, with what it satisfies, from an evaluation. -/
theorem ok_and {ε α : Type} {x : Except ε α} {f : α → Bool} (h : x.toOption.map f = some true) : ∃ y, x = .ok y ∧ f y = true := by
  cases x with
  | error e => simp [Except.toOption] at h
  | ok y => exact ⟨y, rfl, by simpa [Except.toOption] using h⟩

/-- A routine on the two read streams of `panelsIn`, with the drain's write streams at 5 and 6. -/
def fed : Routine :=
  let st := (((panelsIn (Isle.start 0 0 64)).st.set 5 (opened true)).set 6 { opened true with kind := 3, efd := 0x5012, stride := 1056 }).toList
  { routine with call := { routine.call with mp := [3, 4, 0, 0, 0, 5, 6, 0x201105], st := st }, st := st }

/-- The drain set bound to a committed accumulator of 2 by 64 at 0. -/
def drainable (c : Isle) : Isle :=
  { c with acb := Mem.wrList [] (place 0 (Hdr.accumulator 2 64).image)
           mat := { c.mat with set1 := { bind := some { acc := 0, mi := 0, nj := 0, rows := 2, cols := 64 }, committed := true } } }

theorem muAt (r : Routine) (u : MuUnit) (f : Isle → Isle) (h : r.returned = false) (h' : r.free u ≤ r.cycle) :
    (machine .X fun c => engine r (f c)).MuAt r u := ⟨rfl, h, h'⟩

theorem witness_MicroSequencerWords :
    (machine .X fun c => engine { routine with loops := [(3, 3)], call := { routine.call with mp := [1, 0, 0, 0, 0, 0, 0, 0] } } (id c)).MuAt
      { routine with loops := [(3, 3)], call := { routine.call with mp := [1, 0, 0, 0, 0, 0, 0, 0] } } .seq ∧
    [((3 : Nat), 3)].length < 2 ∧ routine.call.arg 0 % 65536 = 0 ∧ 1 < 3 :=
  ⟨muAt _ _ _ rfl (by decide), by decide, by decide, by decide⟩

theorem witness_MicroLoads : (machine .X fun c => engine fed (id c)).MuAt fed .load ∧
    (∃ x, ({ fed with upc := fed.upc + 1 } : Routine).opA (machine .X).core.engineView = .ok x) ∧
    (∃ x, ({ fed with upc := fed.upc + 1 } : Routine).opB (machine .X).core.engineView (machine .X).residentArea = .ok x) ∧ fed.slotIdle 1 = true ∧
    fed.nj % 128 = 0 ∧ fed.feed = [] ∧ (∀ l, (machine .X).core.engineView.spoiltIn l = none) ∧
    ({ fed with feed := [.rows []] } : Routine).feed = .rows [] :: [] ∧
    (∃ r, ({ fed with upc := fed.upc + 1 } : Routine).meetAcc (machine .X).core.engineView ((machine .X).ctx.image.foot .acb) = .ok r ∧ r.held = false ∧
      (({ r with loads := fed.loads ++ [.rows []], feed := [] } : Routine).zeroed []).toBool = true) :=
  ⟨muAt _ _ _ rfl (by decide), ⟨_, rfl⟩, ⟨_, rfl⟩, by decide, by decide, rfl, fun _ => rfl, rfl, _, rfl, rfl, by decide⟩

/-- The first sector of the panel of A at byte 544 holds an uncorrectable error. -/
theorem witness_MicroLoads_poison :
    (machine .X fun c => engine fed { c with poison := [(1, 17)] }).MuAt fed .load ∧
    ∃ o, ({ fed with upc := fed.upc + 1 } : Routine).opA (machine .X fun c => { c with poison := [(1, 17)] }).core.engineView = .ok o ∧
      ((machine .X fun c => { c with poison := [(1, 17)] }).core.engineView.spoiltIn
        (o.panelReads fed.kb fun i k => o.hdr.reads o.base (fed.mi + i) (fed.ko + k))).isSome = true :=
  ⟨muAt _ _ _ rfl (by decide), _, rfl, by decide +kernel⟩

theorem witness_MicroArrayWords :
    ((machine .X (engine fed)).core.mat.routine = some fed ∧ fed.returned = false ∧ fed.arrayFree ≤ fed.cycle ∧ fed.loaded 1 ≤ fed.cycle ∧
      fed.foldEnd ≤ fed.cycle ∧ fed.window = none ∧ fed.foldFree ≤ fed.cycle) ∧
    (let r : Routine := { fed with window := some { ko := 32, sums := [], exact := [], sat := [], res := [] }, lastKo := some 0 }
     (machine .X (engine r)).core.mat.routine = some r ∧ r.window = some { ko := 32, sums := [], exact := [], sat := [], res := [] } ∧
       (∀ k, r.lastKo = some k → k < 32) ∧
       (∃ r1, ({ r with upc := 1, work := { bind := some ({ r with upc := 1 } : Routine).bound } } : Routine).needAcc (machine .X (engine r)) = .ok r1 ∧
         r1.touch.toBool = true)) ∧
    (fed.zeroed []).toBool = true := by
  refine ⟨⟨rfl, by decide, by decide, by decide, by decide, by decide, by decide⟩, ⟨rfl, rfl, ?_, ?_⟩, by decide⟩
  · intro k h
    cases h
    decide
  · exact ok_and (f := fun r1 : Routine => r1.touch.toBool) (by decide +kernel)

theorem witness_MicroDrainsAndCommits :
    ((machine .X fun c => engine fed (drainable c)).MuAt fed .drain ∧
      (∃ x, ({ fed with upc := 1 } : Routine).drainLook (machine .X fun c => engine fed (drainable c)).core.engineView (fed.call.arg 5 % 16) false = .ok x ∧
        decide (fed.segment.size + 128 * ((128 * (tagFmt (BitVec.ofNat 32 (x.2.2.1.efd % 2 ^ 24))).width + 7) / 8) ≤ 294912) = true) ∧
      (∃ x, ({ fed with upc := 1 } : Routine).drainLook (machine .X fun c => engine fed (drainable c)).core.engineView (fed.call.arg 6 % 16) true = .ok x ∧
        decide (fed.segment.size + 135168 ≤ 294912) = true) ∧
      (∃ t, ({ fed with upc := 1 } : Routine).writeStream 5 = .ok t ∧
        decide (t.base + ({ kind := 0, efd := fed.call.arg 7 / 256 % 2 ^ 24, rows := 2, cols := 64 } : Hdr).packed.extent ≤
          (machine .X).ctx.image.foot t.buf) = true) ∧
      (({ fed with upc := 1 } : Routine).drainBound (machine .X fun c => engine fed (drainable c)).core.engineView).toBool = true ∧
      ({ kind := 0, efd := fed.call.arg 7 / 256 % 2 ^ 24, rows := 2, cols := 64 } : Hdr).packed.unwritable = none) ∧
    (routine.seqFree ≤ routine.cycle ∧ routine.loadFree ≤ routine.cycle ∧ routine.arrayFree ≤ routine.cycle ∧ routine.foldFree ≤ routine.cycle ∧
      routine.drainFree ≤ routine.cycle ∧ routine.segment.dirty = false ∧ routine.returned = false) ∧
    (let r : Routine := { fed with segment := { fed.segment with dirty := true }, work := { bind := some { acc := 0, mi := 0, nj := 0, rows := 2, cols := 64 } } }
     (∀ b, r.work.bind = some b → b.nj % 128 = 0) ∧
       (({ r with upc := r.upc + 1 } : Routine).boundHdr (machine .X fun c => engine r (drainable c)).core.engineView).toBool = true) := by
  refine ⟨⟨muAt _ _ _ rfl (by decide), ok_and (by decide +kernel), ok_and (by decide +kernel), ok_and (by decide +kernel), by decide +kernel,
    by decide +kernel⟩, by decide, ?_, by decide +kernel⟩
  intro b h
  cases h
  rfl

theorem witness_MicroWaits :
    let r : Routine := { routine with seqFree := 1, loadFree := 1, arrayFree := 1, drainFree := 1 }
    (machine .X (engine r)).core.mat.routine = some r ∧ r.cycle < r.seqFree ∧ r.cycle < r.loadFree ∧ r.cycle < r.arrayFree ∧ r.cycle < r.drainFree :=
  ⟨rfl, by decide, by decide, by decide, by decide⟩

/-! ## The network -/

/-- The reference of R285 to byte 8 of the WB, one isle east and one south. -/
def ref11 : W64 := 0x0000010100000008#64

theorem witness_NetworkWords :
    (let s := machine .N
     s.slot = .N ∧ s.leaves .e 1 .s 1 = none ∧ 0 < s.ctx.image.w - 1 - s.core.px ∧ s.core.px = 0 ∧ 0 < s.ctx.image.h - 1 - s.core.py ∧ s.core.py = 0 ∧
       s.inside (Dir.e.step s.core.px s.core.py).1 (Dir.e.step s.core.px s.core.py).2 = true) ∧
    (alone .N).ctx.image.w - 1 - (alone .N).core.px = 0 ∧
    (∃ u, bufOf (ref11.extractLsb' 24 2).toNat = some u) ∧ ref11.extractLsb' 46 18 = 0 ∧ ref11.extractLsb' 38 2 = 0 ∧ ref11.extractLsb' 26 6 = 0 ∧
    (ref11.extractLsb' 32 6).toInt = 1 ∧ (ref11.extractLsb' 40 6).toInt = 1 ∧ (ref11.extractLsb' 0 24).toNat % 8 = 0 ∧
    (machine .N).inside (0 + 1) (0 + 1) = true ∧ (machine .N).Issues (.send q0 1 false ⟨.e, 1, .s, 1⟩) :=
  ⟨by decide, by decide, ⟨_, rfl⟩, by decide, by decide, by decide, by decide, by decide, by decide, by decide, issues_plain rfl rfl⟩

/-- A word that reaches the isle at (0, 0) from the east at the end of the present rc. -/
def coming (cargo : Cargo) (x due : Nat) : Trav :=
  { id := 9, word := { data := 5, tag := 0 }, cargo := cargo, x := x, y := 0, dir := .w, due := due, dir1 := .w, left1 := 0, dir2 := .w, left2 := 0, ox := 1, oy := 0
    hops := 1, dest := .a 4, rcyc := 96 }

def reached (k : Trav) (f : Isle → Isle) : State := { machine .N f with ctx := { context with words := [k] } }

theorem witness_NetworkEvents :
    (let k := coming .plain 1 100
     let s := reached k id
     s.ctx.words.find? (fun t => t.id == k.id && t.due == s.ctx.rcycle) = some k ∧ k.due = s.ctx.rcycle ∧ s.onLink k = [k] ∧
       s.left.length = s.ixOf (k.dir.step k.x k.y).1.toNat (k.dir.step k.x k.y).2.toNat ∧ s.core.late = none ∧ k.dir.opp = .e ∧
       s.core.fwd[Dir.e.ix] = none ∧ s.core.latch[Dir.e.ix] = none) ∧
    ((reached (coming .plain 1 100) fun c => { c with latch := c.latch.set Dir.e.ix (some { data := 1, tag := 0 }) }).core.latch[Dir.e.ix] ≠ none) ∧
    ((reached (coming .plain 1 100) fun c => { c with fwd := c.fwd.set Dir.e.ix (some { dout := .s, last := 100 }) }).core.fwd[Dir.e.ix] =
      some { dout := .s, last := 100 }) ∧
    (let k := coming (.request .add .ab 8 3) 0 99
     let s := reached k id
     s.requestOf k.id = some k ∧ k.due < s.ctx.rcycle ∧ s.left.length = s.ixOf k.x k.y ∧ s.core.handler = false ∧ s.core.flights = [] ∧
       s.core.spoiled .ab 8 8 = false) := by decide +kernel

theorem witness_FormatAndFenceTraps :
    ((machine .V).core.tag[(5 : Fin 32)] = 0 ∧ (machine .V).core.early = none ∧ (machine .V).slot = .V ∧ (machine .V).core.handler = false) ∧
    ((machine .N).leaves .e 1 .s 2 = some .s ∧ (machine .N).core.early = none ∧
      (machine .N).inside (Dir.w.step (machine .N).core.px (machine .N).core.py).1 (Dir.w.step (machine .N).core.px (machine .N).core.py).2 = false) ∧
    (machine .V).Issues (.vadd q0 4 5 6 0 .rne false) := ⟨by decide, by decide, issues_plain rfl rfl⟩

/-! ## Slot D -/

theorem witness_TransferAndBarrierWords :
    (let s := machine .D (bregs 4064 0xFFFFFFFFFFFE0#64)
     (s.core.rdB 5).toNat % 32 = 0 ∧ (s.core.rdB 5).toNat + 32 ≤ s.ctx.image.foot .ab ∧ (s.core.rdB 6).toNat < 2 ^ 52 ∧ (s.core.rdB 6).toNat % 32 = 0 ∧
       s.HasEntry ∧ (s.core.rdB (6 + 1)).toNat % 8 = 0 ∧ (s.core.rdB (6 + 1)).toNat + 8 ≤ s.ctx.image.foot .ab) ∧
    (∃ o, barRef 0x8000000000000FF0#64 = some (.ab o) ∧ o + 16 ≤ (machine .D).ctx.image.foot .ab) ∧ barInitFault true 1#64 = none ∧
    (∃ o, barRef 0x30000#64 = some (.dm o)) ∧ (machine .D).Issues (.xld q0 .ab 5 6 9 1) := by
  refine ⟨?_, ⟨_, rfl, by decide⟩, by decide, ⟨_, rfl⟩, issues_plain rfl rfl⟩
  refine ⟨by decide, by decide, by decide, by decide, ?_, by decide, by decide⟩
  unfold State.HasEntry
  decide

/-- A copy template of one row of 32 bytes from VA 0x30000 to VA 0x30020 (R355), and an all-reduce of two in group 1 (R357). -/
def copyTmpl : BitVec 512 := BitVec.ofNat 512 (1 + 0x30000 * 2 ^ 464 + 0x30020 * 2 ^ 416)
def collTmpl : BitVec 512 := BitVec.ofNat 512 (2 + 1 * 2 ^ 352 + 1 * 2 ^ 368 + 5 * 2 ^ 400)

def overlay : OvlEnt := { ovl := 5, first := 128, count := 1, isle := none, code := 0 }

/-- The machine with templates, an overlay, the kite of socket 0 and a packet at AB byte 64. -/
def equipped : State :=
  { machine .D (filled 64 3 64 [1]) with
    ctx := { context with tmpl := [copyTmpl, collTmpl], kctx0 := some 2, image := { image with va := 0x30000, ovls := [overlay] } }
    socks := [{ Socket.empty with present := true, link := true }, Socket.empty] }

theorem witness_OperationWords :
    (let t := equipped.ctx.tmpl.getD (0#8).toNat 0
     copyTmplOk t = true ∧ tmplFld t 4 2 = 0 ∧ tmplFld t 6 2 = 0 ∧ tmplHmode t = 0 ∧ tmplBase t 464 10 64 = 0x30000 ∧ tmplBase t 416 11 64 = 0x30020 ∧
       tmplRows t = 1 ∧ tmplFld t 12 1 = 0) ∧
    (let t := equipped.ctx.tmpl.getD (1#8).toNat 0
     collTmplOk t = true ∧ equipped.groupServes (collGid t) = true ∧ collSrc t 64 = 64 ∧ collDst t 64 = 64) ∧
    (∃ o ∈ equipped.ctx.image.ovls, o.ovl = (5#8).toNat ∧ (o.isle = none ∨ o.isle = some equipped.isleIx)) ∧
    ((equipped.core.rdB 5).toNat % 32 = 0 ∧ (equipped.core.rdB 5).toNat + 128 ≤ equipped.ctx.image.foot .ab ∧
      (equipped.partOfSlot (equipped.core.rdB 6).toNat).map (·.pid) = some equipped.ctx.pid) ∧
    (equipped.ctx.kctx 0 = some 2 ∧ (equipped.sock 0).present = true ∧ (equipped.sock 0).frozen = false ∧ equipped.core.spoiled .ab 64 64 = false ∧
      packetBad (equipped.core.ab.rdN 64 64) = false ∧
      ((equipped.sock 0).packets.filter fun q => q.kctx == 2).length + (equipped.posting 0).length < 16) ∧ equipped.HasEntry := by
  refine ⟨by decide +kernel, by decide +kernel, ⟨overlay, by decide, by decide, .inl rfl⟩, by decide +kernel, by decide +kernel, ?_⟩
  unfold State.HasEntry
  decide

/-- A copy of two rows from AB, its header checked, to VA 0x30100, its flag 9 on the isle to the east; an AB barrier at byte 16. -/
def sideTmpl : BitVec 512 :=
  BitVec.ofNat 512 (1 + 2 * 2 ^ 4 + 2 ^ 8 + 2 ^ 12 + 9 * 2 ^ 13 + 2 ^ 18 + 2 ^ 336 + 32 * 2 ^ 352 + 32 * 2 ^ 384 + 0x30100 * 2 ^ 416 + 512 * 2 ^ 464)

theorem witness_OperationWords_sides :
    (let s : State := { machine .D fun c => { bregs 0x8000000000000010#64 0 c with ab := Mem.wrList [] (place 512 tileHdr.image) } with
       ctx := { context with tmpl := [sideTmpl] } }
     let t := s.ctx.tmpl.getD (0#8).toNat 0
     let off := (Hdr.ofNat ((s.core.buf .ab).rdN 512 32)).doff
     copyTmplOk t = true ∧ tmplBase t 464 10 64 = 512 ∧ tmplBase t 416 11 64 = 0x30100 ∧ tmplHmode t = 1 ∧ tmplRows t = 2 ∧ sideBuf (tmplFld t 4 2) = some .ab ∧
       sideBuf (tmplFld t 6 2) = none ∧ 0x30100 < 2 ^ 52 ∧ 0x30100 % 32 = 0 ∧ tmplDstride t % 32 = 0 ∧ 512 % 32 = 0 ∧ 512 + 32 ≤ s.ctx.image.foot .ab ∧
       (∀ row, row < 2 → ((512 + off) % 2 ^ 64 + row * tmplSstride t) % 32 = 0 ∧
         (512 + off) % 2 ^ 64 + row * tmplSstride t + tmplRowBytes t ≤ s.ctx.image.foot .ab) ∧
       tmplFld t 12 1 = 1 ∧ s.inside ((s.core.px : Int) + sext (tmplFld t 18 6) 6) ((s.core.py : Int) + sext (tmplFld t 24 6) 6) = true ∧
       barRef (s.core.rdB 5) = some (.ab 16) ∧ 16 + 16 ≤ s.ctx.image.foot .ab) := by decide +kernel

theorem witness_BarrierUpdates :
    ((barInit 2#64).phase < 16 ∧ barUpdate true (.arrive 5) (barInit 2#64) = .ok { barInit 2#64 with pend := 1, bytes := 5 }) ∧
    ((barInit 2#64).scope = 0 ∧ 0 < (barInit 2#64).pend ∧ (barInit 0#64).pend = 0 ∧ (1#64).extractLsb' 0 20 ≠ 0 ∧ (1#64).extractLsb' 20 4 = 0 ∧
      ¬ ((barInit 2#64).bytes + (2 ^ 47 : Int) < 2 ^ 47) ∧ (barInit 2#64).bytes + ((2 ^ 47 - 1 : Int)) < 2 ^ 47) := by decide

/-- One operation of the isle at (0, 0) in the copy unit. -/
def inUnit (kind : OpKind) (finished : Bool) (flag : Option (Nat × Nat × Nat)) : Op :=
  { seq := 4, slot := 3, px := 0, py := 0, bundle := 64, rcyc := 90, kind := kind, flag := flag, bar := none, waitRel := [], cu := true
    finished := finished, owed := 0 }

theorem atOp (kind : OpKind) (fin : Bool) (flag : Option (Nat × Nat × Nat)) (s : State) (h : s.ops = [inUnit kind fin flag])
    (h1 : s.ctx.live = true) (h2 : s.ctx.slot = 3) (h3 : s.left.length = s.ixOf 0 0) : s.AtOp (inUnit kind fin flag) :=
  ⟨by simp [h], h1, h2, h3⟩

/-- A copy that takes its header and rewrites it (HMODE 2), one row of eight FP32 elements, and that header. -/
def headTmpl : BitVec 512 := BitVec.ofNat 512 (1 + 2 * 2 ^ 8 + 32 * 2 ^ 352 + 0x30000 * 2 ^ 464 + 0x30100 * 2 ^ 416)

def rowHdr : Hdr := ({ kind := 0, efd := 0x2011, rows := 1, cols := 8 } : Hdr).packed

/-- The machine with one operation, and bytes at VA 0x30000. -/
def operating (o : Op) (l : List Byte) : State := { machine .D with ops := [o], dram := Mem.wrList tables (place 0x40000 l) }

def brought : Got → Option (State × List Byte)
  | .bytes s l => some (s, l)
  | _ => none

theorem brought_ok {x : Got} {f : State × List Byte → Bool} (h : (brought x).map f = some true) : ∃ t l, x = .bytes t l ∧ f (t, l) = true := by
  cases x with
  | bytes t l => exact ⟨t, l, rfl, by simpa [brought] using h⟩
  | held => simp [brought] at h
  | xfault f va => simp [brought] at h
  | ecc a u => simp [brought] at h

/-- The contributions of two participants, the first that of the operation here. -/
def contributions : List Contribution :=
  let c : Contribution :=
    { gid := 1, rank := 0, npart := 2, op := 0, failed := false, header := BitVec.ofNat 256 (ofLe rowHdr.image)
      bytes := rowHdr.image ++ List.replicate 32 0, who := (3, 0, 0), origin := some 4 }
  [c, { c with rank := 1, who := (4096, 1, 0), origin := none }]

/-- A copy of a row from VA to VA; a copy's header taken, and rewritten after its rows; an operation that waits for a release. -/
theorem witness_OperationEvents_sectors :
    (let o := inUnit (.xst .ab 32 0x30020 32 0) false (some (9, 0, 0))
     let s := operating o []
     s.AtOp o ∧ s.core.spoiled .ab 32 32 = false ∧ ∃ pl, s.ctxWrite s.ctx (0x30020 + 0) = .ok pl ∧ (!pl.bad && (s.letIn pl).isSome) = true) ∧
    (let o := inUnit (.xatom .add 0x30020 1 8 false) false (some (9, 0, 0))
     let s := operating o []
     s.AtOp o ∧ ∃ pl, s.ctxModify s.ctx 0x30020 = .ok pl ∧ (!s.poisoned pl && (s.letIn pl).isSome) = true) ∧
    (let o := inUnit (.xcopy 0x30000 0x30020 copyTmpl 0 0 none none false) false none
     let s := operating o []
     s.AtOp o ∧ tmplHmode copyTmpl = 0 ∧ 0 < tmplRows copyTmpl ∧ ∃ t l, s.take 0 0x30000 32 = .bytes t l ∧
       (brought (t.put 0 0x30020 l)).isSome = true) ∧
    (let o := inUnit (.xcopy 0x30000 0x30100 headTmpl 0 0 none none false) false none
     let s := operating o rowHdr.image
     s.AtOp o ∧ tmplHmode headTmpl = 2 ∧ ∃ t l, s.take 0 0x30000 32 = .bytes t l ∧ (copyHdrFault headTmpl l).isNone = true) ∧
    (let o := inUnit (.xcopy 0x30000 0x30100 headTmpl 1 0 none (some (BitVec.ofNat 256 (ofLe rowHdr.image))) false) false none
     let s := operating o []
     s.AtOp o ∧ tmplRows headTmpl ≤ 1 ∧ (brought (s.put 0 0x30100 (rewrittenHdr headTmpl rowHdr).image)).isSome = true) ∧
    (let o : Op := { inUnit (.xld .ab 32 0x30020 32 0) false none with waitRel := [7] }
     let s : State := { operating o [] with ctx := { context with releases := [(7, [1])] } }
     o.readsDm = true ∧ s.mayReport o = false ∧ ∃ r ∈ o.waitRel, ∃ x ∈ s.ctx.releases, x.1 = r) :=
  ⟨⟨atOp _ _ _ _ rfl rfl rfl rfl, by decide, ok_and (by decide +kernel)⟩, ⟨atOp _ _ _ _ rfl rfl rfl rfl, ok_and (by decide +kernel)⟩,
    ⟨atOp _ _ _ _ rfl rfl rfl rfl, by decide, by decide, brought_ok (f := fun x => (brought (x.1.put 0 0x30020 x.2)).isSome) (by decide +kernel)⟩,
    ⟨atOp _ _ _ _ rfl rfl rfl rfl, by decide, brought_ok (f := fun x => (copyHdrFault headTmpl x.2).isNone) (by decide +kernel)⟩,
    ⟨atOp _ _ _ _ rfl rfl rfl rfl, by decide, by decide +kernel⟩, by decide⟩

def isHeld : Got → Bool
  | .held => true
  | _ => false

theorem held_of {x : Got} (h : isHeld x = true) : x = .held := by
  cases x <;> simp_all [isHeld]

/-- A copy whose sector has been read and whose write the budget holds; an overlay all of whose sectors pass, and one of which none does. -/
theorem witness_OperationEvents_held :
    (let o : Op := { inUnit (.xcopy 0x30000 0x30020 copyTmpl 0 0 none none false) false none with got := some [1] }
     let s : State := { operating o [] with parts := [{ part with budgetEn := true }], budgetUse := [(1, 2000000)] }
     s.AtOp o ∧ o.got = some [1] ∧ s.put 0 0x30020 [1] = .held) ∧
    (let s : State := { equipped with ops := [inUnit (.ovl 5 0) false none] }
     let t : State := { s with parts := [{ part with budgetEn := true }], budgetUse := [(1, 2000000)] }
     0 < (s.overlaySectors overlay).length ∧ (s.pass ((s.overlaySectors overlay).drop 0)).2 = (s.overlaySectors overlay).length - 0 ∧
       (t.pass ((t.overlaySectors overlay).drop 0)).2 < (t.overlaySectors overlay).length - 0) :=
  ⟨⟨⟨rfl, rfl, rfl, rfl⟩, rfl, held_of (by decide +kernel)⟩, by decide +kernel⟩

/-- A barrier's operation; a participant that joins, one whose headers agree; and a collective of two that completes. -/
theorem witness_OperationEvents_ends :
    (let o := inUnit (.bar 0x30040#64 (.arrive 0)) false none
     let s : State := { operating o [] with dram := Mem.wrList tables (place 0x40040 (toLe 16 (barInit 0x100001#64).toNat)) }
     s.AtOp o ∧ s.mayReport o = true ∧ s.barHeld 0x30040#64 (.arrive 0) = false ∧ (s.opBar o 0x30040#64 (.arrive 0)).2 = true) ∧
    (let o := inUnit (.coll collTmpl 0x30000 false false 0 2) false none
     (operating o []).AtOp o ∧ (operating o []).collSector collTmpl 0x30000 2 = none) ∧
    (let s := operating (inUnit (.coll collTmpl 0x30000 false false 0 2) false none) rowHdr.image
     ∃ a, s.readVa s.ctx.asid s.ctx.pid (collSrc collTmpl 0x30000) 32 = .ok a ∧
       ((collHdrFault (collOp collTmpl) a a).isNone && (s.readVa s.ctx.asid s.ctx.pid (collSrc collTmpl 0x30000) (Hdr.ofNat (ofLe a)).dataEnd).toBool) = true) ∧
    (let o := inUnit (.coll collTmpl 0x30000 true false (BitVec.ofNat 256 (ofLe rowHdr.image)) 2) false none
     let s : State := { operating o [] with contribs := contributions }
     s.AtOp o ∧ nextColl (collGid collTmpl) s.contribs = some contributions ∧ collAgrees contributions = true ∧ s.resultPlace o = none ∧
       (s.writeResult contributions o).2 = none ∧ (∀ c ∈ contributions, c.failed = false) ∧
       (contributions.filter fun c => c.origin.isSome) = contributions.take 1) :=
  ⟨⟨atOp _ _ _ _ rfl rfl rfl rfl, by decide, by decide +kernel, by decide +kernel⟩, ⟨atOp _ _ _ _ rfl rfl rfl rfl, by decide +kernel⟩,
    ok_and (by decide +kernel), ⟨atOp _ _ _ _ rfl rfl rfl rfl, by decide +kernel, by decide +kernel, by decide +kernel, by decide +kernel, by decide +kernel,
      by decide +kernel⟩⟩

/-- Significands under one exponent; a frame that has been zeroed, and one that awaits it. -/
theorem witness_OperationEvents_values :
    (let l := [AccRow.of 3 [1, 2], .of 3 [5]]
     (∀ p ∈ l, p.e = 3 ∧ ∀ x ∈ p.s, x ≠ accNan) ∧ ∃ p ∈ l, ∃ x ∈ p.s, x ≠ 0) ∧
    (fp16.isInt = false ∧ ((fmtOf 0x3011).map (·.isInt)) = some true ∧ (0 : Nat) < rowHdr.rows ∧ 0 < ceilDiv rowHdr.cols 128) ∧
    (let pl (n : Nat) : Place := { key := n * 65536, pid := 7, leaf := part.leafAt 0 n, big := false }
     (machine .D).dram.wf = true ∧ (machine .D).awaitsZero (pl 4) = false ∧ (machine .D).awaitsZero (pl 5) = true) ∧
    (sideBuf 0 = none ∧ sideBuf 2 = some .ab ∧ ∃ pl, (machine .D).ctxRead context 0x30020 = .ok pl ∧ ((machine .D).letIn pl).isSome = true) :=
  ⟨by simp [AccRow.of, accNan], by decide +kernel, by decide +kernel, rfl, rfl, ok_and (by decide +kernel)⟩

theorem witness_OperationEvents :
    (let o := inUnit (.xld .ab 32 0x30020 32 0) false (some (9, 0, 0))
     let s : State := { machine .D with ops := [o] }
     s.AtOp o ∧ ∃ pl, s.ctxRead s.ctx (0x30020 + 0) = .ok pl ∧ (!s.poisoned pl && (s.letIn pl).isSome) = true) ∧
    (let o := inUnit (.xld .ab 32 0x30020 32 32) true (some (31, 0, 0))
     let s : State := { machine .D with ops := [o] }
     s.AtOp o ∧ (s.core.addFlag (Fin.ofNat 32 31) 1).isSome = true) ∧
    (let o := inUnit (.ovl 5 0) false (some (9, 0, 0))
     let s : State := { equipped with ops := [o] }
     s.AtOp o ∧ s.ctx.image.ovls.find? (fun e => e.ovl == 5 && (e.isle.getD s.isleIx == s.isleIx)) = some overlay ∧
       ∃ code, s.overlayCode overlay = .ok code ∧ ((s.core.mapOverlay overlay code).addFlag (Fin.ofNat 32 9) 1).isSome = true) ∧
    (let o := inUnit (.coll collTmpl 0 true false 0 0) true none
     ({ machine .D with ops := [o] } : State).AtOp o) ∧
    (let o := inUnit (.launch 4 (List.replicate 128 0)) false none
     ({ machine .D with ops := [o] } : State).AtOp o ∧ (List.replicate 128 (0 : Byte)).length = 128 ∧ ((machine .D).slotAt 4).st = .free) ∧
    (alone .D).left = [] ∧ (alone .D).right = [] := by
  refine ⟨⟨atOp _ _ _ _ rfl rfl rfl rfl, ok_and (by decide +kernel)⟩, ⟨atOp _ _ _ _ rfl rfl rfl rfl, by decide +kernel⟩,
    ⟨atOp _ _ _ _ rfl rfl rfl rfl, by decide, ok_and (by decide +kernel)⟩, atOp _ _ _ _ rfl rfl rfl rfl,
    ⟨atOp _ _ _ _ rfl rfl rfl rfl, by simp, by decide⟩, rfl, rfl⟩

/-- A region of four isles: a wait that is met on one of them, and one that is not. -/
theorem witness_WaitEvents_isles :
    (machine .C fun c => { c with flag := c.flag.set 31 2, wait := some (.flag 31 2 none) }).allWaitsMet = true ∧
    (machine .C fun c => { c with wait := some (.flag 31 2 none) }).allWaitsMet = false ∧ (machine .C).isleCount = 4 := by decide +kernel

theorem witness_WaitEvents :
    ((alone .C fun c => { c with flag := c.flag.set 31 2, wait := some (.flag 31 2 none) }).core.wait = some (.flag 31 2 none) ∧
      2 ≤ ((alone .C fun c => { c with flag := c.flag.set 31 2 }).core.flag[(31 : Fin 32)]).toNat ∧
      ((alone .C).core.flag[(31 : Fin 32)]).toNat < 1) ∧
    (alone .C fun c => { c with wait := some (.yielding none) }).core.wait = some (.yielding none) ∧
    ((alone .C fun c => { c with hold := some (.phaseRead 0x30000) }).ctx.live = true ∧
      ∃ pl, (alone .C).ctxRead (alone .C).ctx 0x30000 = .ok pl ∧ (((alone .C).ctxTouch 0x30000 true false).letIn pl).isSome = true) ∧
    (let s : State := { alone .C with parts := [{ part with budgetEn := true }], budgetUse := [(1, 2000000)] }
     ∃ pl, s.ctxRead s.ctx 0x30000 = .ok pl ∧ ((s.ctxTouch 0x30000 true false).letIn pl).isNone = true) ∧
    ((alone .C).parts = [part] ∧ part.pid = (alone .C).ctx.pid ∧ part.handles = [] ∧ part.whtBusy = none ∧ (alone .C).others = [] ∧
      (alone .C fun c => { c with hold := some (.handleFetch 2) }).core.hold = some (.handleFetch 2)) ∧
    (let s := alone .C fun c => { c with wait := some (.flag 31 2 (some 1)) }
     s.waitMet = false ∧ s.waitEntry = some (0, 3, 63) ∧ s.ctx.slot < 4096 ∧ (∀ e ∈ s.waitfor, e.1 ≠ s.waitKey) ∧
       (∃ e ∈ ({ s with waitfor := [(s.waitKey, 0)] } : State).waitfor, e.1 = s.waitKey)) ∧
    (let l : List (Nat × BitVec 128) := List.replicate 4096 (0, 0)
     (∀ e ∈ l, e.1 ≠ (alone .C).waitKey) ∧ (l.filter fun e => e.1 / 2 ^ 24 == (alone .C).waitKey / 2 ^ 24).length = 4096) ∧
    (alone .C).left = [] ∧ (alone .C).right = [] := by
  refine ⟨by decide, rfl, ⟨rfl, ok_and (by decide +kernel)⟩, ok_and (by decide +kernel), ⟨rfl, rfl, rfl, rfl, rfl, rfl⟩, by decide +kernel, ⟨?_, ?_⟩, rfl, rfl⟩
  · intro e he
    rw [List.eq_of_mem_replicate he]
    decide
  · rw [List.filter_replicate]
    decide +kernel

/-! ## Kites and launch slots -/

/-- A packet of the context of slot n, its barrier at VA 0x30040. -/
def packet (n : Nat) (abandoned : Bool) : Packet :=
  { kctx := 2, seq := 0x10007, slot := n, asid := 5, px := 0, py := 0, issue := 4, bytes := [], cbar := 0x30040, faulted := false, abandoned := abandoned }

/-- The kite of socket 0 with packets and a QUIESCE outstanding until the time given; a barrier of scope 1 and one arrival at VA 0x30040. -/
def kited (l : List Packet) (until_ : Nat) : State :=
  { machine .D with
    socks := [{ Socket.empty with present := true, link := true, packets := l, quiesce := [(2, until_)] }, Socket.empty]
    dram := Mem.wrList tables (place 0x40040 (toLe 16 (barInit 0x100001#64).toNat)) }

def answered : BarDone → Bool
  | .ok _ => true
  | _ => false

theorem answered_ok {x : BarDone} (h : answered x = true) : ∃ t, x = .ok t := by
  cases x <;> simp_all [answered]

theorem witness_KiteEvents :
    (let s := kited [packet 3 false] 9
     (s.sock 0).present = true ∧ (s.sock 0).frozen = false ∧ s.packetOf 0 2 8 = none ∧ s.packetOf 0 2 7 = some (packet 3 false) ∧
       (packet 3 false).cbar ≠ 16 ∧ (packet 3 false).cbar = 0x30040 ∧ (packet 3 false).abandoned = false ∧ (packet 3 false).faulted = false ∧
       s.ctx.live = true ∧ s.ctx.slot = 3 ∧ (∃ d, (2, d) ∈ (s.sock 0).quiesce) ∧
       (∀ x ∈ [7], ∃ q ∈ (s.sock 0).packets.filter (fun q => q.kctx == 2 && q.ending.isNone), q.seq % 65536 = x) ∧
       (∀ q ∈ (s.sock 0).packets.filter (fun q => q.kctx == 2 && q.ending.isNone), q.seq % 65536 ∈ [7]) ∧ (∀ q ∈ (s.sock 0).quiesce, s.now < q.2)) ∧
    ((kited [packet 3 false] 9).endingPacket 0 2 8 5 = none ∧ (kited [packet 3 false] 9).arriveHeld (packet 3 false) 7 0 = false ∧
      ({ kited [packet 3 false] 9 with parts := [{ part with budgetEn := true }], budgetUse := [(1, 2000000)] } : State).arriveHeld (packet 3 false) 7 0 = true) ∧
    (∃ t, (((kited [packet 3 false] 9).touch 5 7 ((BarUpd.kite 0).asked 0x30040 true)).withSlot 3 fun s =>
      (s.barLetIn 5 7 0x30040 true (.kite 0)).getD s).barAt 5 (((kited [packet 3 false] 9).partOfSlot 3).map (·.pid) |>.getD 0) 0x30040 true (.kite 0) =
        .ok t) ∧
    (∃ q ∈ ((kited [] 0).sock 0).quiesce, q.2 ≤ (kited [] 0).now) ∧
    (let s := kited [packet 4 false] 9
     s.packetOf 0 2 7 = some (packet 4 false) ∧ s.hasCtx 4 = false ∧
       (let u := s.touchAll 5 (((s.partOfSlot 4).map (·.pid)).getD 0) (.tether 0x30020 false) 4
        ∃ l, u.tetherPlaces 5 (((s.partOfSlot 4).map (·.pid)).getD 0) false 0x30020 4 = .ok l ∧
         (!l.isEmpty && l.all fun pl => !pl.bad && !u.poisoned pl) = true) ∧
       (let u := s.touchAll 5 (((s.partOfSlot 4).map (·.pid)).getD 0) (.tether 0x30020 true) 4
        ∃ l, u.tetherPlaces 5 (((s.partOfSlot 4).map (·.pid)).getD 0) true 0x30020 4 = .ok l ∧ (!l.isEmpty && l.all fun pl => !pl.bad) = true) ∧
       ((s.touchAll 5 7 (.tether 0x50000 false) 4).tetherPlaces 5 (((s.partOfSlot 4).map (·.pid)).getD 0) false 0x50000 4).toBool = false) := by
  refine ⟨⟨by decide, by decide, by decide, by decide, by decide, by decide, by decide, by decide, by decide, by decide, ⟨9, by decide⟩, by decide,
    by decide, by decide⟩, ⟨by decide, by decide +kernel, by decide +kernel⟩, answered_ok (by decide +kernel), by decide, by decide, by decide,
    ok_and (by decide +kernel), ok_and (by decide +kernel), by decide +kernel⟩

/-- A write of a packet that waits at its socket; a request that a region's budget holds. -/
def tetherWrite : TetherReq := { sock := 0, kctx := 2, seq16 := 7, asid := 5, va := 0x30020, write := some [1, 2], len := 2, wellFormed := true }

theorem witness_KiteEvents_waits :
    (let s : State := { kited [packet 3 false] 9 with
       socks := [{ Socket.empty with present := true, link := true, packets := [packet 3 false], tether := [(tetherWrite, 0)] }, Socket.empty] }
     (s.sock 0).present = true ∧ (s.sock 0).frozen = false ∧ s.packetOf 0 2 7 = some (packet 3 false) ∧ s.writesWait 0 (packet 3 false) = true) ∧
    (kited [packet 3 false] 9).writesWait 0 (packet 3 false) = false ∧
    (let s : State := { kited [packet 3 false] 9 with parts := [{ part with budgetEn := true }], budgetUse := [(1, 2000000)] }
     ∃ l, s.tetherPlaces 5 7 true 0x30020 2 = .ok l ∧ (!(s.tetherPays tetherWrite (packet 3 false) l).2) = true) := by
  refine ⟨by decide +kernel, by decide +kernel, ok_and (by decide +kernel)⟩

/-- Launch slot 4 of the partition, in a state. -/
def slot4 (f : LSlot → LSlot) : State := { machine .C with slots := [f { n := 4 }], asids := [(0, 7, 1)] }

/-- A small image with nothing to load. -/
def smallImage : Image := { image with w := 1, h := 1, ovls := [], channels := 1 }

/-- Slot 4 armed with a small image at VA 0x30000, of which only the header stands. -/
def armable : State :=
  { machine .C with
    slots := [{ n := 4, st := .armed, record := Mem.wrList [] (place 8 (toLe 8 0x30000) ++ place 0x10 [5] ++ place 0x14 [1, 1]) }]
    dram := Mem.wrList tables (place 0x40000 (toLe 10 (0x314B564F + 2 ^ 32 + 0x0101 * 2 ^ 64))) }

/-- Slot 4 after its checks. -/
def checkedSlot : LSlot := { armable.slotAt 4 with checked := true, chosen := 0x30000 }

/-- A function's write that waits at the arbiters, and functions that it holds up or not; the image of a slot, of whose two clauses one applies to every
state; no dependence, and one whose barrier cannot be walked to; a running context with its region. -/
theorem witness_SlotCommands_order :
    (let w : HostReq := { fn := 5, gpa := 0, write := some [1], len := 1 }
     let s : State := { machine .C with hostWaits := [(w, 0)] }
     (s.fn 5).frozen = false ∧ s.hostWrites (fun r => portOf r.fn == portOf 5) = true ∧ s.hostWrites (fun r => portOf r.fn == portOf 64) = false ∧
       s.hostWrites (·.fn == 5) = true) ∧
    (let s := machine .C
     (s.slotAt 3).st = .running ∧ s.hasCtx 3 = true ∧ s.region (s.slotAt 3).rid = some region ∧ s.pressed 3 = false ∧ s.ctx.live = true ∧ s.ctx.slot = 3) ∧
    (∀ v : State, (∃ z, v.armLoad part checkedSlot = .ok z) ∨ ∃ r, v.armLoad part checkedSlot = .error r) ∧
    (∀ w : State, w.lookDep (armable.slotAt 4) 0 = .ok true ∧ w.lookDep (armable.slotAt 4) 1 = .ok true) ∧
    (let x : LSlot := { armable.slotAt 4 with record := (armable.slotAt 4).record.wrN 0x28 8 0x50000 }
     (armable.lookDep x 0).toBool = false) := by
  refine ⟨by decide +kernel, by decide +kernel, fun v => ?_, fun _ => ⟨rfl, rfl⟩, by decide +kernel⟩
  cases v.armLoad part checkedSlot with
  | ok z => exact .inl ⟨z, rfl⟩
  | error r => exact .inr ⟨r, rfl⟩

def isPlan (s : State) (x : LSlot) (p : Part) : Attempt → Bool
  | .plan i q => (s.bringIn x p i q).toBool
  | _ => false

theorem plan_of {s : State} {x : LSlot} {p : Part} {a : Attempt} (h : isPlan s x p a = true) : ∃ i q u, a = .plan i q ∧ s.bringIn x p i q = .ok u := by
  cases a with
  | plan i q =>
    cases hu : s.bringIn x p i q with
    | ok u => exact ⟨i, q, u, rfl, hu⟩
    | error f => simp [isPlan, hu, Except.toBool] at h
  | reject r => simp [isPlan] at h
  | pass i => simp [isPlan] at h

theorem witness_SlotCommands :
    (({ machine .C with fns := [{ n := 5, pid := some 7, frozen := true }] } : State).fn 5).frozen = true ∧
    (slot4 fun x => x).Reaches 5 4 ∧ ((slot4 fun x => x).slotAt 4).st = .free ∧
    (((slot4 fun x => { x with st := .writing, wfn := 5 }).slotAt 4).st = .writing ∧ ((slot4 fun x => { x with st := .writing, wfn := 5 }).slotAt 4).wfn = 5) ∧
    (∀ st ∈ [SlotSt.free, .writing, .armed, .ready, .placed, .running, .suspending, .suspended, .retiring, .retired, .faulted],
      ((slot4 fun x => { x with st := st }).slotAt 4).st = st ∧ (slot4 fun x => { x with st := st }).hasCtx 4 = false ∧
        ((slot4 fun x => { x with st := st }).slotAt 4).cbar = 0) ∧
    (machine .C).hasCtx 3 = true ∧ ((machine .C).slotAt 3).st = .running ∧
    (let x := (slot4 fun x => { x with st := .armed, checked := true, dep0 := true, dep1 := true, hreq := true }).slotAt 4
     x.checked = true ∧ x.dep0 = true ∧ x.dep1 = true ∧ x.wanted = true) ∧
    (∃ p, (slot4 fun x => x).partOfSlot 4 = some p ∧
      (((slot4 fun x => { x with st := .armed }).armTouch p ((slot4 fun x => { x with st := .armed }).slotAt 4)).armCheck p
        ((slot4 fun x => { x with st := .armed }).slotAt 4)).toBool = false) ∧
    (let s := armable
     let u := s.armTouch part (s.slotAt 4)
     s.partOfSlot 4 = some part ∧ (s.slotAt 4).st = .armed ∧ (s.slotAt 4).checked = false ∧ (u.armCheck part (s.slotAt 4)).toOption = some 0x30000 ∧
       (u.lookDep (s.slotAt 4) 0).toOption = some true ∧ (u.lookDep (s.slotAt 4) 1).toOption = some true) ∧
    (let s := slot4 fun x => { x with st := .ready }
     s.partOfSlot 4 = some part ∧ part.placing (s.slotAt 4) = true ∧ (s.passOrder part).head? = some (s.slotAt 4) ∧
       (s.slotAt 4).image = none ∧ (s.imageTouch (s.slotAt 4) part).attempt part (s.slotAt 4) = .reject (6, none) ∧
       (s.saved.any fun r => r.ctx.slot == 4) = false) ∧
    (let s := slot4 fun x => { x with st := .ready, image := some smallImage }
     s.attempt part (s.slotAt 4) = .pass smallImage ∧ part.placing (s.slotAt 4) = true ∧ (s.passOrder part).head? = some (s.slotAt 4)) ∧
    (let s : State := { slot4 fun x => { x with st := .ready, image := some smallImage } with regions := [{ region with w := 1, h := 1 }] }
     s.partOfSlot 4 = some part ∧ part.placing (s.slotAt 4) = true ∧ (s.passOrder part).head? = some (s.slotAt 4) ∧
       ∃ i q u, s.attempt part (s.slotAt 4) = .plan i q ∧ s.bringIn (s.slotAt 4) part i q = .ok u) := by
  refine ⟨by decide, ?_, by decide, by decide, by decide, by decide, by decide, by decide, ⟨part, rfl, by decide +kernel⟩, by decide +kernel,
    by decide +kernel, by decide +kernel, by decide +kernel, by decide +kernel, by decide +kernel, plan_of (by decide +kernel)⟩
  unfold State.Reaches
  decide

/-! ## Regions, functions and partitions -/

/-- An answer that is there, with what it satisfies, from an evaluation. -/
theorem some_and {α : Type} {x : Option α} {f : α → Bool} (h : x.map f = some true) : ∃ y, x = some y ∧ f y = true := by
  cases x with
  | none => simp at h
  | some y => exact ⟨y, rfl, by simpa using h⟩

/-- A second context of the region, of a higher EPRIO, while the first stands at a safe point. -/
def two : State :=
  { machine .C with
    ctx := { context with safeList := some 0 }
    others := [{ ctx := { context with slot := 4, ctxid := 2, eprio := 6 }, isles := [Isle.start 0 0 64, Isle.start 1 0 64, Isle.start 0 1 64, Isle.start 1 1 64] }]
    slots := [{ n := 3, st := .running }, { n := 4, st := .placed }] }

/-- The context of one isle in slot 3, its slot in a state, its save area at a VA. -/
def one (st : SlotSt) (cs : CState) (save : Nat) : State :=
  { alone .C with
    ctx := { context with image := { image with w := 1, h := 1 }, cstate := cs }
    slots := [{ n := 3, st := st, rid := 1, ctx := 1, image := some image, record := Mem.wrList [] (place 0x38 (toLe 8 save)) }]
    regions := [{ region with w := 1, h := 1, switchReq := true }] }

/-- Of the two clauses on the save area one applies to every state; VA 0 has no page here. -/
theorem witness_RegionEvents :
    (two.region 1 = some region ∧ two.mayChoose region = true ∧ (∀ c ∈ region.cells, c ∉ two.waking) ∧
      (∃ c, two.choose region = some c ∧ (decide (some c.ctxid ≠ region.act) && (two.slotAt c.slot).st == .placed) = true) ∧
      (∀ d ∈ two.residents region.rid, d.sig = none)) ∧
    (let s : State := { two with ctx := { context with live := false }, others := [] }
     s.mayChoose region = true ∧ s.choose region = none) ∧
    (let s := one .suspending .issuing 0
     s.ctx.live = true ∧ s.ctx.slot = 3 ∧ (s.slotAt 3).st = .suspending ∧ (s.slotAt 3).rid = s.ctx.rid ∧ s.ctx.cstate ≠ .suspending ∧ s.selected = true ∧
       s.atSafePoint = false) ∧
    ({ one .suspending .issuing 0 with regions := [{ region with act := none }] } : State).selected = false ∧
    (let s := one .suspending .suspending 0
     (s.slotAt 3).dying = none ∧ s.quietForSave = true ∧ (s.writeSave (s.slotAt 3).save).2 = false) ∧
    (let s := one .running .issuing 0
     (s.slotAt 3).st = .running ∧ s.left = [] ∧ s.right = [] ∧ s.others = [] ∧ s.selected = true ∧ s.requested = true ∧ s.atSafePoint = false ∧
       s.ctx.overdue = 0 ∧ s.core.handler = false ∧ s.core.spoilt 3 3072 32 = false ∧ (s.slotAt 3).dying = none ∧ s.ctx.kctx0 = none ∧
       s.ctx.kctx1 = none ∧ (s.slotAt 3).cbar = 0) ∧
    (let s : State := { one .running .issuing 0 with core := { Isle.start 0 0 64 with ended := true } }
     s.allEnded = true ∧ s.drained = true ∧ (∀ c ∈ s.isles, c.handler = false) ∧ s.ctx.faults = []) ∧
    (let s : State := { State.reset with slots := [{ n := 3, st := .suspended, dreq := true }] }
     (s.slotAt 3).st = .suspended ∧ s.checkpointing 3 = false ∧ (s.slotAt 3).dreq = true ∧ (s.slotAt 3).hreq = false ∧ (s.slotAt 3).greq = false ∧
       s.hasCtx 3 = false ∧ (s.saved.any fun r => r.ctx.slot == 3) = false) ∧
    (let s : State := { State.reset with saved := [{ ctx := { context with slot := 3 }, isles := [] }] }
     s.hasCtx 3 = false ∧ (s.saved.any fun r => r.ctx.slot == 3) = true ∧ (s.slotAt 3).cbar = 0) ∧
    ({ alone .C with core := { Isle.start 0 0 64 with handler := true } } : State).core.handler = true := by
  refine ⟨⟨by decide, by decide +kernel, by decide, some_and (by decide +kernel), by decide⟩, by decide +kernel, by decide, by decide, by decide +kernel,
    by decide +kernel, by decide +kernel, by decide, by decide, rfl⟩

/-- A partition with weight handles whose table lies at GPA 0x40800; the machine with an entry 2 there, its tile at VA 0x30100, and slot 3
suspended with a saved context at VA 0x30000. -/
def handles : Part := { part with whtBase := 0x40800, whRes := 65536, whtBusy := some 2#64 }

def hosted : State :=
  { machine .D with
    parts := [handles], fns := [{ n := 0, pfsel := 7 }, { n := 5, pid := some 7, dbgSlot := 3, coalescing := true }]
    slots := [{ n := 3, st := .suspended, savedMid := true, image := some image, record := Mem.wrList [] (place 0x10 [5] ++ place 0x38 (toLe 8 0x30000)) }]
    dram := Mem.wrList tables (place 0x40100 ({ kind := 0, efd := 0x908, rows := 2, cols := 3 } : Hdr).packed.image ++
      place 0x40880 (toLe 64 (1 + 5 * 2 ^ 112 + 0x30100 * 2 ^ 128))) }

theorem some_length {α : Type} {x : Option (List α)} {n : Nat} (h : x.map (·.length) = some n) : ∃ l, x = some l ∧ l.length = n := by
  cases x with
  | none => simp at h
  | some l => exact ⟨l, rfl, by simpa using h⟩

theorem witness_FunctionRegisters :
    (let s := machine .D
     s.Hears 5 ∧ s.Hears 0 ∧ isPf 5 = false ∧ isPf 0 = true ∧ (s.fn 5).drop = false ∧ (s.fn 5).frozen = false ∧ s.actsOn 0 = some part ∧
       s.actsOn 5 = some part ∧ s.isLocked part = false ∧ part.featOpen = true ∧ (0x123400000005#64).extractLsb' 48 15 = 0 ∧ part.asidBase ≤ 15 ∧
       15 < part.asidBase + part.asidCnt ∧ part.asidBase + part.asidCnt ≤ 16 ∧
       (s.slots.any fun y => y.st != .free && LSlot.asid y == 5 && decide (part.slotBase ≤ y.n ∧ y.n < part.slotBase + part.slotCnt)) = false ∧
       s.badInvalidation 5 part 5 = false ∧ s.badInvalidation 5 part 16 = true ∧ s.partOfSlot 3 = some part ∧ s.window 5 = none) ∧
    (let s : State := { machine .D with fns := [{ n := 5, frozen := true, drop := true }] }
     (s.fn 5).frozen = true ∧ (s.fn 5).drop = true) ∧
    (((machine .D).fn 5).mask[(3 : Fin 4)] = false ∧
      (({ machine .D with fns := [{ n := 5, mask := Vector.replicate 4 true }] } : State).fn 5).mask[(3 : Fin 4)] = true ∧
      (hosted.fn 5).mask[(0 : Fin 4)] = false) ∧
    ((hosted.fn 5).coalescing = true ∧ (hosted.fn 5).coalAt ≤ hosted.now ∧ (hosted.fn 5).frozen = false) ∧
    (let s := hosted
     s.Hears 5 ∧ s.actsOn 5 = some handles ∧ (∃ y, s.window 5 = some y ∧ (s.writeVa y.1 y.2.1 (y.2.2 + 10239) [1]).2.isNone = true)) ∧
    (let s := machine .D
     let r : HostReq := { fn := 5, gpa := 0x10000, write := none, len := 4, stream := 0 }
     s.part 7 = some part ∧ s.wrongStream r = false ∧
       ({ s with fns := [{ n := 5, pid := some 7, tdisp := .run, stream := 1 }] } : State).wrongStream r = true ∧
       (∃ l, s.gpaPlaces part false 0x10000 4 = some l ∧ (l.all fun pl => !s.poisoned pl) = true) ∧
       (∃ l, s.gpaPlaces part true 0x10000 4 = some l ∧ l.length = 4) ∧
       (∃ l, s.gpaPlaces part false 0x10000 4 = some l ∧ (l.any fun pl => ({ s with dpoison := [2048] } : State).poisoned pl) = true) ∧
       s.gpaPlaces part false (6 * 2 ^ 45) 4 = none) ∧
    (∀ e ∈ hosted.asids, e.1 = 7 → e.2.1 ≠ 7) ∧
    (hosted.part 7 = some handles ∧ handles.whtBusy = some 2#64 ∧ hosted.handleInUse 7 2 = false ∧ (2#64).extractLsb' 62 2 = 0 ∧
      (∃ h, hosted.loadHandle handles 2 = .ok h ∧ h.1.valid = true) ∧ (hosted.loadHandle handles 3).toBool = false ∧
      (0x4000000000000002#64).extractLsb' 62 2 ≠ 0 ∧ 2 < handles.handleCount) := by
  have h5 : (machine .D).Hears 5 := by unfold State.Hears; decide
  have h0 : (machine .D).Hears 0 := by unfold State.Hears; decide
  have hh : hosted.Hears 5 := by unfold State.Hears; decide +kernel
  refine ⟨⟨h5, h0, by decide +kernel⟩, by decide, by decide +kernel, by decide +kernel, ⟨hh, by decide +kernel, some_and (by decide +kernel)⟩,
    ⟨by decide, by decide, by decide, some_and (by decide +kernel), some_length (by decide +kernel), some_and (by decide +kernel), by decide +kernel⟩, by decide, by decide +kernel, by decide, by decide +kernel, by decide, ok_and (by decide +kernel),
    by decide +kernel, by decide, by decide⟩

/-- The register block: a read and a write of it, an RSWIN read of a good sector and of a bad one; signals pending, of a masked vector and of an
unmasked one; requests that pass their arbiters and requests that wait. -/
theorem witness_FunctionRegisters_block :
    (let r : HostReq := { fn := 5, bar := true, gpa := 0x12000, write := none, len := 8 }
     (hosted.fn 5).frozen = false ∧ hosted.wrongStream r = false ∧ 0x12000 ≤ r.gpa / 8 * 8 ∧ r.gpa / 8 * 8 < 0x14800 ∧ hosted.window 5 = some (5, 7, 0x30000) ∧
       ((hosted.touchVa 5 7 0x30000 8).readVa 5 7 0x30000 8).toBool = true ∧ (hosted.touchVa 5 7 0x30000 8).window 5 = hosted.window 5 ∧
       (let s : State := { hosted with dpoison := [0x40000 / 32] }
        ((match (s.touchVa 5 7 0x30000 8).readVa 5 7 0x30000 8 with | .error (.ecc _ _) => true | _ => false) = true))) ∧
    ((machine .D).window 5 = none ∧ (0x8 : Nat) / 8 * 8 < 0x12000) ∧
    (let s : State := { machine .D with fns := [{ n := 5, pend := (Vector.replicate 4 false).set 2 true, mask := (Vector.replicate 4 false).set 3 true }] }
     (s.fn 5).coalescing = false ∧ (s.fn 5).frozen = false ∧ (s.fn 5).pend[(2 : Fin 4)] = true ∧ (s.fn 5).mask[(2 : Fin 4)] = false) ∧
    (let s : State := { machine .D with fns := [{ n := 5, pend := Vector.replicate 4 true, mask := Vector.replicate 4 true }] }
     ∀ k : Fin 4, (s.fn 5).pend[k] = true → (s.fn 5).mask[k] = true) ∧
    (machine .D).hostWrites (·.fn == 5) = false ∧
    (let s := machine .D
     let r : HostReq := { fn := 5, gpa := 0x10000, write := none, len := 4 }
     r.bar = false ∧ (∃ l, s.gpaPlaces part false 0x10000 4 = some l ∧ (s.hostPays r l).2.2 = true) ∧
       ∃ l, s.gpaPlaces part false 0x10000 4 = some l ∧ (!(({ s with temps := [(0, 105)], budgetUse := [(1024, 500000), (4096, 500000)] } : State).hostPays r l).2.2) = true) := by
  refine ⟨by decide +kernel, by decide +kernel, by decide +kernel, by decide, by decide, rfl, some_and (by decide +kernel), some_and (by decide +kernel)⟩

/-- A descriptor of 256 bytes of a partition with one channel, sixteen slots from 32 on and the virtual function 6. -/
def descriptor : List Byte := toLe 256 (2 ^ (8 * 0x50 + 1) + 32 * 2 ^ (8 * 0x9C) + 16 * 2 ^ (8 * 0x9E) + 2 ^ (8 * 0xC8 + 6))

theorem witness_PartitionCommands :
    (let s := machine .D
     isPf 0 = true ∧ (s.fn 0).partBusy = none ∧ s.createFault (Part.ofDesc 8 0 descriptor) descriptor = none ∧ s.retiredFrames = [] ∧
       (∃ q ∈ s.parts, q.pid = 7) ∧ s.createFault (Part.ofDesc 7 0 descriptor) descriptor = some 1 ∧ s.part 8 = none) ∧
    (let s : State := { State.reset with parts := [part], fns := [{ n := 0, partBusy := some (2, 7) }] }
     s.part 7 = some part ∧ s.shareSlots part = [] ∧ (s.fn 0).partBusy = some (2, 7) ∧ 2 ≠ 0 ∧ ∀ c ∈ s.allCtx, c.pid ≠ 7) ∧
    (let s : State := { machine .D with fns := [{ n := 0, partBusy := some (2, 7) }] }
     ∃ c ∈ s.allCtx, c.pid = 7) := by
  refine ⟨by decide +kernel, by decide, context, by decide, rfl⟩

/-! ## Checkpoints, the device, security -/

theorem readGpa_ok (s : State) (p : Part) (h : s.dpoison = []) :
    ∀ n gpa, (∀ a, gpa ≤ a → a < gpa + n → ∃ pl, s.stage2 p a true false = .ok pl ∧ pl.bad = false) → ∃ l, s.readGpa p gpa n = .ok l := by
  intro n
  induction n with
  | zero => exact fun _ _ => ⟨[], by simp [State.readGpa]⟩
  | succ n ih =>
    intro gpa ha
    obtain ⟨pl, hp, hb⟩ := ha gpa (by omega) (by omega)
    obtain ⟨l, hl⟩ := ih (gpa + 1) fun a h1 h2 => ha a (by omega) (by omega)
    have hq : s.poisoned pl = false := by simp [State.poisoned, h, hb]
    exact ⟨s.devRead pl 1 ++ l, by simp [State.readGpa, hp, hq, hl]⟩

/-- The stage-2 walk looks at a page, not at the byte in it. -/
theorem walk2_page (p : Part) (die a b : Nat) (h : a / 65536 = b / 65536) : ∀ n lvl f, p.walk2 die a n lvl f = p.walk2 die b n lvl f := by
  have hf (x k n : Nat) : fld x (16 + k) n = fld (x / 65536) k n := by simp [fld, Nat.pow_add, Nat.div_div_eq_div_mul]
  have h1 : fld a 42 3 = fld b 42 3 := by rw [hf a 26, hf b 26, h]
  have h2 : fld a 29 13 = fld b 29 13 := by rw [hf a 13, hf b 13, h]
  have h3 : fld a 16 13 = fld b 16 13 := by rw [hf a 0, hf b 0, h]
  have hl (lvl f) : p.look2 die a lvl f = p.look2 die b lvl f := by simp only [Part.look2, h1, h2, h3]
  intro n
  induction n with
  | zero => intro lvl f; simp only [Part.walk2, hl]
  | succ n ih => intro lvl f; simp only [Part.walk2, hl, ih]

/-- Page 1 of a partition whose leaf for it is the one of `part`. -/
theorem stage2_low (s : State) (p : Part) (h : p.walk2 0 65536 2 0 (p.s2root.getD 0 0) = .ok (2, part.leafAt 0 1, 0x1000F)) (hc : p.chans = [0]) (a : Nat)
    (h1 : 65536 ≤ a) (h2 : a < 131072) : ∃ pl, s.stage2 p a true false = .ok pl ∧ pl.bad = false := by
  have hd : a / 35184372088832 % 8 = 0 := by omega
  have hr : a % 35184372088832 = a := by omega
  have hw : p.walk2 0 (a % 35184372088832) 2 0 (p.s2root.getD 0 0) = .ok (2, part.leafAt 0 1, 0x1000F) := by
    rw [hr, walk2_page p 0 a 65536 (by omega), h]
  have hf : fld 65551 16 24 = 1 := by decide
  have hb : bit 65551 2 = true := by decide
  have hk : (65536 + a % 65536) / 2147483648 = 0 := by omega
  have hl : 65536 + a % 65536 < 137438953472 := by omega
  unfold State.stage2
  simp only [show a / 2 ^ 45 % 8 = 0 from hd, show a % 2 ^ 45 = a % 35184372088832 from rfl, hw]
  simp [hf, hb, State.populated, Part.owns, Part.given, channelAt, hc, hk, hl, hr]

/-- A command of a checkpoint or a restore at a phase, on page 1. -/
def ckpt (op phase : Nat) (d : List Byte) : Ckpt :=
  { op := op, fn := 5, desc := d, phase := phase, page := 1, entries := [], store := 0, since := 0, manifest := [] }

/-- A descriptor of one replica of rank 0 in group 1 (R404), at GPA 0x10100. -/
def ckptDesc : List Byte := toLe 256 (2 ^ (8 * 0x2C) + 2 ^ (8 * 0x28))

def ckptState (c : Option Ckpt) (good : Bool) : State :=
  { State.reset with
    parts := [{ part with ckptAddr := 0x10100, ckpt := c }], fns := [{ n := 5, pid := some 7 }]
    dram := Mem.wrList [] (place 0x10100 (if good then ckptDesc else [])) }

theorem witness_CheckpointEvents :
    ((ckptState none true).Hears 5 ∧ (∃ p, (ckptState none true).actsOn 5 = some p ∧
      (decide ((ckptState none true).part p.pid = some p) && p.ckpt.isNone && ((ckptState none true).shareSlots p).isEmpty &&
        ((((ckptState none true).onPart p.pid fun p => { p with ckptPages := 0 }).touchGpa p p.ckptAddr 256).readGpa p p.ckptAddr 256).toOption.any
          fun d => !descBad p d) = true) ∧
      (∃ p, (ckptState none false).actsOn 5 = some p ∧
        (((((ckptState none false).onPart p.pid fun p => { p with ckptPages := 0 }).touchGpa p p.ckptAddr 256).readGpa p p.ckptAddr 256).toOption.any
          fun d => descBad p d) = true)) ∧
    (∃ p, (ckptState (some (ckpt 0 0 ckptDesc)) true).part 7 = some p ∧
      (decide (p.ckpt = some (ckpt 0 0 ckptDesc)) && (ckptState (some (ckpt 0 0 ckptDesc)) true).partQuiet p) = true) ∧
    (let s := ckptState (some (ckpt 0 1 ckptDesc)) true
     ∃ p, s.part 7 = some p ∧ p.ckpt = some (ckpt 0 1 ckptDesc) ∧ p.pageAt 1 = some 1 ∧ (∃ pl, s.stage2 p (1 * 65536) true false = .ok pl ∧ (!s.awaitsZero pl) = true) ∧
       (∃ l, s.readPage p 1 = .ok l) ∧ inRanges ckptDesc 1 = none) ∧
    (let s := ckptState (some { ckpt 0 1 ckptDesc with page := 9 }) true
     ∃ p, s.part 7 = some p ∧ p.pageAt 9 = some 9 ∧ ∃ pl, s.stage2 p (9 * 65536) true false = .ok pl ∧ s.awaitsZero pl = true) ∧
    (let s := ckptState (some { ckpt 1 0 ckptDesc with ends := some none }) true
     s.allCtx = [] ∧ (∀ x ∈ s.allCtx, x.pid ≠ 7)) ∧ (∃ x ∈ (machine .D).allCtx, x.pid = 7) ∧
    ((machine .D).replicasMeet part = true ∧ le8 (toLe 8 5) 0 = (5#64).toNat ∧ ((machine .D).touchPage part 0).dram.wf = true) ∧
    (let s := ckptState (some (ckpt 1 0 ckptDesc)) true
     ∃ p, s.part 7 = some p ∧ p.ckpt = some (ckpt 1 0 ckptDesc) ∧ (ckpt 1 0 ckptDesc).ends = none ∧
       ((∃ r, (s.touchGpa p (le8 ckptDesc 0x20) 128).checkManifest p ckptDesc = .error r) ∨
         ∃ l, (s.touchGpa p (le8 ckptDesc 0x20) 128).checkManifest p ckptDesc = .ok l)) ∧
    (let s := machine .D
     0 ∉ s.frozenLinks ∧ 0 ∉ s.badLinks ∧ s.ownerOfLink 5 = none ∧ s.ownerOfLink 0 = some part ∧ part.holdsGroup 9 = false ∧ part.holdsGroup 3 = true ∧
       part.featAccept.testBit 1 = true ∧ part.asidBase ≤ 5 ∧ 5 < part.asidBase + part.asidCnt ∧
       (s.translate 5 7 (.ctx 0x30020 false true)).toOption.map (·.bad) = some false) := by
  refine ⟨⟨?_, some_and (by decide +kernel), some_and (by decide +kernel)⟩, some_and (by decide +kernel), ⟨_, rfl, rfl, by decide +kernel, ?_, ?_,
    by decide +kernel⟩, ⟨_, rfl, by decide +kernel, ok_and (by decide +kernel)⟩, by decide, ⟨context, by decide, rfl⟩, by decide +kernel,
    ⟨_, rfl, rfl, rfl, ?_⟩, by decide +kernel⟩
  · unfold State.Hears
    decide +kernel
  · exact ok_and (by decide +kernel)
  · exact readGpa_ok _ _ rfl _ _ fun a h1 h2 => stage2_low _ _ (by decide +kernel) rfl a (by omega) (by omega)
  · cases State.checkManifest _ _ _ with
    | error r => exact .inl ⟨r, rfl⟩
    | ok l => exact .inr ⟨l, rfl⟩

theorem witness_DeviceEvents :
    (let s := machine .D
     (s.errs.filter fun e => e.1 == ErrUnit.isle 0 0 0 && decide (s.now - e.2 ≤ 2000000000)).length < 7 ∧ (∀ r ∈ s.regions, (0, 5, 5) ∉ r.cells) ∧
       (0, 5, 5) ∉ s.gated ∧ (0, 5, 5) ∉ s.waking ∧ (∃ r ∈ s.regions, (0, 1, 1) ∈ r.cells) ∧ s.frameExists 6 0 = false ∧ s.frameExists 0 0 = true ∧
       (∃ pl, s.placeOf 0 0 = some pl ∧ (s.awaitsZero pl && !pl.big) = true)) ∧
    ((List.replicate 7 (ErrUnit.isle 0 0 0, 0)).filter fun e => e.1 == ErrUnit.isle 0 0 0 && decide (0 - e.2 ≤ 2000000000)).length = 7 ∧
    (1 < 2 ∧ (1, 2) ∈ [(1, 2), (2, 1)] ∧ (2, 1) ∈ [(1, 2), (2, 1)]) ∧ State.reset.frameExists 5 0x3FFFFF = true ∧ State.reset.parts = [] ∧
    (∀ g ∈ ({ State.reset with lastWalk := [] } : State).lastWalk, g ∉ State.reset.lastWalk) := by
  refine ⟨⟨by decide, by decide, by decide, by decide, ⟨region, by decide, by decide⟩, by decide, by decide, some_and (by decide +kernel)⟩, by decide +kernel,
    by decide, by decide, rfl, by decide⟩

/-- Whether a signature verifies is opaque: of the two clauses on an image one applies to each. -/
theorem witness_SecurityEvents :
    (let s := machine .D
     0 ∉ s.frozenLinks ∧ (s.fn 5).tdisp = .unlocked ∧ (s.fn 5).frozen = false ∧ isPf 5 = false ∧ (s.fn 5).pid ≠ none ∧
       (∃ p, (s.fn 5).pid = some 7 ∧ s.part 7 = some p) ∧ isPf 64 = true) ∧
    (let s : State := { machine .D with frozenLinks := [0], fns := [{ n := 5, pid := some 7, tdisp := .locked }] }
     0 ∈ s.frozenLinks ∧ (s.fn 5).tdisp = .locked ∧ (s.fn 5).frozen = false) ∧
    ((machine .D).part 7 = some part ∧ ((machine .D).fn part.pf).evprod < ((machine .D).fn part.pf).evcons + 64 ∧
      (let s : State := { machine .D with fns := [{ n := 0, evprod := 64 }] }
       s.part 7 = some part ∧ (s.fn part.pf).evcons + 64 ≤ (s.fn part.pf).evprod)) ∧
    (let img : FwImage := { version := 0, body := [1], ecdsa := [2], lms := [3] }
     (Config.ecdsaVerifies img.body img.ecdsa = true ∧ Config.lmsVerifies img.body img.lms = true ∧ State.reset.fwFused ≤ img.version) ∨
       (Config.ecdsaVerifies img.body img.ecdsa = false ∨ Config.lmsVerifies img.body img.lms = false ∨ img.version < State.reset.fwFused)) := by
  refine ⟨⟨by decide, rfl, rfl, rfl, by decide, ⟨part, rfl, rfl⟩, rfl⟩, by decide, ⟨rfl, by decide, rfl, by decide⟩, ?_⟩
  intro img
  cases h : Config.ecdsaVerifies img.body img.ecdsa
  · exact .inr (.inl rfl)
  · cases h' : Config.lmsVerifies img.body img.lms
    · exact .inr (.inr (.inl rfl))
    · exact .inl ⟨rfl, rfl, by decide⟩

/-! ## Traps, steps, encodings and the whole machine -/

def breakTrap : TrapRec := { cause := 0x11, addr := 64, info := 2, slot := 7, issued := true }

theorem witness_TrapEntryAndReturn :
    ((4095 : Nat) < 4096 ∧ breakTrap.slot < 8 ∧ (Isle.start 0 0 64).ballast.wf = true) ∧
    (let c : Isle := { Isle.start 0 0 0 with handler := true, tslot := tslotOf 65 true 0, ret := some (65, 66), next := .leave }
     c.ret = some ((c.tslot.extractLsb' 16 12).toNat, 66) ∧ c.handler = true ∧ c.next = .leave ∧ c.hflights = [] ∧ c.ended = false ∧
       c.spoilt 3 3072 16 = false ∧ 64 ≤ (c.tslot.extractLsb' 16 12).toNat) ∧ (Isle.start 0 0 0).ret = none ∧
    (let c : Isle := { Isle.start 0 0 0 with handler := true, tslot := tslotOf 66 true 0, ret := some (65, 66), wait := some (.yielding none) }
     c.ret = some (65, 66) ∧ 65 ≠ (c.tslot.extractLsb' 16 12).toNat ∧ c.wait.isSome = true ∧ c.leaveTrap.wait.isNone = true) := by decide

/-- The context of one isle with a bundle at its PC and its turn to come. -/
def loaded (b : BitVec 256) (c : Isle) : Isle := { c with imem := [(64, b)], imap := [(1, 0)] }

def runner (b : BitVec 256) : State := { alone .C (loaded b) with turn := [3, 4], regions := [{ region with w := 1, h := 1 }] }

/-- The bundle `addi a4, a4, 16` in slot A, and one whose slot A holds an unassigned opcode. -/
def addBundle : BitVec 256 := BitVec.ofNat 256 (0x00884010 * 2 ^ 32)

def badBundle : BitVec 256 := BitVec.ofNat 256 (0x08C00000 * 2 ^ 32)

theorem runs_runner (b : BitVec 256) : (runner b).Runs { region with w := 1, h := 1 } := by
  refine ⟨rfl, ⟨rfl, rfl⟩, rfl, rfl, ?_, ⟨rfl, rfl, rfl⟩, rfl, rfl, rfl, rfl, rfl, rfl, rfl⟩
  show CState.ready ≠ .suspending
  decide

theorem witness_StepRunsDecodedInstructions :
    (({ State.reset with agenda := [.budgetInterval] } : State).agenda = .budgetInterval :: []) ∧
    (let s := runner addBundle
     s.agenda = [] ∧ s.turn = s.ctx.slot :: [4] ∧ s.Runs { region with w := 1, h := 1 } ∧ modeRange false s.core.pc = true ∧
       (∃ o, (s.core.pc / 64, o) ∈ s.core.imap) ∧ s.core.imem.find? (fun x => x.1 == s.core.pc) = some (s.core.pc, addBundle) ∧
       (4, s.core.pc) ∉ s.core.poison ∧ (∀ k : Fin 4, s.core.bkpt[k].getLsbD 31 = false) ∧
       (∃ l, decodeBundle false s.core.pc addBundle = .ok l ∧
         (let a := ((({ s with turn := [4] } : State).issuing).executed l)
          !(({ s with turn := [4] } : State).issuing).bundleWaits l && decide (a.isles = [a.core]) && a.core.early.isNone && a.core.deferred.isNone &&
            a.core.hold.isNone && a.agenda.isEmpty) = true) ∧ s.core.spoilt 3 3072 32 = false) ∧
    (∃ f, decodeBundle false 64 badBundle = .error f) ∧
    ((machine .X (engine routine)).core.mat.routine = some routine ∧ routine.returned = false ∧
      (let s := machine .X fun c => engine routine (panelsIn c)
       s.core.ustore[routine.upc]? = some 0 ∧ (5, routine.upc) ∉ s.core.poison ∧ (decodeMicro 0#64).isSome = true)) ∧
    ((alone .C).left = [] ∧ (alone .C).right = [] ∧ (alone .C).core.handler = false ∧ (alone .C).core.flights = [] ∧ (alone .C).ctx.words = [] ∧
      (alone .C).core.mat.running = none ∧ (alone .C).core.mat.landing = [] ∧ (alone .C).core.clk = none ∧
      (alone .C fun c => { c with clk := some (.vec, 127) }).core.clk = some (.vec, 127)) ∧
    (State.reset.agenda = [] ∧ State.reset.turn = [] ∧ State.reset.allCtx = [] ∧ (({ State.reset with now := State.reset.now + 1, turn := [] } : State).dueEvents = []) ∧ (State.reset.now + 1) / 20000 ≤ State.reset.interval ∧
      (State.reset.now + 1) % 2000000 ≠ 0) := by
  refine ⟨rfl, ⟨rfl, rfl, runs_runner _, by decide, ⟨0, by decide⟩, by decide +kernel, by decide, by decide, ok_and (by decide +kernel), by decide⟩,
    ⟨_, rfl⟩, ⟨rfl, rfl, by decide⟩, ⟨rfl, rfl, rfl, rfl, rfl, rfl, rfl, rfl, rfl⟩, by decide⟩

/-- The eight equations of WrittenWordsDecode. -/
theorem test_written_words : Obligations.WrittenWordsDecode := by
  unfold Obligations.WrittenWordsDecode
  decide

/-- A well-formed instruction with its word, for each encoder. -/
theorem witness_SlotWordsRoundTrip : ([
    (.endC q 15, encC), (.bins q 31 30 0#6 63#6, encAB), (.st q (.b 31) .acb 31 3 63#6, encM), (.vcmp q 7 .eq 31 30 7, encV),
    (.mpld q 31 511#9, encX), (.nrmt q .add (.b 31) 30 29, encN), (.barinit q 1 31, encD)] : List (Instr × (Instr → Option Nat))).all
      (fun x => x.1.wf && (x.2 x.1).isSome && x.1.pred?.isSome) = true ∧ q.wf = true ∧ (decodeSlot .V 0x0F412345#32).toBool = true := by decide

theorem witness_MicroWordsRoundTrip : (Instr.muHdr 7 7).wf = true ∧ (encodeMicro (.muHdr 7 7)).isSome = true ∧
    (decodeMicro 0x3C0000000000001F#64).isSome = true := by decide

/-- The canonical form holds at reset and with contexts, and a step from there answers. -/
theorem witness_DeviceMemoryStaysCanonical : State.reset.DramCanonical ∧ (machine .D).DramCanonical ∧ ∃ t, step State.reset = .next t :=
  ⟨by unfold State.DramCanonical; decide, by unfold State.DramCanonical; decide +kernel, _, rfl⟩

theorem witness_IsleMemoriesStayCanonical : State.reset.IslesCanonical ∧ two.IslesCanonical := by
  unfold State.IslesCanonical Isle.MemCanonical
  decide +kernel

end Sys2Proof.Tests
end

section
/-! PROOFS. What a word's predicate decides (R89, R92, R93, R115). Every slot word but NOP and the hints goes through `State.issue`,
so it is enough that its effect leaves the p-registers and the stall count alone: one lemma for each shared operation, one for each
family of words, then the words slot by slot. -/

namespace Sys2Proof.Machine

/-! ## What a word's effect leaves -/

/-- The predicate registers and the stall count of the isle in focus stand. -/
structure State.KeepsPreds (s t : State) : Prop where
  p : t.core.p = s.core.p
  nextStall : t.core.nextStall = s.core.nextStall

namespace State.KeepsPreds

variable {s t u : State}

theorem refl : s.KeepsPreds s := ⟨rfl, rfl⟩

theorem trans (h : s.KeepsPreds t) (k : t.KeepsPreds u) : s.KeepsPreds u := ⟨k.p.trans h.p, k.nextStall.trans h.nextStall⟩

theorem of_core_eq (h : t.core = s.core) : s.KeepsPreds t := ⟨by rw [h], by rw [h]⟩

theorem ite {c : Prop} [Decidable c] (h : s.KeepsPreds t) (k : s.KeepsPreds u) : s.KeepsPreds (if c then t else u) := by
  split
  · exact h
  · exact k

end State.KeepsPreds

/-! ## Traps, waits and the end of a context -/

section
variable {s : State}

theorem State.raise_keeps {c i a : Nat} : s.KeepsPreds (s.raise c i a) := by
  obtain h | h := s.raise_cases c i a <;> rw [h]
  · exact .refl
  · exact ⟨rfl, rfl⟩

theorem State.raiseOpen_keeps {c i : Nat} : s.KeepsPreds (s.raiseOpen c i) := raise_keeps

theorem State.illegal_keeps {r : Nat} : s.KeepsPreds (s.illegal r) := raise_keeps

theorem State.fence_keeps {r : Nat} {d : Dir} : s.KeepsPreds (s.fence r d) := raise_keeps

theorem Isle.raiseLate_p (c : Isle) (t : TrapRec) : (c.raiseLate t).p = c.p := by
  unfold raiseLate
  split
  · rfl
  · split <;> rfl

theorem Isle.raiseLate_nextStall (c : Isle) (t : TrapRec) : (c.raiseLate t).nextStall = c.nextStall := by
  unfold raiseLate
  split
  · rfl
  · split <;> rfl

theorem State.raiseAfterOpen_keeps {c i : Nat} : s.KeepsPreds (s.raiseAfterOpen c i) :=
  ⟨Isle.raiseLate_p _ _, Isle.raiseLate_nextStall _ _⟩

theorem State.raiseDeferred_keeps {q : Nat} : s.KeepsPreds (s.raiseDeferred q) := ⟨rfl, rfl⟩

theorem State.holdIssue_keeps {h : Hold} : s.KeepsPreds (s.holdIssue h) := by
  unfold holdIssue
  split
  · exact .refl
  · exact ⟨rfl, rfl⟩

theorem State.loseAt_keeps {k : SlotId} {a : Nat} : s.KeepsPreds (s.loseAt k a) := ⟨rfl, rfl⟩

theorem State.loseVa_keeps {va : Nat} {u : ErrUnit} : s.KeepsPreds (s.loseVa va u) := ⟨rfl, rfl⟩

/-! ## Results and operations put in flight -/

theorem State.fly_keeps {d : Due} {c : Nat} {e : Eff} : s.KeepsPreds (s.fly d c e) := ⟨by simp, by simp⟩

theorem State.land_keeps {c : Nat} {e : Eff} : s.KeepsPreds (s.land c e) := fly_keeps

theorem State.after_keeps {n : Nat} {e : Eff} : s.KeepsPreds (s.after n e) := fly_keeps

theorem State.access_keeps {c : Nat} {x : Access} : s.KeepsPreds (s.access c x) := fly_keeps

theorem State.landVec_keeps {c : Nat} {vd : Fin 32} {lw : Nat} {l : List (Option Elem)} {t : W32} : s.KeepsPreds (s.landVec c vd lw l t) := land_keeps

theorem State.holdClass_keeps : s.KeepsPreds s.holdClass := by
  obtain h | ⟨t, d, l, ht, h⟩ := s.holdClass_cases <;> rw [h]
  · exact .refl
  · obtain rfl | rfl := ht
    · exact ⟨rfl, rfl⟩
    · exact fly_keeps.trans ⟨rfl, rfl⟩

theorem State.release_keeps : s.KeepsPreds s.release := .ite .refl ⟨rfl, rfl⟩

theorem State.newOp_keeps {k : OpKind} {f : Option (Nat × Nat × Nat)} {b : Option W64} {cu : Bool} : s.KeepsPreds (s.newOp k f b cu) := by
  cases cu <;> exact ⟨rfl, rfl⟩

/-! ## The sequencer -/

theorem State.goto_keeps {n : Next} : s.KeepsPreds (s.goto n) := ⟨rfl, rfl⟩

theorem State.setLoops_keeps {l : List LoopEnt} : s.KeepsPreds { s with core := s.core.setLoops l } := by
  unfold Isle.setLoops
  split <;> exact ⟨rfl, rfl⟩

theorem State.setCalls_keeps {l : List Nat} : s.KeepsPreds { s with core := s.core.setCalls l } := by
  unfold Isle.setCalls
  split <;> exact ⟨rfl, rfl⟩

theorem State.pushLoop_keeps {len count : Nat} : s.KeepsPreds (s.pushLoop len count) :=
  .ite illegal_keeps (.ite goto_keeps (.ite illegal_keeps setLoops_keeps))

/-! ## Frames that an access zeroes -/

theorem State.zeroFrame_core (pl : Place) : (s.zeroFrame pl).core = s.core := by
  unfold zeroFrame
  split <;> rfl

theorem State.zeroFrames_core (l : List Place) : (s.zeroFrames l).core = s.core := by
  induction l generalizing s with
  | nil => rfl
  | cons pl l ih => exact (ih (s := s.zeroFrame pl)).trans (zeroFrame_core pl)

theorem State.refTouch_keeps {ref : W64} : s.KeepsPreds (s.refTouch ref) := by
  unfold refTouch
  split
  · exact .of_core_eq (zeroFrames_core _)
  · exact .refl

/-! ## The matrix engine -/

theorem Isle.startX_p (c : Isle) (x : XRun) : (c.startX x).p = c.p := by
  unfold startX
  split <;> rfl

theorem Isle.startX_nextStall (c : Isle) (x : XRun) : (c.startX x).nextStall = c.nextStall := by
  unfold startX
  split <;> rfl

theorem State.stageMuwr_keeps {rc : Nat} : s.KeepsPreds (s.stageMuwr rc) := by
  unfold stageMuwr
  split
  · exact .refl
  · split
    · exact loseAt_keeps
    · exact ⟨rfl, rfl⟩

theorem State.occupy_keeps {w : XWord} {len : Nat} : s.KeepsPreds (s.occupy w len) := by
  refine .ite raise_keeps (.ite (.trans ?_ stageMuwr_keeps) ⟨rfl, rfl⟩)
  exact ⟨Isle.startX_p _ _, Isle.startX_nextStall _ _⟩

theorem State.callFails_keeps {f : CallFault} : s.KeepsPreds (s.callFails f) := .ite loseAt_keeps raise_keeps

/-! ## The network -/

theorem State.launchWord_keeps {w : NWord} {c : Cargo} {d₁ d₂ : Dir} {m n : Nat} {g : GReg} : s.KeepsPreds (s.launchWord w c d₁ m d₂ n g) := ⟨rfl, rfl⟩

theorem State.count_keeps {ev n : Nat} : s.KeepsPreds { s with core := s.core.count ev n } := ⟨rfl, rfl⟩

theorem State.sendOn_keeps {w : NWord} {r : Route} : s.KeepsPreds (s.sendOn w r) := by
  unfold sendOn
  split
  · exact fence_keeps
  · exact count_keeps.trans launchWord_keeps

theorem State.broadcast_keeps {w : NWord} (l : List Dir) : s.KeepsPreds (s.broadcast w l) := by
  induction l generalizing s with
  | nil => exact .refl
  | cons d l ih => exact .trans (.ite .refl (count_keeps.trans launchWord_keeps)) ih

/-! ## Checks before the rest of a word -/

section
variable {k : State → State} {u : Buf} {a n al va : Nat} {wr : Bool}

theorem State.bounded_keeps (hk : s.KeepsPreds (k s)) : s.KeepsPreds (s.bounded u a n al k) := .ite raise_keeps (.ite raise_keeps hk)

theorem State.inBuf_keeps (hk : s.KeepsPreds (k s)) : s.KeepsPreds (s.inBuf u a n al k) := .ite raise_keeps hk

theorem State.vaPassing_keeps (hk : s.KeepsPreds (k s)) : s.KeepsPreds (s.vaPassing va al wr k) := .ite raise_keeps (.ite raise_keeps hk)

theorem State.entering_keeps (hk : s.KeepsPreds (k s)) : s.KeepsPreds (s.entering k) := .ite holdIssue_keeps hk

theorem State.reading_keeps (hk : s.KeepsPreds (k s)) : s.KeepsPreds (s.reading u a n k) := by
  unfold reading
  split
  · exact loseAt_keeps
  · exact hk

theorem State.passing_keeps {f : Option Fail} (hk : s.KeepsPreds (k s)) : s.KeepsPreds (s.passing f a k) := by
  unfold passing
  split
  · exact raise_keeps
  · exact hk

theorem State.tagsPassing_keeps {f : Option Fail} (hk : s.KeepsPreds (k s)) : s.KeepsPreds (s.tagsPassing f k) := by
  unfold tagsPassing
  split
  · exact raiseOpen_keeps
  · exact hk

theorem State.gathered_keeps {l : List (Nat × Nat)} (hk : s.KeepsPreds (k s)) : s.KeepsPreds (s.gathered u n l k) := by
  unfold gathered
  split
  · exact raise_keeps
  · exact hk

theorem State.refPassing_keeps {ref : W64} (hk : s.KeepsPreds (k s)) : s.KeepsPreds (s.refPassing ref k) := by
  unfold refPassing
  split
  · exact raise_keeps
  · exact bounded_keeps hk
  · exact hk

theorem State.barPassing_keeps {bbar : Fin 32} (hk : s.KeepsPreds (k s)) : s.KeepsPreds (s.barPassing bbar k) := by
  unfold barPassing
  split
  · exact hk
  · exact refPassing_keeps hk

theorem State.sidePassing_keeps {side base hdr off stride bytes : Nat} (hk : s.KeepsPreds (k s)) :
    s.KeepsPreds (s.sidePassing side base hdr off stride n bytes wr k) := by
  unfold sidePassing
  dsimp only
  split
  · exact vaPassing_keeps (.ite raise_keeps hk)
  · exact bounded_keeps (bounded_keeps (.ite (bounded_keeps (bounded_keeps hk)) hk))

end

end

/-! ## What the predicate of a word decides -/

/-- The word i with the predicate p, its stall count left, answers with a next state: where the predicate is false and the word reads no result
in flight under SBMODE 1 nothing has changed (R89), and the predicate registers and the stall count stand in every case. -/
def State.Predicated (s : State) (i : Instr) (p : Pred) (o : Out) : Prop :=
  ∃ t, o = .next t ∧ (s.stallShort i = false → s.core.predTrue p = false → t = s) ∧ s.KeepsPreds t

/-- The state with the stall count that a word carries (R93). -/
def State.withStallOf (s : State) (i : Instr) : State :=
  match i.stallOf s.slot with
  | some n => s.onCore fun c => { c with nextStall := n }
  | none => s

theorem State.withStallOf_eq (s : State) (i : Instr) :
    s.withStallOf i = { s with core := { s.core with nextStall := (i.stallOf s.slot).getD s.core.nextStall } } := by
  unfold withStallOf
  split <;> simp [*, onCore]

section
variable {s : State} {i : Instr} {p : Pred}

/-- A word whose effect leaves the predicates and the stall count. -/
theorem State.issue_predicated {b : State → State} (hb : s.KeepsPreds (b s)) : s.Predicated i p (.next (s.issue i p b)) :=
  ⟨_, rfl, State.issue_false b, .ite raise_keeps (.ite (hb.trans holdClass_keeps) .refl)⟩

/-- A C word whose effect does. -/
theorem State.issueC_predicated {n : Fin 16} {b : State → State} (hb : (s.withStall n).KeepsPreds (b (s.withStall n))) :
    (s.withStall n).Predicated i p (.next (s.issueC i p n b)) := issue_predicated hb

/-! ### Families of words -/

theorem State.alu_predicated {c : Nat} {d : Fin 32} {x : W64} : s.Predicated i p (.next (s.alu i p c d x)) := issue_predicated land_keeps

theorem State.aluP_predicated {pd : Fin 8} {x : Bool} : s.Predicated i p (.next (s.aluP i p pd x)) := issue_predicated land_keeps

theorem State.vector2_predicated {c : Nat} {vd va vb : Fin 32} {vm : Fin 8} {ok : Fmt → Bool} {op : Fmt → Nat → Nat → Nat → Elem} :
    s.Predicated i p (.next (s.vector2 i p c vd va vb vm ok op)) := issue_predicated (tagsPassing_keeps landVec_keeps)

theorem State.vector1_predicated {c : Nat} {vd va : Fin 32} {vm : Fin 8} {ok : Fmt → Bool} {op : Fmt → Nat → Nat → Elem} :
    s.Predicated i p (.next (s.vector1 i p c vd va vm ok op)) := issue_predicated (tagsPassing_keeps landVec_keeps)

theorem State.bits2_predicated {c : Nat} {vd va vb : Fin 32} {en : State → Nat → Nat → Bool} {op : State → Nat → Nat → Nat → Nat → Nat} :
    s.Predicated i p (.next (s.bits2 i p c vd va vb en op)) := issue_predicated (tagsPassing_keeps landVec_keeps)

theorem State.bits1_predicated {c : Nat} {vd va : Fin 32} {en : State → Nat → Nat → Bool} {op : State → Nat → Nat → Nat → Nat} :
    s.Predicated i p (.next (s.bits1 i p c vd va en op)) := issue_predicated (tagsPassing_keeps landVec_keeps)

theorem State.vectorFma_predicated {vd va vb vc : Fin 32} {rm : Rm} {np nc : Bool} :
    s.Predicated i p (.next (s.vectorFma i p vd va vb vc rm np nc)) := issue_predicated (tagsPassing_keeps landVec_keeps)

theorem State.reduce_predicated {vd va : Fin 32} {vm : Fin 8} {root : State → Fmt → List (Option Nat) → Nat × List EvKind} :
    s.Predicated i p (.next (s.reduce i p vd va vm root)) := issue_predicated (tagsPassing_keeps land_keeps)

theorem State.intoTag_predicated {vd : Fin 32} {f : State → Nat → Nat → Nat → Option Nat} :
    s.Predicated i p (.next (s.intoTag i p vd f)) := issue_predicated (tagsPassing_keeps landVec_keeps)

theorem State.sopen_predicated {wr : Bool} {t : Fin 16} {u : Buf} {ba : Fin 32} : s.Predicated i p (.next (s.sopen i p wr t u ba)) :=
  issue_predicated (.ite raise_keeps (reading_keeps (passing_keeps (.ite raise_keeps (.ite raise_keeps (.ite raise_keeps land_keeps))))))

theorem State.transfer_predicated {load : Bool} {u : Buf} {bbuf bva f : Fin 32} {sz : Fin 8} :
    s.Predicated i p (.next (s.transfer i p load u bbuf bva f sz)) :=
  issue_predicated (bounded_keeps (vaPassing_keeps (entering_keeps newOp_keeps)))

theorem State.barWord_predicated {bbar : Fin 32} {u : BarUpd} {rel : Bool} : s.Predicated i p (.next (s.barWord i p bbar u rel)) := by
  have released : s.KeepsPreds (if rel then s.release else s) := .ite release_keeps .refl
  refine issue_predicated (refPassing_keeps ?_)
  split
  · split
    · exact raise_keeps
    · exact released.trans fly_keeps
  · exact entering_keeps (released.trans newOp_keeps)

/-! ### Words with more than one course -/

theorem execRet_predicated {n : Fin 16} : (s.withStall n).Predicated (.ret p n) p (execRet p n s) := by
  refine State.issueC_predicated ?_
  split
  · exact State.illegal_keeps
  · exact .ite (State.setCalls_keeps.trans State.goto_keeps) State.illegal_keeps

theorem execWaitf_predicated {n : Fin 16} {f : Fin 32} {sig : Option (Fin 4)} {cnt : BitVec 10} :
    (s.withStall n).Predicated (.waitf p n f sig cnt) p (execWaitf p n f sig cnt s) := by
  refine State.issueC_predicated ?_
  split
  · exact State.raiseDeferred_keeps
  · exact ⟨rfl, rfl⟩

theorem execPostf_predicated {n : Fin 16} {f : Fin 32} {sig : Option (Fin 4)} {cnt : BitVec 10} :
    (s.withStall n).Predicated (.postf p n f sig cnt) p (execPostf p n f sig cnt s) := by
  refine State.issueC_predicated (.ite State.holdIssue_keeps ?_)
  split
  · exact .refl
  · exact .ite State.raise_keeps State.after_keeps

theorem execWaitb_predicated {n : Fin 16} {bbar : Fin 32} {sig : Option (Fin 4)} {ph : Fin 16} :
    (s.withStall n).Predicated (.waitb p n bbar sig ph) p (execWaitb p n bbar sig ph s) := by
  refine State.issueC_predicated ((State.refTouch_keeps (ref := s.core.rdB bbar)).trans ?_)
  dsimp only
  split
  · exact State.raise_keeps
  · exact State.raiseDeferred_keeps
  · exact State.holdIssue_keeps
  · exact State.loseVa_keeps
  · exact State.loseAt_keeps
  · split <;> exact ⟨rfl, rfl⟩

theorem execStatpop_predicated {n : Fin 16} {g : GReg} : (s.withStall n).Predicated (.statpop p n g) p (execStatpop p n g s) := by
  refine State.issueC_predicated ?_
  split
  · exact State.land_keeps
  · exact State.land_keeps.trans State.after_keeps

theorem execFill_predicated {g : GReg} {off : BitVec 9} : s.Predicated (.fill p g off) p (execFill p g off s) := by
  refine State.issue_predicated ?_
  split
  · exact State.loseAt_keeps
  · exact State.land_keeps

theorem execFillv_predicated {vd : Fin 32} {off : Fin 16} : s.Predicated (.fillv p vd off) p (execFillv p vd off s) := by
  refine State.issue_predicated ?_
  split
  · exact State.loseAt_keeps
  · exact State.land_keeps

theorem execMcall_predicated {idx : Fin 64} {pmask : BitVec 8} : s.Predicated (.mcall p idx pmask) p (execMcall p idx pmask s) := by
  refine State.issue_predicated ?_
  split
  · exact State.callFails_keeps
  · exact State.occupy_keeps

theorem execMcallr_predicated {idx : Fin 64} {br : Fin 32} : s.Predicated (.mcallr p idx br) p (execMcallr p idx br s) := by
  refine State.issue_predicated (.ite State.raise_keeps ?_)
  split
  · exact State.callFails_keeps
  · exact State.holdIssue_keeps
  · exact State.occupy_keeps

theorem execFwd_predicated {din dout : Dir} {cntM1 : BitVec 10} : s.Predicated (.fwd p din dout cntM1) p (execFwd p din dout cntM1 s) := by
  refine State.issue_predicated ?_
  split
  · exact State.fence_keeps
  · exact State.after_keeps

theorem execNrmt_predicated {op : AtomOp} {g : GReg} {ba bv : Fin 32} : s.Predicated (.nrmt p op g ba bv) p (execNrmt p op g ba bv s) := by
  refine State.issue_predicated ?_
  dsimp only
  split
  · exact State.raise_keeps
  · refine .ite State.raise_keeps (State.bounded_keeps ?_)
    split
    · exact State.fence_keeps
    · exact .ite (State.count_keeps.trans State.launchWord_keeps) (State.count_keeps.trans State.launchWord_keeps)

theorem execKpost_predicated {sock : Fin 2} {bpkt : Fin 32} : s.Predicated (.kpost p sock bpkt) p (execKpost p sock bpkt s) := by
  refine State.issue_predicated (State.bounded_keeps ?_)
  dsimp only
  split
  · exact State.raiseOpen_keeps
  · exact .ite State.raiseOpen_keeps (State.reading_keeps (.ite State.raiseOpen_keeps (.ite State.holdIssue_keeps
      (State.release_keeps.trans (State.newOp_keeps.trans State.fly_keeps)))))

/-- NOP reads its predicate and does nothing (R90). -/
theorem execNop_predicated : s.Predicated (.nop p) p (execNop p s) :=
  ⟨_, rfl, fun h _ => if_neg (by simp [h]), .ite State.raise_keeps .refl⟩

/-- A hint leaves the stall count of a C word and nothing else (R92). -/
theorem execHint_predicated {h : Fin 4} {o : BitVec 22} : (s.withStallOf (.hint p h o)).Predicated (.hint p h o) p (execHint p h o s) := by
  refine ⟨s.withStallOf (.hint p h o), ?_, fun _ _ => rfl, .refl⟩
  unfold execHint State.withStallOf Instr.stallOf
  by_cases hs : s.slot = .C <;> simp [hs, State.onCore]

end

/-! ## The words, slot by slot -/

section
variable {p : Pred}

open State

/-- Every slot word is decided by its predicate, once its stall count is left. -/
theorem exec_predicated (i : Instr) (s : State) (h : i.pred? = some p) : (s.withStallOf i).Predicated i p (exec i s) := by
  cases i with
  | nop => cases h; exact execNop_predicated
  | hint => cases h; exact execHint_predicated
  -- slot C
  | nopC => cases h; exact issueC_predicated .refl
  | br | tret => cases h; exact issueC_predicated goto_keeps
  | bri => cases h; exact issueC_predicated (.ite goto_keeps illegal_keeps)
  | call => cases h; exact issueC_predicated (.ite illegal_keeps (setCalls_keeps.trans goto_keeps))
  | ret => cases h; exact execRet_predicated
  | loop => cases h; exact issueC_predicated pushLoop_keeps
  | loopr => cases h; exact issueC_predicated (.ite illegal_keeps pushLoop_keeps)
  | lbrk => cases h; exact issueC_predicated (.ite illegal_keeps goto_keeps)
  | safept | clkdiv => cases h; exact issueC_predicated (.ite illegal_keeps ⟨rfl, rfl⟩)
  | endC | yieldC => cases h; exact issueC_predicated ⟨rfl, rfl⟩
  | trap | brk => cases h; exact issueC_predicated raiseAfterOpen_keeps
  | waitf => cases h; exact execWaitf_predicated
  | postf => cases h; exact execPostf_predicated
  | waitb => cases h; exact execWaitb_predicated
  | sysrd => cases h; exact issueC_predicated land_keeps
  | syswr => cases h; exact issueC_predicated after_keeps
  | statpop => cases h; exact execStatpop_predicated
  -- slots A and B
  | add | addi | sub | mul | mulh | mulhn | and | andi | or | ori | xor | xori | shl | shr | sar | shli | shri | sari | min | max | minn | maxn
  | sel | li | lui | addw | clz | popc | bext | bins | movx => cases h; exact alu_predicated
  | cmp | cmpi | plog => cases h; exact aluP_predicated
  -- slot M
  | ld | ldv | hdrchk | laop => cases h; exact issue_predicated (bounded_keeps access_keeps)
  | st | stv => cases h; exact issue_predicated (bounded_keeps after_keeps)
  | ldvT => cases h; exact issue_predicated (bounded_keeps (reading_keeps (passing_keeps (bounded_keeps access_keeps))))
  | stvT =>
    cases h
    exact issue_predicated (bounded_keeps (tagsPassing_keeps (reading_keeps (passing_keeps (bounded_keeps after_keeps)))))
  | fill => cases h; exact execFill_predicated
  | fillv => cases h; exact execFillv_predicated
  | spill | spillv | sclose => cases h; exact issue_predicated after_keeps
  | sopenR | sopenW => cases h; exact sopen_predicated
  | sread =>
    cases h
    exact issue_predicated (.ite raise_keeps (.ite raise_keeps (passing_keeps (access_keeps.trans after_keeps))))
  | swrite =>
    cases h
    exact issue_predicated (.ite raise_keeps (.ite raise_keeps (tagsPassing_keeps (passing_keeps (after_keeps.trans after_keeps)))))
  | sseek => cases h; exact issue_predicated (.ite raise_keeps (.ite raise_keeps after_keeps))
  | hdrmk => cases h; exact issue_predicated (bounded_keeps (passing_keeps after_keeps))
  | bclr =>
    cases h
    exact issue_predicated (.ite raise_keeps (.ite raise_keeps (bounded_keeps (.ite .refl after_keeps))))
  | ldidx => cases h; exact issue_predicated (gathered_keeps access_keeps)
  | stidx => cases h; exact issue_predicated (gathered_keeps after_keeps)
  -- slot V
  | vadd | vsub | vmul | vmax | vmin | vdiv => cases h; exact vector2_predicated
  | vabs | vneg | vexp2 | vlog2 | vrcp | vrsq | vsqrt => cases h; exact vector1_predicated
  | vfma | vfms | vfnma => cases h; exact vectorFma_predicated
  | vsel | vand | vor | vxor | vshl | vshr | vsar | vperm => cases h; exact bits2_predicated
  | vnot | vrot | vmov => cases h; exact bits1_predicated
  | vredadd | vredmax | vredmin => cases h; exact reduce_predicated
  | vbcast | vins | viota => cases h; exact intoTag_predicated
  | vcmp => cases h; exact issue_predicated (tagsPassing_keeps land_keeps)
  | vext => cases h; exact issue_predicated (tagsPassing_keeps landVec_keeps)
  | vseed => cases h; exact issue_predicated landVec_keeps
  | vtag | vmask | vmaskB => cases h; exact issue_predicated land_keeps
  | vcvt | vqnt | vdqnt | vbscl =>
    cases h
    refine issue_predicated ?_
    dsimp only
    split
    · exact tagsPassing_keeps .refl
    · exact tagsPassing_keeps landVec_keeps
  -- slot X
  | mcall => cases h; exact execMcall_predicated
  | mcallr => cases h; exact execMcallr_predicated
  | mpset | mpsetImm => cases h; exact issue_predicated after_keeps
  | mpld => cases h; exact issue_predicated (inBuf_keeps (reading_keeps after_keeps))
  | muwr => cases h; exact issue_predicated (inBuf_keeps (.ite raise_keeps occupy_keeps))
  | mrtset | mselSwap | mselS0 | mselS1 => cases h; exact issue_predicated occupy_keeps
  | mstat => cases h; exact issue_predicated (.ite (land_keeps.trans after_keeps) land_keeps)
  -- slot N
  | send | sends => cases h; exact issue_predicated sendOn_keeps
  | recv | recvs => cases h; exact issue_predicated (after_keeps.trans after_keeps)
  | fwd => cases h; exact execFwd_predicated
  | nbcRow | nbcCol => cases h; exact issue_predicated (broadcast_keeps _)
  | nrmt => cases h; exact execNrmt_predicated
  -- slot D
  | xld | xst => cases h; exact transfer_predicated
  | xatom => cases h; exact issue_predicated (vaPassing_keeps (bounded_keeps (entering_keeps newOp_keeps)))
  | xcopy =>
    cases h
    exact issue_predicated (.ite raise_keeps (barPassing_keeps (sidePassing_keeps (sidePassing_keeps (.ite raiseOpen_keeps
      (entering_keeps newOp_keeps))))))
  | coll =>
    cases h
    exact issue_predicated (.ite raise_keeps (barPassing_keeps (vaPassing_keeps (vaPassing_keeps (entering_keeps newOp_keeps)))))
  | barinit | bararr | baradd => cases h; exact barWord_predicated
  | phaseR | phaseRa => cases h; exact issue_predicated release_keeps
  | phaseA | xpf => cases h; exact issue_predicated .refl
  | ovl => cases h; exact issue_predicated (.ite raise_keeps (entering_keeps newOp_keeps))
  | launch =>
    cases h
    exact issue_predicated (bounded_keeps (.ite raise_keeps (entering_keeps (release_keeps.trans (newOp_keeps.trans fly_keeps)))))
  | kpost => cases h; exact execKpost_predicated
  | kstat => cases h; exact issue_predicated land_keeps
  | _ => cases h

end

/-! ## The obligation -/

/-- A slot word leaves the p-registers as they stood, and as stall count the one it carries (R89, R93). -/
theorem exec_keepsPreds {i : Instr} {p : Pred} {s t : State} (h : i.pred? = some p) (ht : exec i s = .next t) : (s.withStallOf i).KeepsPreds t := by
  obtain ⟨u, hu, -, keeps⟩ := exec_predicated i s h
  cases ht.symm.trans hu
  exact keeps

/-- A word whose predicate is false leaves its stall count (R89, R93). -/
theorem exec_of_pred_false {i : Instr} {p : Pred} {s : State} (h : i.pred? = some p) (hs : s.stallShort i = false)
    (hp : s.core.predTrue p = false) : exec i s = .next (s.withStallOf i) := by
  obtain ⟨t, ht, idle, -⟩ := exec_predicated i s h
  rw [State.withStallOf_eq] at idle ⊢
  exact ht.trans (congrArg _ (idle hs hp))

/-- p0 reads as true, and PNEG inverts (R115). -/
theorem Isle.predTrue_eq (c : Isle) (p : Pred) : c.predTrue p = ((p.idx = 0 || c.p[p.idx]) != p.neg) := by
  by_cases h : p.idx = 0 <;> simp [predTrue, rdP, h]

/-- Settles O1: `exec_predicated` splits the words slot by slot, and each clause reads one of its parts. -/
theorem predicatesDecide : Obligations.PredicatesDecide := by
  unfold Obligations.PredicatesDecide
  refine ⟨fun i p s h hs hp => ?_, fun i p n s t h hn _ ht => ?_, fun i p s t h ht => ?_, Isle.predTrue_eq⟩
  · rw [exec_of_pred_false h hs hp, State.withStallOf_eq]
  · have keeps := (exec_keepsPreds h ht).nextStall
    rwa [State.withStallOf_eq, hn] at keeps
  · have keeps := (exec_keepsPreds h ht).p
    rwa [State.withStallOf_eq] at keeps

end Sys2Proof.Machine
end

section
/-! PROOFS. The scalar words of slots A and B (R119-R124): what a word that goes through `State.alu` answers with, then what each value
is: the products, sums and constants of R119-R121, the counts of R122 and the fields of R124. -/

namespace Sys2Proof.Machine

/-! ## A scalar result of slots A and B -/

/-- A word of slot A or B that issues lands the value it computes in its own cluster, and holds no class cycle (R116, R378). -/
theorem State.gives_of_alu {s : State} {i : Instr} {p : Pred} {c : Nat} {d : Fin 32} {x : W64} (hs : s.slot = .A ∨ s.slot = .B)
    (hp : i.pred? = some p) (hx : exec i s = .next (s.alu i p c d x)) : s.Gives i (s.land c (.scalar (ownG s.slot d) x)) := by
  intro hi
  have ctl : s.slot.cls = .ctl := by
    obtain h | h := hs <;> rw [h] <;> rfl
  rw [hx, alu, issue_ctl _ hi hp ctl]

/-! ## Sums, constants and selections (R119, R121, R126) -/

theorem addw_operands (x y : W64) : x.truncate 32 + y.truncate 32 = x.extractLsb' 0 32 + y.extractLsb' 0 32 := by
  rw [BitVec.truncate_eq_setWidth, BitVec.truncate_eq_setWidth, BitVec.setWidth_eq_extractLsb' (by decide),
    BitVec.setWidth_eq_extractLsb' (by decide)]

/-- LUI's sum carries nothing, since the bits that the shift vacates are zero (R121). -/
theorem lui_eq_append (x : W64) (k : BitVec 17) : (x <<< 17) + k.zeroExtend 64 = x.extractLsb' 0 47 ++ k := by
  have appended : (x.extractLsb' 0 47 ++ k).toNat = x.toNat % 2 ^ 47 * 2 ^ 17 + k.toNat := by
    rw [BitVec.toNat_append, ← Nat.shiftLeft_add_eq_or_of_lt k.isLt, Nat.shiftLeft_eq, BitVec.extractLsb'_toNat, Nat.shiftRight_zero]
  refine BitVec.eq_of_toNat_eq (Eq.trans ?_ appended.symm)
  simp [Nat.shiftLeft_eq]
  omega

theorem Isle.rdP_eq_true (c : Isle) (r : Fin 8) : c.rdP r = true ↔ r = 0 ∨ c.p[r] = true := by
  by_cases h : r = 0 <;> simp [rdP, h]

/-! ## Products (R119) -/

theorem mul_eq_low (x y : W64) : x * y = (x.zeroExtend 128 * y.zeroExtend 128).extractLsb' 0 64 := by
  rw [BitVec.extractLsb'_mul (by decide), BitVec.extractLsb'_setWidth_of_le (by decide), BitVec.extractLsb'_setWidth_of_le (by decide),
    BitVec.extractLsb'_eq_self, BitVec.extractLsb'_eq_self]

/-- Bits [127:64] of an integer's pattern are those of its quotient by 2^64. -/
theorem extractLsb'_ofInt_high (z : Int) : (BitVec.ofInt 128 z).extractLsb' 64 64 = BitVec.ofInt 64 (z / 2 ^ 64) := by
  apply BitVec.eq_of_toNat_eq
  simp [BitVec.toNat_ofInt, BitVec.extractLsb'_toNat, Nat.shiftRight_eq_div_pow]
  omega

theorem mulh_eq_high (x y : W64) :
    BitVec.ofInt 64 (x.toInt * y.toInt / 2 ^ 64) = (x.signExtend 128 * y.signExtend 128).extractLsb' 64 64 := by
  rw [BitVec.signExtend, BitVec.signExtend, ← BitVec.ofInt_mul, extractLsb'_ofInt_high]

theorem mulhn_eq_high (x y : W64) :
    BitVec.ofNat 64 (x.toNat * y.toNat / 2 ^ 64) = (x.zeroExtend 128 * y.zeroExtend 128).extractLsb' 64 64 := by
  have product : x.zeroExtend 128 * y.zeroExtend 128 = BitVec.ofInt 128 (x.toNat * y.toNat : Nat) := by
    rw [BitVec.ofInt_natCast, BitVec.ofNat_mul, BitVec.ofNat_toNat, BitVec.ofNat_toNat]
  rw [product, extractLsb'_ofInt_high, ← BitVec.ofInt_natCast, Int.natCast_div, Nat.cast_pow, Nat.cast_ofNat]

/-! ## The smaller and the larger (R119) -/

theorem minS_eq_or (x y : W64) : minS x y = x ∨ minS x y = y := ite_eq_or_eq ..

theorem maxS_eq_or (x y : W64) : maxS x y = x ∨ maxS x y = y := (ite_eq_or_eq ..).symm

theorem minU_eq_or (x y : W64) : minU x y = x ∨ minU x y = y := ite_eq_or_eq ..

theorem maxU_eq_or (x y : W64) : maxU x y = x ∨ maxU x y = y := (ite_eq_or_eq ..).symm

theorem minS_le (x y : W64) : (minS x y).toInt ≤ x.toInt ∧ (minS x y).toInt ≤ y.toInt := by
  unfold minS
  split <;> omega

theorem le_maxS (x y : W64) : x.toInt ≤ (maxS x y).toInt ∧ y.toInt ≤ (maxS x y).toInt := by
  unfold maxS
  split <;> omega

theorem minU_le (x y : W64) : (minU x y).toNat ≤ x.toNat ∧ (minU x y).toNat ≤ y.toNat := by
  unfold minU
  split <;> omega

theorem le_maxU (x y : W64) : x.toNat ≤ (maxU x y).toNat ∧ y.toNat ≤ (maxU x y).toNat := by
  unfold maxU
  split <;> omega

/-- Settles O5: every word lands the value of its exec (`State.gives_of_alu`), which the lemmas above bring into the statement's form. -/
theorem scalarArithmetic : Obligations.ScalarArithmetic := by
  unfold Obligations.ScalarArithmetic
  refine ⟨fun s p d s1 s2 imm k ps hs => ?_, fun s p d s1 s2 hs => ?_, fun s p d s1 s2 hs => ?_⟩
  · intro x y g
    refine ⟨?add, ?addi, ?sub, ?addw, ?li, ?lui, ?movx, ?sel⟩
    case add | addi | sub | li | movx => exact s.gives_of_alu hs rfl rfl
    case addw =>
      rw [← addw_operands]
      exact s.gives_of_alu hs rfl rfl
    case lui =>
      rw [← lui_eq_append]
      exact s.gives_of_alu hs rfl rfl
    case sel =>
      simp only [← Isle.rdP_eq_true]
      exact s.gives_of_alu hs rfl rfl
  · intro x y g
    rw [← mul_eq_low, ← mulh_eq_high, ← mulhn_eq_high]
    exact ⟨s.gives_of_alu hs rfl rfl, s.gives_of_alu hs rfl rfl, s.gives_of_alu hs rfl rfl⟩
  · intro x y lands
    exact ⟨⟨_, minS_eq_or x y, minS_le x y, s.gives_of_alu hs rfl rfl⟩, ⟨_, maxS_eq_or x y, le_maxS x y, s.gives_of_alu hs rfl rfl⟩,
      ⟨_, minU_eq_or x y, minU_le x y, s.gives_of_alu hs rfl rfl⟩, ⟨_, maxU_eq_or x y, le_maxU x y, s.gives_of_alu hs rfl rfl⟩⟩

/-! ## Leading zeros (R111, R122) -/

theorem clz64_le (x : W64) : clz64 x ≤ 64 := by
  unfold clz64
  split <;> omega

@[simp] theorem toNat_ofNat_clz64 (x : W64) : (BitVec.ofNat 64 (clz64 x)).toNat = clz64 x :=
  Nat.mod_eq_of_lt ((clz64_le x).trans_lt (by decide))

/-- The leading zeros of a value other than 0 end at its highest set bit. -/
theorem clz64_add_log2 {x : W64} (h : x ≠ 0) : clz64 x + Nat.log2 x.toNat = 63 := by
  have below : Nat.log2 x.toNat < 64 := (Nat.log2_lt (BitVec.toNat_ne_iff_ne.2 h)).2 x.isLt
  rw [clz64, if_neg h]
  omega

theorem getLsbD_of_clz64_le {x : W64} {k : Nat} (hk : 64 - clz64 x ≤ k) : x.getLsbD k = false := by
  by_cases h : x = 0
  · simp [h]
  · have top : Nat.log2 x.toNat + 1 ≤ k := by
      have := clz64_add_log2 h
      omega
    rw [← BitVec.testBit_toNat]
    exact Nat.testBit_lt_two_pow (Nat.lt_log2_self.trans_le (Nat.pow_le_pow_right (by decide) top))

theorem getLsbD_clz64 {x : W64} (hx : clz64 x < 64) : x.getLsbD (63 - clz64 x) = true := by
  have h : x ≠ 0 := by
    rintro rfl
    exact absurd hx (by decide)
  rw [← clz64_add_log2 h, Nat.add_sub_cancel_left, ← BitVec.testBit_toNat]
  exact Nat.testBit_log2 (BitVec.toNat_ne_iff_ne.2 h)

/-! ## Set bits (R111, R122) -/

theorem bit_toNat {w : Nat} (x : BitVec w) (k : Nat) : bit x.toNat k = x.getLsbD k :=
  Nat.testBit_eq_decide_div_mod_eq.symm

theorem popcount_toNat {w : Nat} (x : BitVec w) (n : Nat) : popcount x.toNat n = ((List.range n).filter fun k => x.getLsbD k).length := by
  induction n with
  | zero => rfl
  | succ n ih =>
    rw [popcount, ih, bit_toNat, List.range_succ, List.filter_append, List.length_append, Nat.add_comm]
    cases h : x.getLsbD n <;> simp [h]

theorem popcount_le (x n : Nat) : popcount x n ≤ n := by
  induction n with
  | zero => exact le_rfl
  | succ n ih =>
    rw [popcount]
    split <;> omega

@[simp] theorem toNat_ofNat_popcount (x : Nat) : (BitVec.ofNat 64 (popcount x 64)).toNat = popcount x 64 :=
  Nat.mod_eq_of_lt ((popcount_le x 64).trans_lt (by decide))

/-! ## Fields, by lo and len - 1 (R124) -/

theorem getLsbD_bextOf (x : W64) (lo m : Nat) {k : Nat} (hk : k < 64) :
    (bextOf x lo (m + 1)).getLsbD k = (decide (k ≤ m) && x.getLsbD (lo + k)) := by
  rw [bextOf, BitVec.getLsbD_ofNat, decide_eq_true hk, Bool.true_and, Nat.testBit_mod_two_pow, Nat.testBit_div_two_pow, BitVec.testBit_toNat,
    Nat.add_comm k]
  simp only [Nat.lt_succ_iff]

theorem getLsbD_binsOf (d x : W64) (lo m : Nat) {k : Nat} (hk : k < 64) :
    (binsOf d x lo (m + 1)).getLsbD k = if lo ≤ k ∧ k ≤ lo + m then x.getLsbD (k - lo) else d.getLsbD k := by
  have mask : ((2 ^ (m + 1) - 1) * 2 ^ lo).testBit k = decide (lo ≤ k ∧ k ≤ lo + m) := by
    rw [Nat.testBit_mul_two_pow, Nat.testBit_two_pow_sub_one, ← Bool.decide_and, decide_eq_decide]
    omega
  have field (h : lo ≤ k ∧ k ≤ lo + m) : (x.toNat % 2 ^ (m + 1) * 2 ^ lo).testBit k = x.getLsbD (k - lo) := by
    have inside : k - lo < m + 1 := by omega
    rw [Nat.testBit_mul_two_pow, Nat.testBit_mod_two_pow, decide_eq_true h.1, decide_eq_true inside, Bool.true_and, Bool.true_and,
      BitVec.testBit_toNat]
  simp only [binsOf, BitVec.getLsbD_or, BitVec.getLsbD_and, BitVec.getLsbD_not, BitVec.getLsbD_ofNat, hk, mask, decide_true, Bool.true_and]
  split
  case isTrue h => simp [h, field h]
  case isFalse h => simp [h]

/-! ## A count word with a zero-marked bit set (R91, R122) -/

theorem fld_toNat {w : Nat} (x : BitVec w) (lo n : Nat) : fld x.toNat lo n = (x.extractLsb' lo n).toNat := by
  rw [fld, BitVec.extractLsb'_toNat, Nat.shiftRight_eq_div_pow]

theorem ckWord_of_zeros {w zeros : Nat} {reserved : Bool} {i : Instr} (h : zeros ≠ 0) : ckWord w zeros reserved i = .error 2 := if_pos h

theorem decAB_count_of_zeros {w : Nat} (op : fld w 22 6 = 0x1D ∨ fld w 22 6 = 0x1E) (h : fld w 0 12 ≠ 0) : decAB w = .error 2 := by
  obtain op | op := op <;> simp only [decAB, op, ckWord_of_zeros h]

/-- Settles O7: the count words' zero-marked field decides their decoding, and the four values are read bit by bit. -/
theorem scalarBitFields : Obligations.ScalarBitFields := by
  unfold Obligations.ScalarBitFields
  refine ⟨fun w op h => ?_, fun s p d s1 lo lenM1 hs _ => ?_⟩
  · have refused : decAB w.toNat = .error 2 := by
      refine decAB_count_of_zeros ?_ ?_ <;> rw [fld_toNat]
      · exact op.imp (congrArg BitVec.toNat) (congrArg BitVec.toNat)
      · exact BitVec.toNat_ne_iff_ne.2 h
    exact ⟨refused, refused⟩
  · intro x old lands
    refine ⟨⟨_, ?clz, s.gives_of_alu hs rfl rfl⟩, ⟨_, ?popc, s.gives_of_alu hs rfl rfl⟩, ⟨_, ?bext, s.gives_of_alu hs rfl rfl⟩,
      ⟨_, ?bins, s.gives_of_alu hs rfl rfl⟩⟩
    case clz =>
      simp only [toNat_ofNat_clz64]
      exact ⟨clz64_le x, fun k _ hk => getLsbD_of_clz64_le hk, getLsbD_clz64⟩
    case popc =>
      simp only [toNat_ofNat_popcount]
      exact popcount_toNat x 64
    case bext => exact fun k hk => getLsbD_bextOf x lo.toNat lenM1.toNat hk
    case bins => exact fun k hk => getLsbD_binsOf old x lo.toNat lenM1.toNat hk

end Sys2Proof.Machine
end

section
/-! PROOFS. The tags, broadcasts and masks of slot V (R141, R151-R153): what stands at each place of joined lanes, what a vector result that
is given lane by lane writes, then the words that go through `State.intoTag` and the words that land a mask. -/

namespace Sys2Proof.Machine

/-! ## Joined lanes, bit by bit (R129, R133) -/

/-- Bit k of place e of joined values is bit k of the value that stands there. -/
theorem testBit_joinLanes {w k : Nat} (hk : k < w) (l : List Nat) (e : Nat) : (joinLanes w l).testBit (w * e + k) = (l.getD e 0).testBit k := by
  induction l generalizing e with
  | nil => simp [joinLanes]
  | cons x t ih =>
    rw [joinLanes, Nat.add_comm, Nat.testBit_two_pow_mul_add _ (Nat.mod_lt x (Nat.two_pow_pos w))]
    cases e with
    | zero => simp [hk]
    | succ e =>
      have place : w * (e + 1) + k = w + (w * e + k) := by ring
      rw [place, if_neg (Nat.not_lt.2 (Nat.le_add_right ..)), Nat.add_sub_cancel_left, ih, List.getD_cons_succ]

/-- The lanes of a register end within it. -/
theorem laneBits_mul_add_lt {lw e k : Nat} (he : e < laneCount lw) (hk : k < laneBits lw) : laneBits lw * e + k < 2048 :=
  calc laneBits lw * e + k < laneBits lw * (e + 1) := by rw [Nat.mul_succ]; omega
    _ ≤ laneBits lw * laneCount lw := Nat.mul_le_mul_left _ he
    _ = 8 * (2 ^ lw * (256 / 2 ^ lw)) := Nat.mul_assoc ..
    _ ≤ 8 * 256 := Nat.mul_le_mul_left _ (Nat.mul_div_le ..)

theorem getLsbD_ofLanes {lw e k : Nat} (he : e < laneCount lw) (hk : k < laneBits lw) (l : List Nat) :
    (ofLanes lw l).getLsbD (laneBits lw * e + k) = (l.getD e 0).testBit k := by
  rw [ofLanes, BitVec.getLsbD_ofNat, decide_eq_true (laneBits_mul_add_lt he hk), Bool.true_and, testBit_joinLanes hk]

/-- A lane mask holds every bit of the elements that it names. -/
theorem getLsbD_laneMask {lw e k : Nat} (he : e < laneCount lw) (hk : k < laneBits lw) (l : List Bool) :
    (laneMask lw l).getLsbD (laneBits lw * e + k) = l.getD e false := by
  have whole : (l.map fun b => if b then 2 ^ laneBits lw - 1 else 0).getD e 0 = if l.getD e false then 2 ^ laneBits lw - 1 else 0 :=
    List.getD_map (d := false) ..
  rw [laneMask, getLsbD_ofLanes he hk, whole]
  cases l.getD e false <;> simp [hk]

/-- A mask register given bit by bit. -/
theorem getLsbD_ofBits (f : Nat → Bool) {k : Nat} (hk : k < 64) :
    (BitVec.ofNat 64 (joinLanes 1 ((List.range 64).map fun i => if f i then 1 else 0))).getLsbD k = f k := by
  have place : k = 1 * k + 0 := by omega
  rw [BitVec.getLsbD_ofNat, decide_eq_true hk, Bool.true_and]
  conv_lhs => rw [place]
  rw [testBit_joinLanes Nat.one_pos]
  cases h : f k <;> simp [hk, h]

/-! ## Masks (R133) -/

/-- vm0 reads as all ones. -/
theorem Isle.getLsbD_rdVm (c : Isle) (r : Fin 8) {k : Nat} (hk : k < 64) : (c.rdVm r).getLsbD k = (r = 0 || (c.vm[r]).getLsbD k) := by
  by_cases h : r = 0
  · simp only [rdVm, h, if_true, BitVec.getLsbD_allOnes, hk, decide_true, Bool.true_or]
  · simp [rdVm, h]

theorem truth_eq (tt : BitVec 4) (a b : Bool) : truth tt a b = tt.getLsbD (2 * a.toNat + b.toNat) := by
  cases a <;> cases b <;> rfl

/-- Lanes of 32 bits hold one element each: a bit of the compare's mask is its own element's result (R141). -/
theorem getLsbD_compareMask_of_two {lw k : Nat} (h : lw = 2) (m : W64) (hit : Nat → Bool) (hk : k < 64) :
    (compareMask lw m ((List.range (laneCount lw)).map hit)).getLsbD k = (m.getLsbD k && hit k) := by
  subst h
  rw [compareMask, getLsbD_ofBits _ hk]
  simp [laneCount, hk]

/-- An element of 64 bits gives both bits of its pair, by the enable of the lower (R133, R141). -/
theorem getLsbD_compareMask_of_three {lw k : Nat} (h : lw = 3) (m : W64) (hit : Nat → Bool) (hk : k < 64) :
    (compareMask lw m ((List.range (laneCount lw)).map hit)).getLsbD k = (m.getLsbD (k / 2 * 2) && hit (k / 2)) := by
  have inside : k / 2 < 32 := by omega
  subst h
  rw [compareMask, getLsbD_ofBits _ hk]
  simp [laneCount, inside]

/-! ## Words that issue -/

/-- A word whose effect is b answers with it, and holds its class cycle (R378). -/
theorem State.gives_of_issue {s : State} {i : Instr} {p : Pred} {b : State → State} (hp : i.pred? = some p)
    (hx : exec i s = .next (s.issue i p b)) : s.Gives i (b s).holdClass := by
  intro hi
  rw [hx, issue_true b hi hp]

@[simp] theorem State.tagsPassing_none (s : State) (k : State → State) : s.tagsPassing none k = k s := rfl

theorem pairLw_of_eq {pos : Nat} {t u : W32} (h : tagLw t = tagLw u) : pairLw pos t u = none := by simp [pairLw, failIf, h]

theorem pairEfd_of_eq {pos : Nat} {t u : W32} (h : tagEfd t = tagEfd u) : pairEfd pos t u = none := by simp [pairEfd, failIf, h]

/-! ## Vector results lane by lane (R134, R154) -/

/-- The elements of a vector result by their places: those that `on` names, each with its code and its event. -/
def elemsOn (lw : Nat) (on : Nat → Bool) (el : Nat → Elem) : List (Option Elem) :=
  (List.range (laneCount lw)).map fun e => if on e then some (el e) else none

theorem map_eq_elemsOn {lw : Nat} {f : Nat → Option Elem} {on : Nat → Bool} {el : Nat → Elem}
    (h : ∀ e, e < laneCount lw → f e = if on e then some (el e) else none) : (List.range (laneCount lw)).map f = elemsOn lw on el :=
  List.map_congr_left fun e he => h e (List.mem_range.1 he)

theorem getD_map_elemsOn {β : Type} {lw e : Nat} (he : e < laneCount lw) (on : Nat → Bool) (el : Nat → Elem) (g : Option Elem → β) (d : β) :
    ((elemsOn lw on el).map g).getD e d = g (if on e then some (el e) else none) := by
  simp [elemsOn, he]

theorem zipIdx_elemsOn (lw : Nat) (on : Nat → Bool) (el : Nat → Elem) :
    ((elemsOn lw on el).zipIdx.map fun x => (x.2, x.1.bind (·.2))) =
      (List.range (laneCount lw)).map fun e => (e, if on e then (el e).2 else none) := by
  refine List.ext_getElem (by simp [elemsOn]) fun e _ _ => ?_
  cases h : on e <;> simp [elemsOn, h]

theorem eventsOf_of_none {l : List (Nat × Option EvKind)} (h : ∀ x ∈ l, x.2 = none) : eventsOf l = [] := by
  refine List.filterMap_eq_nil_iff.2 fun k _ => ?_
  rw [List.find?_eq_none.2 fun x hx => by simp [h x hx], Option.map_none]

/-- A word that lands its elements by their places writes exactly those. -/
theorem State.writesElems_of_landVec {s : State} {i : Instr} {cls lw : Nat} {vd : Fin 32} {on : Nat → Bool} {el : Nat → Elem} {t : W32}
    (h : s.Gives i (s.landVec cls vd lw (elemsOn lw on el) t).holdClass) : s.WritesElems i cls vd lw on el t := by
  refine ⟨_, _, _, ?events, fun e k he hk => ⟨?enables, fun hon => ?codes⟩, h⟩
  case events => exact congrArg eventsOf (zipIdx_elemsOn lw on el)
  case enables =>
    rw [getLsbD_laneMask he hk, getD_map_elemsOn he]
    cases on e <;> rfl
  case codes =>
    rw [getLsbD_ofLanes he hk, getD_map_elemsOn he, if_pos hon]
    rfl

/-- A word whose elements raise no event writes their codes alone. -/
theorem State.WritesElems.bits {s : State} {i : Instr} {cls lw : Nat} {vd : Fin 32} {on : Nat → Bool} {val : Nat → Nat} {t : W32}
    (h : s.WritesElems i cls vd lw on (fun e => (val e, none)) t) : s.WritesBits i cls vd lw on val t := by
  obtain ⟨data, en, evs, rfl, lanes, gives⟩ := h
  refine ⟨data, en, _, eventsOf_of_none ?_, lanes, gives⟩
  simp

/-- A word that writes under the destination's own tag (R151): its elements cut to the tag's width. -/
theorem State.writesBits_of_intoTag {s : State} {i : Instr} {p : Pred} {vd : Fin 32} {f : State → Nat → Nat → Nat → Option Nat}
    {on : Nat → Bool} {val : Nat → Nat} (hp : i.pred? = some p) (hx : exec i s = .next (s.intoTag i p vd f)) :
    let t := s.core.tag[vd]
    (∀ w e, f s (laneCount (tagLw t)) w e = if on e then some (val e) else none) → tagCheck 3 t true = none →
      s.WritesBits i 6 vd (tagLw t) on (fun e => val e % 2 ^ tagWidth t) t := by
  intro t hf passes
  have cut (w e : Nat) : ((f s (laneCount (tagLw t)) w e).map fun x => (x % 2 ^ w, (none : Option EvKind))) =
      if on e then some (val e % 2 ^ w, none) else none := by
    rw [hf]
    split <;> rfl
  have gives := gives_of_issue hp hx
  dsimp only at gives
  rw [passes, tagsPassing_none, map_eq_elemsOn fun e _ => cut _ e] at gives
  exact (writesElems_of_landVec gives).bits

/-! ## VSEED, VMASK and VCMP -/

/-- Under vm0 every element is enabled. -/
theorem State.each_zero (s : State) (lw : Nat) (f : Nat → Elem) : s.each 0 lw f = elemsOn lw (fun _ => true) f := by
  refine map_eq_elemsOn fun e he => ?_
  have inside : e * laneBits lw / 32 < 64 := by
    have := laneBits_mul_add_lt he (k := 0) (by simp [laneBits])
    rw [Nat.mul_comm]
    omega
  rw [enabled, Isle.getLsbD_rdVm _ _ inside]
  rfl

theorem State.rmode_sr_r (s : State) (sat : Bool) (e : Nat) :
    (s.rmode .sr sat e).r = srBits s.core.srseed s.ctx.rcycle (s.core.py * s.ctx.image.w + s.core.px) e := by
  rw [rmode, if_pos rfl]

/-- VSEED lands the stochastic bits of every 32-bit lane (R152). -/
theorem State.gives_vseed {s : State} {p : Pred} {vd : Fin 32} :
    s.Gives (.vseed p vd) (s.landVec 6 vd 2 (elemsOn 2 (fun _ => true) fun e =>
      (srBits s.core.srseed s.ctx.rcycle (s.core.py * s.ctx.image.w + s.core.px) e, none)) 0x08003011#32).holdClass := by
  have gives := s.gives_of_issue (i := .vseed p vd) rfl rfl
  simp only [each_zero, rmode_sr_r] at gives
  exact gives

/-- A mask word lands its truth table's value of every two bits (R153). -/
theorem State.gives_vmask {s : State} {p : Pred} {vmd vma vmb : Fin 8} {tt : BitVec 4} :
    s.Gives (.vmask p vmd vma vmb tt) (s.land 6 (.mask vmd (BitVec.ofNat 64 (joinLanes 1 ((List.range 64).map fun k =>
      if truth tt ((s.core.rdVm vma).getLsbD k) ((s.core.rdVm vmb).getLsbD k) then 1 else 0))))).holdClass :=
  s.gives_of_issue (i := .vmask p vmd vma vmb tt) rfl rfl

/-- A compare whose sources pass lands the mask of its element results (R141). -/
theorem State.gives_vcmp {s : State} {p : Pred} {vmd vm : Fin 8} {c : VCond} {va vb : Fin 32} (ha : arithSource 0 s.core.tag[va] isFI = none)
    (hb : arithSource 1 s.core.tag[vb] isFI = none) (hl : tagLw s.core.tag[va] = tagLw s.core.tag[vb])
    (he : tagEfd s.core.tag[va] = tagEfd s.core.tag[vb]) :
    let f := tagFmt s.core.tag[va]
    s.Gives (.vcmp p vmd c va vb vm) (s.land 6 (.mask vmd (compareMask f.lw (s.core.rdVm vm)
      ((List.range (laneCount f.lw)).map fun e => cmpElem f c (lane s.core.v[va] f.lw e) (lane s.core.v[vb] f.lw e))))).holdClass := by
  intro f
  have gives := s.gives_of_issue (i := .vcmp p vmd c va vb vm) rfl rfl
  dsimp only at gives
  rwa [ha, hb, pairLw_of_eq hl, pairEfd_of_eq he] at gives

/-- Settles O28: the words on the destination's own tag by `State.writesBits_of_intoTag`, the masks bit by bit. -/
theorem vectorTagsAndMasks : Obligations.VectorTagsAndMasks := by
  unfold Obligations.VectorTagsAndMasks
  intro s p vd va vb bs bi vmd vma vmb vm tt c t lw x n own mask f hit
  have readMask (r : Fin 8) {k : Nat} (hk : k < 64) : (s.core.rdVm r).getLsbD k = mask r k := s.core.getLsbD_rdVm r hk
  refine ⟨?vbcast, ?vins, ?viota, ?vtag, ?vseed, ?vmaskB, ?vmask, ?vcmp⟩
  case vbcast | viota => exact State.writesBits_of_intoTag rfl rfl fun _ _ => rfl
  case vins =>
    refine State.writesBits_of_intoTag rfl rfl fun _ e => ?_
    simp only [decide_eq_true_eq]
    rfl
  case vtag => exact s.gives_of_issue (i := .vtag p vd bs) rfl rfl
  case vmaskB => exact s.gives_of_issue (i := .vmaskB p vmd bs) rfl rfl
  case vseed => exact (State.writesElems_of_landVec State.gives_vseed).bits
  case vmask =>
    refine ⟨_, fun k hk => ?_, State.gives_vmask⟩
    rw [getLsbD_ofBits _ hk, truth_eq, readMask _ hk, readMask _ hk]
  case vcmp =>
    intro ha hb hl he
    refine ⟨_, fun k hk two => ?_, fun k hk three => ?_, State.gives_vcmp ha hb hl he⟩
    · rw [getLsbD_compareMask_of_two two _ _ hk, readMask _ hk]
    · have lower : k / 2 * 2 < 64 := by omega
      rw [getLsbD_compareMask_of_three three _ _ hk, readMask _ lower]

end Sys2Proof.Machine
end

section
/-! PROOFS. The stream words of slot M (R160-R164): what each check does where it passes, then each word as the one effect that it has
where all of its checks pass. -/

namespace Sys2Proof.Machine

/-! ## Checks that pass -/

section
variable {s : State} {k : State → State} {u : Buf} {a n al : Nat}

/-- A read that meets no uncorrectable sector goes on (R207). -/
theorem State.reading_of_unspoiled (h : s.core.spoiled u a n = false) : s.reading u a n k = k s := by
  have none_spoilt : s.core.firstSpoilt (bufCode u) a n = none := if_neg (Bool.eq_false_iff.1 h)
  rw [reading, none_spoilt]

/-- An aligned access inside the footprint goes on (R159). -/
theorem State.inBuf_of_inside (aligned : a % al = 0) (fits : a + n ≤ s.ctx.image.foot u) : s.inBuf u a n al k = k s :=
  if_neg (by omega)

theorem State.passing_of_none {f : Option Fail} (h : f = none) : s.passing f a k = k s := by
  subst h
  rfl

theorem State.tagsPassing_of_none {f : Option Fail} (h : f = none) : s.tagsPassing f k = k s := by
  subst h
  rfl

theorem failIf_of_false {c : Bool} {cause pos reason : Nat} (h : c = false) : failIf c cause pos reason = none := by
  subst h
  rfl

/-- A word of slot M answers with its effect, where that leaves the slot; it holds no class cycle (R378). -/
theorem State.gives_of_effect {i : Instr} {p : Pred} {b : State → State} {t : State} (hs : s.slot = .M) (hp : i.pred? = some p)
    (hx : exec i s = .next (s.issue i p b)) (kept : t.slot = s.slot) (effect : b s = t) : s.Gives i t := by
  subst effect
  have ctl : (b s).slot.cls = .ctl := by rw [kept, hs]; rfl
  intro hi
  rw [hx, issue_ctl b hi hp ctl]

end

/-! ## The words -/

/-- The stream register that SOPEN latches from a header, its cursor at the start (R155, R160). -/
def StreamReg.openedOn (wr : Bool) (u : Buf) (base : Nat) (h : Hdr) : StreamReg :=
  { opened := true, write := wr, buf := u, base := base, tscale := h.tscale, moff := h.moff, soff := h.soff, doff := h.doff
    stride := h.stride, cols := h.cols, rows := h.rows, kind := h.kind, geom := h.geom, efd := h.efd }

section
variable {s : State} {p : Pred} {t : Fin 16}

/-- SOPEN where the header passes, its tile lies inside the footprint and its kind can be streamed in the word's direction (R160). -/
theorem State.gives_sopen {i : Instr} {wr : Bool} {u : Buf} {ba : Fin 32} (hs : s.slot = .M) (hp : i.pred? = some p)
    (hx : exec i s = .next (s.sopen i p wr t u ba)) :
    let base := (s.core.rdB ba).toNat
    let l := (s.core.buf u).bytes base 32
    let h := Hdr.ofNat (ofLe l)
    base % 32 = 0 → base + 32 ≤ s.ctx.image.foot u → s.core.spoiled u base 32 = false → hdrCheck 0 l = none →
      base + h.extent ≤ s.ctx.image.foot u → h.kind ≠ 4 → (wr = true → (h.kind = 0 ∨ h.kind = 3) ∧ h.sparse = 0) →
      s.Gives i (s.land 3 (.stream t (.openedOn wr u base h))) := by
  intro base l h aligned inside unspoiled checked extent streamed writable
  refine gives_of_effect hs hp hx rfl ?_
  have placed : ¬(base % 32 ≠ 0 ∨ s.ctx.image.foot u < base + 32) := by omega
  have admitted : ¬(wr = true ∧ ¬((h.kind = 0 ∨ h.kind = 3) ∧ h.sparse = 0)) := fun x => x.2 (writable x.1)
  refine (if_neg placed).trans ((reading_of_unspoiled unspoiled).trans ((passing_of_none checked).trans ?_))
  exact (if_neg (Nat.not_lt.2 extent)).trans ((if_neg streamed).trans (if_neg admitted))

/-- SREAD of an open read stream whose header passes reads at the cursor, which moves on at the end of the rc (R163). -/
theorem State.gives_sread {v : Fin 32} (hs : s.slot = .M) :
    let r := s.core.st[t]
    r.opened = true → r.write = false → hdrValid 0 (Hdr.ofStream r) = none → tileFit 0 (Hdr.ofStream r) = none →
      ((Hdr.ofStream r).sfmt = 0 ∨ (Hdr.ofStream r).baxis ≠ 1) →
      s.Gives (.sread p v t) ((s.access 5 (.stream v r)).after 0 (.stream t r.advance)) := by
  intro r opened reads valid fits axis
  refine gives_of_effect hs rfl rfl rfl ?_
  have unscaled : ((Hdr.ofStream r).sfmt != 0 && (Hdr.ofStream r).baxis == 1) = false := by
    obtain h | h := axis <;> simp [h]
  have passes : (hdrValid 0 (Hdr.ofStream r) <|> failIf ((Hdr.ofStream r).sfmt != 0 && (Hdr.ofStream r).baxis == 1) causeCombo 0 0x14 <|>
      tileFit 0 (Hdr.ofStream r)) = none := by
    rw [valid, fits, failIf_of_false unscaled]
    rfl
  exact (if_neg (Bool.not_not_eq.2 opened)).trans ((if_neg (Bool.eq_false_iff.1 reads)).trans (passing_of_none passes))

/-- SWRITE of a register whose tag pairs with an open write stream stores at the cursor, which moves on at the end of the rc (R164). -/
theorem State.gives_swrite {v : Fin 32} (hs : s.slot = .M) :
    let r := s.core.st[t]
    let tag := s.core.tag[v]
    let h := Hdr.ofStream r
    r.opened = true → r.write = true → tagCheck 0 tag false = none →
      (if r.sph then tagSreg tag && tagSfmt tag == h.sfmt && tagSblk tag == h.bsize else tagPairs tag h) = true →
      s.Gives (.swrite p t v) ((s.after 3 (streamStore r s.core.v[v])).after 0 (.stream t r.advance)) := by
  intro r tag h opened writes tagged fits
  refine gives_of_effect hs rfl rfl rfl ?_
  refine (if_neg (Bool.not_not_eq.2 opened)).trans ((if_neg (Bool.not_not_eq.2 writes)).trans ?_)
  exact (tagsPassing_of_none tagged).trans (passing_of_none (failIf_of_false (congrArg not fits)))

/-- SSEEK to an element of an open stream without scales moves the cursor there (R162). -/
theorem State.gives_sseek {brow bcol : Fin 32} (hs : s.slot = .M) :
    let r := s.core.st[t]
    let row := (s.core.rdB brow).toNat
    let col := (s.core.rdB bcol).toNat
    r.opened = true → row < r.rows → col < r.cols → (Hdr.ofStream r).sfmt = 0 →
      s.Gives (.sseek p t brow bcol) (s.after 0 (.stream t { r with row := row, col := col, sph := false })) := by
  intro r row col opened hrow hcol unscaled
  refine gives_of_effect hs rfl rfl rfl ?_
  have inside : ¬(r.rows ≤ row ∨ r.cols ≤ col ∨ ((Hdr.ofStream r).sfmt ≠ 0 ∧ col % blockOf (Hdr.ofStream r).bsize ≠ 0)) := by
    rintro (h | h | ⟨scaled, -⟩)
    · exact absurd hrow (Nat.not_lt.2 h)
    · exact absurd hcol (Nat.not_lt.2 h)
    · exact scaled unscaled
  exact (if_neg (Bool.not_not_eq.2 opened)).trans (if_neg inside)

end

/-- Settles O22: each word's effect where its checks pass, by the lemmas above; closing a closed stream writes the value that stands there
(R161). -/
theorem streamWords : Obligations.StreamWords := by
  unfold Obligations.StreamWords
  intro s p t u ba brow bcol v hs base l h r opens sound
  refine ⟨?sopenR, ?sopenW, ?sclose, ?closed, State.gives_sread hs, State.gives_swrite hs, State.gives_sseek hs⟩
  case sopenR =>
    rintro ⟨aligned, inside, unspoiled, checked, extent, streamed⟩
    exact State.gives_sopen hs rfl rfl aligned inside unspoiled checked extent streamed nofun
  case sopenW =>
    rintro ⟨aligned, inside, unspoiled, checked, extent, streamed⟩ kind sparse
    exact State.gives_sopen hs rfl rfl aligned inside unspoiled checked extent streamed fun _ => ⟨kind, sparse⟩
  case sclose => exact State.gives_of_effect hs rfl rfl rfl rfl
  case closed =>
    intro closed
    rw [← closed]
    exact Vector.set_getElem_self t.isLt

end Sys2Proof.Machine
end

section
/-! PROOFS. The words of slot X that do not occupy the engine (R167, R168, R172), and what MSTAT reads. -/

namespace Sys2Proof.Machine

/-! ## MPLD and MSTAT -/

section
variable {s : State} {p : Pred}

/-- MPLD of an aligned line inside AB's footprint lands its bytes as they stand at issue (R168). -/
theorem State.gives_mpld {bs : Fin 32} {o9 : BitVec 9} :
    let a := (s.core.rdB bs).toNat + 32 * o9.toNat
    a % 32 = 0 → a + 32 ≤ s.ctx.image.foot .ab → s.core.spoiled .ab a 32 = false →
      s.Gives (.mpld p bs o9) (s.after 3 (.mpLine (BitVec.ofNat 256 (s.core.ab.rdN a 32)))).holdClass := by
  intro a aligned fits unspoiled
  have line : s.inBuf .ab a 32 32 (fun s => s.reading .ab a 32 fun s => s.after 3 (.mpLine (BitVec.ofNat 256 (s.core.ab.rdN a 32)))) =
      s.after 3 (.mpLine (BitVec.ofNat 256 (s.core.ab.rdN a 32))) :=
    (inBuf_of_inside aligned fits).trans (reading_of_unspoiled unspoiled)
  rw [← line]
  exact s.gives_of_issue (i := .mpld p bs o9) rfl rfl

/-- MSTAT lands the state that it selects; selection 3 also clears ACCOVF at the end of the rc (R172). -/
theorem State.gives_mstat {g : GReg} {sel : Fin 16} :
    let t := s.land 3 (.scalar g (s.engineState sel))
    s.Gives (.mstat p g sel) (if sel = 3 then t.after 0 .clearAccovf else t).holdClass :=
  s.gives_of_issue (i := .mstat p g sel) rfl rfl

end

/-! ## The engine's state (R172) -/

/-- Four flags as the low bits of a word. -/
def flagWord (a b c d : Bool) : W64 :=
  BitVec.ofNat 64 ((if a then 1 else 0) + (if b then 2 else 0) + (if c then 4 else 0) + (if d then 8 else 0))

theorem flagWord_bits : ∀ a b c d : Bool, (flagWord a b c d).getLsbD 0 = a ∧ (flagWord a b c d).getLsbD 1 = b ∧
    (flagWord a b c d).getLsbD 2 = c ∧ (flagWord a b c d).getLsbD 3 = d ∧ (flagWord a b c d).toNat < 16 := by decide

/-- Every selection but 1 and 2 reads the four flags, in R172's order. -/
theorem State.engineState_flags (s : State) {k : Fin 16} (h1 : k ≠ 1) (h2 : k ≠ 2) :
    s.engineState k = flagWord s.core.mat.running.isSome s.core.mat.latched.isSome s.core.mat.actset s.core.mat.accovf := by
  rw [engineState, if_neg h1, if_neg h2, flagWord]

theorem State.engineState_idle {s : State} (hr : s.core.mat.running = none) (hl : s.core.mat.latched = none) : s.engineState 1 = 0 := by
  rw [engineState, if_pos rfl, hr, hl]
  rfl

/-- Where no word is latched, selection 1 reads what is left of the running word's interval. -/
theorem State.toNat_engineState_running {s : State} {x : XRun} (hr : s.core.mat.running = some x) (hl : s.core.mat.latched = none)
    (fits : x.first + x.len < 2 ^ 64) : (s.engineState 1).toNat = x.first + x.len - s.ctx.rcycle := by
  have rest : s.engineState 1 = BitVec.ofNat 64 (x.first + x.len - s.ctx.rcycle) := by
    rw [engineState, if_pos rfl, hr, hl]
    rfl
  rw [rest, BitVec.toNat_ofNat, Nat.mod_eq_of_lt ((Nat.sub_le ..).trans_lt fits)]

/-- Settles O29: the words land what they compute (`State.gives_of_issue`), and the engine's state is read selection by selection. -/
theorem engineReadsAndParameters : Obligations.EngineReadsAndParameters := by
  unfold Obligations.EngineReadsAndParameters
  refine ⟨fun s p mp g bs imm o9 sel => ?words, fun s => ?state⟩
  case words =>
    intro a
    refine ⟨?mpset, ?mpsetImm, State.gives_mpld, fun h => ?mstat, fun h => ?mstatClear⟩
    case mpset =>
      rw [← BitVec.setWidth_eq_extractLsb' (by decide)]
      exact s.gives_of_issue (i := .mpset p mp bs) rfl rfl
    case mpsetImm => exact s.gives_of_issue (i := .mpsetImm p mp imm) rfl rfl
    case mstat => simpa only [if_neg h] using State.gives_mstat (s := s) (p := p) (g := g) (sel := sel)
    case mstatClear => simpa only [if_pos h] using State.gives_mstat (s := s) (p := p) (g := g) (sel := sel)
  case state =>
    intro m
    refine ⟨fun k hk => ?flags, State.engineState_idle, fun x hr hl _ fits => State.toNat_engineState_running hr hl fits, rfl⟩
    have other : k ≠ 1 ∧ k ≠ 2 := by
      obtain rfl | rfl : k = 0 ∨ k = 3 := by simpa using hk
      · decide
      · decide
    rw [s.engineState_flags other.1 other.2]
    exact flagWord_bits ..

end Sys2Proof.Machine
end

section
/-! PROOFS. One update of a barrier word (R302, R303, R304) and the misuse it can find (R297). -/

namespace Sys2Proof.Machine

/-! ## The counts of a barrier word -/

theorem bytesFit_iff {x : Int} : bytesFit x = true ↔ -(2 ^ 47 : Int) ≤ x ∧ x < 2 ^ 47 := by
  simp only [bytesFit, Bool.and_eq_true, decide_eq_true_iff]

/-- The word with `n` arrivals taken from its PEND and `y` bytes announced, before the phase is looked at. -/
def BarW.counted (b : BarW) (n : Nat) (y : Int) : BarW := { b with pend := b.pend - n, bytes := b.bytes + y }

/-- Nothing left pending ends the phase (R304). -/
theorem BarW.settle_counted_of_done {b : BarW} {n : Nat} {y : Int} (arrived : b.pend - n = 0) (moved : b.bytes + y = 0) :
    (b.counted n y).settle = { b with phase := (b.phase + 1) % 16, pend := b.init, bytes := 0 } := by
  rw [settle, if_pos ⟨arrived, moved⟩, counted, moved]

/-- Arrivals or bytes still pending leave the phase open (R304). -/
theorem BarW.settle_counted_of_pending {b : BarW} {n : Nat} {y : Int} (pending : b.pend - n ≠ 0 ∨ b.bytes + y ≠ 0) :
    (b.counted n y).settle = b.counted n y :=
  if_neg (not_and_or.mpr pending)

/-! ## An announcement and an arrival (R303) -/

theorem BarW.announce_of_fit {b : BarW} {y : Int} (fit : bytesFit (b.bytes + y) = true) : b.announce y = .ok (b.counted 0 y).settle :=
  if_pos fit

theorem BarW.announce_of_not_fit {b : BarW} {y : Int} (h : ¬ bytesFit (b.bytes + y) = true) : b.announce y = .error 0x82 :=
  if_neg h

theorem BarW.arrive_of_none_pending {b : BarW} {y : Int} (idle : b.pend = 0) : b.arrive y = .error 0x81 :=
  if_pos idle

theorem BarW.arrive_of_fit {b : BarW} {y : Int} (pending : b.pend ≠ 0) (fit : bytesFit (b.bytes + y) = true) :
    b.arrive y = .ok (b.counted 1 y).settle :=
  (if_neg pending).trans (if_pos fit)

theorem BarW.arrive_of_not_fit {b : BarW} {y : Int} (pending : b.pend ≠ 0) (h : ¬ bytesFit (b.bytes + y) = true) : b.arrive y = .error 0x82 :=
  (if_neg pending).trans (if_neg h)

/-- An announcement that is made takes no arrival. -/
theorem BarW.eq_of_announce {b c : BarW} {y : Int} (h : b.announce y = .ok c) : 0 ≤ b.pend ∧ c = (b.counted 0 y).settle := by
  by_cases fit : bytesFit (b.bytes + y) = true
  case pos =>
    rw [announce_of_fit fit] at h
    exact ⟨Nat.zero_le _, (Except.ok.inj h).symm⟩
  case neg => simp [announce_of_not_fit fit] at h

/-- An arrival that is made takes one that was pending. -/
theorem BarW.eq_of_arrive {b c : BarW} {y : Int} (h : b.arrive y = .ok c) : 1 ≤ b.pend ∧ c = (b.counted 1 y).settle := by
  by_cases idle : b.pend = 0
  case pos => simp [arrive_of_none_pending idle] at h
  case neg =>
    by_cases fit : bytesFit (b.bytes + y) = true
    case pos =>
      rw [arrive_of_fit idle fit] at h
      exact ⟨Nat.one_le_iff_ne_zero.mpr idle, (Except.ok.inj h).symm⟩
    case neg => simp [arrive_of_not_fit idle fit] at h

/-! ## What one update counts -/

/-- The arrivals and the bytes that an update other than BARINIT counts. -/
def BarUpd.counts : BarUpd → Nat × Int
  | .arrive y => (1, y)
  | .add y => (0, y)
  | .bytes n => (0, -(n : Int))
  | .kite n => (1, -(n : Int))
  | .coll => (1, 0)
  | .init _ => (0, 0)

theorem eq_ok_of_ite {p : Prop} [Decidable p] {x : Except Nat BarW} {r : Nat} {c : BarW} (h : (if p then x else .error r) = .ok c) :
    x = .ok c := by
  by_cases hp : p
  case pos => rwa [if_pos hp] at h
  case neg => simp [if_neg hp] at h

/-- An update that is made, BARINIT apart, takes its counts and then looks at the phase. -/
theorem eq_of_barUpdate {ab : Bool} {u : BarUpd} {b c : BarW} (h : barUpdate ab u b = .ok c) (notInit : ∀ x, u ≠ .init x) :
    u.counts.1 ≤ b.pend ∧ c = (b.counted u.counts.1 u.counts.2).settle := by
  cases u with
  | init x => exact absurd rfl (notInit x)
  | arrive y => exact BarW.eq_of_arrive (eq_ok_of_ite h)
  | add y => exact BarW.eq_of_announce (eq_ok_of_ite h)
  | bytes n => exact BarW.eq_of_announce (eq_ok_of_ite h)
  | kite n => exact BarW.eq_of_arrive (eq_ok_of_ite h)
  | coll => exact BarW.eq_of_arrive (eq_ok_of_ite h)

/-! ## Updates of a barrier of isle scope -/

section
variable {b : BarW} {y : Int}

theorem barUpdate_arrive_ab (isle : b.scope = 0) : barUpdate true (.arrive y) b = b.arrive y :=
  if_pos (beq_iff_eq.mpr isle)

theorem barUpdate_add_ab (isle : b.scope = 0) : barUpdate true (.add y) b = b.announce y :=
  if_pos (beq_iff_eq.mpr isle)

/-- A barrier of isle scope has no place in device memory (R297 reason 0x84). -/
theorem barUpdate_add_dm (isle : b.scope = 0) : barUpdate false (.add y) b = .error 0x84 := by
  have unsuited : scopeSuits false (.add y) b.scope = false := by rw [isle]; rfl
  rw [barUpdate, unsuited, if_neg Bool.false_ne_true]

end

/-! ## BARINIT (R302) -/

theorem barInit_fields (x : W64) :
    (barInit x).init = (x.extractLsb' 0 20).toNat ∧ (barInit x).scope = (x.extractLsb' 20 4).toNat ∧ (barInit x).sig = (x.extractLsb' 32 32).toNat :=
  ⟨fld_toNat .., fld_toNat .., fld_toNat ..⟩

theorem barUpdate_init_of_no_arrivals {x : W64} {ab : Bool} {b : BarW} (zero : (barInit x).init = 0) :
    barUpdate ab (.init x) b = .error 0x83 := by
  have fault : barInitFault ab x = some 0x83 := if_pos (.inl zero)
  rw [barUpdate, fault]

theorem barUpdate_init_ab {x : W64} {b : BarW} (counts : (barInit x).init ≠ 0) (isle : (barInit x).scope = 0) :
    barUpdate true (.init x) b = .ok (barInit x) := by
  have fault : barInitFault true x = none := by simp [barInitFault, counts, isle]
  rw [barUpdate, fault]

/-- Settles O42: an update that is made takes its counts and settles (`eq_of_barUpdate`); BARINIT, an arrival and an announcement in AB
are read case by case. -/
theorem barrierUpdates : Obligations.BarrierUpdates := by
  unfold Obligations.BarrierUpdates
  refine ⟨fun b c ab u notInit _ h => ?made, fun b x y isle => ?ab⟩
  case made =>
    obtain ⟨enough, rfl⟩ := eq_of_barUpdate h notInit
    exact ⟨enough, BarW.settle_counted_of_done, BarW.settle_counted_of_pending⟩
  case ab =>
    obtain ⟨init, scope, sig⟩ := barInit_fields x
    rw [barUpdate_arrive_ab isle, barUpdate_add_ab isle, barUpdate_add_dm isle]
    simp only [← bytesFit_iff, Nat.pos_iff_ne_zero]
    refine ⟨fun nonzero isleScope => ?init, fun zero => ?noArrivals, BarW.arrive_of_none_pending, BarW.arrive_of_not_fit,
      fun pending fit => ⟨_, BarW.arrive_of_fit pending fit⟩, fun fit => ⟨_, BarW.announce_of_fit fit⟩, nofun⟩
    case init =>
      have counts : (barInit x).init ≠ 0 := fun z => nonzero (BitVec.eq_of_toNat_eq (init.symm.trans z))
      have suits : (barInit x).scope = 0 := by rw [scope, isleScope]; rfl
      exact ⟨barInit x, barUpdate_init_ab counts suits, rfl, init, rfl, rfl, suits, sig⟩
    case noArrivals => exact barUpdate_init_of_no_arrivals (by rw [init, zero]; rfl)

end Sys2Proof.Machine
end

section
/-! PROOFS. Words and instructions (R88-R104, R233): the fields of a sum of shifted parts, the operands as fields, then each
slot's decoder on the words that its encoder writes, and its encoder on the instructions that its decoder answers. -/

namespace Sys2Proof

/-! ## Fields of a sum -/

section
variable {v r w k lo n opc low : Nat} {p : Pred}

theorem fld_lt (w lo n : Nat) : fld w lo n < 2 ^ n := Nat.mod_lt _ (Nat.two_pow_pos n)

@[simp] theorem fld_all (hv : v < 2 ^ n) : fld v 0 n = v := by
  rw [fld, Nat.pow_zero, Nat.div_one, Nat.mod_eq_of_lt hv]

@[simp] theorem fld_add_high (hr : r < 2 ^ k) (hv : v < 2 ^ n) : fld (v * 2 ^ k + r) k n = v := by
  rw [fld, Nat.mul_comm, Nat.mul_add_div (Nat.two_pow_pos k), Nat.div_eq_of_lt hr, Nat.add_zero, Nat.mod_eq_of_lt hv]

@[simp] theorem fld_add_low (h : lo + n ≤ k) : fld (v * 2 ^ k + r) lo n = fld r lo n := by
  obtain ⟨m, rfl⟩ := Nat.exists_eq_add_of_le h
  rw [fld, fld, Nat.add_assoc lo n m, Nat.pow_add, show v * (2 ^ lo * 2 ^ (n + m)) = 2 ^ lo * (v * 2 ^ (n + m)) by ring,
    Nat.mul_add_div (Nat.two_pow_pos lo), Nat.pow_add, show v * (2 ^ n * 2 ^ m) = 2 ^ n * (v * 2 ^ m) by ring, Nat.mul_add_mod]

@[simp] theorem fld_mul_high (hv : v < 2 ^ n) : fld (v * 2 ^ k) k n = v := fld_add_high (r := 0) (Nat.two_pow_pos k) hv

@[simp] theorem fld_mul_low (h : lo + n ≤ k) : fld (v * 2 ^ k) lo n = 0 := by
  have := fld_add_low (v := v) (r := 0) h
  simpa [fld] using this

@[simp] theorem fld_two_pow_add_high (hr : r < 2 ^ k) (hn : 0 < n) : fld (2 ^ k + r) k n = 1 := by
  simpa using fld_add_high (v := 1) hr (Nat.one_lt_two_pow hn.ne')

@[simp] theorem fld_two_pow_add_low (h : lo + n ≤ k) : fld (2 ^ k + r) lo n = fld r lo n := by simpa using fld_add_low (v := 1) (r := r) h

@[simp] theorem fld_two_pow_high (hn : 0 < n) : fld (2 ^ k) k n = 1 := fld_two_pow_add_high (r := 0) (Nat.two_pow_pos k) hn

@[simp] theorem fld_two_pow_low (h : lo + n ≤ k) : fld (2 ^ k) lo n = 0 := by simpa [fld] using fld_two_pow_add_low (r := 0) h

@[simp] theorem fld_mul_two_high (hv : v < 2 ^ n) : fld (v * 2) 1 n = v := fld_mul_high (k := 1) hv

@[simp] theorem fld_mul_two_low : fld (v * 2) 0 1 = 0 := fld_mul_low (k := 1) (le_refl 1)

@[simp] theorem fld_zero (lo n : Nat) : fld 0 lo n = 0 := by simp [fld]

@[simp] theorem fld_above (h : v < 2 ^ lo) : fld v lo n = 0 := by rw [fld, Nat.div_eq_of_lt h, Nat.zero_mod]

/-- A field is its high part above its low part. -/
theorem fld_split (w lo m n : Nat) : fld w lo (m + n) = fld w (lo + m) n * 2 ^ m + fld w lo m := by
  rw [fld, fld, fld, Nat.pow_add, Nat.mod_mul, Nat.pow_add, Nat.div_div_eq_div_mul]
  ring

/-! ## The predicate bits and the opcode -/

/-- The predicate as four bits (R88). -/
def ePred (p : Pred) : Nat := eBool p.neg * 2 ^ 3 + p.idx.val

theorem encHead_eq (p : Pred) (opc : Nat) : encHead p opc = (ePred p * 2 ^ 6 + opc) * 2 ^ 22 := by
  unfold encHead ePred eBool
  split <;> omega

theorem ePred_lt (p : Pred) : ePred p < 2 ^ 4 := by
  unfold ePred eBool
  split <;> omega

theorem fPred_eq_iff : fPred w = p ↔ fld w 28 4 = ePred p := by
  obtain ⟨neg, idx⟩ := p
  rw [show fld w 28 4 = fld w 31 1 * 2 ^ 3 + fld w 28 3 from fld_split w 28 3 1]
  have h3 := fld_lt w 28 3
  have h1 := fld_lt w 31 1
  simp only [fPred, Pred.mk.injEq, fBool, f3, Fin.ext_iff, Fin.ofNat, ePred]
  change (_ ∧ fld w 28 3 = _) ↔ _
  cases neg <;> simp only [eBool, beq_iff_eq, beq_eq_false_iff_ne] <;> grind

end

/-! ## Reading a word of known fields -/

section
variable {opc low : Nat} {p : Pred}

theorem encHead_lt (hl : low < 2 ^ 22) (ho : opc < 64) : encHead p opc + low < 2 ^ 32 := by
  have := ePred_lt p
  rw [encHead_eq]
  omega

@[simp] theorem fPred_encHead (hl : low < 2 ^ 22) (ho : opc < 2 ^ 6) : fPred (encHead p opc + low) = p := by
  have hp := ePred_lt p
  rw [fPred_eq_iff, encHead_eq, fld]
  omega

@[simp] theorem fld_encHead_opc (hl : low < 2 ^ 22) (ho : opc < 2 ^ 6) : fld (encHead p opc + low) 22 6 = opc := by
  rw [encHead_eq, fld]
  omega

@[simp] theorem fld_encHead_low {lo n : Nat} (h : lo + n ≤ 22) : fld (encHead p opc + low) lo n = fld low lo n := by
  rw [encHead_eq, fld_add_low h]

@[simp] theorem fld_encHead_bare_opc (ho : opc < 2 ^ 6) : fld (encHead p opc) 22 6 = opc := by
  rw [← Nat.add_zero (encHead p opc), fld_encHead_opc (by decide) ho]

@[simp] theorem fld_encHead_bare_low {lo n : Nat} (h : lo + n ≤ 22) : fld (encHead p opc) lo n = 0 := by
  rw [← Nat.add_zero (encHead p opc), fld_encHead_low h, fld_zero]

@[simp] theorem fPred_encHead_bare (ho : opc < 2 ^ 6) : fPred (encHead p opc) = p := by
  rw [← Nat.add_zero (encHead p opc), fPred_encHead (by decide) ho]

end

/-! ## Operands as fields -/

section
variable {w lo : Nat}

@[simp] theorem f2_eq_iff {x : Fin 4} : f2 w lo = x ↔ fld w lo 2 = x.val := Fin.ext_iff
@[simp] theorem f3_eq_iff {x : Fin 8} : f3 w lo = x ↔ fld w lo 3 = x.val := Fin.ext_iff
@[simp] theorem f4_eq_iff {x : Fin 16} : f4 w lo = x ↔ fld w lo 4 = x.val := Fin.ext_iff
@[simp] theorem f5_eq_iff {x : Fin 32} : f5 w lo = x ↔ fld w lo 5 = x.val := Fin.ext_iff
@[simp] theorem f6_eq_iff {x : Fin 64} : f6 w lo = x ↔ fld w lo 6 = x.val := Fin.ext_iff
@[simp] theorem fb_eq_iff {n : Nat} {x : BitVec n} : fb n w lo = x ↔ fld w lo n = x.toNat := by
  rw [← BitVec.toNat_inj, fb, BitVec.toNat_ofNat, fld]

end

/-! ## The code of an operand, with its range -/

def codeG (x : GReg) : Fin 64 := ⟨eG x, by cases x <;> simp only [eG] <;> omega⟩
def codeBool (x : Bool) : Fin 2 := ⟨eBool x, by cases x <;> decide⟩
def codeBuf (x : Buf) : Fin 3 := ⟨eBuf x, by cases x <;> decide⟩
def codeDir (x : Dir) : Fin 4 := ⟨eDir x, by cases x <;> decide⟩
def codeRm (x : Rm) : Fin 4 := ⟨eRm x, by cases x <;> decide⟩
def codeCls (x : ClkClass) : Fin 4 := ⟨eCls x, by cases x <;> decide⟩
def codeScope (x : Scope) : Fin 3 := ⟨eScope x, by cases x <;> decide⟩
def codeCond (x : Cond) : Fin 6 := ⟨eCond x, by cases x <;> decide⟩
def codeVCond (x : VCond) : Fin 7 := ⟨eVCond x, by cases x <;> decide⟩
def codeOp (x : AtomOp) : Fin 9 := ⟨eOp x, by cases x <;> decide⟩

/-- XS and CTX as the three bits [12:10] (R97). -/
def codeSig (x : Option (Fin 4)) : Fin 8 := ⟨eSig x / 2 ^ 10, by cases x <;> simp only [eSig] <;> omega⟩

def codeSys (r : SysReg) : Fin 256 := ⟨r.num, by cases r <;> simp only [SysReg.num] <;> omega⟩

theorem eG_eq (x : GReg) : eG x = (codeG x).val := rfl
theorem eBool_eq (x : Bool) : eBool x = (codeBool x).val := rfl
theorem eBuf_eq (x : Buf) : eBuf x = (codeBuf x).val := rfl
theorem eDir_eq (x : Dir) : eDir x = (codeDir x).val := rfl
theorem eRm_eq (x : Rm) : eRm x = (codeRm x).val := rfl
theorem eCls_eq (x : ClkClass) : eCls x = (codeCls x).val := rfl
theorem eScope_eq (x : Scope) : eScope x = (codeScope x).val := rfl
theorem eCond_eq (x : Cond) : eCond x = (codeCond x).val := rfl
theorem eVCond_eq (x : VCond) : eVCond x = (codeVCond x).val := rfl
theorem eOp_eq (x : AtomOp) : eOp x = (codeOp x).val := rfl
theorem sysNum_eq (r : SysReg) : r.num = (codeSys r).val := rfl

theorem eSig_eq (x : Option (Fin 4)) : eSig x = (codeSig x).val * 2 ^ 10 := by
  cases x <;> simp only [eSig, codeSig] <;> omega

@[simp] theorem codeBuf_lt (x : Buf) : (codeBuf x).val < 3 := (codeBuf x).isLt
@[simp] theorem codeBuf_ne (x : Buf) : (codeBuf x).val ≠ 3 := (codeBuf_lt x).ne
@[simp] theorem codeScope_lt (x : Scope) : (codeScope x).val < 3 := (codeScope x).isLt
@[simp] theorem codeScope_ne (x : Scope) : (codeScope x).val ≠ 3 := (codeScope_lt x).ne
@[simp] theorem codeVCond_ne (x : VCond) : (codeVCond x).val ≠ 7 := (codeVCond x).isLt.ne
@[simp] theorem codeCond_lt (x : Cond) : (codeCond x).val < 6 := (codeCond x).isLt
@[simp] theorem codeOp_lt (x : AtomOp) : (codeOp x).val < 9 := (codeOp x).isLt
@[simp] theorem codeBool_false : codeBool false = 0 := rfl
@[simp] theorem codeBool_true : codeBool true = 1 := rfl
@[simp] theorem codeDir_inj {x y : Dir} : codeDir x = codeDir y ↔ x = y := by cases x <;> cases y <;> decide

@[simp] theorem codeDir_val_inj {x y : Dir} : (codeDir x).val = (codeDir y).val ↔ x = y := by rw [Fin.val_inj, codeDir_inj]

section
variable {w lo : Nat}

@[simp] theorem ofNat_two_eq_iff {x : Fin 2} : Fin.ofNat 2 (w / 2 ^ lo) = x ↔ fld w lo 1 = x.val := Fin.ext_iff

@[simp] theorem fG_eq_iff {g : GReg} : fG w lo = g ↔ fld w lo 6 = (codeG g).val := by
  rw [show fld w lo 6 = fld w (lo + 5) 1 * 2 ^ 5 + fld w lo 5 from fld_split w lo 5 1, fG]
  have h5 := fld_lt w lo 5
  have h1 := fld_lt w (lo + 5) 1
  cases g <;> split <;> simp only [codeG, eG, GReg.a.injEq, GReg.b.injEq, f5_eq_iff, reduceCtorEq, false_iff] <;> omega

@[simp] theorem fBool_eq_iff {x : Bool} : fBool w lo = x ↔ fld w lo 1 = (codeBool x).val := by
  have := fld_lt w lo 1
  cases x <;> simp only [fBool, codeBool, eBool, beq_iff_eq, beq_eq_false_iff_ne] <;> grind

@[simp] theorem fDir_eq_iff {x : Dir} : fDir w lo = x ↔ fld w lo 2 = (codeDir x).val := by
  have := fld_lt w lo 2
  unfold fDir
  cases x <;> split <;> simp only [codeDir, eDir, reduceCtorEq] <;> grind

@[simp] theorem fRm_eq_iff {x : Rm} : fRm w lo = x ↔ fld w lo 2 = (codeRm x).val := by
  have := fld_lt w lo 2
  unfold fRm
  cases x <;> split <;> simp only [codeRm, eRm, reduceCtorEq] <;> grind

@[simp] theorem fCls_eq_iff {x : ClkClass} : fCls w lo = x ↔ fld w lo 2 = (codeCls x).val := by
  have := fld_lt w lo 2
  unfold fCls
  cases x <;> split <;> simp only [codeCls, eCls, reduceCtorEq] <;> grind

@[simp] theorem fBuf_eq_iff {x : Buf} : fBuf w lo = x ↔ fld w lo 2 = (codeBuf x).val ∨ fld w lo 2 = 3 ∧ x = .acb := by
  have := fld_lt w lo 2
  unfold fBuf
  cases x <;> split <;> simp only [codeBuf, eBuf, reduceCtorEq] <;> grind

@[simp] theorem fScope_eq_iff {x : Scope} : fScope w lo = x ↔ fld w lo 2 = (codeScope x).val ∨ fld w lo 2 = 3 ∧ x = .fabric := by
  have := fld_lt w lo 2
  unfold fScope
  cases x <;> split <;> simp only [codeScope, eScope, reduceCtorEq] <;> grind

@[simp] theorem fCond_eq_iff {x : Cond} : fCond w lo = x ↔ fld w lo 3 = (codeCond x).val ∨ 6 ≤ fld w lo 3 ∧ x = .geu := by
  have := fld_lt w lo 3
  unfold fCond
  cases x <;> split <;> simp only [codeCond, eCond, reduceCtorEq] <;> grind

@[simp] theorem fVCond_eq_iff {x : VCond} : fVCond w lo = x ↔ fld w lo 3 = (codeVCond x).val ∨ fld w lo 3 = 7 ∧ x = .un := by
  have := fld_lt w lo 3
  unfold fVCond
  cases x <;> split <;> simp only [codeVCond, eVCond, reduceCtorEq] <;> grind

@[simp] theorem fOp_eq_iff {x : AtomOp} : fOp w lo = x ↔ fld w lo 4 = (codeOp x).val ∨ 9 ≤ fld w lo 4 ∧ x = .swap := by
  have := fld_lt w lo 4
  unfold fOp
  cases x <;> split <;> simp only [codeOp, eOp, reduceCtorEq] <;> grind

@[simp] theorem fSig_eq_iff {x : Option (Fin 4)} : fSig w = x ↔ fld w 10 3 = (codeSig x).val ∨ fld w 10 3 < 4 ∧ x = none := by
  rw [show fld w 10 3 = fld w 12 1 * 2 ^ 2 + fld w 10 2 from fld_split w 10 2 1, fSig]
  have h1 := fld_lt w 12 1
  have h2 := fld_lt w 10 2
  cases x with
  | none => split <;> simp only [codeSig, eSig, reduceCtorEq, true_iff, false_iff, and_true] <;> omega
  | some c => split <;> simp only [codeSig, eSig, Option.some.injEq, f2_eq_iff, reduceCtorEq, and_false, or_false, false_iff] <;> omega

@[simp] theorem sigZeros_eq_zero_iff : sigZeros w = 0 ↔ fld w 10 3 = 0 ∨ 4 ≤ fld w 10 3 := by
  rw [show fld w 10 3 = fld w 12 1 * 2 ^ 2 + fld w 10 2 from fld_split w 10 2 1, sigZeros]
  have h1 := fld_lt w 12 1
  have h2 := fld_lt w 10 2
  split <;> omega

@[simp] theorem codeSig_zeros (x : Option (Fin 4)) : codeSig x = 0 ∨ 4 ≤ (codeSig x).val := by
  cases x <;> simp only [codeSig, eSig, Fin.ext_iff] <;> omega

@[simp] theorem fRoute_eq_iff {x : Route} : fRoute w = x ↔ fld w 14 2 = (codeDir x.dir1).val ∧ fld w 9 5 = x.step1.val ∧
    fld w 7 2 = (codeDir x.dir2).val ∧ fld w 2 5 = x.step2.val := by
  cases x
  rw [fRoute, Route.mk.injEq, fDir_eq_iff, fDir_eq_iff, f5_eq_iff, f5_eq_iff]

theorem sysOf_eq_some_iff {n : Nat} {r : SysReg} : sysOf n = some r ↔ n = (codeSys r).val := by
  constructor
  · intro h
    unfold sysOf at h
    split at h <;> cases h <;> rfl
  · rintro rfl
    cases r with
    | bkpt k => revert k; decide
    | perf k => revert k; decide
    | _ => rfl

@[simp] theorem sysOf_codeSys (r : SysReg) : sysOf (codeSys r).val = some r := sysOf_eq_some_iff.2 rfl

end

/-! ## Words that a slot accepts -/

theorem ckWord_eq_ok_iff {w z : Nat} {r : Bool} {i j : Instr} :
    ckWord w z r i = .ok j ↔ z = 0 ∧ r = false ∧ (fPred w).wf = true ∧ i = j := by
  unfold ckWord
  split
  · simp_all
  · split
    · simp_all
    · split <;> simp_all

/-- A word is its predicate bits, its opcode and its 22 operand bits (R88). -/
theorem encHead_fPred {w : Nat} (h : w < 2 ^ 32) : encHead (fPred w) (fld w 22 6) + fld w 0 22 = w := by
  rw [encHead_eq, ← fPred_eq_iff.1 rfl]
  simp only [fld]
  omega

section
variable {w lo n m : Nat}

theorem fld_join : fld w lo n * 2 ^ lo + fld w 0 lo = fld w 0 (lo + n) := by rw [fld_split w 0 lo n, Nat.zero_add]

theorem fld_join_zero (h : fld w 0 lo = 0) : fld w lo n * 2 ^ lo = fld w 0 (lo + n) := by rw [← fld_join, h, Nat.add_zero]

theorem fld_join_one (h : fld w 0 1 = 0) : fld w 1 n * 2 = fld w 0 (1 + n) := fld_join_zero (lo := 1) h

/-- A part above bits that are zero-marked. -/
theorem fld_join_gap (le : m ≤ lo) (h : fld w m (lo - m) = 0) : fld w lo n * 2 ^ lo + fld w 0 m = fld w 0 (lo + n) := by
  have wide := fld_split w 0 m (lo - m)
  rw [Nat.zero_add, h, Nat.zero_mul, Nat.zero_add, Nat.add_sub_cancel' le] at wide
  rw [← wide, fld_join]

end

section
variable (w lo : Nat)

theorem f2_val : (f2 w lo).val = fld w lo 2 := rfl
theorem f3_val : (f3 w lo).val = fld w lo 3 := rfl
theorem f4_val : (f4 w lo).val = fld w lo 4 := rfl
theorem f5_val : (f5 w lo).val = fld w lo 5 := rfl
theorem f6_val : (f6 w lo).val = fld w lo 6 := rfl
theorem fb_toNat (n : Nat) : (fb n w lo).toNat = fld w lo n := (fb_eq_iff.1 rfl).symm
theorem codeG_fG : (codeG (fG w lo)).val = fld w lo 6 := (fG_eq_iff.1 rfl).symm
theorem codeBool_fBool : (codeBool (fBool w lo)).val = fld w lo 1 := (fBool_eq_iff.1 rfl).symm
theorem codeDir_fDir : (codeDir (fDir w lo)).val = fld w lo 2 := (fDir_eq_iff.1 rfl).symm
theorem codeRm_fRm : (codeRm (fRm w lo)).val = fld w lo 2 := (fRm_eq_iff.1 rfl).symm
theorem codeCls_fCls : (codeCls (fCls w lo)).val = fld w lo 2 := (fCls_eq_iff.1 rfl).symm

variable {w lo}

theorem codeBuf_fBuf (h : fld w lo 2 ≠ 3) : (codeBuf (fBuf w lo)).val = fld w lo 2 :=
  ((fBuf_eq_iff.1 rfl).resolve_right fun k => h k.1).symm
theorem codeScope_fScope (h : fld w lo 2 ≠ 3) : (codeScope (fScope w lo)).val = fld w lo 2 :=
  ((fScope_eq_iff.1 rfl).resolve_right fun k => h k.1).symm
theorem codeCond_fCond (h : ¬ 6 ≤ fld w lo 3) : (codeCond (fCond w lo)).val = fld w lo 3 :=
  ((fCond_eq_iff.1 rfl).resolve_right fun k => h k.1).symm
theorem codeVCond_fVCond (h : fld w lo 3 ≠ 7) : (codeVCond (fVCond w lo)).val = fld w lo 3 :=
  ((fVCond_eq_iff.1 rfl).resolve_right fun k => h k.1).symm
theorem codeOp_fOp (h : ¬ 9 ≤ fld w lo 4) : (codeOp (fOp w lo)).val = fld w lo 4 :=
  ((fOp_eq_iff.1 rfl).resolve_right fun k => h k.1).symm
theorem codeSys_of_sysOf {n : Nat} {r : SysReg} (h : sysOf n = some r) : (codeSys r).val = n := (sysOf_eq_some_iff.1 h).symm

theorem codeSig_fSig (h : sigZeros w = 0) : (codeSig (fSig w)).val = fld w 10 3 := by
  obtain h' | ⟨h', k⟩ := (fSig_eq_iff (w := w)).1 rfl
  · exact h'.symm
  · rw [sigZeros_eq_zero_iff] at h
    rw [k, show (codeSig none).val = 0 from rfl]
    omega

end

/-! ## Encoding and then decoding -/

theorem Instr.wf_iff {i : Instr} {p : Pred} (hp : i.pred? = some p) : i.wf = true ↔ i.operandsWf = true ∧ p.wf = true := by
  simp [Instr.wf, hp]

theorem ckWord_encHead {p : Pred} {opc low z : Nat} {r : Bool} {i j : Instr} (wf : j.wf = true) (hp : j.pred? = some p) (hl : low < 2 ^ 22)
    (ho : opc < 2 ^ 6) (hz : z = 0) (hr : j.operandsWf = true → r = false) (hi : i = j) :
    encHead p opc + low < 2 ^ 32 ∧ ckWord (encHead p opc + low) z r i = .ok j := by
  obtain ⟨operands, prefixed⟩ := (Instr.wf_iff hp).1 wf
  exact ⟨encHead_lt hl ho, ckWord_eq_ok_iff.2 ⟨hz, hr operands, by rwa [fPred_encHead hl ho], hi⟩⟩

theorem ckWord_encHead_bare {p : Pred} {opc z : Nat} {i : Instr} (wf : i.wf = true) (hp : i.pred? = some p) (ho : opc < 2 ^ 6) (hz : z = 0) :
    encHead p opc < 2 ^ 32 ∧ ckWord (encHead p opc) z false i = .ok i := by
  rw [← Nat.add_zero (encHead p opc)]
  exact ckWord_encHead wf hp (by decide) ho hz (fun _ => rfl) rfl

theorem decHint_encHead {p : Pred} {h : Fin 4} {o : BitVec 22} (wf : (Instr.hint p h o).wf = true) :
    encHead p (0x3C + h.val) + o.toNat < 2 ^ 32 ∧ decHint (encHead p (0x3C + h.val) + o.toNat) = .ok (.hint p h o) := by
  refine ckWord_encHead wf rfl (by omega) (by omega) rfl (fun _ => rfl) ?_
  congr 1
  · simp (disch := omega) [-Nat.reducePow]
  · rw [f2_eq_iff, show fld (encHead p (0x3C + h.val) + o.toNat) 22 2 = fld (fld (encHead p (0x3C + h.val) + o.toNat) 22 6) 0 2 by simp only [fld]; omega, fld_encHead_opc (by omega) (by omega), fld]
    omega
  · simp (disch := omega) [-Nat.reducePow]

section
variable {w : Nat} (h : 0x3C ≤ fld w 22 6)
include h

theorem opcode_cases_of_hint : fld w 22 6 = 0x3C ∨ fld w 22 6 = 0x3D ∨ fld w 22 6 = 0x3E ∨ fld w 22 6 = 0x3F := by
  have := fld_lt w 22 6
  omega

theorem decC_of_hint : decC w = decHint w := by
  obtain h | h | h | h := opcode_cases_of_hint h <;> simp only [decC, h]

/-- Every slot reads the opcodes 0x3C to 0x3F as a hint (R92). -/
theorem decodeSlot_of_hint (k : SlotId) (hw : w < 2 ^ 32) : decodeSlot k (BitVec.ofNat 32 w) = decHint w := by
  obtain h | h | h | h := opcode_cases_of_hint h <;> cases k <;>
    simp only [decodeSlot, BitVec.toNat_ofNat, Nat.mod_eq_of_lt hw, decC, decAB, decM, decV, decX, decN, decD, h]

end

theorem decC_encC {i : Instr} {w : Nat} (wf : i.wf = true) (h : encC i = some w) : w < 2 ^ 32 ∧ decC w = .ok i := by
  cases i with
  | hint p k o =>
    cases h
    obtain ⟨lt, ok⟩ := decHint_encHead wf
    have opcode : 0x3C ≤ fld (encHead p (0x3C + k.val) + o.toNat) 22 6 := by
      rw [fld_encHead_opc (by omega) (by omega)]
      omega
    exact ⟨lt, (decC_of_hint opcode).trans ok⟩
  | nopC | br | bri | call | ret | loop | loopr | lbrk | safept | endC | trap | tret | brk | waitf | postf | waitb | yieldC | clkdiv
    | statpop =>
    cases h
    simp (disch := omega) only [eC, eSig_eq, eG_eq, eCls_eq, Nat.add_assoc, decC, fld_encHead_opc, -Nat.reducePow]
    exact ckWord_encHead wf rfl (by omega) (by decide) (by simp (disch := omega) [-Nat.reducePow])
      (by simp (disch := omega) [Instr.operandsWf, -Nat.reducePow]) (by congr 1 <;> simp (disch := omega) [-Nat.reducePow])
  | sysrd | syswr =>
    cases h
    simp only [eC, eG_eq, sysNum_eq, Nat.add_assoc]
    simp (disch := omega) only [decC, fld_encHead_opc, fld_encHead_low, fld_add_low, fld_mul_high, sysOf_codeSys, -Nat.reducePow]
    exact ckWord_encHead wf rfl (by omega) (by decide) (by simp (disch := omega) [-Nat.reducePow]) (fun _ => rfl)
      (by congr 1 <;> simp (disch := omega) [-Nat.reducePow])
  | _ => cases h

theorem decAB_encAB {i : Instr} {w : Nat} (wf : i.wf = true) (h : encAB i = some w) : w < 2 ^ 32 ∧ decAB w = .ok i := by
  cases i with
  | add | addi | sub | mul | mulh | mulhn | and | andi | or | ori | xor | xori | shl | shr | sar | shli | shri | sari | min | max | minn | maxn
    | sel | li | lui | addw | clz | popc | movx | cmp | cmpi | plog =>
    cases h
    simp (disch := omega) only [eV, eA, eCond_eq, Nat.add_assoc, decAB, fld_encHead_opc, -Nat.reducePow]
    exact ckWord_encHead wf rfl (by omega) (by decide) (by simp (disch := omega) [-Nat.reducePow])
      (by simp (disch := omega) [Instr.operandsWf, -Nat.reducePow]) (by congr 1 <;> simp (disch := omega) [-Nat.reducePow])
  | bext | bins =>
    cases h
    simp (disch := omega) only [eA, Nat.add_assoc, decAB, fld_encHead_opc, -Nat.reducePow]
    exact ckWord_encHead wf rfl (by omega) (by decide) (by simp (disch := omega) [-Nat.reducePow])
      (fun h => by simp (disch := omega) [Instr.operandsWf, fieldWf, -Nat.reducePow] at h ⊢; omega) (by congr 1 <;> simp (disch := omega) [-Nat.reducePow])
  | nop =>
    cases h
    simp (disch := decide) only [decAB, fld_encHead_bare_opc, fld_encHead_bare_low, fPred_encHead_bare]
    exact ckWord_encHead_bare wf rfl (by decide) rfl
  | _ => cases h

theorem decM_encM {i : Instr} {w : Nat} (wf : i.wf = true) (h : encM i = some w) : w < 2 ^ 32 ∧ decM w = .ok i := by
  cases i with
  | fill | spill | fillv | spillv | sclose | sread | swrite | sseek | hdrmk | hdrchk | laop | bclr | ldidx | stidx =>
    cases h
    simp (disch := omega) only [eMV, eG_eq, eBuf_eq, eOp_eq, eBool_eq, Nat.add_assoc, decM, fld_encHead_opc, -Nat.reducePow]
    exact ckWord_encHead wf rfl (by omega) (by decide) (by simp (disch := omega) [-Nat.reducePow])
      (by simp (disch := omega) [Instr.operandsWf, -Nat.reducePow]) (by congr 1 <;> simp (disch := omega) [-Nat.reducePow])
  | ld =>
    cases h
    simp (disch := omega) only [eG_eq, eBuf_eq, Nat.add_assoc, decM, fld_encHead_opc, -Nat.reducePow]
    exact ckWord_encHead wf rfl (by omega) (by decide) (by simp (disch := omega) [-Nat.reducePow])
      (fun h => by simp (disch := omega) [Instr.operandsWf, Fin.ext_iff, -Nat.reducePow] at h ⊢; omega) (by congr 1 <;> simp (disch := omega) [-Nat.reducePow])
  | st =>
    cases h
    simp (disch := omega) only [eG_eq, eBuf_eq, Nat.add_assoc, decM, fld_encHead_opc, -Nat.reducePow]
    exact ckWord_encHead wf rfl (by omega) (by decide) (by simp (disch := omega) [-Nat.reducePow])
      (fun h => by simp (disch := omega) [Instr.operandsWf, -Nat.reducePow] at h ⊢; omega) (by congr 1 <;> simp (disch := omega) [-Nat.reducePow])
  | ldv | ldvT | stv | stvT | sopenR | sopenW =>
    cases h
    simp (disch := omega) [eMV, eBuf_eq, eBool_eq, Nat.add_assoc, decM, -Nat.reducePow]
    exact ckWord_encHead wf rfl (by omega) (by decide) (by simp (disch := omega) [-Nat.reducePow]) (by simp (disch := omega) [Instr.operandsWf, -Nat.reducePow])
      (by congr 1 <;> simp (disch := omega) [-Nat.reducePow])
  | _ => cases h

theorem decV_encV {i : Instr} {w : Nat} (wf : i.wf = true) (h : encV i = some w) : w < 2 ^ 32 ∧ decV w = .ok i := by
  cases i with
  | vadd | vsub | vmul | vfma | vfms | vfnma | vmax | vmin | vabs | vneg | vcmp | vsel | vand | vor | vxor | vnot | vshl | vshr | vsar | vcvt | vqnt
    | vdqnt | vbscl | vexp2 | vlog2 | vrcp | vrsq | vdiv | vsqrt | vredadd | vredmax | vredmin | vperm | vrot | vbcast | vins | vext | vtag | vmov | viota
    | vseed =>
    cases h
    simp (disch := omega) only [eV, eA, eMod, eRm_eq, eBool_eq, eVCond_eq, Nat.add_assoc, decV, fld_encHead_opc, -Nat.reducePow]
    exact ckWord_encHead wf rfl (by omega) (by decide) (by simp (disch := omega) [-Nat.reducePow])
      (by simp (disch := omega) [Instr.operandsWf, -Nat.reducePow]) (by congr 1 <;> simp (disch := omega) [-Nat.reducePow])
  | vmask | vmaskB =>
    cases h
    simp (disch := omega) [Nat.add_assoc, decV, -Nat.reducePow]
    exact ckWord_encHead wf rfl (by omega) (by decide) (by simp (disch := omega) [-Nat.reducePow]) (by simp (disch := omega) [Instr.operandsWf, -Nat.reducePow])
      (by congr 1 <;> simp (disch := omega) [-Nat.reducePow])
  | _ => cases h

theorem decX_encX {i : Instr} {w : Nat} (wf : i.wf = true) (h : encX i = some w) : w < 2 ^ 32 ∧ decX w = .ok i := by
  cases i with
  | mcall | mcallr | mpld | muwr | mrtset =>
    cases h
    simp (disch := omega) only [eA, Nat.add_assoc, decX, fld_encHead_opc, -Nat.reducePow]
    exact ckWord_encHead wf rfl (by omega) (by decide) (by simp (disch := omega) [-Nat.reducePow])
      (by simp (disch := omega) [Instr.operandsWf, -Nat.reducePow]) (by congr 1 <;> simp (disch := omega) [-Nat.reducePow])
  | mstat =>
    cases h
    simp (disch := omega) only [eG_eq, Nat.add_assoc, decX, fld_encHead_opc, -Nat.reducePow]
    exact ckWord_encHead wf rfl (by omega) (by decide) (by simp (disch := omega) [-Nat.reducePow])
      (fun h => by simp (disch := omega) [Instr.operandsWf, -Nat.reducePow] at h ⊢; omega) (by congr 1 <;> simp (disch := omega) [-Nat.reducePow])
  | mpset | mpsetImm | mselS0 | mselS1 =>
    cases h
    simp (disch := omega) [Nat.add_assoc, decX, -Nat.reducePow]
    exact ckWord_encHead wf rfl (by omega) (by decide) (by simp (disch := omega) [-Nat.reducePow]) (by simp (disch := omega) [Instr.operandsWf, -Nat.reducePow])
      (by congr 1 <;> simp (disch := omega) [-Nat.reducePow])
  | mselSwap =>
    cases h
    simp (disch := decide) only [decX, fld_encHead_bare_opc, fld_encHead_bare_low, fPred_encHead_bare]
    exact ckWord_encHead_bare wf rfl (by decide) rfl
  | _ => cases h

theorem decN_encN {i : Instr} {w : Nat} (wf : i.wf = true) (h : encN i = some w) : w < 2 ^ 32 ∧ decN w = .ok i := by
  cases i with
  | recv | recvs | fwd | nrmt =>
    cases h
    simp (disch := omega) only [eG_eq, eBool_eq, eDir_eq, eOp_eq, Nat.add_assoc, decN, fld_encHead_opc, -Nat.reducePow]
    exact ckWord_encHead wf rfl (by omega) (by decide) (by simp (disch := omega) [-Nat.reducePow])
      (by simp (disch := omega) [Instr.operandsWf, -Nat.reducePow]) (by congr 1 <;> simp (disch := omega) [-Nat.reducePow])
  | send _ _ _ r | sends _ _ r =>
    cases h
    simp (disch := omega) only [eG_eq, eBool_eq, eDir_eq, eRoute, Nat.add_assoc, decN, fld_encHead_opc, -Nat.reducePow]
    exact ckWord_encHead wf rfl (by omega) (by decide) (by simp (disch := omega) [-Nat.reducePow])
      (fun h => by rwa [Bool.not_eq_false', (fRoute_eq_iff (x := r)).2 (by simp (disch := omega) [-Nat.reducePow])]) (by congr 1 <;> simp (disch := omega) [-Nat.reducePow])
  | nbcRow | nbcCol =>
    cases h
    simp (disch := omega) [eBool_eq, Nat.add_assoc, decN, -Nat.reducePow]
    exact ckWord_encHead wf rfl (by omega) (by decide) (by simp (disch := omega) [-Nat.reducePow]) (by simp (disch := omega) [Instr.operandsWf, -Nat.reducePow])
      (by congr 1 <;> simp (disch := omega) [-Nat.reducePow])
  | _ => cases h

/-- R = 1, A = 0 of PHASE (R104). -/
theorem fld_release {r : Nat} (h : r < 2 ^ 20) : fld (2 ^ 21 + r) 20 2 = 2 := by
  rw [fld]
  omega

theorem fld_both {r : Nat} (h : r < 2 ^ 20) : fld (2 ^ 21 + (2 ^ 20 + r)) 20 2 = 3 := by
  rw [fld]
  omega

theorem decD_encD {i : Instr} {w : Nat} (wf : i.wf = true) (h : encD i = some w) : w < 2 ^ 32 ∧ decD w = .ok i := by
  cases i with
  | xcopy | barinit | bararr | baradd | coll | launch | kpost | xpf | ovl =>
    cases h
    simp (disch := omega) only [eDT, eA, Nat.add_assoc, decD, fld_encHead_opc, -Nat.reducePow]
    exact ckWord_encHead wf rfl (by omega) (by decide) (by simp (disch := omega) [-Nat.reducePow])
      (by simp (disch := omega) [Instr.operandsWf, -Nat.reducePow]) (by congr 1 <;> simp (disch := omega) [-Fin.ofNat_eq_cast, -Nat.reducePow])
  | xld | xst | kstat =>
    cases h
    simp (disch := omega) only [eDL, eBuf_eq, eG_eq, Nat.add_assoc, decD, fld_encHead_opc, -Nat.reducePow]
    exact ckWord_encHead wf rfl (by omega) (by decide) (by simp (disch := omega) [-Nat.reducePow])
      (fun h => by simp (disch := omega) [Instr.operandsWf, -Nat.reducePow] at h ⊢; omega) (by congr 1 <;> simp (disch := omega) [-Fin.ofNat_eq_cast, -Nat.reducePow])
  | xatom =>
    cases h
    simp (disch := omega) only [eOp_eq, Nat.add_assoc, decD, fld_encHead_opc, -Nat.reducePow]
    exact ckWord_encHead wf rfl (by omega) (by decide) (by simp (disch := omega) [-Nat.reducePow])
      (fun h => by simp (disch := omega) [Instr.operandsWf, Fin.ext_iff, -Nat.reducePow] at h ⊢; omega) (by congr 1 <;> simp (disch := omega) [-Nat.reducePow])
  | phaseR | phaseA | phaseRa =>
    cases h
    simp (disch := omega) [eScope_eq, Nat.add_assoc, decD, fld_release, fld_both, -Nat.reducePow]
    exact ckWord_encHead wf rfl (by omega) (by decide) (by simp (disch := omega) [-Nat.reducePow]) (by simp (disch := omega) [Instr.operandsWf, -Nat.reducePow])
      (by congr 1; simp (disch := omega) [-Nat.reducePow])
  | _ => cases h

/-! ## Decoding and then encoding -/

section
variable {i j : Instr} {w z v opc lo n : Nat} {r : Bool}

theorem fld_add_zero : fld w lo n + 0 = fld w lo n := by omega

theorem fld_bit_eq_zero (h : ¬ fld w lo 1 = 1) : fld w lo 1 = 0 := by
  have := fld_lt w lo 1
  omega

theorem fin2_val (w lo : Nat) : (Fin.ofNat 2 (w / 2 ^ lo)).val = fld w lo 1 := rfl

/-- A word that a slot accepts under an opcode is the instruction's word if its operand bits are. -/
theorem encode_of_ckWord (hw : w < 2 ^ 32) (op : fld w 22 6 = opc) (h : ckWord w z r j = .ok i) (hp : j.pred? = some (fPred w))
    (enc : encodeWord j = some v) (low : z = 0 → r = false → j.operandsWf = true ∧ v = encHead (fPred w) opc + fld w 0 22) :
    i.wf = true ∧ encodeWord i = some w := by
  obtain ⟨zeros, free, prefixed, rfl⟩ := ckWord_eq_ok_iff.1 h
  obtain ⟨operands, rfl⟩ := low zeros free
  exact ⟨(Instr.wf_iff hp).2 ⟨operands, prefixed⟩, by rw [enc, ← op, encHead_fPred hw]⟩

theorem encode_of_nop (hw : w < 2 ^ 32) (op : fld w 22 6 = 0) (h : ckWord w (fld w 0 22) false (.nop (fPred w)) = .ok i) :
    i.wf = true ∧ encodeWord i = some w :=
  encode_of_ckWord hw op h rfl rfl fun zeros _ => ⟨rfl, by rw [zeros, Nat.add_zero]⟩

theorem encode_decHint (hw : w < 2 ^ 32) (op : 0x3C ≤ fld w 22 6) (h : decHint w = .ok i) : i.wf = true ∧ encodeWord i = some w := by
  have high := fld_lt w 24 4
  have low := fld_lt w 22 2
  have split : fld w 22 6 = fld w 24 4 * 2 ^ 2 + fld w 22 2 := fld_split w 22 2 4
  refine encode_of_ckWord hw rfl h rfl rfl fun _ _ => ⟨rfl, ?_⟩
  rw [fb_toNat, f2_val, show fld w 22 6 = 0x3C + fld w 22 2 by omega]

theorem encode_decC (hw : w < 2 ^ 32) (h : decC w = .ok i) : i.wf = true ∧ encodeWord i = some w := by
  unfold decC at h
  split at h
  case h_22 op | h_23 op | h_24 op | h_25 op => exact encode_decHint hw (by omega) h
  case h_26 => cases h
  case h_11 op =>
    refine encode_of_ckWord hw op h rfl rfl fun zeros free => ⟨by simp [Instr.operandsWf, fb_toNat] at free ⊢; omega, ?_⟩
    simp (disch := omega) only [eC, f4_val, fb_toNat, fld_join_gap, Nat.add_assoc, Nat.reduceAdd, -Nat.reducePow]
  case h_19 op | h_20 op =>
    split at h
    case h_2 => cases (ckWord_eq_ok_iff.1 h).2.1
    rename_i r hr
    refine encode_of_ckWord hw op h rfl rfl fun zeros _ => ⟨rfl, ?_⟩
    simp (disch := omega) only [eC, eG_eq, sysNum_eq, f4_val, codeG_fG, codeSys_of_sysOf hr, fld_join, fld_join_zero, Nat.add_assoc, Nat.reduceAdd, -Nat.reducePow]
  case h_16 op =>
    refine encode_of_ckWord hw op h rfl rfl fun zeros _ => ⟨rfl, ?_⟩
    simp only [Nat.add_eq_zero_iff] at zeros
    obtain ⟨sig, gap⟩ := zeros
    simp (disch := omega) only [eC, eSig_eq, f4_val, f5_val, codeSig_fSig, fld_join, fld_join_gap, Nat.add_assoc, Nat.reduceAdd, -Nat.reducePow]
  case h_17 op =>
    refine encode_of_ckWord hw op h rfl rfl fun zeros _ => ⟨rfl, ?_⟩
    simp only [Nat.add_eq_zero_iff] at zeros
    obtain ⟨⟨sig, gap⟩, low⟩ := zeros
    simp (disch := omega) only [eC, eSig_eq, f4_val, codeSig_fSig, fld_join_zero, fld_join_gap, Nat.add_assoc, Nat.reduceAdd, -Nat.reducePow]
  all_goals
    rename_i op
    refine encode_of_ckWord hw op h rfl rfl fun zeros _ => ⟨rfl, ?_⟩
    simp (disch := omega) only [eC, eG_eq, eCls_eq, eSig_eq, f3_val, f4_val, f5_val, fb_toNat, codeG_fG, codeCls_fCls, codeSig_fSig, fld_join, fld_join_zero, fld_join_gap, fld_add_zero, Nat.add_assoc, Nat.reduceAdd, -Nat.reducePow]

theorem encode_decAB (hw : w < 2 ^ 32) (h : decAB w = .ok i) : i.wf = true ∧ encodeWord i = some w := by
  unfold decAB at h
  split at h
  case h_1 op => exact encode_of_nop hw op h
  case h_36 op | h_37 op | h_38 op | h_39 op => exact encode_decHint hw (by omega) h
  case h_40 => cases h
  case h_24 op | h_25 op =>
    refine encode_of_ckWord hw op h rfl rfl fun zeros free => ⟨by simp [Instr.operandsWf] at free ⊢; omega, ?_⟩
    simp only [Bool.or_eq_false_iff, beq_eq_false_iff_ne, decide_eq_false_iff_not] at free
    simp (disch := omega) only [eCond_eq, f3_val, f5_val, fb_toNat, codeCond_fCond, fld_join, fld_join_zero, Nat.add_assoc, Nat.reduceAdd, -Nat.reducePow]
  case h_32 op | h_33 op =>
    refine encode_of_ckWord hw op h rfl rfl fun zeros free => ⟨by simp [Instr.operandsWf, fieldWf, fb_toNat] at free ⊢; omega, ?_⟩
    simp (disch := omega) only [eA, f5_val, fb_toNat, fld_join, Nat.add_assoc, Nat.reduceAdd, -Nat.reducePow]
  case h_35 op =>
    refine encode_of_ckWord hw op h rfl rfl fun zeros free => ⟨by simp [Instr.operandsWf] at free ⊢; omega, ?_⟩
    simp (disch := omega) only [f3_val, fb_toNat, fld_join, fld_join_zero, Nat.add_assoc, Nat.reduceAdd, -Nat.reducePow]
  all_goals
    rename_i op
    refine encode_of_ckWord hw op h rfl rfl fun zeros _ => ⟨rfl, ?_⟩
    simp (disch := omega) only [eV, eA, f3_val, f5_val, fb_toNat, fld_join, fld_join_zero, fld_join_gap, fld_add_zero, Nat.add_assoc, Nat.reduceAdd, -Nat.reducePow]

theorem encode_decM (hw : w < 2 ^ 32) (h : decM w = .ok i) : i.wf = true ∧ encodeWord i = some w := by
  unfold decM at h
  split at h
  case h_1 op => exact encode_of_nop hw op h
  case h_21 op | h_22 op | h_23 op | h_24 op => exact encode_decHint hw (by omega) h
  case h_25 => cases h
  case h_4 op | h_5 op =>
    cases t : fBool w 16 <;> rw [t] at h <;> rw [fBool_eq_iff] at t
    all_goals
      refine encode_of_ckWord hw op h rfl rfl fun zeros free => ⟨rfl, ?_⟩
      simp only [beq_eq_false_iff_ne] at free
      simp (disch := omega) only [eMV, eBool_eq, eBuf_eq, f5_val, fb_toNat, codeBuf_fBuf, ← t, fld_join, Nat.add_assoc, Nat.reduceAdd, -Nat.reducePow]
  case h_10 op =>
    have low : fld w 0 11 = fld w 10 1 * 2 ^ 10 + fld w 0 10 := fld_split w 0 10 1
    cases t : fBool w 10 <;> rw [t] at h <;> rw [fBool_eq_iff] at t
    case false =>
      refine encode_of_ckWord hw op h rfl rfl fun zeros free => ⟨rfl, ?_⟩
      simp only [beq_eq_false_iff_ne] at free
      rw [t, zeros, codeBool_false, Fin.val_zero, Nat.zero_mul] at low
      simp (disch := omega) only [eBuf_eq, f4_val, f5_val, codeBuf_fBuf, fld_join, fld_join_zero, Nat.add_assoc, Nat.reduceAdd, -Nat.reducePow]
    case true =>
      refine encode_of_ckWord hw op h rfl rfl fun zeros free => ⟨rfl, ?_⟩
      simp only [beq_eq_false_iff_ne] at free
      rw [t, zeros, codeBool_true, Fin.val_one, Nat.one_mul, Nat.add_zero] at low
      simp (disch := omega) only [eBuf_eq, f4_val, f5_val, codeBuf_fBuf, Nat.add_assoc, -Nat.reducePow]
      rw [← low]
      simp (disch := omega) only [fld_join, Nat.reduceAdd, -Nat.reducePow]
  case h_2 op =>
    refine encode_of_ckWord hw op h rfl rfl fun zeros free => ⟨by simp [Instr.operandsWf] at free ⊢; omega, ?_⟩
    simp only [Bool.or_eq_false_iff, beq_eq_false_iff_ne] at free
    simp (disch := omega) only [eG_eq, eBuf_eq, f3_val, f5_val, fb_toNat, codeG_fG, codeBuf_fBuf, fld_join, Nat.add_assoc, Nat.reduceAdd, -Nat.reducePow]
  case h_3 op =>
    refine encode_of_ckWord hw op h rfl rfl fun zeros free => ⟨decide_eq_true (show fld w 6 3 ≤ 3 by simp at free; omega), ?_⟩
    simp only [Bool.or_eq_false_iff, beq_eq_false_iff_ne, decide_eq_false_iff_not] at free
    simp (disch := omega) only [eG_eq, eBuf_eq, f3_val, f5_val, fb_toNat, codeG_fG, codeBuf_fBuf, fld_join, Nat.add_assoc, Nat.reduceAdd, -Nat.reducePow]
  case h_16 op =>
    refine encode_of_ckWord hw op h rfl rfl fun zeros free => ⟨by simp [Instr.operandsWf] at free ⊢; omega, ?_⟩
    simp only [Bool.or_eq_false_iff, beq_eq_false_iff_ne] at free
    simp (disch := omega) only [eBuf_eq, f3_val, f5_val, fb_toNat, codeBuf_fBuf, fld_join, fld_join_gap, Nat.add_assoc, Nat.reduceAdd, -Nat.reducePow]
  case h_15 op =>
    refine encode_of_ckWord hw op h rfl rfl fun zeros free => ⟨rfl, ?_⟩
    simp only [beq_eq_false_iff_ne] at free
    simp (disch := omega) only [eMV, eBool_eq, eBuf_eq, Fin.val_zero, Nat.zero_mul, Nat.zero_add, codeBool_false, f5_val, fb_toNat, codeBuf_fBuf, fld_join, fld_join_gap, Nat.add_assoc, Nat.reduceAdd, -Nat.reducePow]
  case h_18 op =>
    refine encode_of_ckWord hw op h rfl rfl fun zeros free => ⟨rfl, ?_⟩
    simp only [beq_eq_false_iff_ne] at free
    simp only [Nat.add_eq_zero_iff] at zeros
    obtain ⟨gap, low⟩ := zeros
    simp (disch := omega) only [eBuf_eq, f5_val, codeBuf_fBuf, fld_join, fld_join_zero, Nat.add_assoc, Nat.reduceAdd, -Nat.reducePow]
    rw [show fld w 0 22 = fld w 16 6 * 2 ^ 16 + fld w 0 16 from fld_split w 0 16 6, gap, Nat.zero_mul, Nat.zero_add]
  case h_17 op | h_19 op | h_20 op =>
    refine encode_of_ckWord hw op h rfl rfl fun zeros free => ⟨rfl, ?_⟩
    simp only [Bool.or_eq_false_iff, beq_eq_false_iff_ne, decide_eq_false_iff_not] at free
    simp (disch := omega) only [eG_eq, eBuf_eq, eOp_eq, f2_val, f3_val, f5_val, codeG_fG, codeBuf_fBuf, codeOp_fOp, fld_join, Nat.add_assoc, Nat.reduceAdd, -Nat.reducePow]
  all_goals
    rename_i op
    refine encode_of_ckWord hw op h rfl rfl fun zeros _ => ⟨rfl, ?_⟩
    simp (disch := omega) only [eG_eq, f4_val, f5_val, fb_toNat, codeG_fG, fld_join, fld_join_zero, fld_join_gap, Nat.add_assoc, Nat.reduceAdd, -Nat.reducePow]

theorem encode_decV (hw : w < 2 ^ 32) (h : decV w = .ok i) : i.wf = true ∧ encodeWord i = some w := by
  unfold decV at h
  split at h
  case h_1 op => exact encode_of_nop hw op h
  case h_44 op | h_45 op | h_46 op | h_47 op => exact encode_decHint hw (by omega) h
  case h_48 => cases h
  case h_12 op =>
    refine encode_of_ckWord hw op h rfl rfl fun zeros free => ⟨by simp [Instr.operandsWf] at free ⊢; omega, ?_⟩
    simp only [Bool.or_eq_false_iff, beq_eq_false_iff_ne] at free
    simp (disch := omega) only [eVCond_eq, f3_val, f5_val, codeVCond_fVCond, fld_join, fld_join_zero, Nat.add_assoc, Nat.reduceAdd, -Nat.reducePow]
  case h_10 op | h_11 op =>
    refine encode_of_ckWord hw op h rfl rfl fun zeros _ => ⟨rfl, ?_⟩
    simp only [Nat.add_eq_zero_iff] at zeros
    obtain ⟨⟨gap, gap2⟩, low⟩ := zeros
    simp (disch := omega) only [eV, eBool_eq, f3_val, f5_val, codeBool_fBool, Fin.val_zero, Nat.zero_mul, Nat.zero_add, fld_join, fld_join_one, fld_join_gap, Nat.add_assoc, Nat.reduceAdd, -Nat.reducePow]
  case h_25 op | h_26 op | h_27 op | h_28 op | h_30 op | h_31 op | h_17 op | h_32 op | h_33 op | h_40 op =>
    refine encode_of_ckWord hw op h rfl rfl fun zeros _ => ⟨rfl, ?_⟩
    simp only [Nat.add_eq_zero_iff] at zeros
    obtain ⟨gap, low⟩ := zeros
    simp (disch := omega) only [eV, eMod, eRm_eq, eBool_eq, f3_val, f5_val, codeRm_fRm, codeBool_fBool, Fin.val_zero, Nat.zero_mul, Nat.zero_add, fld_join, fld_join_zero, fld_join_one, fld_join_gap, Nat.add_assoc, Nat.reduceAdd, -Nat.reducePow]
  case h_5 op | h_6 op | h_7 op | h_22 op | h_23 op =>
    refine encode_of_ckWord hw op h rfl rfl fun zeros _ => ⟨rfl, ?_⟩
    simp (disch := omega) only [eV, eRm_eq, f5_val, codeRm_fRm, fld_join, Nat.add_assoc, Nat.reduceAdd, -Nat.reducePow]
  case h_24 op | h_35 op | h_36 op | h_37 op | h_38 op | h_39 op | h_41 op | h_42 op =>
    refine encode_of_ckWord hw op h rfl rfl fun zeros _ => ⟨rfl, ?_⟩
    simp (disch := omega) only [eV, eA, f5_val, fb_toNat, fld_join, fld_join_zero, fld_join_one, fld_add_zero, Nat.add_assoc, Nat.reduceAdd, -Nat.reducePow]
  case h_43 op =>
    split at h
    case isTrue b =>
      refine encode_of_ckWord hw op h rfl rfl fun zeros free => ⟨by simp [Instr.operandsWf] at free ⊢; omega, ?_⟩
      simp only [Nat.add_eq_zero_iff] at zeros
      obtain ⟨gap, gap2⟩ := zeros
      have low : fld w 0 9 = fld w 8 1 * 2 ^ 8 + fld w 0 8 := fld_split w 0 8 1
      rw [b, Nat.one_mul, show fld w 0 8 = fld w 5 3 * 2 ^ 5 + fld w 0 5 from fld_split w 0 5 3, gap2, Nat.zero_mul, Nat.zero_add] at low
      simp only [f3_val, f5_val, Nat.add_assoc]
      rw [← low]
      simp (disch := omega) only [fld_join_gap, Nat.reduceAdd, -Nat.reducePow]
    case isFalse b =>
      refine encode_of_ckWord hw op h rfl rfl fun zeros free => ⟨by simp [Instr.operandsWf] at free ⊢; omega, ?_⟩
      have low : fld w 0 9 = fld w 8 1 * 2 ^ 8 + fld w 0 8 := fld_split w 0 8 1
      rw [zeros, fld_bit_eq_zero b] at low
      simp (disch := omega) only [f3_val, fb_toNat, fld_join, fld_join_zero, Nat.add_assoc, Nat.reduceAdd, -Nat.reducePow]
  all_goals
    rename_i op
    refine encode_of_ckWord hw op h rfl rfl fun zeros _ => ⟨rfl, ?_⟩
    simp (disch := omega) only [eV, eMod, eRm_eq, eBool_eq, f3_val, f5_val, codeRm_fRm, codeBool_fBool, fld_join, fld_join_zero, fld_join_one, Nat.add_assoc, Nat.reduceAdd, -Nat.reducePow]

theorem encode_decX (hw : w < 2 ^ 32) (h : decX w = .ok i) : i.wf = true ∧ encodeWord i = some w := by
  unfold decX at h
  split at h
  case h_1 op => exact encode_of_nop hw op h
  case h_10 op | h_11 op | h_12 op | h_13 op => exact encode_decHint hw (by omega) h
  case h_14 => cases h
  case h_4 op =>
    split at h
    case isTrue b =>
      refine encode_of_ckWord hw op h rfl rfl fun zeros _ => ⟨rfl, ?_⟩
      have high : fld w 0 19 = fld w 18 1 * 2 ^ 18 + fld w 0 18 := fld_split w 0 18 1
      rw [b, Nat.one_mul, show fld w 0 18 = fld w 16 2 * 2 ^ 16 + fld w 0 16 from fld_split w 0 16 2, zeros, Nat.zero_mul, Nat.zero_add] at high
      simp only [f3_val, fb_toNat, Nat.add_assoc]
      rw [← high]
      simp (disch := omega) only [fld_join, Nat.reduceAdd, -Nat.reducePow]
    case isFalse b =>
      refine encode_of_ckWord hw op h rfl rfl fun zeros _ => ⟨rfl, ?_⟩
      have gap := fld_bit_eq_zero b
      simp (disch := omega) only [f3_val, f5_val, fld_join_zero, fld_join_gap, Nat.add_assoc, Nat.reduceAdd, -Nat.reducePow]
  case h_8 op =>
    have parts : fld w 0 22 = fld w 20 2 * 2 ^ 20 + fld w 0 20 := fld_split w 0 20 2
    split at h
    case h_4 => cases (ckWord_eq_ok_iff.1 h).2.1
    all_goals
      rename_i sel
      refine encode_of_ckWord hw op h rfl rfl fun zeros _ => ⟨rfl, ?_⟩
      rw [parts, sel, zeros, Nat.add_zero]
    case h_1 => rw [Nat.zero_mul, Nat.add_zero]
    case h_2 => rw [Nat.one_mul]
  case h_9 op =>
    refine encode_of_ckWord hw op h rfl rfl fun zeros free => ⟨decide_eq_true (show fld w 12 4 ≤ 3 by simp at free; omega), ?_⟩
    simp (disch := omega) only [eG_eq, f4_val, codeG_fG, fld_join, fld_join_zero, Nat.add_assoc, Nat.reduceAdd, -Nat.reducePow]
  all_goals
    rename_i op
    refine encode_of_ckWord hw op h rfl rfl fun zeros _ => ⟨rfl, ?_⟩
    simp (disch := omega) only [eA, f5_val, f6_val, fb_toNat, fld_join, fld_join_zero, Nat.add_assoc, Nat.reduceAdd, -Nat.reducePow]

theorem encode_decN (hw : w < 2 ^ 32) (h : decN w = .ok i) : i.wf = true ∧ encodeWord i = some w := by
  unfold decN at h
  split at h
  case h_1 op => exact encode_of_nop hw op h
  case h_9 op | h_10 op | h_11 op | h_12 op => exact encode_decHint hw (by omega) h
  case h_13 => cases h
  case h_2 op =>
    refine encode_of_ckWord hw op h rfl rfl fun zeros free => ⟨by simpa [Instr.operandsWf] using free, ?_⟩
    simp (disch := omega) only [eRoute, fRoute, eBool_eq, eDir_eq, f5_val, codeBool_fBool, codeDir_fDir, fld_join, fld_join_zero, Nat.add_assoc, Nat.reduceAdd, -Nat.reducePow]
  case h_3 op =>
    refine encode_of_ckWord hw op h rfl rfl fun zeros free => ⟨by simpa [Instr.operandsWf] using free, ?_⟩
    simp (disch := omega) only [eRoute, fRoute, eG_eq, eDir_eq, f5_val, codeG_fG, codeDir_fDir, fld_join, fld_join_zero, Nat.add_assoc, Nat.reduceAdd, -Nat.reducePow]
  case h_6 op =>
    refine encode_of_ckWord hw op h rfl rfl fun zeros free => ⟨bne_iff_ne.2 fun same => beq_eq_false_iff_ne.1 free (by rw [← codeDir_fDir, same, codeDir_fDir]), ?_⟩
    simp (disch := omega) only [eDir_eq, fb_toNat, codeDir_fDir, fld_join, fld_join_zero, Nat.add_assoc, Nat.reduceAdd, -Nat.reducePow]
  case h_7 op =>
    have low : fld w 0 16 = fld w 15 1 * 2 ^ 15 + fld w 0 15 := fld_split w 0 15 1
    cases t : fBool w 15 <;> rw [t] at h <;> rw [fBool_eq_iff] at t
    case false =>
      refine encode_of_ckWord hw op h rfl rfl fun zeros _ => ⟨rfl, ?_⟩
      rw [t, zeros, codeBool_false, Fin.val_zero, Nat.zero_mul] at low
      simp (disch := omega) only [eBool_eq, f5_val, codeBool_fBool, fld_join, fld_join_zero, Nat.add_assoc, Nat.reduceAdd, -Nat.reducePow]
    case true =>
      refine encode_of_ckWord hw op h rfl rfl fun zeros _ => ⟨rfl, ?_⟩
      rw [t, zeros, codeBool_true, Fin.val_one, Nat.one_mul, Nat.add_zero] at low
      simp (disch := omega) only [eBool_eq, f5_val, codeBool_fBool, Nat.add_assoc, -Nat.reducePow]
      rw [← low]
      simp (disch := omega) only [fld_join, Nat.reduceAdd, -Nat.reducePow]
  case h_8 op =>
    refine encode_of_ckWord hw op h rfl rfl fun zeros free => ⟨rfl, ?_⟩
    simp only [decide_eq_false_iff_not] at free
    simp (disch := omega) only [eG_eq, eOp_eq, f5_val, codeG_fG, codeOp_fOp, fld_join, fld_join_zero, Nat.add_assoc, Nat.reduceAdd, -Nat.reducePow]
  all_goals
    rename_i op
    refine encode_of_ckWord hw op h rfl rfl fun zeros _ => ⟨rfl, ?_⟩
    simp (disch := omega) only [eG_eq, eBool_eq, eDir_eq, f5_val, codeG_fG, codeBool_fBool, codeDir_fDir, fld_join, fld_join_zero, Nat.add_assoc, Nat.reduceAdd, -Nat.reducePow]

theorem encode_decD (hw : w < 2 ^ 32) (h : decD w = .ok i) : i.wf = true ∧ encodeWord i = some w := by
  unfold decD at h
  split at h
  case h_1 op => exact encode_of_nop hw op h
  case h_16 op | h_17 op | h_18 op | h_19 op => exact encode_decHint hw (by omega) h
  case h_20 => cases h
  case h_3 op | h_4 op =>
    refine encode_of_ckWord hw op h rfl rfl fun zeros free => ⟨decide_eq_true (show fld w 2 3 ≤ 4 by simp at free; omega), ?_⟩
    simp only [Bool.or_eq_false_iff, beq_eq_false_iff_ne, decide_eq_false_iff_not] at free
    simp (disch := omega) only [eDL, eBuf_eq, f3_val, f5_val, codeBuf_fBuf, fld_join, fld_join_zero, Nat.add_assoc, Nat.reduceAdd, -Nat.reducePow]
  case h_5 op =>
    refine encode_of_ckWord hw op h rfl rfl fun zeros free => ⟨by simp [Instr.operandsWf] at free ⊢; omega, ?_⟩
    simp only [Bool.or_eq_false_iff, beq_eq_false_iff_ne, decide_eq_false_iff_not] at free
    simp (disch := omega) only [eOp_eq, f5_val, codeOp_fOp, fld_join, fld_join_zero, Nat.add_assoc, Nat.reduceAdd, -Nat.reducePow]
  case h_6 op | h_7 op | h_8 op =>
    refine encode_of_ckWord hw op h rfl rfl fun zeros free => ⟨by simpa [Instr.operandsWf] using free, ?_⟩
    simp (disch := omega) only [eA, f5_val, fld_join, fld_join_zero, fld_add_zero, Nat.add_assoc, Nat.reduceAdd, -Nat.reducePow]
  case h_9 op =>
    have parts : fld w 0 22 = fld w 20 2 * 2 ^ 20 + fld w 0 20 := fld_split w 0 20 2
    split at h
    case h_4 => cases (ckWord_eq_ok_iff.1 h).2.1
    all_goals
      rename_i sel
      refine encode_of_ckWord hw op h rfl rfl fun zeros free => ⟨rfl, ?_⟩
      rw [beq_eq_false_iff_ne] at free
      simp (disch := omega) only [eScope_eq, codeScope_fScope, Nat.add_assoc, fld_join_zero, Nat.reduceAdd, -Nat.reducePow]
      rw [parts, sel]
    case h_2 => rw [Nat.one_mul]
    all_goals omega
  case h_12 op =>
    refine encode_of_ckWord hw op h rfl rfl fun zeros _ => ⟨rfl, ?_⟩
    simp (disch := omega) only [f5_val, fin2_val, fld_join, fld_join_zero, Nat.add_assoc, Nat.reduceAdd, -Nat.reducePow]
  case h_13 op =>
    refine encode_of_ckWord hw op h rfl rfl fun zeros free => ⟨decide_eq_true (show fld w 12 3 ≤ 3 by simp at free; omega), ?_⟩
    simp (disch := omega) only [eG_eq, f3_val, fin2_val, codeG_fG, fld_join, fld_join_zero, Nat.add_assoc, Nat.reduceAdd, -Nat.reducePow]
  all_goals
    rename_i op
    refine encode_of_ckWord hw op h rfl rfl fun zeros _ => ⟨rfl, ?_⟩
    simp (disch := omega) only [eDT, eA, f5_val, fb_toNat, fld_join, fld_join_zero, fld_add_zero, Nat.add_assoc, Nat.reduceAdd, -Nat.reducePow]

end

/-! ## The slots -/

theorem encodeWord_of_pred {i : Instr} {p : Pred} (h : i.pred? = some p) : ∃ w, encodeWord i = some w := by
  cases i with
  | phaseR | phaseA => exact ⟨_, rfl⟩
  | _ => cases h <;> exact ⟨_, rfl⟩

theorem encode_decodeSlot {k : SlotId} {w : W32} {i : Instr} (h : decodeSlot k w = .ok i) : i.wf = true ∧ encodeWord i = some w.toNat := by
  cases k with
  | C => exact encode_decC w.isLt h
  | A | B => exact encode_decAB w.isLt h
  | M => exact encode_decM w.isLt h
  | V => exact encode_decV w.isLt h
  | X => exact encode_decX w.isLt h
  | N => exact encode_decN w.isLt h
  | D => exact encode_decD w.isLt h

/-- Every slot but C reads the opcode 0 as NOP (R90). -/
theorem decodeSlot_of_nop {k : SlotId} {w : Nat} (hk : k ≠ .C) (hw : w < 2 ^ 32) (op : fld w 22 6 = 0) :
    decodeSlot k (BitVec.ofNat 32 w) = ckWord w (fld w 0 22) false (.nop (fPred w)) := by
  cases k with
  | C => exact absurd rfl hk
  | _ => simp only [decodeSlot, BitVec.toNat_ofNat, Nat.mod_eq_of_lt hw, decAB, decM, decV, decX, decN, decD, op]

theorem decodeSlot_nop {k : SlotId} {p : Pred} (hk : k ≠ .C) (hp : p.wf = true) :
    decodeSlot k (BitVec.ofNat 32 (encHead p 0)) = .ok (.nop p) := by
  have wf : (Instr.nop p).wf = true := (Instr.wf_iff rfl).2 ⟨rfl, hp⟩
  obtain ⟨lt, ok⟩ := ckWord_encHead_bare wf rfl (opc := 0) (by decide) (fld_encHead_bare_low (lo := 0) (n := 22) (by decide))
  rwa [decodeSlot_of_nop hk lt (fld_encHead_bare_opc (by decide)), fPred_encHead_bare (by decide)]

theorem decodeSlot_hint {k : SlotId} {p : Pred} {h : Fin 4} {o : BitVec 22} (hp : p.wf = true) :
    decodeSlot k (BitVec.ofNat 32 (encHead p (0x3C + h.val) + o.toNat)) = .ok (.hint p h o) := by
  obtain ⟨lt, ok⟩ := decHint_encHead ((Instr.wf_iff (i := .hint p h o) rfl).2 ⟨rfl, hp⟩)
  rw [decodeSlot_of_hint _ k lt, ok]
  rw [fld_encHead_opc (by omega) (by omega)]
  omega

/-- Settles O56: each slot's format by its fields, once from the operands and once from the word. -/
theorem slotWordsRoundTrip : Obligations.SlotWordsRoundTrip := by
  have back {w : Nat} (h : w < 2 ^ 32) : (BitVec.ofNat 32 w).toNat = w := by rw [BitVec.toNat_ofNat, Nat.mod_eq_of_lt h]
  refine ⟨fun i w wf => ⟨fun h => ?_, fun h => ?_, fun h => ?_, fun h => ?_, fun h => ?_, fun h => ?_, fun h => ?_⟩, fun k p h o wf => ?_,
    fun i _ ⟨p, hp⟩ => encodeWord_of_pred hp, fun k w i => encode_decodeSlot⟩
  · obtain ⟨lt, ok⟩ := decC_encC wf h
    exact ⟨lt, by rw [decodeSlot, back lt, ok]⟩
  · obtain ⟨lt, ok⟩ := decAB_encAB wf h
    exact ⟨lt, by rw [decodeSlot, back lt, ok], by rw [decodeSlot, back lt, ok]⟩
  · obtain ⟨lt, ok⟩ := decM_encM wf h
    exact ⟨lt, by rw [decodeSlot, back lt, ok]⟩
  · obtain ⟨lt, ok⟩ := decV_encV wf h
    exact ⟨lt, by rw [decodeSlot, back lt, ok]⟩
  · obtain ⟨lt, ok⟩ := decX_encX wf h
    exact ⟨lt, by rw [decodeSlot, back lt, ok]⟩
  · obtain ⟨lt, ok⟩ := decN_encN wf h
    exact ⟨lt, by rw [decodeSlot, back lt, ok]⟩
  · obtain ⟨lt, ok⟩ := decD_encD wf h
    exact ⟨lt, by rw [decodeSlot, back lt, ok]⟩
  · exact ⟨fun hk => ⟨_, rfl, decodeSlot_nop hk wf⟩, _, rfl, decodeSlot_hint wf⟩

/-! ## Micro-words -/

section
variable {i j : Instr} {w v z opc lo n low : Nat}

theorem bit_val (w : Nat) : (Fin.ofNat 2 w).val = fld w 0 1 := by simp [fld]

@[simp] theorem bit_eq_iff {x : Fin 2} : Fin.ofNat 2 w = x ↔ fld w 0 1 = x.val := by rw [Fin.ext_iff, bit_val]

theorem eCursor_lt (c : Cursor) : eCursor c < 3 := by cases c <;> decide

theorem exists_eCursor (h : n < 3) : ∃ c, n = eCursor c := by
  obtain rfl | rfl | rfl : n = 0 ∨ n = 1 ∨ n = 2 := by omega
  · exact ⟨.mi, rfl⟩
  · exact ⟨.nj, rfl⟩
  · exact ⟨.ko, rfl⟩

theorem decMu_of_padd {c : Cursor} (op : fld w 58 6 = 0x0D) (cur : fld w 16 2 = eCursor c) :
    decMu w =
      if fld w 19 1 = 1 then
        if fld w 24 34 + fld w 0 16 = 0 then some (.muPadd (fBool w 18) c (.mp (fBool w 23) (f3 w 20))) else none
      else if fld w 24 34 + fld w 20 4 = 0 then some (.muPadd (fBool w 18) c (.imm (fb 16 w 0))) else none := by
  cases c <;> simp only [decMu, op, cur, eCursor] <;> rfl

theorem muScl_wf_iff {a b : Bool} {x : Fin 2} : (Instr.muScl a b x).wf = true ↔ codeBool a = 1 ∨ codeBool b = 1 := by
  rw [show (Instr.muScl a b x).wf = (a || b) from Bool.and_true _]
  cases a <;> cases b <;> decide

theorem eMu_lt (ho : opc < 2 ^ 6) (hl : low < 2 ^ 58) : eMu opc low < 2 ^ 64 := by
  unfold eMu
  omega

theorem decMu_encodeMicro (wf : i.wf = true) (h : encodeMicro i = some w) : w < 2 ^ 64 ∧ decMu w = some i := by
  cases i with
  | muNop | muLda | muLdb | muFold | muDrain | muDrnc | muEndl | muChk | muHdr | muRet =>
    cases h
    refine ⟨eMu_lt (by omega) (by omega), ?_⟩
    simp (disch := omega) [decMu, eMu, -Nat.reducePow, -Fin.ofNat_eq_cast]
  | muZero | muXpose =>
    cases h
    refine ⟨eMu_lt (by omega) (by simp only [eBool_eq]; omega), ?_⟩
    simp (disch := omega) [decMu, eMu, eBool_eq, -Nat.reducePow, -Fin.ofNat_eq_cast]
  | muStep adv x =>
    cases h
    refine ⟨eMu_lt (by omega) (by simp only [eBool_eq]; omega), ?_⟩
    simp (disch := omega) [decMu, eMu, eBool_eq, -Nat.reducePow, -Fin.ofNat_eq_cast]
    simp only [fld]
    omega
  | muMask d m =>
    cases h
    refine ⟨eMu_lt (by omega) (by simp only [eBool_eq]; omega), ?_⟩
    simp (disch := omega) [decMu, eMu, eBool_eq, -Nat.reducePow, -Fin.ofNat_eq_cast]
    omega
  | muScl a b x =>
    cases h
    have operand := muScl_wf_iff.1 wf
    refine ⟨eMu_lt (by omega) (by simp only [eBool_eq]; omega), ?_⟩
    simp (disch := omega) [decMu, eMu, eBool_eq, -Nat.reducePow, -Fin.ofNat_eq_cast]
    simp only [fld]
    omega
  | muLoop c =>
    cases h
    cases c with
    | imm n =>
      refine ⟨eMu_lt (by omega) (by simp only [eCount]; omega), ?_⟩
      simp (disch := omega) [decMu, eMu, eCount, -Nat.reducePow, -Fin.ofNat_eq_cast]
    | mp r =>
      refine ⟨eMu_lt (by omega) (by simp only [eCount]; omega), ?_⟩
      simp (disch := omega) [decMu, eMu, eCount, -Nat.reducePow, -Fin.ofNat_eq_cast]
  | muPadd set c x =>
    cases h
    have hc := eCursor_lt c
    have op : fld (eMu 0x0D (eStride x + eBool set * 2 ^ 18 + eCursor c * 2 ^ 16)) 58 6 = 0x0D := by
      cases x <;> simp only [eMu, eStride, eBool_eq, fld] <;> omega
    have cur : fld (eMu 0x0D (eStride x + eBool set * 2 ^ 18 + eCursor c * 2 ^ 16)) 16 2 = eCursor c := by
      cases x <;> simp only [eMu, eStride, eBool_eq, fld] <;> omega
    refine ⟨eMu_lt (by omega) (by cases x <;> simp only [eStride, eBool_eq] <;> omega), ?_⟩
    rw [decMu_of_padd op cur]
    cases x with
    | imm n =>
      rw [if_neg (by simp only [eMu, eStride, eBool_eq, fld]; omega), if_pos (by simp only [eMu, eStride, eBool_eq, fld]; omega), Option.some_inj, Instr.muPadd.injEq, PaddVal.imm.injEq, fBool_eq_iff, fb_eq_iff]
      refine ⟨?_, rfl, ?_⟩ <;>
        simp only [eMu, eStride, eBool_eq, fld] <;> omega
    | mp h r =>
      rw [if_pos (by simp only [eMu, eStride, eBool_eq, fld]; omega), if_pos (by simp only [eMu, eStride, eBool_eq, fld]; omega), Option.some_inj, Instr.muPadd.injEq, PaddVal.mp.injEq, fBool_eq_iff, fBool_eq_iff, f3_eq_iff]
      refine ⟨?_, rfl, ?_, ?_⟩ <;>
        simp only [eMu, eStride, eBool_eq, fld] <;> omega
  | _ => cases h

theorem encodeMicro_of_ck (hw : w < 2 ^ 64) (op : fld w 58 6 = opc) (h : (if z = 0 then some j else none) = some i) 
    (enc : encodeMicro j = some (eMu opc low)) (bits : z = 0 → j.wf = true ∧ low = fld w 0 58) : i.wf = true ∧ encodeMicro i = some w := by
  split at h <;> cases h
  rename_i zeros
  obtain ⟨wf, rfl⟩ := bits zeros
  rw [enc, eMu, ← op, fld_join]
  exact ⟨wf, congrArg some (fld_all hw)⟩

theorem encode_decMu (hw : w < 2 ^ 64) (h : decMu w = some i) : i.wf = true ∧ encodeMicro i = some w := by
  by_cases padd : fld w 58 6 = 0x0D ∧ fld w 16 2 < 3
  · obtain ⟨c, cur⟩ := exists_eCursor padd.2
    rw [decMu_of_padd padd.1 cur] at h
    split at h <;> rename_i mp
    · refine encodeMicro_of_ck hw padd.1 h rfl fun zeros => ⟨rfl, ?_⟩
      simp only [eStride, eBool_eq, ← cur, f3_val, codeBool_fBool, fld] at mp zeros ⊢
      omega
    · refine encodeMicro_of_ck hw padd.1 h rfl fun zeros => ⟨rfl, ?_⟩
      simp only [eStride, eBool_eq, ← cur, fb_toNat, codeBool_fBool, fld] at mp zeros ⊢
      omega
  unfold decMu at h
  split at h
  case h_18 => cases h
  case h_5 op =>
    split at h
    case isFalse => cases h
    rename_i depth
    refine encodeMicro_of_ck hw op h rfl fun zeros => ⟨rfl, ?_⟩
    simp only [eBool_eq, f3_val, codeBool_fBool, fld] at depth zeros ⊢
    omega
  case h_6 op => 
    split at h
    case isTrue => cases h
    rename_i operand
    refine encodeMicro_of_ck hw op h rfl fun zeros => ⟨?_, ?_⟩
    · rw [muScl_wf_iff, Fin.ext_iff, Fin.ext_iff, codeBool_fBool, codeBool_fBool]
      simp only [fld] at operand ⊢
      omega
    simp only [eBool_eq, bit_val, codeBool_fBool, fld] at zeros ⊢
    omega
  case h_12 op =>
    split at h
    · rename_i mp
      refine encodeMicro_of_ck hw op h rfl fun zeros => ⟨rfl, ?_⟩
      simp only [eCount, f3_val, fld] at mp zeros ⊢
      omega
    · rename_i mp
      refine encodeMicro_of_ck hw op h rfl fun zeros => ⟨rfl, ?_⟩
      simp only [eCount, fb_toNat, fld] at mp zeros ⊢
      omega
  case h_14 op =>
    have := fld_lt w 16 2
    rw [if_pos (by omega)] at h
    cases h
  case h_1 op | h_2 op | h_3 op | h_4 op =>
    refine encodeMicro_of_ck hw op h rfl fun zeros => ⟨rfl, ?_⟩
    simp only [eBool_eq, fb_toNat, bit_val, codeBool_fBool, fld] at zeros ⊢
    omega
  case h_7 op | h_9 op | h_10 op | h_11 op | h_16 op =>
    refine encodeMicro_of_ck hw op h rfl fun zeros => ⟨rfl, ?_⟩
    simp only [eBool_eq, f3_val, codeBool_fBool, fld] at zeros ⊢
    omega
  case h_8 op | h_13 op | h_15 op | h_17 op => exact encodeMicro_of_ck hw op h rfl fun zeros => ⟨rfl, zeros.symm⟩
end

/-- Settles O57: the fields of each micro-word, once from the operands and once from the word. -/
theorem microWordsRoundTrip : Obligations.MicroWordsRoundTrip := by
  refine ⟨fun i w wf h => ?_, fun w i h => encode_decMu w.isLt h⟩
  obtain ⟨lt, ok⟩ := decMu_encodeMicro wf h
  exact ⟨lt, by rw [decodeMicro, BitVec.toNat_ofNat, Nat.mod_eq_of_lt lt, ok]⟩

end Sys2Proof
end

section
/-! PROOFS. The state after reset (O60), and the words that the spec writes out (O55). -/

namespace Sys2Proof.Machine

theorem getElem_replicate_fin {α : Type} {n : Nat} (x : α) (r : Fin n) : (Vector.replicate n x)[r] = x := Vector.getElem_replicate r.isLt

theorem Isle.start_memCanonical (px py divisor : Nat) : (Isle.start px py divisor).MemCanonical := ⟨rfl, rfl, rfl, rfl⟩

/-- Settles O60: every table of the reset state is empty, and its registers are vectors of one value. -/
theorem resetState : Obligations.ResetState := by
  have registers (r : Fin 32) : State.reset.core.a[r] = 0 ∧ State.reset.core.b[r] = 0 ∧ State.reset.core.v[r] = 0 ∧
      State.reset.core.tag[r] = 0 ∧ State.reset.core.flag[r] = 0 :=
    ⟨getElem_replicate_fin _ r, getElem_replicate_fin _ r, getElem_replicate_fin _ r, getElem_replicate_fin _ r, getElem_replicate_fin _ r⟩
  have predicates (r : Fin 8) : State.reset.core.vm[r] = 0 ∧ State.reset.core.mp[r] = 0 ∧ (State.reset.core.p[r] = true ↔ r = 0) :=
    ⟨getElem_replicate_fin _ r, getElem_replicate_fin _ r, by revert r; decide⟩
  have streams (r : Fin 16) : State.reset.core.st[r] = {} := getElem_replicate_fin _ r
  have isles : State.reset.IslesCanonical := ⟨Isle.start_memCanonical 0 0 64, by simp [State.reset], by simp [State.reset], by simp [State.reset]⟩
  exact ⟨rfl, isles, rfl, rfl, rfl, rfl, rfl, rfl, fun _ => rfl, registers, predicates, streams, rfl, rfl, rfl, rfl, rfl,
    fun _ => ⟨rfl, rfl, rfl⟩⟩

/-- Settles O55: each word evaluated. -/
theorem writtenWordsDecode : Obligations.WrittenWordsDecode := by
  unfold Obligations.WrittenWordsDecode
  decide

end Sys2Proof.Machine
end

section
/-! PROOFS. Issue (R89, R92, R107), the logic, shifts and predicates of slots A and B (R119, R120, R125, R127), and the issue of a
WAITB that zeroes a frame (R258). -/

namespace Sys2Proof.Machine

/-! ## Every slot word goes through `State.issue` -/

/-- A slot word other than NOP and a hint is an issue behind its stall count. -/
theorem exec_eq_issue {i : Instr} {p : Pred} (s : State) (hp : i.pred? = some p) (nop : ∀ q, i ≠ .nop q) (hint : ∀ q h o, i ≠ .hint q h o) :
    ∃ b, exec i s = .next ((s.withStallOf i).issue i p b) := by
  cases i with
  | nop q => exact absurd rfl (nop q)
  | hint q h o => exact absurd rfl (hint q h o)
  | _ => cases hp <;> exact ⟨_, rfl⟩

/-- A hint reads nothing, so it never finds a result in flight (R92). -/
theorem State.stallShort_hint {p : Pred} {h : Fin 4} {o : BitVec 22} (s : State) : s.stallShort (.hint p h o) = false := Bool.and_false _

/-- A word that reads a result in flight under SBMODE 1 raises STALL_SHORT behind its stall count (R107). -/
theorem exec_of_stallShort {i : Instr} {p : Pred} {s : State} (hp : i.pred? = some p) (hs : s.stallShort i = true) :
    exec i s = .next ((s.withStallOf i).raise 0x05 0x51 s.core.pc) := by
  by_cases nop : ∃ q, i = .nop q
  · obtain ⟨q, rfl⟩ := nop
    exact congrArg _ (if_pos hs)
  by_cases hint : ∃ q h o, i = .hint q h o
  · obtain ⟨q, h, o, rfl⟩ := hint
    rw [s.stallShort_hint] at hs
    cases hs
  obtain ⟨b, run⟩ := exec_eq_issue s hp (fun q h => nop ⟨q, h⟩) fun q h o e => hint ⟨q, h, o, e⟩
  have short : (s.withStallOf i).stallShort i = true := by rw [State.withStallOf_eq]; exact hs
  rw [run, State.issue_stall p b short, State.withStallOf_eq]

/-- Settles O2: the check stands before the effect of every word (`exec_eq_issue`). -/
theorem stallShortTraps : Obligations.StallShortTraps := by
  intro i p s hp hs early
  rw [exec_of_stallShort hp hs, State.withStallOf_eq]
  exact congrArg _ (State.raise_first _ _ _ early)

/-! ## Words without an effect -/

section
variable {s : State} {p : Pred}

theorem State.gives_nop : s.Gives (.nop p) s := by
  rintro ⟨q, hq, short, -⟩
  exact congrArg _ (if_neg (by simp [short]))

/-- A C word that issues has its effect behind its stall count (R89, R93). -/
theorem State.gives_of_issueC {i : Instr} {n : Fin 16} {b : State → State} (hp : i.pred? = some p) (hx : exec i s = .next (s.issueC i p n b)) :
    s.Gives i (b (s.withStall n)).holdClass := by
  intro hi
  rw [hx, issueC_true b hi hp]

theorem exec_hint_of_C {h : Fin 4} {o : BitVec 22} (hs : s.slot = .C) :
    exec (.hint p h o) s = .next (s.withStall (Fin.ofNat 16 (o.toNat / 2 ^ 18))) := congrArg _ (if_pos hs)

end

/-- Settles O3: the effect of each of these words is the identity. -/
theorem wordsWithoutEffect : Obligations.WordsWithoutEffect := by
  intro s p n h o bva blen sc
  exact ⟨State.gives_nop, State.gives_of_issueC (b := id) rfl rfl, fun hs => congrArg _ (if_neg hs), exec_hint_of_C,
    s.gives_of_issue (b := id) rfl rfl, s.gives_of_issue (b := id) rfl rfl⟩

/-! ## Logic and shifts (R119, R120) -/

/-- A word of slots A and B that lands a value given bit by bit. -/
theorem State.lands_bits {s : State} {i : Instr} {p : Pred} {c : Nat} {d : Fin 32} {x : W64} {f : Nat → Bool} (hs : s.slot = .A ∨ s.slot = .B)
    (hp : i.pred? = some p) (hx : exec i s = .next (s.alu i p c d x)) (bits : ∀ k, k < 64 → x.getLsbD k = f k) :
    ∃ z : W64, (∀ k, k < 64 → z.getLsbD k = f k) ∧ s.Gives i (s.land c (.scalar (ownG s.slot d) z)) := ⟨x, bits, gives_of_alu hs hp hx⟩

section
variable {x : W64} {n k : Nat}

theorem getLsbD_zeroExtend_imm (hk : k < 64) (imm : BitVec 12) : (imm.zeroExtend 64).getLsbD k = (decide (k < 12) && imm.getLsbD k) := by
  have top : 12 ≤ k → imm.getLsbD k = false := imm.getLsbD_of_ge k
  by_cases h : k < 12 <;> simp [hk, h]
  exact top (Nat.not_lt.1 h)

theorem getLsbD_shiftLeft_left (hk : k < 64) : (x <<< n).getLsbD k = (decide (n ≤ k) && x.getLsbD (k - n)) := by
  rw [BitVec.getLsbD_shiftLeft, decide_eq_true hk, Bool.true_and, ← decide_not]
  simp only [Nat.not_lt]

theorem getLsbD_ushiftRight_right : (x >>> n).getLsbD k = (decide (k + n < 64) && x.getLsbD (k + n)) := by
  rw [BitVec.getLsbD_ushiftRight, Nat.add_comm n]
  by_cases h : k + n < 64
  · rw [decide_eq_true h, Bool.true_and]
  · rw [BitVec.getLsbD_of_ge x (k + n) (Nat.not_lt.1 h), Bool.and_false]

theorem getLsbD_sshiftRight_arith (hk : k < 64) : (x.sshiftRight n).getLsbD k = x.getLsbD (min (k + n) 63) := by
  rw [BitVec.getLsbD_sshiftRight, decide_eq_false (Nat.not_le.2 hk), Nat.add_comm n]
  by_cases h : k + n < 64
  · rw [if_pos h, Nat.min_eq_left (by omega)]
    rfl
  · rw [if_neg h, Nat.min_eq_right (by omega), BitVec.msb_eq_getLsbD_last]
    rfl

end

/-- Settles O6: each value bit by bit, by the lemmas above and Lean's own on the bitwise operations. -/
theorem scalarLogicAndShifts : Obligations.ScalarLogicAndShifts := by
  refine ⟨fun s p d s1 s2 imm hs => ?_, fun s p d s1 s2 sh hs => ?_⟩
  · intro x y lands
    exact ⟨State.lands_bits hs rfl rfl fun k _ => BitVec.getLsbD_and, State.lands_bits hs rfl rfl fun k _ => BitVec.getLsbD_or,
      State.lands_bits hs rfl rfl fun k _ => BitVec.getLsbD_xor,
      State.lands_bits hs rfl rfl fun k hk => by rw [← getLsbD_zeroExtend_imm hk, ← BitVec.getLsbD_and]; rfl,
      State.lands_bits hs rfl rfl fun k hk => by rw [← getLsbD_zeroExtend_imm hk, ← BitVec.getLsbD_or]; rfl,
      State.lands_bits hs rfl rfl fun k hk => by rw [← getLsbD_zeroExtend_imm hk]; exact BitVec.getLsbD_xor⟩
  · intro x n lands left right arith
    exact ⟨State.lands_bits hs rfl rfl fun k => getLsbD_shiftLeft_left, State.lands_bits hs rfl rfl fun k _ => getLsbD_ushiftRight_right,
      State.lands_bits hs rfl rfl fun k => getLsbD_sshiftRight_arith, State.lands_bits hs rfl rfl fun k => getLsbD_shiftLeft_left,
      State.lands_bits hs rfl rfl fun k _ => getLsbD_ushiftRight_right, State.lands_bits hs rfl rfl fun k => getLsbD_sshiftRight_arith⟩

/-! ## Predicates (R125, R127) -/

/-- A word of slots A and B that lands a predicate holds no class cycle (R125, R378). -/
theorem State.gives_of_aluP {s : State} {i : Instr} {p : Pred} {pd : Fin 8} {x : Bool} (hs : s.slot = .A ∨ s.slot = .B)
    (hp : i.pred? = some p) (hx : exec i s = .next (s.aluP i p pd x)) : s.Gives i (s.land 0 (.pred pd x)) := by
  intro hi
  have ctl : s.slot.cls = .ctl := by
    obtain h | h := hs <;> rw [h] <;> rfl
  rw [hx, aluP, issue_ctl _ hi hp ctl]

/-- Settles O8: the condition case by case, and the truth table by its four rows. -/
theorem scalarPredicates : Obligations.ScalarPredicates := by
  intro s p pd pa pb c s1 s2 imm tt hs x holds b
  have decides (y : W64) : condHolds c x y = true ↔ holds y := by
    cases c with
    | eq => exact beq_iff_eq
    | ne => exact bne_iff_ne
    | lt | ltu => exact decide_eq_true_iff
    | ge => exact decide_eq_true_iff.trans Int.not_lt.symm
    | geu => exact decide_eq_true_iff.trans Nat.not_lt.symm
  have reads (r : Fin 8) : s.core.rdP r = b r := by
    by_cases h : r = 0 <;> simp [Isle.rdP, b, h]
  refine ⟨⟨_, decides _, State.gives_of_aluP hs rfl rfl⟩, ⟨_, decides _, State.gives_of_aluP hs rfl rfl⟩, ?plog⟩
  rw [← reads pa, ← reads pb, ← truth_eq]
  exact State.gives_of_aluP hs rfl rfl

/-! ## A WAITB that meets a frame to be zeroed (R258) -/

/-- A partition with the first channel of die 0, as its creation leaves it: every frame awaits zeroing. -/
def freshPart : Part :=
  { pid := 0, pf := 0, capgen := 0, isles := [], chans := [0], links := 0, kctx := 0, straits := 0, slotBase := 0, slotCnt := 0, whtBase := 0, whtCnt := 0
    whRes := 0, tier2 := 0, t2off := 0, featOffer := 0, featAccept := 0, featOpen := false, fnmap := [], gidBase := 0, gidCnt := 0, asidBase := 0, asidCnt := 0
    desc := [], budgetEn := false, budgetPerch := 0, msicoal := 0, handles := [], whM := [], whB := [], whtBusy := none, whtErr := false, whtReason := 0
    s2root := [0], s2 := [], ckpt := none, ckptErr := false, ckptReason := 0, ckptPages := 0, ckptAddr := 0, resetting := false }

/-- The reset state with that partition and an address space of it, whose stage-1 table has not been written yet. -/
def freshSpace : State := { State.reset with parts := [freshPart], asids := [(0, 0, 0)] }

/-- WAITB of the barrier that b0 names, at address 0 of the space. -/
def freshWait : Instr := .waitb { neg := false, idx := 0 } 0 0 none 0

/-- The walk for the barrier meets a frame that awaits zeroing: it is zeroed, and its stage-2 leaf written (R258). -/
theorem freshWait_parts : ∃ t, exec freshWait freshSpace = .next t ∧ t.parts.map (·.s2.length) = [1] := ⟨_, rfl, by decide⟩

/-- Refutes O4: a WAITB whose walk meets a frame that awaits zeroing has it zeroed at issue (R258), which writes the stage-2 leaf in its partition. -/
theorem not_issueChangesNoRegister : ¬ Obligations.IssueChangesNoRegister := by
  intro frame
  obtain ⟨t, run, leaves⟩ := freshWait_parts
  obtain ⟨rest, -⟩ := frame freshWait _ freshSpace t rfl run
  rw [rest.parts] at leaves
  exact absurd leaves (by decide)

end Sys2Proof.Machine
end

section
/-! PROOFS. The words of slot C (R178-R200, R366-R377): what each answers with, where it traps, what a loop does, and the registers that
SYSRD and SYSWR name. -/

namespace Sys2Proof.Machine

section
variable {s : State} {i : Instr} {p : Pred} {n : Fin 16} {b : State → State} {t : State}

/-- A word of slot C answers with its effect behind its stall count, where that leaves the slot; it holds no class cycle (R93, R378). -/
theorem State.gives_of_effectC (hs : s.slot = .C) (hp : i.pred? = some p) (hx : exec i s = .next (s.issueC i p n b)) (kept : t.slot = s.slot)
    (effect : b (s.withStall n) = t) : s.Gives i t := by
  subst effect
  have ctl : (b (s.withStall n)).slot.cls = .ctl := by rw [kept, hs]; rfl
  intro hi
  rw [hx, issueC_true b hi hp, holdClass_ctl ctl]

/-- A word of slot C that finds INSTR_ILLEGAL at issue traps with it behind its stall count (R181). -/
theorem State.gives_of_illegal {r : Nat} (hs : s.slot = .C) (hp : i.pred? = some p) (hx : exec i s = .next (s.issueC i p n b))
    (effect : b (s.withStall n) = (s.withStall n).illegal r) (early : s.core.early = none) :
    s.Gives i ((s.withStall n).trapping 1 r s.core.pc) :=
  gives_of_effectC hs hp hx rfl (effect.trans (raise_first _ _ _ early))

end

/-! ## The loop stack at a LOOP (R181, R184) -/

/-- The body of a LOOP at bundle `pc` of length `len` cannot be entered: it ends at the LOOP itself or beyond the innermost loop (R181). -/
def LoopClash (l : List LoopEnt) (pc len : Nat) : Prop :=
  (∃ e ∈ l, e.fin = pc) ∨ ∃ e, l.head? = some e ∧ e.fin < pc + len

section
variable {s : State} {len count : Nat}

theorem State.pushLoop_eq (s : State) (len count : Nat) [Decidable (LoopClash s.core.loopStack s.core.pc len)] :
    s.pushLoop len count =
      if LoopClash s.core.loopStack s.core.pc len then s.illegal 0x09
      else if count = 0 then s.goto (.jump (s.core.pc + len + 1))
      else if s.core.loopDepth ≤ s.core.loopStack.length then s.illegal 0x07
      else s.onCore (·.setLoops ({ start := s.core.pc + 1, fin := s.core.pc + len, count := count, index := 0 } :: s.core.loopStack)) := by
  refine if_congr ?_ rfl rfl
  cases s.core.loopStack with
  | nil => simp [LoopClash]
  | cons e t => simp [LoopClash, or_comm]

theorem not_loopClash_iff {l : List LoopEnt} {pc len : Nat} :
    ¬ LoopClash l pc len ↔ (∀ e, l.head? = some e → pc + len ≤ e.fin) ∧ ∀ e ∈ l, e.fin ≠ pc := by
  simp only [LoopClash, not_or, not_exists, not_and, Nat.not_lt]
  exact and_comm

end

/-- Settles O9: each word's effect where its checks pass. -/
theorem sequencerWords : Obligations.SequencerWords := by
  classical
  intro s p n tgt bs lenM1 cntM1 hs u x len nests push jump
  have pushes {k : Nat} (h : nests) (pos : k ≠ 0) (room : s.core.loopStack.length < s.core.loopDepth) : u.pushLoop len k = push k := by
    rw [State.pushLoop_eq]
    exact (if_neg (not_loopClash_iff.2 h)).trans ((if_neg pos).trans (if_neg (Nat.not_le.2 room)))
  have skips (h : nests) : u.pushLoop len 0 = jump (s.core.pc + len + 1) := by
    rw [State.pushLoop_eq]
    exact (if_neg (not_loopClash_iff.2 h)).trans (if_pos rfl)
  refine ⟨?br, fun ok => ?bri, fun room => ?call, fun y t top ok => ?ret, fun h room => ?loop, fun h zero => ?loopr0, fun h pos small room => ?loopr,
    fun inside => ?lbrk⟩
  case br => exact State.gives_of_effectC hs rfl rfl rfl rfl
  case bri => exact State.gives_of_effectC hs rfl rfl rfl (if_pos ok)
  case call => exact State.gives_of_effectC hs rfl rfl rfl (if_neg (Nat.not_le.2 room))
  case ret =>
    refine State.gives_of_effectC hs rfl rfl rfl ?_
    have top : u.core.callStack = y :: t := top
    rw [top]
    exact if_pos ok
  case loop => exact State.gives_of_effectC hs rfl rfl rfl (pushes h (Nat.succ_ne_zero _) room)
  case loopr0 =>
    have small : ¬ 2 ^ 32 ≤ x := by omega
    refine State.gives_of_effectC hs rfl rfl rfl ((if_neg small).trans ?_)
    exact Eq.trans (congrArg (u.pushLoop len) zero) (skips h)
  case loopr => exact State.gives_of_effectC hs rfl rfl rfl ((if_neg (Nat.not_le.2 small)).trans (pushes h pos.ne' room))
  case lbrk => exact State.gives_of_effectC hs rfl rfl rfl (if_neg (mt List.isEmpty_iff.1 inside))

theorem State.holdIssue_of_free {s : State} {h : Hold} (free : s.core.hold = none) :
    s.holdIssue h = s.onCore fun c => { c with hold := some h } := by
  rw [holdIssue, free]
  rfl

/-- Settles O10: each check that fails, in the order in which the words make them. -/
theorem controlTraps : Obligations.ControlTraps := by
  classical
  refine ⟨fun s p n tgt bs lenM1 cntM1 hs => ?_, fun s p n f sig cnt x hs => ?_⟩
  · intro x traps
    refine ⟨fun off => ?bri, fun full => ?call, fun empty => ?retEmpty, fun y t top off => ?ret, fun i hi => ?loop, fun empty => ?lbrk, fun big => ?count⟩
    case bri => exact State.gives_of_illegal hs rfl rfl (if_neg (Bool.eq_false_iff.1 off))
    case call => exact State.gives_of_illegal hs rfl rfl (if_pos full)
    case retEmpty =>
      refine State.gives_of_illegal hs rfl rfl ?_
      have empty : (s.withStall n).core.callStack = [] := empty
      rw [empty]
    case ret => 
      refine State.gives_of_illegal hs rfl rfl ?_
      have top : (s.withStall n).core.callStack = y :: t := top
      rw [top]
      exact if_neg (Bool.eq_false_iff.1 off)
    case loop =>
      intro fin ends
      have clash {k : Nat} (h : ends) : (s.withStall n).pushLoop (lenM1.toNat + 1) k = (s.withStall n).illegal 0x09 :=
        (State.pushLoop_eq ..).trans (if_pos h)
      have full {k : Nat} (h : ¬ ends) (pos : k ≠ 0) (deep : s.core.loopDepth ≤ s.core.loopStack.length) :
          (s.withStall n).pushLoop (lenM1.toNat + 1) k = (s.withStall n).illegal 0x07 :=
        (State.pushLoop_eq ..).trans ((if_neg h).trans ((if_neg pos).trans (if_pos deep)))
      obtain rfl | ⟨rfl, small⟩ := hi
      · exact ⟨fun h => State.gives_of_illegal hs rfl rfl (clash h),
          fun h deep _ => State.gives_of_illegal hs rfl rfl (full h (Nat.succ_ne_zero _) deep)⟩
      · refine ⟨fun h => State.gives_of_illegal hs rfl rfl ((if_neg (Nat.not_le.2 small)).trans (clash h)), fun h deep counts => ?_⟩
        exact State.gives_of_illegal hs rfl rfl ((if_neg (Nat.not_le.2 small)).trans (full h (counts.resolve_left nofun) deep))
    case lbrk => exact State.gives_of_illegal hs rfl rfl (if_pos (List.isEmpty_iff.2 empty))
    case count => exact State.gives_of_illegal hs rfl rfl (if_pos big)
  · refine ⟨fun flag free early exceeds => ?overflow, fun pending free => ?held⟩
    case overflow =>
      refine State.gives_of_effectC hs rfl rfl rfl ?_
      have none_pending : ¬ (!(s.withStall n).ctx.releases.isEmpty) = true := by simp [State.withStall, free]
      have flag : (s.withStall n).flagOf (sig.getD (s.withStall n).ctx.ctxid).val f = some x := flag
      rw [if_neg none_pending, flag]
      exact (if_pos exceeds).trans (State.raise_first _ _ _ early)
    case held =>
      have pending : (!(s.withStall n).ctx.releases.isEmpty) = true := by simp [State.withStall, pending]
      have held : s.Gives (.postf p n f sig cnt) ((s.withStall n).onCore fun c => { c with hold := some .releasePending }) :=
        State.gives_of_effectC hs rfl rfl rfl ((if_pos pending).trans (State.holdIssue_of_free free))
      exact ⟨_, held, rfl⟩

/-! ## A loop's iterations (R178, R179) -/

/-- The next bundle and the loop stack after a bundle, of both. -/
def stepLoop (x : Nat × List LoopEnt) : Nat × List LoopEnt := loopEnd x.1 x.2

/-- An isle that runs in normal mode, its bundle followed by the sequencer's own choice. -/
structure Isle.Sequential (c : Isle) : Prop where
  handler : c.handler = false
  ended : c.ended = false
  next : c.next = .seq

theorem Isle.Sequential.advance {c : Isle} (h : c.Sequential) :
    c.advance.Sequential ∧ (c.advance.pc, c.advance.loops) = stepLoop (c.pc, c.loops) := by
  obtain ⟨handler, ended, next⟩ := h
  have step : c.advance = { c with stall := c.nextStall, waitPc := c.pc, loops := (loopEnd c.pc c.loops).2, pc := (loopEnd c.pc c.loops).1
                                   next := .seq, nextStall := 0 } := by
    simp [Isle.advance, handler, ended, next, loopStack, setLoops]
  rw [step]
  exact ⟨⟨handler, ended, rfl⟩, rfl⟩

theorem Isle.Sequential.iterate {c : Isle} (h : c.Sequential) (k : Nat) :
    ((Isle.advance^[k] c).pc, (Isle.advance^[k] c).loops) = stepLoop^[k] (c.pc, c.loops) := by
  induction k generalizing c with
  | zero => rfl
  | succ k ih =>
    obtain ⟨again, step⟩ := h.advance
    rw [Function.iterate_succ_apply, Function.iterate_succ_apply, ih again, step]

section
variable {e : LoopEnt} {t : List LoopEnt} {pc : Nat}

theorem loopEnd_of_inside (h : e.fin ≠ pc) : loopEnd pc (e :: t) = (pc + 1, e :: t) := by rw [loopEnd, if_neg h]

theorem loopEnd_of_again (h : e.index + 1 < e.count) : loopEnd e.fin (e :: t) = (e.start, { e with index := e.index + 1 } :: t) := by
  rw [loopEnd, if_pos rfl, if_pos h]

theorem loopEnd_of_last (h : ¬ e.index + 1 < e.count) (outer : ∀ d, t.head? = some d → d.fin ≠ e.fin) : loopEnd e.fin (e :: t) = (e.fin + 1, t) := by
  rw [loopEnd, if_pos rfl, if_neg h]
  cases t with
  | nil => rfl
  | cons d t => exact loopEnd_of_inside (outer d rfl)

end

/-- From bundle `j` of a loop's body, with `n` runs of the body left to begin or to end, the loop is left after the bundles that remain. -/
theorem iterate_stepLoop (k : Nat) {e : LoopEnt} {t : List LoopEnt} {n j : Nat} (outer : ∀ d, t.head? = some d → d.fin ≠ e.fin)
    (body : e.start + j ≤ e.fin) (left : e.index + n = e.count) (pos : 0 < n) (total : k + j = n * (e.fin + 1 - e.start)) :
    stepLoop^[k] (e.start + j, e :: t) = (e.fin + 1, t) := by
  induction k generalizing e n j with
  | zero =>
    have : e.fin + 1 - e.start ≤ n * (e.fin + 1 - e.start) := Nat.le_mul_of_pos_left _ pos
    omega
  | succ k ih =>
    rw [Function.iterate_succ_apply]
    by_cases inside : e.fin = e.start + j
    case neg =>
      rw [show stepLoop (e.start + j, e :: t) = (e.start + (j + 1), e :: t) from loopEnd_of_inside inside]
      exact ih outer (by omega) left pos (by omega)
    case pos =>
      rw [← inside]
      by_cases again : e.index + 1 < e.count
      case pos =>
        rw [show stepLoop (e.fin, e :: t) = (e.start + 0, { e with index := e.index + 1 } :: t) from loopEnd_of_again again]
        have runs : n * (e.fin + 1 - e.start) = (n - 1) * (e.fin + 1 - e.start) + (e.fin + 1 - e.start) := by
          rw [← Nat.succ_mul]
          congr
          omega
        exact ih (e := { e with index := e.index + 1 }) (n := n - 1) (j := 0) outer (by dsimp only; omega) (by dsimp only; omega) (by omega)
          (by dsimp only; omega)
      case neg =>
        rw [show stepLoop (e.fin, e :: t) = (e.fin + 1, t) from loopEnd_of_last again outer]
        obtain rfl : n = 1 := by omega
        obtain rfl : k = 0 := by omega
        rfl

/-- Settles O11: the bundles and the stack follow the loop-end test (`Isle.Sequential.iterate`), which counts the runs (`iterate_stepLoop`). -/
theorem loopRunsItsCount : Obligations.LoopRunsItsCount := by
  rintro c e t handler ended next loops zero pos start body outer k rfl
  have run := Isle.Sequential.iterate ⟨handler, ended, next⟩ (e.count * (e.fin + 1 - e.start))
  rw [loops, start, ← Nat.add_zero e.start, iterate_stepLoop _ outer body (n := e.count) (by omega) pos rfl] at run
  exact Prod.mk.inj run

/-! ## What the end of the rc takes up (R45, R187-R191) -/

theorem Isle.raiseLate_of_none {c : Isle} {t : TrapRec} (h : c.late = none) : c.raiseLate t = { c with late := some t } := by
  rw [raiseLate, h]

/-- A trap of a C word after issue, where the isle has none yet: its TADDR is the model's free value. -/
theorem State.raiseAfterOpen_of_none {s : State} {cause info : Nat} (hs : s.slot = .C) (h : s.core.late = none) :
    s.raiseAfterOpen cause info =
      { s with core := { s.core with late := some { cause := cause, addr := (s.free 0).toNat, info := info, slot := 0, issued := true } } } := by
  rw [raiseAfterOpen, onCore, Isle.raiseLate_of_none h, hs]
  rfl

/-- Settles O12: each word's effect, where its check passes. -/
theorem controlWords : Obligations.ControlWords := by
  intro s p n list sig cls divM1 code hs u late
  refine ⟨?endC, fun hidden => ?safept, ?tret, ?yieldC, fun hidden => ?clkdiv, fun free => ?trap, fun free => ?brk⟩
  case endC | tret | yieldC => exact State.gives_of_effectC hs rfl rfl rfl rfl
  case safept | clkdiv => exact State.gives_of_effectC hs rfl rfl rfl (if_neg (Bool.eq_false_iff.1 hidden))
  case trap | brk => exact ⟨_, State.gives_of_effectC hs rfl rfl rfl (State.raiseAfterOpen_of_none (s := s.withStall n) hs free)⟩

/-! ## System registers (R192, R195-R200, R209, R377) -/

section
variable {s : State} {p : Pred} {n : Fin 16} {g : GReg}

theorem State.gives_sysrd {r : SysReg} (hs : s.slot = .C) :
    s.Gives (.sysrd p n g r) ((s.withStall n).land 0 (.scalar g ((s.withStall n).sysRead r))) := gives_of_effectC hs rfl rfl rfl rfl

/-- CLKD holds the divisors less one, four bits each (R195). -/
theorem State.clkd_fields (range : ∀ k, 1 ≤ s.divOf k ∧ s.divOf k ≤ 8) :
    (s.sysRead .clkd).toNat < 2 ^ 16 ∧ ((s.sysRead .clkd).extractLsb' 0 4).toNat = s.divOf .ctl - 1 ∧
      ((s.sysRead .clkd).extractLsb' 4 4).toNat = s.divOf .mat - 1 ∧ ((s.sysRead .clkd).extractLsb' 8 4).toNat = s.divOf .vec - 1 ∧
      ((s.sysRead .clkd).extractLsb' 12 4).toNat = s.divOf .cpy - 1 := by
  have ctl := range .ctl
  have mat := range .mat
  have vec := range .vec
  have cpy := range .cpy
  simp only [sysRead, BitVec.extractLsb'_toNat, BitVec.toNat_ofNat, Nat.shiftRight_eq_div_pow]
  omega

end

/-- Settles O13: a read lands the register's value by `State.sysRead`. -/
theorem systemWords : Obligations.SystemWords := by
  intro s p n g r k4 k8 hs u reads
  have clkd (range : ∀ k, 1 ≤ s.divOf k ∧ s.divOf k ≤ 8) := (s.withStall n).clkd_fields range
  refine ⟨?tcause, ?taddr, ?tslot, ?tinfo, ?tcause2, ?ctxid, ?asid, ?px, ?py, ?pw, ?ph, ?rcycle, fun range => ⟨_, ?clkd, clkd range⟩, ?regbase,
    ?sbmode, ?feat, ?srseed, ?bkpt, ?perf, ?syswr, fun empty => ?statEmpty, fun x t queue => ?stat⟩
  case syswr => exact State.gives_of_effectC hs rfl rfl rfl rfl
  case statEmpty =>
    refine State.gives_of_effectC hs rfl rfl rfl ?_
    have empty : u.core.statq = [] := empty
    rw [empty]
  case stat =>
    refine State.gives_of_effectC hs rfl rfl rfl ?_
    have queue : u.core.statq = x :: t := queue
    rw [queue]
  all_goals exact State.gives_sysrd hs

/-! ## What a landed SYSWR changes (R192, R196-R199), and an event on the counters (R387) -/

/-- Bits taken from one word under a mask, from the other elsewhere. -/
theorem getLsbD_merge (x y m : W64) {k : Nat} (hk : k < 64) :
    ((y &&& ~~~ m) ||| (x &&& m)).getLsbD k = if m.getLsbD k then x.getLsbD k else y.getLsbD k := by
  simp only [BitVec.getLsbD_or, BitVec.getLsbD_and, BitVec.getLsbD_not, hk, decide_true, Bool.true_and]
  cases m.getLsbD k <;> simp

theorem getLsbD_rpcMask : ∀ k, k < 64 → (0x000000000FFF0000#64).getLsbD k = decide (16 ≤ k ∧ k < 28) := by decide

theorem getLsbD_reservedMask : ∀ k, k < 64 → (0x000000000003F000#64).getLsbD k = (decide (12 ≤ k) && decide (k < 18)) := by decide

section
variable (c : Isle)

theorem Isle.sysWrite_tslot (x : W64) (h : c.handler = true) : ∃ y : W64, c.sysWrite .tslot x = { c with tslot := y } ∧
    ∀ k, k < 64 → y.getLsbD k = if 16 ≤ k ∧ k < 28 then x.getLsbD k else c.tslot.getLsbD k := by
  refine ⟨_, if_pos h, fun k hk => ?_⟩
  rw [getLsbD_merge _ _ _ hk, getLsbD_rpcMask k hk]
  simp only [decide_eq_true_eq]

theorem Isle.sysWrite_bkpt (x : W64) (k4 : Fin 4) : ∃ y : W64, c.sysWrite (.bkpt k4) x = { c with bkpt := c.bkpt.set k4 y } ∧
    ∀ k, k < 64 → y.getLsbD k = (x.getLsbD k && !(decide (12 ≤ k) && decide (k < 18))) := by
  refine ⟨_, rfl, fun k hk => ?_⟩
  rw [BitVec.getLsbD_and, BitVec.getLsbD_not, decide_eq_true hk, Bool.true_and, getLsbD_reservedMask k hk]

theorem fld_two_eq_three_iff {x : W64} : fld x.toNat 0 2 = 3 ↔ x.extractLsb' 0 2 = 3 := by
  rw [fld_toNat, ← BitVec.toNat_inj]
  rfl

theorem Isle.sysWrite_sbmode_three {x : W64} (h : x.extractLsb' 0 2 = 3) : c.sysWrite .sbmode x = c := if_pos (fld_two_eq_three_iff.2 h)

theorem Isle.sysWrite_sbmode {x : W64} (h : x.extractLsb' 0 2 ≠ 3) : c.sysWrite .sbmode x = { c with sbmode := x.extractLsb' 0 2 } := by
  rw [← BitVec.setWidth_eq_extractLsb' (by decide)]
  exact if_neg (mt fld_two_eq_three_iff.1 h)

/-- A counter after an event (R387). -/
theorem Isle.getElem_count_perf (ev n : Nat) (k : Fin 8) : (c.count ev n).perf[k] =
    if fld (c.perf[k]).toNat 56 8 = ev then BitVec.ofNat 64 (ev * 2 ^ 56 + (fld (c.perf[k]).toNat 0 56 + n) % 2 ^ 56) else c.perf[k] := by
  simp [count]

theorem counter_fields {ev m : Nat} (he : ev < 256) :
    ((BitVec.ofNat 64 (ev * 2 ^ 56 + m % 2 ^ 56)).extractLsb' 56 8).toNat = ev ∧
      ((BitVec.ofNat 64 (ev * 2 ^ 56 + m % 2 ^ 56)).extractLsb' 0 56).toNat = m % 2 ^ 56 := by
  have low : m % 2 ^ 56 < 2 ^ 56 := Nat.mod_lt _ (Nat.two_pow_pos 56)
  rw [← fld_toNat, ← fld_toNat, BitVec.toNat_ofNat, Nat.mod_eq_of_lt (by omega), fld_add_high low he, fld_add_low (Nat.le_refl 56), fld_all low]
  exact ⟨rfl, rfl⟩

end

/-- Settles O14: the registers one by one, and the counters by their EVSEL. -/
theorem systemWriteFields : Obligations.SystemWriteFields := by
  intro c x k4 k8
  refine ⟨?fixed, fun h => if_neg (Bool.eq_false_iff.1 h), c.sysWrite_tslot x, c.sysWrite_sbmode_three, c.sysWrite_sbmode, rfl, c.sysWrite_bkpt x k4, rfl,
    fun ev n => ?_⟩
  case fixed => simp [Isle.sysWrite]
  intro y
  have counter : y = _ := c.getElem_count_perf ev n k8
  rw [fld_toNat, fld_toNat] at counter
  refine ⟨rfl, fun other => counter.trans (if_neg other), fun named => ?_⟩
  rw [counter, if_pos named]
  exact counter_fields (by rw [← named]; exact BitVec.isLt _)

/-! ## An access that meets no frame to be zeroed (R258) -/

section
variable {s : State}

theorem State.zeroFrame_of_not_awaiting {pl : Place} (h : s.awaitsZero pl = false) : s.zeroFrame pl = s := if_neg (Bool.eq_false_iff.1 h)

theorem State.zeroFrames_of_not_awaiting {l : List Place} (h : ∀ pl ∈ l, s.awaitsZero pl = false) : s.zeroFrames l = s := by
  induction l with
  | nil => rfl
  | cons pl l ih =>
    have first : s.zeroFrame pl = s := zeroFrame_of_not_awaiting (h pl List.mem_cons_self)
    rw [zeroFrames, List.foldl_cons, first]
    exact ih fun q hq => h q (List.mem_cons_of_mem _ hq)

theorem ofLe_zeros (n : Nat) : ofLe (List.replicate n 0) = 0 := by
  induction n with
  | zero => rfl
  | succ n ih => rw [List.replicate_succ, ofLe, ih]; rfl

/-- Bytes that are not all zero come from a frame that does not await zeroing. -/
theorem State.not_awaiting_of_devRead {pl : Place} {n : Nat} (h : ofLe (s.devRead pl n) ≠ 0) : s.awaitsZero pl = false := by
  by_contra awaits
  rw [devRead, if_pos (Bool.not_eq_false _ ▸ awaits), ofLe_zeros] at h
  exact h rfl

/-! ### The walk -/

/-- Every table entry that led to a place was read from a frame that does not await zeroing, unless the place is that of a bad table sector. -/
theorem State.look1_not_awaiting {p : Part} {q : Asked} {lvl t : Nat} {l : List Place} {r : Place ⊕ Nat} (h : s.look1 p q lvl t = (l, .ok r)) :
    (∃ pl, r = .inl pl ∧ pl.bad = true) ∨ ∀ pl ∈ l, s.awaitsZero pl = false := by
  unfold look1 at h
  dsimp only at h
  split at h
  · cases h
  · rename_i pl _
    by_cases bad : s.poisoned pl = true
    · rw [if_pos bad] at h
      cases h
      exact .inl ⟨_, rfl, rfl⟩
    rw [if_neg bad] at h
    by_cases valid : (!bit (ofLe (s.devRead pl 8)) 0) = true
    · rw [if_pos valid] at h
      cases h
    have read : ofLe (s.devRead pl 8) ≠ 0 := by
      intro zero
      rw [zero] at valid
      exact valid rfl
    have places : l = [pl] := by
      rw [if_neg valid] at h
      split_ifs at h <;> exact (congrArg Prod.fst h).symm
    exact .inr fun x hx => by
      rw [places, List.mem_singleton] at hx
      rw [hx]
      exact not_awaiting_of_devRead read

theorem State.walk_not_awaiting {p : Part} {q : Asked} (n : Nat) {lvl t : Nat} {pl : Place} (h : (s.walk p q n lvl t).2 = .ok pl) :
    pl.bad = true ∨ ∀ x ∈ (s.walk p q n lvl t).1, s.awaitsZero x = false := by
  induction n generalizing lvl t with
  | zero =>
    unfold walk at h ⊢
    split at h
    · cases h
    · rename_i look
      cases h
      obtain ⟨_, hx, bad⟩ | clear := look1_not_awaiting look
      · cases hx
        exact .inl bad
      · exact .inr clear
    · cases h
  | succ n ih =>
    unfold walk at h ⊢
    split at h
    · cases h
    · rename_i look
      cases h
      obtain ⟨_, hx, bad⟩ | clear := look1_not_awaiting look
      · cases hx
        exact .inl bad
      · exact .inr clear
    · rename_i l t look
      obtain bad | deeper := ih h
      · exact .inl bad
      obtain ⟨_, hx, -⟩ | clear := look1_not_awaiting look
      · cases hx
      exact .inr fun x hx => (List.mem_append.1 hx).elim (clear x) (deeper x)

theorem State.lookup_not_awaiting {asid pid : Nat} {q : Asked} {pl : Place} (h : (s.lookup asid pid q).2 = .ok pl) :
    pl.bad = true ∨ ∀ x ∈ (s.lookup asid pid q).1, s.awaitsZero x = false := by
  unfold lookup at h ⊢
  split
  · exact .inr nofun
  · rename_i low
    rw [if_neg low] at h
    split at h
    · split at h
      · rename_i mine
        rw [if_pos mine]
        exact walk_not_awaiting 2 h
      · cases h
    · cases h

/-- An access whose place is good and holds bytes that are not all zero touches nothing. -/
theorem State.touch_of_nonzero {asid pid n : Nat} {q : Asked} {pl : Place} (h : s.translate asid pid q = .ok pl) (good : pl.bad = false)
    (bytes : ofLe (s.devRead pl n) ≠ 0) : s.touch asid pid q = s := by
  have found : (s.lookup asid pid q).2 = .ok pl := h
  have clear := (lookup_not_awaiting found).resolve_left (by simp [good])
  unfold touch
  dsimp only
  rw [found]
  exact zeroFrames_of_not_awaiting fun x hx => (List.mem_append.1 hx).elim (clear x) fun hx => by
    rw [List.mem_singleton.1 hx]
    exact not_awaiting_of_devRead bytes

theorem BarW.scope_ofNat_zero : (BarW.ofNat 0).scope = 0 := rfl

/-- A barrier whose value a WAITB finds lies in no frame to be zeroed, and neither do the table entries on the way to it. -/
theorem State.refTouch_of_phase {ref : W64} {b : BarW} (h : s.lookBar ref = .phase b) : s.refTouch ref = s := by
  unfold lookBar at h
  unfold refTouch
  split at h
  · cases h
  rename_i r hr
  rw [hr]
  cases r with
  | ab a => rfl
  | dm va =>
    simp only [Bool.false_eq_true, if_false] at h
    split at h
    · cases h
    split at h
    · cases h
    rename_i pl found
    split_ifs at h with fetched bad scope
    have good : pl.bad = false := by
      rw [Bool.not_eq_true, poisoned, Bool.or_eq_false_iff] at bad
      exact bad.1
    refine touch_of_nonzero found good (n := 16) fun zero => ?_
    rw [zero, BarW.scope_ofNat_zero] at scope
    omega

end

/-! ## Waits and posts -/

section
variable {s : State}

/-- The isle once a WAITB has named a barrier: a value that it holds becomes the one named latest (R375). -/
def Isle.naming (c : Isle) (ref : W64) : Isle :=
  match c.phases.find? (·.1 == ref.toNat) with
  | some v => c.holdPhase v.1 v.2
  | none => c

theorem State.naming_waits_sameArch {n : Fin 16} {ref : W64} {w : Option Wait} :
    s.core.SameArch { (s.withStall n).core.naming ref with wait := w } := by
  unfold Isle.naming
  split <;> constructor <;> rfl

theorem phaseReached_iff {phase ph : Nat} : phaseReached phase ph = true ↔ (phase + 16 - ph) % 16 < 8 := by
  rw [phaseReached, decide_eq_true_iff]
  omega

end

/-- Settles O15: a barrier that the isle holds is touched without effect (`State.refTouch_of_phase`). -/
theorem waitsAndPosts : Obligations.WaitsAndPosts := by
  intro s p n f sig cnt bbar ph hs u
  refine ⟨fun clear => ?waitf, fun x flag free room => ?postf, fun b held => ?waitb⟩
  case waitf =>
    refine State.gives_of_effectC hs rfl rfl rfl ?_
    have clear : u.flagFaults f = [] := clear
    rw [clear]
    rfl
  case postf =>
    refine State.gives_of_effectC hs rfl rfl rfl ?_
    have free : ¬ (!u.ctx.releases.isEmpty) = true := by simp [u, State.withStall, free]
    have flag : u.flagOf (sig.getD u.ctx.ctxid).val f = some x := flag
    rw [if_neg free, flag]
    exact if_neg (Nat.not_lt.2 room)
  case waitb =>
    have held : u.lookBar (u.core.rdB bbar) = .phase b := held
    have run : s.Gives (.waitb p n bbar sig ph) { u with core := { u.core.naming (u.core.rdB bbar) with
        wait := some (.barrier (u.core.rdB bbar) ph.val sig (phaseReached b.phase ph.val)) } } := by
      refine State.gives_of_effectC hs rfl rfl rfl ?_
      dsimp only
      rw [State.refTouch_of_phase held, held]
      rfl
    exact ⟨_, _, run, rfl, phaseReached_iff, State.naming_waits_sameArch (n := n) (ref := u.core.rdB bbar), by constructor <;> rfl⟩

end Sys2Proof.Machine
end

section
/-! PROOFS. Bytes read after they are written (R3), and taking a trap and returning from it (R191, R196, R222, R326, R327). -/

namespace Sys2Proof.Machine

/-! ## Bytes read after they are written (R3) -/

theorem Mem.getElem?_bytes (m : Mem) (a n k : Nat) : (m.bytes a n)[k]? = if k < n then some (m.rd (a + k)) else none := by
  induction n generalizing a k with
  | zero => simp [bytes]
  | succ n ih =>
    cases k with
    | zero => simp [bytes]
    | succ k =>
      rw [bytes, List.getElem?_cons_succ, ih]
      simp [Nat.add_assoc, Nat.add_comm 1 k]

@[simp] theorem Mem.length_bytes (m : Mem) (a n : Nat) : (m.bytes a n).length = n := by
  induction n generalizing a with
  | zero => rfl
  | succ n ih => rw [bytes, List.length_cons, ih]

/-- A byte of a store, read back. -/
theorem Mem.rd_wrList_place {m : Mem} {a k : Nat} {l : List Byte} (h : m.wf = true) (hk : k < l.length) :
    (m.wrList (place a l)).rd (a + k) = l.getD k 0 := by
  induction l generalizing m a k with
  | nil => cases hk
  | cons x l ih =>
    change ((m.wr a x).wrList (place (a + 1) l)).rd (a + k) = _
    cases k with
    | zero =>
      rw [Nat.add_zero, rd_wrList_other _ _ fun c hc => by have := mem_place hc; omega]
      exact rd_wr_same a x h
    | succ k =>
      rw [← Nat.add_assoc, Nat.add_right_comm]
      exact ih (wf_wr a x h) (by simpa using hk)

theorem Mem.bytes_wrList_place {m : Mem} {a : Nat} {l : List Byte} (h : m.wf = true) : (m.wrList (place a l)).bytes a l.length = l := by
  refine List.ext_getElem? fun k => ?_
  rw [getElem?_bytes]
  split
  case isTrue hk => rw [rd_wrList_place h hk, List.getD_eq_getElem?_getD, List.getElem?_eq_getElem hk, Option.getD_some]
  case isFalse hk => rw [List.getElem?_eq_none (Nat.not_lt.1 hk)]

theorem ofLe_toLe (n x : Nat) : ofLe (toLe n x) = x % 256 ^ n := by
  induction n generalizing x with
  | zero => rw [Nat.pow_zero, Nat.mod_one]; rfl
  | succ n ih =>
    rw [toLe, ofLe, ih, BitVec.toNat_ofNat, Nat.pow_succ' (n := n)]
    exact (Nat.mod_mul (a := 256)).symm

/-- A value of n bytes, read back. -/
theorem Mem.rdN_wrN_same {m : Mem} {a n x : Nat} (h : m.wf = true) (hx : x < 256 ^ n) : (m.wrN a n x).rdN a n = x := by
  have back : (m.wrN a n x).bytes a n = toLe n x := by
    have whole := bytes_wrList_place (a := a) (l := toLe n x) h
    rwa [length_toLe] at whole
  rw [rdN, back, ofLe_toLe, Nat.mod_eq_of_lt hx]

theorem Mem.bytes_congr {m k : Mem} {a n : Nat} (h : ∀ b, a ≤ b → b < a + n → m.rd b = k.rd b) : m.bytes a n = k.bytes a n := by
  refine List.ext_getElem? fun j => ?_
  rw [getElem?_bytes, getElem?_bytes]
  split
  case isTrue hj => rw [h _ (by omega) (by omega)]
  case isFalse => rfl

/-- A value at an address that a store leaves alone. -/
theorem Mem.rdN_wrN_other {m : Mem} {a b n k x : Nat} (h : b + k ≤ a ∨ a + n ≤ b) : (m.wrN a n x).rdN b k = m.rdN b k :=
  congrArg ofLe (bytes_congr fun j lo hi => rd_wrN_other m x (by omega))

/-! ## TSLOT (R196) -/

section
variable {rpc slot : Nat} {issued : Bool}

theorem tslotOf_fields (hs : slot < 8) :
    (tslotOf rpc issued slot).extractLsb' 16 12 = BitVec.ofNat 12 rpc ∧ (tslotOf rpc issued slot).getLsbD 3 = issued ∧
      (tslotOf rpc issued slot).extractLsb' 0 3 = BitVec.ofNat 3 slot := by
  have small : rpc % 4096 * 65536 + (if issued then 8 else 0) + slot < 2 ^ 64 := by split <;> omega
  refine ⟨?_, ?_, ?_⟩
  · rw [← BitVec.toNat_inj, ← fld_toNat, tslotOf, BitVec.toNat_ofNat, Nat.mod_eq_of_lt small, BitVec.toNat_ofNat]
    simp only [fld]
    split <;> omega
  · rw [← bit_toNat, tslotOf, BitVec.toNat_ofNat, Nat.mod_eq_of_lt small, bit]
    cases issued <;> simp <;> omega
  · rw [← BitVec.toNat_inj, ← fld_toNat, tslotOf, BitVec.toNat_ofNat, Nat.mod_eq_of_lt small, BitVec.toNat_ofNat]
    simp only [fld]
    split <;> omega

theorem rpcOf_eq (w : W64) : rpcOf w = (w.extractLsb' 16 12).toNat := fld_toNat ..

theorem rpcOf_tslotOf (hr : rpc < 4096) (hs : slot < 8) : rpcOf (tslotOf rpc issued slot) = rpc := by
  rw [rpcOf_eq, (tslotOf_fields hs).1, BitVec.toNat_ofNat, Nat.mod_eq_of_lt hr]

end

/-! ## Entry (R222, R327) and return (R191, R326) -/

section
variable {c : Isle} {t : TrapRec} {rpc resume : Nat}

/-- a1 and a2 stand in the handler section, and every other byte of the ballast as before (R222). -/
theorem Isle.takeTrap_ballast (wf : c.ballast.wf = true) :
    (c.takeTrap t rpc resume).ballast.rdN 3072 8 = (c.a[1]).toNat ∧ (c.takeTrap t rpc resume).ballast.rdN 3080 8 = (c.a[2]).toNat ∧
      ∀ a, a < 3072 ∨ 3088 ≤ a → (c.takeTrap t rpc resume).ballast.rd a = c.ballast.rd a := by
  have form : (c.takeTrap t rpc resume).ballast = (c.ballast.wrN 3072 8 (c.a[1]).toNat).wrN 3080 8 (c.a[2]).toNat := by
    rw [takeTrap]
  have kept : (c.ballast.wrN 3072 8 (c.a[1]).toNat).wf = true := Mem.wf_wrN _ _ _ wf
  have bound (x : W64) : x.toNat < 256 ^ 8 := x.isLt.trans_eq (by norm_num)
  rw [form]
  refine ⟨?_, ?_, fun a ha => ?_⟩
  · rw [Mem.rdN_wrN_other (by decide), Mem.rdN_wrN_same wf (bound _)]
  · rw [Mem.rdN_wrN_same kept (bound _)]
  · rw [Mem.rd_wrN_other _ _ (by omega), Mem.rd_wrN_other _ _ (by omega)]

theorem Isle.leaveTrap_pc_of_none (h : c.ret = none) : c.leaveTrap.pc = rpcOf c.tslot := by simp [leaveTrap, h]

theorem Isle.leaveTrap_of_changed {x y : Nat} (h : c.ret = some (x, y)) (hx : x ≠ rpcOf c.tslot) :
    c.leaveTrap.pc = rpcOf c.tslot ∧ c.leaveTrap.wait = none := by simp [leaveTrap, h, hx]

theorem Isle.leaveTrap_of_same {y : Nat} (h : c.ret = some (rpcOf c.tslot, y)) : c.leaveTrap.pc = y ∧ c.leaveTrap.wait = c.wait := by
  simp [leaveTrap, h]

theorem Isle.leaveTrap_bksup :
    c.leaveTrap.bksup = (c.bksup || (c.tcause.extractLsb' 0 8 == 0x11 && c.tinfo.extractLsb' 0 8 == 0x01)) := by
  have field (w : W64) (v : BitVec 8) : (w.extractLsb' 0 8 == v) = decide (fld w.toNat 0 8 = v.toNat) := by
    rw [Bool.eq_iff_iff, beq_iff_eq, decide_eq_true_iff, fld_toNat, BitVec.toNat_inj]
  rw [field, field, ← Bool.decide_and]
  rfl

theorem Isle.leaveTrap_a :
    c.leaveTrap.a[1] = BitVec.ofNat 64 (c.ballast.rdN 3072 8) ∧ c.leaveTrap.a[2] = BitVec.ofNat 64 (c.ballast.rdN 3080 8) ∧
      ∀ k : Fin 32, k ≠ 1 → k ≠ 2 → c.leaveTrap.a[k] = c.a[k] := by
  refine ⟨by simp [leaveTrap], by simp [leaveTrap], fun k h1 h2 => ?_⟩
  simp [leaveTrap, Vector.getElem_set, Fin.ext_iff] at h1 h2 ⊢
  simp [Ne.symm h1, Ne.symm h2]

/-- A handler that changes neither gives a1 and a2 back (R222). -/
theorem Isle.leaveTrap_takeTrap_a (wf : c.ballast.wf = true) : (c.takeTrap t rpc resume).leaveTrap.a = c.a := by
  obtain ⟨a1, a2, -⟩ := takeTrap_ballast (t := t) (rpc := rpc) (resume := resume) wf
  change (c.a.set 1 (BitVec.ofNat 64 ((c.takeTrap t rpc resume).ballast.rdN 3072 8))).set 2 (BitVec.ofNat 64 ((c.takeTrap t rpc resume).ballast.rdN 3080 8)) = c.a
  rw [a1, a2, BitVec.ofNat_toNat, BitVec.ofNat_toNat, BitVec.setWidth_eq, BitVec.setWidth_eq]
  simp

end

/-- The isle leaves its handler where the return is sound (R191, R327, R329). -/
theorem State.tryLeave_of_sound {s : State} (leaves : s.core.next = .leave) (idle : s.core.hflights = []) (runs : s.core.ended = false)
    (good : s.core.spoilt 3 3072 16 = false) (normal : 64 ≤ rpcOf s.core.tslot) : s.tryLeave = { s with
      core := s.core.leaveTrap
      waitfor := if s.core.wait.isSome && s.core.leaveTrap.wait.isNone then s.waitfor.filter (·.1 != s.waitKey) else s.waitfor } := by
  have ended : s.core.leaveTrap.ended = false := runs
  unfold tryLeave
  rw [if_pos ⟨leaves, by rw [idle]; rfl⟩, good, if_neg Bool.false_ne_true, if_neg (Nat.not_lt.2 normal)]
  dsimp only
  rw [ended]
  cases s.core.wait.isSome && s.core.leaveTrap.wait.isNone <;> rfl

/-- Settles O53: the ballast keeps a1 and a2 through the handler, and TSLOT the bundle to return to. -/
theorem trapEntryAndReturn : Obligations.TrapEntryAndReturn := by
  refine ⟨fun c t rpc resume hr hs wf => ?entry, fun c => ?leave, fun c t rpc hr hs wf => ?both, fun s _ leaves idle runs good normal => ?returns⟩
  case entry =>
    obtain ⟨pc, issued, slot⟩ := tslotOf_fields (rpc := rpc) (issued := t.issued) hs
    obtain ⟨a1, a2, others⟩ := Isle.takeTrap_ballast (t := t) (rpc := rpc) (resume := resume) wf
    exact ⟨rfl, rfl, rfl, rfl, pc, issued, slot, rfl, rfl, rfl, rfl, rfl, a1, a2, others, rfl, rfl, rfl, rfl, rfl, rfl, rfl, rfl, rfl, rfl, rfl,
      rfl, rfl, rfl, rfl, rfl, rfl, rfl⟩
  case leave =>
    rw [← rpcOf_eq]
    obtain ⟨a1, a2, others⟩ := c.leaveTrap_a
    exact ⟨rfl, Isle.leaveTrap_pc_of_none, fun x y => Isle.leaveTrap_of_changed, fun y => Isle.leaveTrap_of_same, Isle.leaveTrap_bksup, a1, a2, others,
      rfl, rfl, rfl, rfl, rfl, rfl⟩
  case both =>
    have back : (c.takeTrap t rpc rpc).ret = some (rpcOf (c.takeTrap t rpc rpc).tslot, rpc) :=
      congrArg (fun x => some (x, rpc)) (rpcOf_tslotOf hr hs).symm
    obtain ⟨pc, wait⟩ := Isle.leaveTrap_of_same back
    exact ⟨pc, rfl, Isle.leaveTrap_takeTrap_a wf, rfl, rfl, rfl, rfl, rfl, rfl, wait, rfl, rfl, rfl⟩
  case returns =>
    rw [← rpcOf_eq] at normal
    exact State.tryLeave_of_sound leaves idle runs good normal

end Sys2Proof.Machine
end

section
/-! PROOFS. Landings and accesses of operations in flight (R94, R211): what each effect changes as it lands (O16), and the bytes that stores and loads move (O17). -/

namespace Sys2Proof.Machine

/-! ## Landings (R94, R95) -/

/-- One result due for an issue number: the step is its landing. -/
theorem State.exec_resultLanding {s : State} {f : Flight} (hm : s.core.handler = false)
    (hf : s.core.flights.filter (fun x => x.seq == f.seq && s.dueNow x.due) = [f]) :
    exec (.resultLanding f.seq) s = .next (s.lands f) := by
  change execResultLanding f.seq s = _
  rw [execResultLanding]
  rw [Isle.inFlight, if_neg (by simp [hm]), hf]
  rfl

theorem Isle.onFlights_of_normal {c : Isle} (h : c.handler = false) (g : List Flight → List Flight) :
    c.onFlights g = { c with flights := g c.flights } := by rw [onFlights, if_neg (by simp [h])]

/-- The isle once a flight has left it. -/
def Isle.without (c : Isle) (f : Flight) : Isle := { c with flights := c.flights.filter (· != f) }

/-- What the effects that are no access, no remote atomic, no post and no barrier's update do as they land. -/
def Eff.onIsle : Eff → Bool
  | .access _ _ => false
  | .remote _ => false
  | .post _ _ _ => false
  | .barrier _ _ _ => false
  | _ => true

theorem State.lands_of_onIsle {s : State} {f : Flight} (hm : s.core.handler = false) (hf : f.eff.onIsle = true) :
    s.lands f = { s with core := (s.core.without f).landed f } := by
  have left : s.core.onFlights (fun l => l.filter (· != f)) = s.core.without f := Isle.onFlights_of_normal hm _
  rw [← left]
  rw [State.lands]
  cases h : f.eff <;> simp [h, Eff.onIsle] at hf <;> rfl

/-! ## The statistics queue (R332) -/

theorem statRecord_fields (k : EvKind) {slot : Nat} (bundle upc elem rcyc : Nat) (hs : slot < 8) :
    ((statRecord k slot bundle upc elem rcyc).extractLsb' 60 4).toNat = k.code ∧
    ((statRecord k slot bundle upc elem rcyc).extractLsb' 57 3).toNat = slot ∧
    ((statRecord k slot bundle upc elem rcyc).extractLsb' 45 12).toNat = bundle % 4096 ∧
    ((statRecord k slot bundle upc elem rcyc).extractLsb' 35 10).toNat = upc % 1024 ∧
    ((statRecord k slot bundle upc elem rcyc).extractLsb' 19 16).toNat = elem % 65536 ∧
    ((statRecord k slot bundle upc elem rcyc).extractLsb' 0 19).toNat = rcyc % 2 ^ 19 := by
  have kind : k.code < 16 := by cases k <;> decide
  have small : k.code * 2 ^ 60 + slot * 2 ^ 57 + bundle % 4096 * 2 ^ 45 + upc % 1024 * 2 ^ 35 + elem % 65536 * 2 ^ 19 + rcyc % 2 ^ 19 < 2 ^ 64 := by
    omega
  simp only [← fld_toNat, statRecord, BitVec.toNat_ofNat, Nat.mod_eq_of_lt small, fld]
  omega

/-- A queue that has taken its records, the last of which counts what is lost. -/
theorem statArrive_lost {q : List W64} {l : W64} (r : W64) (hq : 63 ≤ q.length + 1) (hl : fld l.toNat 60 4 = 15) :
    statArrive (q ++ [l]) r = q ++ [if fld l.toNat 19 16 < 65535 then BitVec.ofNat 64 (l.toNat + 2 ^ 19) else l] := by
  simp [statArrive, hl, hq]

theorem statArrive_full {q : List W64} {l : W64} (r : W64) (hq : 63 ≤ q.length + 1) (hl : fld l.toNat 60 4 ≠ 15) :
    statArrive (q ++ [l]) r =
      q ++ [l, BitVec.ofNat 64 (15 * 2 ^ 60 + fld r.toNat 35 25 * 2 ^ 35 + 2 ^ 19 + fld r.toNat 0 19)] := by
  simp [statArrive, hl, hq]

theorem getLsbD_ofNat_eq_of_fld {x : W64} {n k lo m : Nat} (h : fld n lo m = fld x.toNat lo m) (hk : k < 64) (h₁ : lo ≤ k) (h₂ : k < lo + m) :
    (BitVec.ofNat 64 n).getLsbD k = x.getLsbD k := by
  have bits := congrArg (Nat.testBit · (k - lo)) h
  simp only [fld, Nat.testBit_mod_two_pow, ← Nat.shiftRight_eq_div_pow, Nat.testBit_shiftRight, Nat.add_sub_cancel' h₁,
    show k - lo < m by omega, decide_true, Bool.true_and] at bits
  rw [BitVec.getLsbD_ofNat, decide_eq_true hk, Bool.true_and, bits, BitVec.testBit_toNat]

/-- One more lost record: the field that counts them goes up by one, every other bit stands. -/
theorem lostCount_succ {l : W64} (h : fld l.toNat 19 16 < 65535) :
    ((BitVec.ofNat 64 (l.toNat + 2 ^ 19)).extractLsb' 19 16).toNat = fld l.toNat 19 16 + 1 ∧
      ∀ k, k < 64 → k < 19 ∨ 35 ≤ k → (BitVec.ofNat 64 (l.toNat + 2 ^ 19)).getLsbD k = l.getLsbD k := by
  have low : l.toNat < 2 ^ 64 := l.isLt
  have small : l.toNat + 2 ^ 19 < 2 ^ 64 := by simp only [fld] at h; omega
  refine ⟨?_, fun k hk outside => outside.elim (fun h' => ?_) fun h' => ?_⟩
  · rw [← fld_toNat, BitVec.toNat_ofNat, Nat.mod_eq_of_lt small]
    simp only [fld] at h ⊢
    omega
  · exact getLsbD_ofNat_eq_of_fld (lo := 0) (m := 19) (by simp only [fld]; omega) hk (Nat.zero_le k) (by omega)
  · exact getLsbD_ofNat_eq_of_fld (lo := 35) (m := 29) (by simp only [fld] at h ⊢; omega) hk h' (by omega)

/-- The LOST record that follows the sixty-third: it counts one and keeps where and when that one was. -/
theorem lostRecord_fields (r : W64) :
    let n := 15 * 2 ^ 60 + fld r.toNat 35 25 * 2 ^ 35 + 2 ^ 19 + fld r.toNat 0 19
    (BitVec.ofNat 64 n).extractLsb' 60 4 = 15 ∧ ((BitVec.ofNat 64 n).extractLsb' 19 16).toNat = 1 ∧
      ∀ k, k < 60 → k < 19 ∨ 35 ≤ k → (BitVec.ofNat 64 n).getLsbD k = r.getLsbD k := by
  intro n
  have hn : n = 15 * 2 ^ 60 + fld r.toNat 35 25 * 2 ^ 35 + 2 ^ 19 + fld r.toNat 0 19 := rfl
  have high : fld r.toNat 35 25 < 2 ^ 25 := fld_lt ..
  have low : fld r.toNat 0 19 < 2 ^ 19 := fld_lt ..
  clear_value n
  have small : n < 2 ^ 64 := by omega
  refine ⟨?_, ?_, fun k hk outside => outside.elim (fun h' => ?_) fun h' => ?_⟩
  · rw [← BitVec.toNat_inj, ← fld_toNat, BitVec.toNat_ofNat, Nat.mod_eq_of_lt small]
    change n / 2 ^ 60 % 2 ^ 4 = 15
    omega
  · rw [← fld_toNat, BitVec.toNat_ofNat, Nat.mod_eq_of_lt small]
    change n / 2 ^ 19 % 2 ^ 16 = 1
    omega
  · refine getLsbD_ofNat_eq_of_fld (lo := 0) (m := 19) ?_ (by omega) (Nat.zero_le k) (by omega)
    change n / 2 ^ 0 % 2 ^ 19 = _
    omega
  · refine getLsbD_ofNat_eq_of_fld (lo := 35) (m := 25) ?_ (by omega) h' (by omega)
    change n / 2 ^ 35 % 2 ^ 25 = _
    omega

theorem statArrive_cases (q : List W64) (r l : W64) :
    let elem (x : W64) : Nat := (x.extractLsb' 19 16).toNat
    (q.length < 63 → statArrive q r = q ++ [r]) ∧
    (63 ≤ q.length + 1 → l.extractLsb' 60 4 = 15 → elem l = 65535 → statArrive (q ++ [l]) r = q ++ [l]) ∧
    (63 ≤ q.length + 1 → l.extractLsb' 60 4 = 15 → elem l < 65535 → ∃ x, statArrive (q ++ [l]) r = q ++ [x] ∧ elem x = elem l + 1 ∧
      ∀ k, k < 64 → k < 19 ∨ 35 ≤ k → x.getLsbD k = l.getLsbD k) ∧
    (63 ≤ q.length + 1 → l.extractLsb' 60 4 ≠ 15 → ∃ x, statArrive (q ++ [l]) r = q ++ [l, x] ∧ x.extractLsb' 60 4 = 15 ∧ elem x = 1 ∧
      ∀ k, k < 60 → k < 19 ∨ 35 ≤ k → x.getLsbD k = r.getLsbD k) := by
  have lost : l.extractLsb' 60 4 = 15 ↔ fld l.toNat 60 4 = 15 := by rw [fld_toNat, ← BitVec.toNat_inj]; rfl
  simp only [ne_eq, lost, ← fld_toNat]
  refine ⟨fun h => if_pos h, fun hq hl he => ?_, fun hq hl he => ?_, fun hq hl => ?_⟩
  · rw [statArrive_lost r hq hl, if_neg (by omega)]
  · obtain ⟨count, rest⟩ := lostCount_succ he
    exact ⟨_, by rw [statArrive_lost r hq hl, if_pos he], (fld_toNat ..).trans count, rest⟩
  · obtain ⟨kind, count, rest⟩ := lostRecord_fields r
    exact ⟨_, statArrive_full r hq hl, kind, (fld_toNat ..).trans count, rest⟩

theorem Isle.record_statq (c : Isle) (r : W64) : (c.record r).statq = statArrive c.statq r := by
  rw [record]
  split <;> rfl

/-! ## What each effect lands -/

theorem getLsbD_blend {w : Nat} (x y m : BitVec w) {k : Nat} (hk : k < w) :
    ((x &&& ~~~m) ||| (y &&& m)).getLsbD k = if m.getLsbD k then y.getLsbD k else x.getLsbD k := by
  simp only [BitVec.getLsbD_or, BitVec.getLsbD_and, BitVec.getLsbD_not, hk, decide_true, Bool.true_and]
  cases m.getLsbD k <;> simp

theorem State.postTo_own {s : State} {g : Fin 32} {n : Nat} (h : (s.core.flag[g]).toNat + n ≤ 65535) :
    s.postTo s.ctx.ctxid.val g n = { s with core := { s.core with flag := s.core.flag.set g (BitVec.ofNat 16 ((s.core.flag[g]).toNat + n)) } } := by
  rw [postTo, if_pos rfl, Isle.addFlag, if_pos h]

/-- Settles O16: the landing of each kind of effect, and the queue that its events enter. -/
theorem landingWritesItsRegister : Obligations.LandingWritesItsRegister := by
  refine ⟨fun s f hm hf => ?_, Isle.record_statq, statArrive_cases, fun k slot bundle upc elem rcyc => statRecord_fields k bundle upc elem rcyc⟩
  have own {d : Isle} (he : f.eff.onIsle = true) (hd : (s.core.without f).landed f = d) : exec (.resultLanding f.seq) s = .next { s with core := d } := by
    rw [State.exec_resultLanding hm hf, State.lands_of_onIsle hm he, hd]
  have value {e : Eff} {d : Isle} (h : f.eff = e) (he : e.onIsle = true)
      (hd : (s.core.without f).landed { f with eff := e } = d) : exec (.resultLanding f.seq) s = .next { s with core := d } := by
    refine own (h ▸ he) ?_
    subst h
    exact hd
  refine ⟨fun r x h => value h rfl rfl, fun r x h => value h rfl rfl, fun r x h => value h rfl rfl, fun r x h => value h rfl rfl,
    fun r x h => value h rfl rfl, fun r x h => value h rfl rfl, fun x h => ⟨_, fun k => ?_, value h rfl rfl⟩, fun r x h => value h rfl rfl,
    fun r x h => value h rfl rfl, fun l k h => ⟨((s.core.without f).healed 3 l).poison, value h rfl ?_⟩, fun d h => value h rfl rfl, fun d w h => value h rfl rfl,
    fun h => value h rfl rfl, fun h => value h rfl rfl, fun g n h room => ?_, fun r x en t evs h => ⟨_, fun k hk => ?_, value h rfl rfl⟩⟩
  · exact Vector.getElem_ofFn ..
  · cases k <;> rfl
  · rw [State.exec_resultLanding hm hf, State.lands, h]
    dsimp only
    rw [State.onCore, Isle.onFlights_of_normal hm]
    exact congrArg _ (State.postTo_own room)
  · exact getLsbD_blend _ _ _ hk

/-! ## Bits of values in memory (R3, R62) -/

theorem ofLe_lt (l : List Byte) : ofLe l < 2 ^ (8 * l.length) := by
  induction l with
  | nil => decide
  | cons x t ih =>
    have byte := x.isLt
    rw [ofLe, List.length_cons, Nat.mul_succ, Nat.pow_add]
    omega

theorem testBit_ofLe (l : List Byte) (k : Nat) : (ofLe l).testBit k = (l.getD (k / 8) 0).getLsbD (k % 8) := by
  induction l generalizing k with
  | nil => simp [ofLe]
  | cons x t ih =>
    have split : ofLe (x :: t) = 2 ^ 8 * ofLe t + x.toNat := by rw [ofLe]; omega
    rw [split, Nat.testBit_two_pow_mul_add _ x.isLt]
    split
    case isTrue h => rw [Nat.div_eq_of_lt h, Nat.mod_eq_of_lt h, List.getD_cons_zero, BitVec.testBit_toNat]
    case isFalse h =>
      have next : k / 8 = (k - 8) / 8 + 1 := by omega
      have same : k % 8 = (k - 8) % 8 := by omega
      rw [ih, next, same, List.getD_cons_succ]

/-- Bit k of a value of n bytes is a bit of its byte k / 8. -/
theorem Mem.testBit_rdN (m : Mem) (a n k : Nat) : (m.rdN a n).testBit k = (decide (k < 8 * n) && (m.rd (a + k / 8)).getLsbD (k % 8)) := by
  have inside : k / 8 < n ↔ k < 8 * n := by omega
  rw [rdN, testBit_ofLe, List.getD_eq_getElem?_getD, getElem?_bytes]
  by_cases h : k < 8 * n <;> simp [inside, h]

theorem Mem.testBit_rdBits (m : Mem) (a off n k : Nat) :
    (m.rdBits a off n).testBit k = (decide (k < n) && (m.rd (a + (off + k) / 8)).getLsbD ((off + k) % 8)) := by
  rw [rdBits, Nat.testBit_mod_two_pow]
  by_cases h : k < n
  · have held : k + off % 8 < 8 * ceilDiv (off % 8 + n) 8 := by
      rw [ceilDiv]
      omega
    have byte : a + off / 8 + (k + off % 8) / 8 = a + (off + k) / 8 := by omega
    have place : (k + off % 8) % 8 = (off + k) % 8 := by omega
    rw [Nat.testBit_div_two_pow, testBit_rdN, byte, place, decide_eq_true held, Bool.true_and]
  · simp [h]

/-- A signed value of n bits, in a register: its bits, then copies of the highest. -/
theorem getLsbD_ofInt_sext {y n k : Nat} (hn : 0 < n) (hn' : n ≤ 64) (hk : k < 64) :
    (BitVec.ofInt 64 (sext y n)).getLsbD k = y.testBit (if k < n then k else n - 1) := by
  have extended : BitVec.ofInt 64 (sext y n) = (BitVec.ofNat n y).signExtend 64 := by
    rw [BitVec.signExtend]
    congr 1
    have halves : 2 ^ n = 2 * 2 ^ (n - 1) := by rw [← Nat.pow_succ', Nat.succ_eq_add_one, Nat.sub_add_cancel hn]
    have power : (2 : Int) ^ n = (2 ^ n : Nat) := by rw [Nat.cast_pow]; rfl
    rw [sext, BitVec.toInt_eq_toNat_cond, BitVec.toNat_ofNat, power, halves]
    generalize y % (2 * 2 ^ (n - 1)) = m
    generalize 2 ^ (n - 1) = half
    split <;> split <;> omega
  rw [extended, BitVec.getLsbD_signExtend, decide_eq_true hk, Bool.true_and]
  split
  case isTrue h => rw [BitVec.getLsbD_ofNat, decide_eq_true h, Bool.true_and]
  case isFalse h => rw [BitVec.msb_eq_getLsbD_last, BitVec.getLsbD_ofNat, decide_eq_true (by omega : n - 1 < n), Bool.true_and]

/-! ## Fields put together (R225) -/

/-- A value added where its field is empty. -/
theorem testBit_add_field {acc x n w : Nat} (empty : acc / 2 ^ n % 2 ^ w = 0) (hx : x < 2 ^ w) (j : Nat) :
    (acc + x * 2 ^ n).testBit j = (acc.testBit j || (decide (n ≤ j) && x.testBit (j - n))) := by
  have apart : acc = 2 ^ n * (2 ^ w * (acc / 2 ^ n / 2 ^ w)) + acc % 2 ^ n := by
    have high := Nat.div_add_mod (acc / 2 ^ n) (2 ^ w)
    rw [empty, Nat.add_zero] at high
    rw [high, Nat.div_add_mod]
  have low : acc % 2 ^ n < 2 ^ n := Nat.mod_lt _ (Nat.two_pow_pos n)
  generalize acc / 2 ^ n / 2 ^ w = high at apart
  generalize acc % 2 ^ n = rest at apart low
  have sum : acc + x * 2 ^ n = 2 ^ n * (2 ^ w * high + x) + rest := by
    rw [apart]
    ring
  have plain : 2 ^ w * high = 2 ^ w * high + 0 := rfl
  rw [sum, apart, Nat.testBit_two_pow_mul_add _ low, Nat.testBit_two_pow_mul_add _ low, Nat.testBit_two_pow_mul_add _ hx, plain,
    Nat.testBit_two_pow_mul_add _ (Nat.two_pow_pos w)]
  by_cases h : j < n
  · simp [h, Nat.not_le.2 h]
  · by_cases inside : j - n < w
    · simp [h, inside, Nat.not_lt.1 h]
    · have above : x.testBit (j - n) = false := Nat.testBit_lt_two_pow (hx.trans_le (Nat.pow_le_pow_right (by decide) (by omega)))
      simp [h, inside, above]

/-- Values summed at their places, no place twice. -/
def joinAt (w : Nat) (l : List (Nat × Nat)) : Nat := l.foldl (fun acc e => acc + e.2 * 2 ^ (w * e.1)) 0

theorem foldl_field_add {α : Type} (f : α → Nat) (l : List α) (acc : Nat) :
    l.foldl (fun acc e => acc + f e) acc = l.foldl (fun acc e => acc + f e) 0 + acc := by
  induction l generalizing acc with
  | nil => simp
  | cons e t ih =>
    rw [List.foldl_cons, List.foldl_cons, ih (acc + f e), ih (0 + f e)]
    omega

theorem joinAt_cons (w : Nat) (e : Nat × Nat) (l : List (Nat × Nat)) : joinAt w (e :: l) = joinAt w l + e.2 * 2 ^ (w * e.1) := by
  rw [joinAt, List.foldl_cons, foldl_field_add (fun e : Nat × Nat => e.2 * 2 ^ (w * e.1)) l, Nat.zero_add]
  rfl

theorem testBit_joinAt {w : Nat} (hw : 0 < w) {l : List (Nat × Nat)} (places : (l.map (·.1)).Nodup) (small : ∀ e ∈ l, e.2 < 2 ^ w) (j : Nat) :
    (joinAt w l).testBit j = true ↔ ∃ e ∈ l, j / w = e.1 ∧ e.2.testBit (j % w) = true := by
  induction l generalizing j with
  | nil => simp [joinAt]
  | cons e t ih =>
    rw [List.map_cons, List.nodup_cons] at places
    obtain ⟨fresh, places⟩ := places
    have rest := ih places fun x hx => small x (.tail _ hx)
    have value := small e (.head _)
    have empty : joinAt w t / 2 ^ (w * e.1) % 2 ^ w = 0 := by
      refine Nat.eq_of_testBit_eq fun k => ?_
      rw [Nat.zero_testBit, Nat.testBit_mod_two_pow, Nat.testBit_div_two_pow, Bool.and_eq_false_iff, decide_eq_false_iff_not]
      by_cases hk : k < w
      · refine .inr (Bool.eq_false_iff.2 fun h => fresh ?_)
        obtain ⟨x, hx, place, _⟩ := (rest _).1 h
        rw [Nat.add_mul_div_left _ _ hw, Nat.div_eq_of_lt hk, Nat.zero_add] at place
        exact place ▸ List.mem_map_of_mem hx
      · exact .inl hk
    have here : (decide (w * e.1 ≤ j) && e.2.testBit (j - w * e.1)) = true ↔ j / w = e.1 ∧ e.2.testBit (j % w) = true := by
      rw [Bool.and_eq_true, decide_eq_true_iff]
      constructor
      · rintro ⟨above, bit⟩
        have inside : j - w * e.1 < w := by
          by_contra outside
          rw [Nat.testBit_lt_two_pow (value.trans_le (Nat.pow_le_pow_right (by decide) (Nat.not_lt.1 outside)))] at bit
          exact absurd bit Bool.false_ne_true
        have split : j = w * e.1 + (j - w * e.1) := by omega
        have place : j / w = e.1 := by rw [split, Nat.mul_add_div hw, Nat.div_eq_of_lt inside, Nat.add_zero]
        refine ⟨place, ?_⟩
        rwa [Nat.mod_eq_sub, place]
      · rintro ⟨place, bit⟩
        have above : w * e.1 ≤ j := place ▸ Nat.mul_div_le j w
        rw [Nat.mod_eq_sub, place] at bit
        exact ⟨above, bit⟩
    rw [joinAt_cons, testBit_add_field empty value, Bool.or_eq_true, rest, here]
    simp only [List.exists_mem_cons_iff]
    exact or_comm

/-! ## Stores (R211) -/

theorem Isle.buf_stores_same (c : Isle) (u : Buf) (l : List (Nat × Byte)) : (c.stores u l).buf u = (c.buf u).wrList l :=
  c.buf_setBuf u _

theorem Isle.buf_stores_other (c : Isle) {u v : Buf} (l : List (Nat × Byte)) (h : v ≠ u) : (c.stores u l).buf v = c.buf v :=
  c.buf_setBuf_other _ h

/-! ## An access in its access rc -/

theorem Isle.firstSpoilt_none {c : Isle} {code a n : Nat} (h : c.spoilt code a n = false) : c.firstSpoilt code a n = none := by
  rw [firstSpoilt, if_neg (by simp [h])]

theorem Isle.spoiltIn_none {c : Isle} {l : List (Buf × Nat × Nat)} (h : ∀ y ∈ l, c.spoiled y.1 y.2.1 y.2.2 = false) :
    c.spoiltIn (l.map fun r => (bufCode r.1, r.2)) = none := by
  rw [spoiltIn]
  split
  · rfl
  · refine List.findSome?_eq_none_iff.2 fun r hr => ?_
    obtain ⟨y, hy, rfl⟩ := List.mem_map.1 hr
    exact Isle.firstSpoilt_none (h y hy)

/-- The access that an issue number has in flight, due now. -/
theorem exec_bufferAccess {s : State} {f : Flight} {x : Access} {land : Due} {l : List Flight} (hm : s.core.handler = false)
    (hf : s.core.flights = f :: l) (due : s.dueNow f.due = true) (he : f.eff = .access x land) :
    exec (.bufferAccess f.seq) s = .next (s.perform f x land) := by
  change execBufferAccess f.seq s = _
  rw [execBufferAccess, Isle.inFlight, if_neg (by simp [hm]), hf, List.find?_cons_of_pos (by simp [due, he])]
  simp only [he]

/-- An access that lands something in a register and is no atomic operation. -/
theorem State.perform_of_sampled {s : State} {f : Flight} {x : Access} {land : Due} {e : Eff} (hm : s.core.handler = false)
    (hf : s.core.flights = [f]) (clean : ∀ y ∈ x.ranges, s.core.spoiled y.1 y.2.1 y.2.2 = false) (hs : s.sampled x = some e)
    (plain : ∀ g u a op y, x ≠ .atomic g u a op y) :
    s.perform f x land = { s with core := { s.core with flights := [{ f with due := land, eff := e }] } } := by
  have moved : s.core.onFlights (fun l => l.map fun g => if g == f then { f with due := land, eff := e } else g) =
      { s.core with flights := [{ f with due := land, eff := e }] } := by
    rw [Isle.onFlights_of_normal hm, hf, List.map_cons, List.map_nil, if_pos (beq_self_eq_true f)]
  rw [← moved, State.perform, Isle.spoiltIn_none clean]
  cases x
  case atomic => exact absurd rfl (plain _ _ _ _ _)
  case packet => cases hs
  case record => cases hs
  all_goals simp only [hs, State.onCore]

/-! ## What the accesses read (R216-R225) -/

/-- Bit k of the bytes from an address. -/
def Mem.bitFrom (m : Mem) (a k : Nat) : Bool := (m.rd (a + k / 8)).getLsbD (k % 8)

theorem getLsbD_ofBytes_bytes (m : Mem) (a : Nat) {k : Nat} (hk : k < 2048) : (ofBytes (m.bytes a 256)).getLsbD k = m.bitFrom a k := by
  have inside : k < 8 * 256 := hk
  rw [ofBytes, BitVec.getLsbD_ofNat, decide_eq_true hk, Bool.true_and, ← Mem.rdN, Mem.testBit_rdN, decide_eq_true inside, Bool.true_and]
  rfl

/-- The value of an LD: its bits, then zero or copies of the highest (R216). -/
theorem getLsbD_scalarRead (m : Mem) (a : Nat) {n k : Nat} (sg : Bool) (hn : 0 < n) (hn' : n ≤ 8) (hk : k < 64) :
    (if sg then BitVec.ofInt 64 (sext (m.rdN a n) (8 * n)) else BitVec.ofNat 64 (m.rdN a n) : W64).getLsbD k =
      if k < 8 * n then m.bitFrom a k else sg && (m.rd (a + n - 1)).getLsbD 7 := by
  have last : (8 * n - 1) / 8 = n - 1 ∧ (8 * n - 1) % 8 = 7 := by omega
  have place : a + (n - 1) = a + n - 1 := by omega
  cases sg
  · rw [if_neg Bool.false_ne_true, BitVec.getLsbD_ofNat, decide_eq_true hk, Bool.true_and, Mem.testBit_rdN, Bool.false_and]
    by_cases h : k < 8 * n <;> simp [h, Mem.bitFrom]
  · rw [if_pos rfl, getLsbD_ofInt_sext (by omega) (by omega) hk, Bool.true_and]
    split
    case isTrue h => rw [Mem.testBit_rdN, decide_eq_true h, Bool.true_and, Mem.bitFrom]
    case isFalse h =>
      rw [Mem.testBit_rdN, decide_eq_true (by omega : 8 * n - 1 < 8 * n), Bool.true_and, last.1, last.2, place]

/-- The window of an LDV.T: each code in the low bits of its byte (R218). -/
theorem getLsbD_tileRead (m : Mem) (a w : Nat) {k : Nat} (hk : k < 2048) :
    (ofLanes 0 ((List.range 256).map fun e => m.rdBits a (e * w) w)).getLsbD k = (decide (k % 8 < w) && m.bitFrom a (k / 8 * w + k % 8)) := by
  have place : k = laneBits 0 * (k / 8) + k % 8 := (Nat.div_add_mod k 8).symm
  have lane : k / 8 < laneCount 0 := by
    change k / 8 < 256
    omega
  have inLane : k % 8 < laneBits 0 := Nat.mod_lt k (by decide : 0 < 8)
  have elem : ((List.range 256).map fun e => m.rdBits a (e * w) w).getD (k / 8) 0 = m.rdBits a (k / 8 * w) w := by
    rw [List.getD_eq_getElem?_getD, List.getElem?_map, List.getElem?_range (show k / 8 < 256 from lane)]
    rfl
  conv_lhs => rw [place]
  rw [getLsbD_ofLanes lane inLane, elem, Mem.testBit_rdBits, Mem.bitFrom]

/-- The scales of a scale access (R163). -/
theorem getLsbD_scaleRead (m : Mem) (a n : Nat) {k : Nat} (hk : k < 2048) :
    (BitVec.ofNat 2048 (m.rdN a n)).getLsbD k = (decide (k < 8 * n) && m.bitFrom a k) := by
  rw [BitVec.getLsbD_ofNat, decide_eq_true hk, Bool.true_and, Mem.testBit_rdN, Mem.bitFrom]

/-- Lane j of joined values. -/
theorem lane_ofLanes {lw j : Nat} (hj : j < laneCount lw) (l : List Nat) : lane (ofLanes lw l) lw j = l.getD j 0 % 2 ^ laneBits lw := by
  refine Nat.eq_of_testBit_eq fun k => ?_
  rw [lane, Nat.testBit_mod_two_pow, Nat.testBit_mod_two_pow, Nat.testBit_div_two_pow]
  by_cases hk : k < laneBits lw
  · rw [BitVec.testBit_toNat, Nat.add_comm, getLsbD_ofLanes hj hk]
  · simp [hk]

/-- The field of an LDIDX in its register. -/
def gatherPut (n : Nat) (l : List (Nat × Nat)) (w : Nat → Nat) : V2048 :=
  BitVec.ofNat 2048 (l.foldl (fun acc e => acc + w e.2 * 2 ^ (laneBits (Nat.log2 n) * e.1)) 0)

theorem gatherPut_eq (n : Nat) (l : List (Nat × Nat)) (w : Nat → Nat) :
    gatherPut n l w = BitVec.ofNat 2048 (joinAt (laneBits (Nat.log2 n)) (l.map fun e => (e.1, w e.2))) := by
  rw [joinAt, List.foldl_map]
  rfl

theorem laneBits_log2 {n : Nat} (hn : n ∈ [1, 2, 4, 8]) : laneBits (Nat.log2 n) = 8 * n := by
  fin_cases hn <;> decide

theorem getLsbD_gatherPut {n : Nat} (hn : n ∈ [1, 2, 4, 8]) {l : List (Nat × Nat)} (places : (l.map (·.1)).Nodup) {w : Nat → Nat}
    (small : ∀ e ∈ l, w e.2 < 2 ^ (8 * n)) {k : Nat} (hk : k < 2048) :
    (gatherPut n l w).getLsbD k = true ↔ ∃ e ∈ l, k / (8 * n) = e.1 ∧ (w e.2).testBit (k % (8 * n)) = true := by
  have size : 0 < 8 * n := by fin_cases hn <;> decide
  rw [gatherPut_eq, laneBits_log2 hn, BitVec.getLsbD_ofNat, decide_eq_true hk, Bool.true_and, testBit_joinAt size]
  · simp
  · rw [List.map_map]
    exact places
  · intro e he
    obtain ⟨x, hx, rfl⟩ := List.mem_map.1 he
    exact small x hx

/-- Elements of an LDIDX: the enables cover the places named, and each place holds its element's bytes (R225). -/
theorem getLsbD_gatherRead (m : Mem) {n : Nat} (hn : n ∈ [1, 2, 4, 8]) {l : List (Nat × Nat)} (places : (l.map (·.1)).Nodup)
    (inside : ∀ e ∈ l, e.1 < 256 / n) :
    (∀ k, k < 2048 → ((gatherPut n l fun _ => 2 ^ (8 * n) - 1).getLsbD k = true ↔ ∃ y ∈ l, k / (8 * n) = y.1)) ∧
      ∀ y ∈ l, ∀ k, k < 8 * n → (gatherPut n l fun a => m.rdN a n).getLsbD (8 * n * y.1 + k) = m.bitFrom y.2 k := by
  have size : 0 < 8 * n := by fin_cases hn <;> decide
  have bytes : 8 * n * (256 / n) = 2048 := by fin_cases hn <;> rfl
  have ones : 2 ^ (8 * n) - 1 < 2 ^ (8 * n) := Nat.sub_lt (Nat.two_pow_pos _) Nat.one_pos
  have value (a : Nat) : m.rdN a n < 2 ^ (8 * n) := by simpa [Mem.rdN] using ofLe_lt (m.bytes a n)
  refine ⟨fun k hk => ?_, fun y hy k hk => ?_⟩
  · rw [getLsbD_gatherPut hn places (fun _ _ => ones) hk]
    have bit : (2 ^ (8 * n) - 1).testBit (k % (8 * n)) = true := by
      rw [Nat.testBit_two_pow_sub_one, decide_eq_true (Nat.mod_lt k size)]
    simp only [bit, and_true]
  · have within : 8 * n * y.1 + k < 2048 := by
      have below : 8 * n * (y.1 + 1) ≤ 2048 := bytes ▸ Nat.mul_le_mul_left _ (inside y hy)
      rw [Nat.mul_succ] at below
      omega
    have place : (8 * n * y.1 + k) / (8 * n) = y.1 := by rw [Nat.mul_add_div size, Nat.div_eq_of_lt hk, Nat.add_zero]
    have rest : (8 * n * y.1 + k) % (8 * n) = k := by rw [Nat.mul_add_mod, Nat.mod_eq_of_lt hk]
    have bit : (m.rdN y.2 n).testBit k = m.bitFrom y.2 k := by rw [Mem.testBit_rdN, decide_eq_true hk, Bool.true_and, Mem.bitFrom]
    rw [Bool.eq_iff_iff, getLsbD_gatherPut hn places (fun _ _ => value _) within, place, rest, ← bit]
    refine ⟨fun ⟨e, he, same, held⟩ => ?_, fun held => ⟨y, hy, rfl, held⟩⟩
    rwa [← List.inj_on_of_nodup_map places he hy same.symm]

/-! ## Atomic operations (R213, R223) -/

theorem Flight.not_chains_of_access {f : Flight} {x : Access} {land : Due} (h : f.eff = .access x land) (u : Buf) (a : Nat) : f.chains u a = false := by
  rw [Flight.chains, h, Bool.and_false]

theorem Flight.not_chains_of_scalar {f : Flight} {g : GReg} {y : W64} (h : f.eff = .scalar g y) (u : Buf) (a : Nat) : f.chains u a = false := by
  rw [Flight.chains, h, Bool.and_false]

theorem Flight.chains_of_word {f : Flight} {u : Buf} {a : Nat} {w : W64} (hc : f.cls = chainClass)
    (h : f.eff = .store u (place a (toLe 8 w.toNat))) : f.chains u a = true := by
  have first : place a (toLe 8 w.toNat) = (a, BitVec.ofNat 8 w.toNat) :: place (a + 1) (toLe 7 (w.toNat / 256)) := rfl
  rw [Flight.chains, hc, h, first]
  simp

theorem map_snd_place (a : Nat) (l : List Byte) : (place a l).map (·.2) = l := by
  induction l generalizing a with
  | nil => rfl
  | cons x t ih => rw [place, List.map_cons, ih]

/-- The running result of a chain is the word that its last link wrote. -/
theorem ofLe_word (a : Nat) (w : W64) : BitVec.ofNat 64 (ofLe ((place a (toLe 8 w.toNat)).map (·.2))) = w := by
  have small : w.toNat < 256 ^ 8 := w.isLt
  rw [map_snd_place, ofLe_toLe, Nat.mod_eq_of_lt small, BitVec.ofNat_toNat, BitVec.setWidth_eq]

theorem toInt_minS (x y : W64) : (minS x y).toInt = min x.toInt y.toInt := by
  unfold minS
  split <;> omega

theorem toInt_maxS (x y : W64) : (maxS x y).toInt = max x.toInt y.toInt := by
  unfold maxS
  split <;> omega

theorem toNat_minU (x y : W64) : (minU x y).toNat = min x.toNat y.toNat := by
  unfold minU
  split <;> omega

theorem toNat_maxU (x y : W64) : (maxU x y).toNat = max x.toNat y.toNat := by
  unfold maxU
  split <;> omega

theorem atomic_cases (old y : W64) :
    atomic .add old y = old + y ∧ atomic .and old y = old &&& y ∧ atomic .or old y = old ||| y ∧ atomic .xor old y = old ^^^ y ∧
    atomic .swap old y = y ∧ (∀ op, atomic op old y = old ∨ atomic op old y = y ∨ op ∈ [AtomOp.add, .and, .or, .xor]) ∧
    (atomic .min old y).toInt = min old.toInt y.toInt ∧ (atomic .max old y).toInt = max old.toInt y.toInt ∧
    (atomic .minn old y).toNat = min old.toNat y.toNat ∧ (atomic .maxn old y).toNat = max old.toNat y.toNat := by
  refine ⟨rfl, rfl, rfl, rfl, rfl, fun op => ?_, toInt_minS old y, toInt_maxS old y, toNat_minU old y, toNat_maxU old y⟩
  cases op
  case add => exact .inr (.inr (by decide))
  case and => exact .inr (.inr (by decide))
  case or => exact .inr (.inr (by decide))
  case xor => exact .inr (.inr (by decide))
  case swap => exact .inr (.inl rfl)
  case min => exact (minS_eq_or old y).imp_right .inl
  case max => exact (maxS_eq_or old y).imp_right .inl
  case minn => exact (minU_eq_or old y).imp_right .inl
  case maxn => exact (maxU_eq_or old y).imp_right .inl

/-- A store writes no register. -/
theorem Isle.stores_registers (c : Isle) (u : Buf) (l : List (Nat × Byte)) :
    (c.stores u l).a = c.a ∧ (c.stores u l).b = c.b ∧ (c.stores u l).p = c.p ∧ (c.stores u l).v = c.v ∧ (c.stores u l).tag = c.tag ∧
      (c.stores u l).vm = c.vm ∧ (c.stores u l).st = c.st ∧ (c.stores u l).mp = c.mp ∧ (c.stores u l).ballast = c.ballast ∧
      (c.stores u l).flag = c.flag := by
  cases u <;> exact ⟨rfl, rfl, rfl, rfl, rfl, rfl, rfl, rfl, rfl, rfl⟩

/-- A store that lands (R211). -/
theorem State.store_lands {s : State} {f : Flight} {u : Buf} {a : Nat} {l : List Byte} (hm : s.core.handler = false)
    (hf : s.core.flights.filter (fun x => x.seq == f.seq && s.dueNow x.due) = [f]) (he : f.eff = .store u (place a l))
    (canonical : (s.core.buf u).wf = true) :
    ∃ t, exec (.resultLanding f.seq) s = .next t ∧ s.SameRest t ∧
      (∀ k, k < l.length → (t.core.buf u).rd (a + k) = l.getD k 0) ∧
      (∀ v b, v ≠ u ∨ b < a ∨ a + l.length ≤ b → (t.core.buf v).rd b = (s.core.buf v).rd b) ∧
      t.core.a = s.core.a ∧ t.core.b = s.core.b ∧ t.core.p = s.core.p ∧ t.core.v = s.core.v ∧ t.core.tag = s.core.tag ∧
      t.core.vm = s.core.vm ∧ t.core.st = s.core.st ∧ t.core.mp = s.core.mp ∧ t.core.ballast = s.core.ballast ∧ t.core.flag = s.core.flag := by
  have run : exec (.resultLanding f.seq) s = .next { s with core := (s.core.without f).stores u (place a l) } := by
    rw [exec_resultLanding hm hf, lands_of_onIsle hm (by rw [he]; rfl), Isle.landed, he]
  refine ⟨_, run, ⟨rfl, rfl, rfl, rfl, rfl, rfl, rfl, rfl, rfl, rfl, rfl, rfl, rfl, rfl, rfl, rfl, rfl, rfl, rfl, rfl⟩,
    fun k hk => ?_, fun v b outside => ?_, ?_⟩
  · change (((s.core.without f).stores u (place a l)).buf u).rd (a + k) = _
    rw [Isle.buf_stores_same]
    exact Mem.rd_wrList_place (m := s.core.buf u) canonical hk
  · change (((s.core.without f).stores u (place a l)).buf v).rd b = _
    by_cases h : v = u
    · subst h
      rw [Isle.buf_stores_same]
      have apart : b < a ∨ a + l.length ≤ b := by simpa using outside
      exact Mem.rd_wrList_other (s.core.buf v) _ fun c hc => by have := mem_place hc; omega
    · rw [Isle.buf_stores_other _ _ h]
      rfl
  · exact (s.core.without f).stores_registers u (place a l)

theorem Hdr.lane_chunk {m : Mem} {sr : StreamReg} {j : Nat} (hs : sr.sph = false) (hj : j < laneCount (streamLw (Hdr.ofStream sr))) :
    lane (sr.chunk m).1 (streamLw (Hdr.ofStream sr)) j =
      if j < sr.inside then
        (Hdr.ofStream sr).elem (tagFmt (BitVec.ofNat 32 ((Hdr.ofStream sr).efd % 2 ^ 24))) m sr.base sr.row (sr.col + j) %
          2 ^ laneBits (streamLw (Hdr.ofStream sr))
      else 0 := by
  have data : (sr.chunk m).1 = ofLanes (streamLw (Hdr.ofStream sr)) ((List.range sr.inside).map fun e =>
      (Hdr.ofStream sr).elem (tagFmt (BitVec.ofNat 32 ((Hdr.ofStream sr).efd % 2 ^ 24))) m sr.base sr.row (sr.col + e)) := by
    rw [StreamReg.chunk, if_neg (by simp [hs])]
  rw [data, lane_ofLanes hj]
  by_cases h : j < sr.inside <;> simp [h]

/-- The isle with its flights replaced. -/
def Isle.flying (c : Isle) (l : List Flight) : Isle := { c with flights := l }

theorem Isle.chain_of_fresh {c : Isle} {u : Buf} {a : Nat} {l : List Flight} (g : Flight) (hm : c.handler = false)
    (hl : ∀ x ∈ l, x.chains u a = false) : (c.flying l).chain u a g = c.flying (l ++ [g]) := by
  have none : (c.flying l).inFlight.find? (·.chains u a) = none := by
    rw [inFlight, if_neg (by simp [flying, hm])]
    exact List.find?_eq_none.2 fun x hx => by simp [hl x hx]
  have kept : l.filter (fun x => !x.chains u a) = l := List.filter_eq_self.2 fun x hx => by simp [hl x hx]
  rw [chain, none, onFlights_of_normal (c := c.flying l) hm]
  change c.flying (l.filter (fun x => !x.chains u a) ++ [g]) = _
  rw [kept]

/-- The flight that goes on a chain counts as the latest-issued of its operations (R213). -/
def Flight.onChain (g o : Flight) : Flight :=
  if g.before o then { g with seq := o.seq, slot := o.slot, rcyc := o.rcyc, time := o.time, bundle := o.bundle } else g

theorem Isle.chain_of_running {c : Isle} {u : Buf} {a : Nat} {f o : Flight} (g : Flight) (hm : c.handler = false)
    (hf : f.chains u a = false) (ho : o.chains u a = true) : (c.flying [f, o]).chain u a g = c.flying [f, g.onChain o] := by
  have found : (c.flying [f, o]).inFlight.find? (·.chains u a) = some o := by
    rw [inFlight, if_neg (by simp [flying, hm])]
    simp [flying, hf, ho]
  have kept : [f, o].filter (fun x => !x.chains u a) = [f] := by simp [hf, ho]
  rw [chain, found, onFlights_of_normal (c := c.flying [f, o]) hm]
  change c.flying ([f, o].filter (fun x => !x.chains u a) ++ [g.onChain o]) = _
  rw [kept]
  rfl

/-- The running result of a chain after one more operation on its word. -/
def State.chained (s : State) (f : Flight) (u : Buf) (a : Nat) (new : W64) : Flight :=
  { f with due := s.dueIn 0, cls := chainClass, eff := .store u (place a (toLe 8 new.toNat)) }

/-- An atomic operation in its access rc: its result is the word that it found, and one more link ends the chain (R213). -/
theorem State.perform_atomic {s : State} {f : Flight} {g : GReg} {u : Buf} {a : Nat} {op : AtomOp} {y old : W64} {land : Due}
    (hm : s.core.handler = false) (clean : s.core.spoiled u a 8 = false) (ho : s.chainWord u a = old) :
    s.perform f (.atomic g u a op y) land = s.onCore fun c =>
      (c.flying (c.flights.map fun x => if x == f then { f with due := land, eff := .scalar g old } else x)).chain u a
        (s.chained f u a (atomic op old y)) := by
  have ok : s.core.spoiltIn ((Access.atomic g u a op y).ranges.map fun r => (bufCode r.1, r.2)) = none :=
    Isle.spoiltIn_none fun r hr => by
      rw [List.mem_singleton.1 hr]
      exact clean
  rw [State.perform, ok]
  simp only [State.sampled, State.onCore, Isle.onFlights_of_normal hm, ho]
  rfl

/-- Settles O17: stores by the bytes that they place, each access by what it samples, the atomic operations by their chain. -/
theorem storesAndLoadsMoveTheirBytes : Obligations.StoresAndLoadsMoveTheirBytes := by
  refine ⟨fun s f u a l hm hf he canonical => State.store_lands hm hf he canonical, ?_, ?_, atomic_cases⟩
  · intro s f g r rp u a n w sg tg land l sr hm hf due m bitAt reads whole h
    have lands {x : Access} {e : Eff} {ok : Eff → Prop} (hs : s.sampled x = some e) (plain : ∀ g u a op y, x ≠ .atomic g u a op y) (hok : ok e) :
        reads x ok :=
      fun clean he => ⟨e, hok, by rw [exec_bufferAccess hm hf due he, State.perform_of_sampled hm hf clean hs plain]⟩
    refine ⟨fun hn hn' => ?_, ?_, fun _ _ => ?_, fun hn places inside => ?_, ?_, fun hu hs => ?_, fun hu hs => ?_⟩
    · exact lands rfl (fun _ _ _ _ _ => nofun) ⟨_, rfl, fun k hk => getLsbD_scalarRead m a sg hn hn' hk⟩
    · exact lands rfl (fun _ _ _ _ _ => nofun) ⟨_, rfl, fun k hk => getLsbD_ofBytes_bytes m a hk⟩
    · exact lands rfl (fun _ _ _ _ _ => nofun) ⟨_, rfl, fun k hk => getLsbD_tileRead m a w hk⟩
    · obtain ⟨enables, codes⟩ := getLsbD_gatherRead m hn places inside
      exact lands rfl (fun _ _ _ _ _ => nofun) ⟨_, _, rfl, enables, codes⟩
    · exact lands rfl (fun _ _ _ _ _ => nofun) ⟨_, rfl, Option.isNone_iff_eq_none⟩
    · subst hu
      have scales : sr.chunk m = (BitVec.ofNat 2048 (m.rdN (sr.base + h.scaleStart + sr.scales.1 * scaleBytes h.sfmt)
          (sr.scales.2 * scaleBytes h.sfmt)), scaleTag h.sfmt h.bsize) := by rw [StreamReg.chunk, if_pos hs]
      refine lands rfl (fun _ _ _ _ _ => nofun) ⟨_, congrArg (fun c : V2048 × W32 => wholeVec r c.1 c.2) scales, fun k hk => ?_⟩
      exact getLsbD_scaleRead m _ _ hk
    · subst hu
      have tag : (sr.chunk m).2 = streamTag h := by rw [StreamReg.chunk, if_neg (by simp [hs])]
      exact lands rfl (fun _ _ _ _ _ => nofun) ⟨_, congrArg (wholeVec r (sr.chunk m).1) tag, fun j hj => Hdr.lane_chunk hs hj⟩
  · intro s f g u a op y land hm due clean he done
    refine ⟨fun hf => ?_, fun c w hf hc hw => ?_⟩
    · have old : s.chainWord u a = BitVec.ofNat 64 ((s.core.buf u).rdN a 8) := by
        rw [State.chainWord, Isle.inFlight, if_neg (by simp [hm]), hf]
        simp [Flight.not_chains_of_access he]
      rw [exec_bufferAccess hm hf due he, State.perform_atomic hm clean old, State.onCore, hf, List.map_singleton, if_pos (beq_self_eq_true f),
        Isle.chain_of_fresh _ hm fun x hx => Flight.not_chains_of_scalar (congrArg Flight.eff (List.mem_singleton.1 hx)) u a]
      rfl
    · have running : c.chains u a = true := Flight.chains_of_word hc hw
      have other : (c == f) = false := by
        refine beq_eq_false_iff_ne.2 fun same => ?_
        rw [same, Flight.not_chains_of_access he] at running
        exact Bool.false_ne_true running
      have old : s.chainWord u a = w := by
        rw [State.chainWord, Isle.inFlight, if_neg (by simp [hm]), hf]
        simp [Flight.not_chains_of_access he, running, hw, ofLe_word]
      have moved : [f, c].map (fun x => if x == f then { f with due := land, eff := .scalar g w } else x) =
          [{ f with due := land, eff := .scalar g w }, c] := by simp [beq_eq_false_iff_ne.1 other]
      refine ⟨(s.chained f u a (atomic op w y)).onChain c, ?_, ?_⟩
      · rw [Flight.onChain]
        split
        · exact .inr rfl
        · exact .inl rfl
      · rw [exec_bufferAccess hm hf due he, State.perform_atomic hm clean old, State.onCore, hf, moved,
          Isle.chain_of_running _ hm (Flight.not_chains_of_scalar rfl u a) running]
        rw [Flight.onChain]
        split <;> rfl

end Sys2Proof.Machine
end

section
/-! PROOFS. The words of slot M (R208-R225) and the operands that trap (R159, R162-R164, R173): the address checks, then the words behind them (O18-O21). -/

namespace Sys2Proof.Machine

section
variable {s : State} {i : Instr} {p : Pred} {u : Buf} {a n al : Nat} {k : State → State}

/-! ## The address checks (R208, R215) -/

/-- An aligned access inside the footprint goes on. -/
theorem State.bounded_of_fits (aligned : a % al = 0) (inside : a + n ≤ s.ctx.image.foot u) : s.bounded u a n al k = k s :=
  (if_neg (Decidable.not_not.2 aligned)).trans (if_neg (Nat.not_lt.2 inside))

theorem State.bounded_of_misaligned (h : a % al ≠ 0) : s.bounded u a n al k = s.raise 8 0x36 a := if_pos h

theorem State.bounded_of_outside (aligned : a % al = 0) (h : s.ctx.image.foot u < a + n) : s.bounded u a n al k = s.raise 8 0x37 a :=
  (if_neg (Decidable.not_not.2 aligned)).trans (if_pos h)

/-- A word of slot M that traps. -/
theorem State.traps_of_raise {b : State → State} {cause info addr : Nat} (hs : s.slot = .M) (hp : i.pred? = some p)
    (hx : exec i s = .next (s.issue i p b)) (effect : b s = s.raise cause info addr) : s.Traps i cause info addr :=
  fun early => gives_of_effect hs hp hx rfl (effect.trans (raise_first _ _ _ early))

section
variable {b : State → State} (hs : s.slot = .M) (hp : i.pred? = some p) (hx : exec i s = .next (s.issue i p b)) (hb : b s = s.bounded u a n al k)
include hs hp hx hb

/-- A word of slot M behind the address checks, where they pass. -/
theorem State.gives_of_bounded {t : State} (aligned : a % al = 0) (inside : a + n ≤ s.ctx.image.foot u) (kept : t.slot = s.slot) (ht : k s = t) :
    s.Gives i t :=
  gives_of_effect hs hp hx kept (hb.trans ((bounded_of_fits aligned inside).trans ht))

theorem State.traps_misaligned (h : a % al ≠ 0) : s.Traps i 8 0x36 a := traps_of_raise hs hp hx (hb.trans (bounded_of_misaligned h))

theorem State.traps_outside (aligned : a % al = 0) (h : s.ctx.image.foot u < a + n) : s.Traps i 8 0x37 a :=
  traps_of_raise hs hp hx (hb.trans (bounded_of_outside aligned h))

/-- The two traps of the address checks, misaligned before outside. -/
theorem State.traps_bounded : (a % al ≠ 0 → s.Traps i 8 0x36 a) ∧ (a % al = 0 → s.ctx.image.foot u < a + n → s.Traps i 8 0x37 a) :=
  ⟨traps_misaligned hs hp hx hb, traps_outside hs hp hx hb⟩

end
end

/-! ## Loads, stores, BCLR and the ballast words -/

/-- Settles O18: each word's effect where its address checks pass. -/
theorem memoryWords : Obligations.MemoryWords := by
  refine ⟨fun s p g vd pd u ba bv sz o6 o9 op hs => ?_, fun s p g vs u ba bl sz o6 o9 hs => ?_, fun s p g v o9 o4 hs => ?_⟩
  · intro n base fits
    exact ⟨fun h => State.gives_of_bounded hs rfl rfl rfl h.1 h.2 rfl rfl, fun h => State.gives_of_bounded hs rfl rfl rfl h.1 h.2 rfl rfl,
      fun h => State.gives_of_bounded hs rfl rfl rfl h.1 h.2 rfl rfl, fun h => State.gives_of_bounded hs rfl rfl rfl h.1 h.2 rfl rfl⟩
  · intro n base len fits
    refine ⟨fun h => State.gives_of_bounded hs rfl rfl rfl h.1 h.2 rfl rfl, fun h => State.gives_of_bounded hs rfl rfl rfl h.1 h.2 rfl rfl,
      fun idle h whole some => ?_, fun idle aligned inside none => ?_⟩
    · refine State.gives_of_effect hs rfl rfl rfl ((if_neg (Bool.eq_false_iff.1 idle)).trans ((if_neg (Decidable.not_not.2 whole)).trans ?_))
      exact (State.bounded_of_fits h.1 h.2).trans (if_neg (Nat.pos_iff_ne_zero.1 some))
    · have whole : ¬ len % 256 ≠ 0 := by omega
      refine State.gives_of_effect hs rfl rfl rfl ((if_neg (Bool.eq_false_iff.1 idle)).trans ((if_neg whole).trans ?_))
      exact (State.bounded_of_fits aligned (by change base + len ≤ _; omega)).trans (if_pos none)
  · refine ⟨State.gives_of_effect hs rfl rfl rfl rfl, State.gives_of_effect hs rfl rfl rfl rfl, fun clean => ?_, fun clean => ?_⟩
    · refine State.gives_of_effect hs rfl rfl rfl ?_
      simp only [Isle.firstSpoilt_none clean]
    · refine State.gives_of_effect hs rfl rfl rfl ?_
      simp only [Isle.firstSpoilt_none clean]
      rfl

/-! ## Operands that trap -/

/-- The entry of a call whose COUNT is 0 (R173). -/
theorem State.mcallLook_of_count_zero {s : State} {idx : Fin 64} (pm : BitVec 8) (h : (s.core.rtab[idx]).extractLsb' 16 16 = 0) :
    s.mcallLook idx pm = .error (8, 0x34, idx.val) := by
  have zero : fld (s.core.rtab[idx]).toNat 16 16 = 0 := by rw [fld_toNat, h]; rfl
  have entry : s.callEntry idx false = .error (8, 0x34, idx.val) := if_pos (.inl zero)
  rw [mcallLook, entry]

/-- The entry of a call that starts outside the microstore (R173). -/
theorem State.mcallLook_of_start_outside {s : State} {idx : Fin 64} (pm : BitVec 8) (h : (s.core.rtab[idx]).extractLsb' 16 16 ≠ 0)
    (outside : s.core.ustore.length ≤ ((s.core.rtab[idx]).extractLsb' 0 10).toNat) :
    s.mcallLook idx pm = .error (8, 0x35, ((s.core.rtab[idx]).extractLsb' 0 10).toNat) := by
  have counts : fld (s.core.rtab[idx]).toNat 16 16 ≠ 0 := by
    rw [fld_toNat]
    exact BitVec.toNat_ne_iff_ne.2 h
  have entry : s.callEntry idx false = .error (8, 0x35, ((s.core.rtab[idx]).extractLsb' 0 10).toNat) := by
    rw [← fld_toNat] at outside ⊢
    exact (if_neg fun h => h.elim counts nofun).trans (if_pos outside)
  rw [mcallLook, entry]

theorem State.gives_of_callFails {s : State} {p : Pred} {idx : Fin 64} {pm : BitVec 8} {info addr : Nat} (early : s.core.early = none)
    (h : s.mcallLook idx pm = .error (8, info, addr)) : s.Gives (.mcall p idx pm) (s.trapping 8 info addr).holdClass := by
  have effect : (match s.mcallLook idx pm with | .error f => s.callFails f | .ok (count, c) => s.occupy (.call c) count) = s.trapping 8 info addr := by
    rw [h]
    exact (if_neg (by decide : ¬ 8 = causeEcc)).trans (State.raise_first 8 info addr early)
  rw [← effect]
  exact s.gives_of_issue (i := .mcall p idx pm) rfl rfl

/-- Settles O19: the address checks, the stream words' checks and those of a call's entry, in their order. -/
theorem operandTraps : Obligations.OperandTraps := by
  refine ⟨fun s p g vd pd u ba bl sz o6 o9 op hs => ?_, fun s p t brow bcol v hs => ?_, fun s p idx pm early =>
    ⟨fun h => State.gives_of_callFails early (State.mcallLook_of_count_zero pm h),
      fun h outside => State.gives_of_callFails early (State.mcallLook_of_start_outside pm h outside)⟩⟩
  · intro n a len a6 a9 foot
    refine ⟨fun h => ⟨State.traps_misaligned hs rfl rfl rfl h, State.traps_misaligned hs rfl rfl rfl h⟩,
      fun h out => ⟨State.traps_outside hs rfl rfl rfl h out, State.traps_outside hs rfl rfl rfl h out⟩,
      fun h => ⟨State.traps_misaligned hs rfl rfl rfl h, State.traps_misaligned hs rfl rfl rfl h⟩,
      fun h out => ⟨State.traps_outside hs rfl rfl rfl h out, State.traps_outside hs rfl rfl rfl h out⟩,
      ?_, ?_, State.traps_misaligned hs rfl rfl rfl, State.traps_outside hs rfl rfl rfl, fun idle h => ?_, fun idle aligned whole out => ?_,
      fun busy => ?_⟩
    · exact List.forall_mem_cons.2 ⟨State.traps_bounded hs rfl rfl rfl, List.forall_mem_singleton.2 (State.traps_bounded hs rfl rfl rfl)⟩
    · exact List.forall_mem_cons.2 ⟨State.traps_bounded hs rfl rfl rfl, List.forall_mem_singleton.2 (State.traps_bounded hs rfl rfl rfl)⟩
    · by_cases whole : len % 256 = 0
      · have misaligned : a % 256 ≠ 0 := h.resolve_right (Decidable.not_not.2 whole)
        exact State.traps_of_raise hs rfl rfl ((if_neg (Bool.eq_false_iff.1 idle)).trans ((if_neg (Decidable.not_not.2 whole)).trans
          (State.bounded_of_misaligned misaligned)))
      · exact State.traps_of_raise hs rfl rfl ((if_neg (Bool.eq_false_iff.1 idle)).trans (if_pos whole))
    · exact State.traps_of_raise hs rfl rfl ((if_neg (Bool.eq_false_iff.1 idle)).trans ((if_neg (Decidable.not_not.2 whole)).trans
        (State.bounded_of_outside aligned out)))
    · exact State.traps_of_raise hs rfl rfl (if_pos busy)
  · refine ⟨fun shut => ?_, fun opened writes => ?_, fun opened reads => ?_⟩
    · have shut : (!s.core.st[t].opened) = true := by rw [shut]; rfl
      exact ⟨State.traps_of_raise hs rfl rfl (if_pos shut), State.traps_of_raise hs rfl rfl (if_pos shut), State.traps_of_raise hs rfl rfl (if_pos shut)⟩
    · exact State.traps_of_raise hs rfl rfl ((if_neg (Bool.not_not_eq.2 opened)).trans (if_pos writes))
    · exact State.traps_of_raise hs rfl rfl ((if_neg (Bool.not_not_eq.2 opened)).trans (if_pos (by rw [reads]; rfl)))

/-! ## Tiles (R218, R219) -/

theorem wide_of_wideFmt {efd : Nat} {f : Fmt} (h : wideFmt efd = some f) : f.wide = true := by
  unfold wideFmt at h
  split at h <;> cases h <;> rfl

theorem width_le_of_fmtOf {efd : Nat} {f : Fmt} (h : fmtOf efd = some f) (narrow : f.wide = false) : f.width ≤ 8 := by
  by_cases small : 2 ≤ fld efd 0 5 ∧ fld efd 0 5 ≤ 8
  · simp only [fmtOf, if_pos small] at h
    split_ifs at h <;> cases h <;> exact small.2
  · simp only [fmtOf, if_neg small] at h
    exact absurd (wide_of_wideFmt h) (Bool.eq_false_iff.1 narrow)

/-- A format that is not wide has at most eight bits (R57). -/
theorem width_le_of_narrow {t : W32} (h : (tagFmt t).wide = false) : (tagFmt t).width ≤ 8 := by
  unfold tagFmt at h ⊢
  cases hf : fmtOf (tagEfd t) with
  | none => exact le_rfl
  | some f =>
    rw [hf] at h
    exact width_le_of_fmtOf hf h

theorem testBit_lane (x : V2048) {lw e k : Nat} (hk : k < laneBits lw) : (lane x lw e).testBit k = x.getLsbD (laneBits lw * e + k) := by
  rw [lane, Nat.testBit_mod_two_pow, decide_eq_true hk, Bool.true_and, Nat.testBit_div_two_pow, BitVec.testBit_toNat, Nat.add_comm]

/-- The codes of narrow elements put together (R218). -/
theorem testBit_joinLanes_lanes (x : V2048) {w k : Nat} (hw : w ≤ 8) (hk : k < 256 * w) :
    (joinLanes w (lanes x 0)).testBit k = x.getLsbD (8 * (k / w) + k % w) := by
  have some : 0 < w := by
    rcases Nat.eq_zero_or_pos w with rfl | h
    · simp at hk
    · exact h
  have inElem : k % w < w := Nat.mod_lt k some
  have elem : k / w < 256 := (Nat.div_lt_iff_lt_mul some).2 hk
  have code : (lanes x 0).getD (k / w) 0 = lane x 0 (k / w) := by
    rw [lanes, List.getD_eq_getElem?_getD, List.getElem?_map, List.getElem?_range (show k / w < laneCount 0 from elem)]
    rfl
  conv_lhs => rw [← Nat.div_add_mod k w]
  rw [testBit_joinLanes inElem, code, testBit_lane x (show k % w < 8 * 2 ^ 0 by omega)]
  rfl

/-- Settles O20: the checks of a tile's header in their order, then its window. -/
theorem tileWords : Obligations.TileWords := by
  intro s p v u ba o9 hs base l h a made d
  refine ⟨fun aligned inside clean sound fits => ?_, fun e aligned inside clean failed => ?_, fun aligned inside clean sound fits tagged paired => ?_,
    fun e aligned inside failed => ?_, fun aligned inside sound => ?_⟩
  · intro f
    have passes : (hdrCheck 0 l <|> tileFit 0 h) = none := by rw [sound, fits]; rfl
    have whole : d % 1 = 0 := Nat.mod_one d
    refine ⟨fun room => ?_, fun short => ?_⟩
    · refine State.gives_of_bounded hs rfl rfl rfl aligned inside rfl ((State.reading_of_unspoiled clean).trans ?_)
      exact (State.passing_of_none passes).trans (State.bounded_of_fits whole room)
    · refine State.traps_of_raise hs rfl rfl ((State.bounded_of_fits aligned inside).trans ((State.reading_of_unspoiled clean).trans ?_))
      exact (State.passing_of_none passes).trans (State.bounded_of_outside whole short)
  · refine State.traps_of_raise hs rfl rfl ((State.bounded_of_fits aligned inside).trans ((State.reading_of_unspoiled clean).trans ?_))
    have first : (hdrCheck 0 l <|> tileFit 0 h) = some e := by rw [failed]; rfl
    exact congrArg (fun f => s.passing f base _) first
  · intro f
    have passes : (hdrCheck 3 l <|> tileFit 3 h <|> failIf (!tagPairs s.core.tag[v] h) causeMismatch 3 0x26) = none := by
      rw [sound, fits, failIf_of_false (congrArg not paired)]
      rfl
    have whole : d % 1 = 0 := Nat.mod_one d
    refine ⟨fun short => ?_, fun room => ⟨if f.wide then s.core.v[v].toNat else joinLanes f.width (lanes s.core.v[v] 0), fun wide => if_pos wide, fun narrow k hk => ?_, ?_⟩⟩
    · refine State.traps_of_raise hs rfl rfl ((State.bounded_of_fits aligned inside).trans ((State.tagsPassing_of_none tagged).trans ?_))
      exact (State.reading_of_unspoiled clean).trans ((State.passing_of_none passes).trans (State.bounded_of_outside whole short))
    · rw [if_neg (Bool.eq_false_iff.1 narrow)]
      exact testBit_joinLanes_lanes _ (width_le_of_narrow narrow) hk
    · refine State.gives_of_bounded hs rfl rfl rfl aligned inside rfl ((State.tagsPassing_of_none tagged).trans ?_)
      exact (State.reading_of_unspoiled clean).trans ((State.passing_of_none passes).trans (State.bounded_of_fits whole room))
  · refine State.traps_of_raise hs rfl rfl ((State.bounded_of_fits aligned inside).trans ?_)
    exact congrArg (fun f : Option Fail => s.passing (f.map fun f => (causeCombo, 3, f.2.2)) a _) failed
  · refine State.gives_of_bounded hs rfl rfl rfl aligned inside rfl ?_
    exact State.passing_of_none (congrArg (Option.map _) sound)

/-! ## LDIDX and STIDX (R225) -/

theorem lane_two (x : V2048) (e : Nat) : lane x 2 e = (x.extractLsb' (32 * e) 32).toNat := by
  rw [BitVec.extractLsb'_toNat, Nat.shiftRight_eq_div_pow]
  rfl

/-- The elements of an indexed word: those that the mask enables, each with its address. -/
theorem State.mem_indexed {s : State} {vi ba : Fin 32} {esz : Fin 4} {vm : Fin 8} {e a : Nat} :
    (e, a) ∈ s.indexed vi ba esz vm ↔ (e < min 64 (256 / 2 ^ esz.val) ∧ (s.core.rdVm vm).getLsbD e = true) ∧
      a = (s.core.rdB ba).toNat + 2 ^ esz.val * (s.core.v[vi].extractLsb' (32 * e) 32).toNat := by
  simp only [indexed, lane_two, List.mem_map, List.mem_filter, List.mem_range, Prod.mk.injEq]
  constructor
  · rintro ⟨_, on, rfl, rfl⟩
    exact ⟨on, rfl⟩
  · rintro ⟨on, rfl⟩
    exact ⟨e, on, rfl, rfl⟩

theorem State.indexFault_none {s : State} {u : Buf} {n : Nat} {l : List (Nat × Nat)}
    (h : ∀ x ∈ l, x.2 % n = 0 ∧ x.2 + n ≤ s.ctx.image.foot u) : s.indexFault u n l = none :=
  List.findSome?_eq_none_iff.2 fun x hx => (if_neg (Decidable.not_not.2 (h x hx).1)).trans (if_neg (Nat.not_lt.2 (h x hx).2))

theorem mem_place_iff {a : Nat} {l : List Byte} {x : Nat × Byte} : x ∈ place a l ↔ ∃ j, ∃ h : j < l.length, x = (a + j, l[j]) := by
  induction l generalizing a with
  | nil => simp [place]
  | cons y t ih =>
    rw [place, List.mem_cons, ih]
    constructor
    · rintro (rfl | ⟨j, h, rfl⟩)
      · exact ⟨0, Nat.succ_pos _, rfl⟩
      · exact ⟨j + 1, Nat.succ_lt_succ h, by rw [List.getElem_cons_succ]; congr 1; omega⟩
    · rintro ⟨j, h, rfl⟩
      cases j with
      | zero => exact .inl rfl
      | succ j => exact .inr ⟨j, Nat.lt_of_succ_lt_succ h, by rw [List.getElem_cons_succ]; congr 1; omega⟩

theorem getElem_toLe (n x : Nat) {j : Nat} (h : j < (toLe n x).length) : (toLe n x)[j] = BitVec.ofNat 8 (x / 2 ^ (8 * j)) := by
  induction n generalizing x j with
  | zero => exact absurd h (Nat.not_lt_zero j)
  | succ n ih =>
    cases j with
    | zero => simp [toLe]
    | succ j =>
      have deeper : x / 256 / 2 ^ (8 * j) = x / 2 ^ (8 * (j + 1)) := by
        rw [Nat.div_div_eq_div_mul, show 256 = 2 ^ 8 from rfl, ← Nat.pow_add]
        congr 2
        omega
      change (toLe n (x / 256))[j]'_ = _
      rw [ih, deeper]

/-- Byte j of an element. -/
theorem byte_of_lane (x : V2048) {lw j : Nat} (e : Nat) (hj : j < 2 ^ lw) :
    BitVec.ofNat 8 (lane x lw e / 2 ^ (8 * j)) = x.extractLsb' (8 * 2 ^ lw * e + 8 * j) 8 := by
  refine BitVec.eq_of_getLsbD_eq fun k hk => ?_
  have inside : 8 * j + k < laneBits lw := by
    have : 8 * (j + 1) ≤ 8 * 2 ^ lw := Nat.mul_le_mul_left 8 hj
    rw [laneBits]
    omega
  rw [BitVec.getLsbD_ofNat, decide_eq_true hk, Bool.true_and, Nat.testBit_div_two_pow, Nat.add_comm k, testBit_lane x inside,
    BitVec.getLsbD_extractLsb', decide_eq_true hk, Bool.true_and, laneBits, Nat.add_assoc]

/-- The bytes of an indexed store. -/
theorem mem_indexedBytes {s : State} {vs vi ba : Fin 32} {esz : Fin 4} {vm : Fin 8} {a : Nat} {x : Byte} :
    (a, x) ∈ (s.indexed vi ba esz vm).flatMap (fun (e, a) => place a (toLe (2 ^ esz.val) (lane s.core.v[vs] esz.val e))) ↔
      ∃ e j, (e < min 64 (256 / 2 ^ esz.val) ∧ (s.core.rdVm vm).getLsbD e = true) ∧ j < 2 ^ esz.val ∧
        a = (s.core.rdB ba).toNat + 2 ^ esz.val * (s.core.v[vi].extractLsb' (32 * e) 32).toNat + j ∧
        x = s.core.v[vs].extractLsb' (8 * 2 ^ esz.val * e + 8 * j) 8 := by
  simp only [List.mem_flatMap, Prod.exists, mem_place_iff, State.mem_indexed, getElem_toLe, length_toLe, Prod.mk.injEq]
  constructor
  · rintro ⟨e, _, ⟨on, rfl⟩, j, hj, rfl, rfl⟩
    exact ⟨e, j, on, hj, rfl, byte_of_lane _ e hj⟩
  · rintro ⟨e, j, on, hj, rfl, rfl⟩
    exact ⟨e, _, ⟨on, rfl⟩, j, hj, rfl, (byte_of_lane _ e hj).symm⟩

/-- The first value that a search finds, along a rising list. -/
theorem findSome?_map_range_eq {β : Type} {m e : Nat} {on : Nat → Bool} {g : Nat → Option β} {y : β} (he : e < m) (hon : on e = true)
    (hy : g e = some y) (before : ∀ e', e' < e → on e' = true → g e' = none) : ((List.range m).filter on).findSome? g = some y := by
  have split : List.range m = List.range e ++ e :: (List.range' (e + 1) (m - e - 1)) := by
    have parts : m = e + (1 + (m - e - 1)) := by omega
    conv_lhs => rw [parts, List.range_eq_range', ← List.range'_append_1, ← List.range'_append_1]
    rw [List.range_eq_range', Nat.zero_add]
    rfl
  rw [split, List.filter_append, List.findSome?_append, List.filter_cons_of_pos hon, List.findSome?_cons, hy]
  have none : ((List.range e).filter on).findSome? g = none :=
    List.findSome?_eq_none_iff.2 fun x hx => before x (List.mem_range.1 (List.mem_filter.1 hx).1) (List.mem_filter.1 hx).2
  rw [none]
  rfl

/-- Settles O21: the list of the enabled elements, its first that fails, and the bytes that a store of it places. -/
theorem indexedWords : Obligations.IndexedWords := by
  intro s p v vi u ba esz vm hs n addr on
  refine ⟨fun sound => ?_, fun e r enabled before failed => ?_⟩
  · have passes : s.indexFault u n (s.indexed vi ba esz vm) = none :=
      State.indexFault_none fun x hx => by
        obtain ⟨enabled, place⟩ := State.mem_indexed.1 (show (x.1, x.2) ∈ _ from hx)
        rw [place]
        exact sound x.1 enabled
    have go (k : State → State) : s.gathered u n (s.indexed vi ba esz vm) k = k s := by rw [State.gathered, passes]
    refine ⟨⟨s.indexed vi ba esz vm, fun e a => State.mem_indexed, State.gives_of_effect hs rfl rfl rfl (go _)⟩,
      ⟨_, fun a x => mem_indexedBytes, State.gives_of_effect hs rfl rfl rfl (go _)⟩⟩
  · obtain ⟨inside, held⟩ := enabled
    have fault : s.indexFault u n (s.indexed vi ba esz vm) = some (r, e, addr e) := by
      rw [State.indexFault, State.indexed, List.findSome?_map]
      refine findSome?_map_range_eq inside held ?_ fun e' he' held' => ?_
      · simp only [Function.comp, State.b, lane_two]
        obtain ⟨off, rfl⟩ | ⟨aligned, out, rfl⟩ := failed
        · exact if_pos off
        · exact (if_neg (Decidable.not_not.2 aligned)).trans (if_pos out)
      · simp only [Function.comp, State.b, lane_two]
        obtain ⟨aligned, fits⟩ := before e' he' ⟨he'.trans inside, held'⟩
        exact (if_neg (Decidable.not_not.2 aligned)).trans (if_neg (Nat.not_lt.2 fits))
    have stop (k : State → State) : s.gathered u n (s.indexed vi ba esz vm) k = s.raise 8 (e * 256 + r) (addr e) := by rw [State.gathered, fault]
    exact ⟨State.traps_of_raise hs rfl rfl (stop _), State.traps_of_raise hs rfl rfl (stop _)⟩

end Sys2Proof.Machine
end

section
/-! PROOFS. The words of slot V on elements, on bit patterns, the conversions and the reductions (R129-R150; O23-O27). -/

namespace Sys2Proof.Machine

/-! ## Elements by position (R133, R135) -/

/-- The elements that a VM field enables (R133). -/
def Isle.enables (c : Isle) (vm : Fin 8) (lw e : Nat) : Bool := vm = 0 || (c.vm[vm]).getLsbD (e * laneBits lw / 32)

theorem Isle.enabled_rdVm (c : Isle) (vm : Fin 8) {lw e : Nat} (he : e < laneCount lw) : enabled (c.rdVm vm) lw e = c.enables vm lw e := by
  have inside : e * laneBits lw / 32 < 64 := by
    have := laneBits_mul_add_lt he (k := 0) (by simp [laneBits])
    rw [Nat.mul_comm]
    omega
  exact c.getLsbD_rdVm vm inside

theorem State.each_eq (s : State) (vm : Fin 8) (lw : Nat) (f : Nat → Elem) : s.each vm lw f = elemsOn lw (s.core.enables vm lw) f :=
  map_eq_elemsOn fun _ he => by rw [Isle.enabled_rdVm _ _ he]

theorem orElse_none {α : Type} {x y : Option α} (hx : x = none) (hy : y = none) : (x <|> y) = none := by
  rw [hx, hy]
  rfl

section
variable {s : State} {i : Instr} {p : Pred} {cls : Nat} {vd va vb vc : Fin 32} {vm : Fin 8} {ok : Fmt → Bool}

/-- An elementwise word of two sources that pass (R135, R137). -/
theorem State.writes_vector2 {op : Fmt → Nat → Nat → Nat → Elem} (hp : i.pred? = some p)
    (hx : exec i s = .next (s.vector2 i p cls vd va vb vm ok op))
    (sound : arithSource 0 s.core.tag[va] ok = none ∧ arithSource 1 s.core.tag[vb] ok = none ∧ tagLw s.core.tag[va] = tagLw s.core.tag[vb] ∧
      tagEfd s.core.tag[va] = tagEfd s.core.tag[vb]) :
    let f := tagFmt s.core.tag[va]
    s.WritesElems i cls vd f.lw (s.core.enables vm f.lw) (fun e => op f e (lane s.core.v[va] f.lw e) (lane s.core.v[vb] f.lw e)) s.core.tag[va] := by
  intro f
  obtain ⟨ha, hb, hl, he⟩ := sound
  have gives := gives_of_issue hp hx
  dsimp only at gives
  rw [tagsPassing_of_none (orElse_none ha (orElse_none hb (orElse_none (pairLw_of_eq hl) (pairEfd_of_eq he)))), each_eq] at gives
  exact writesElems_of_landVec gives

/-- An elementwise word of one source that passes (R135). -/
theorem State.writes_vector1 {op : Fmt → Nat → Nat → Elem} (hp : i.pred? = some p) (hx : exec i s = .next (s.vector1 i p cls vd va vm ok op))
    (sound : arithSource 0 s.core.tag[va] ok = none) :
    let f := tagFmt s.core.tag[va]
    s.WritesElems i cls vd f.lw (s.core.enables vm f.lw) (fun e => op f e (lane s.core.v[va] f.lw e)) s.core.tag[va] := by
  intro f
  have gives := gives_of_issue hp hx
  dsimp only at gives
  rw [tagsPassing_of_none sound, each_eq] at gives
  exact writesElems_of_landVec gives

/-- A fused word whose three sources pass (R139). -/
theorem State.writes_vectorFma {rm : Rm} {np nc : Bool} (hp : i.pred? = some p) (hx : exec i s = .next (s.vectorFma i p vd va vb vc rm np nc))
    (ha : arithSource 0 s.core.tag[va] Fmt.isF = none) (hb : arithSource 1 s.core.tag[vb] Fmt.isF = none)
    (hc : arithSource 2 s.core.tag[vc] Fmt.isF = none) (lb : tagLw s.core.tag[va] = tagLw s.core.tag[vb])
    (lc : tagLw s.core.tag[va] = tagLw s.core.tag[vc]) (eb : tagEfd s.core.tag[va] = tagEfd s.core.tag[vb])
    (ec : tagEfd s.core.tag[va] = tagEfd s.core.tag[vc]) :
    let f := tagFmt s.core.tag[va]
    s.WritesElems i 8 vd f.lw (fun _ => true)
      (fun e => fmaElem f (s.rmode rm false e) np nc (lane s.core.v[va] f.lw e) (lane s.core.v[vb] f.lw e) (lane s.core.v[vc] f.lw e)) s.core.tag[va] := by
  intro f
  have gives := gives_of_issue hp hx
  dsimp only at gives
  rw [tagsPassing_of_none (orElse_none ha (orElse_none hb (orElse_none hc (orElse_none (pairLw_of_eq lb) (orElse_none (pairLw_of_eq lc)
    (orElse_none (pairEfd_of_eq eb) (pairEfd_of_eq ec))))))), each_zero] at gives
  exact writesElems_of_landVec gives

end

/-- Settles O23: the elementwise words by the number of their sources. -/
theorem vectorElementwise : Obligations.VectorElementwise := by
  refine ⟨fun s p vd va vb vm rm sat => ?_, fun s p vd va vm rm sat => ?_, fun s p vd va vb vc rm => ?_⟩
  · intro t u f x y on m pairs
    exact ⟨fun h => State.writes_vector2 (op := fun f e x y => addElem f (s.rmode rm sat e) x y) rfl rfl h,
      fun h => State.writes_vector2 (op := fun f e x y => subElem f (s.rmode rm sat e) x y) rfl rfl h,
      fun h => State.writes_vector2 (op := fun f e x y => mulElem f (s.rmode rm sat e) x y) rfl rfl h,
      fun h => State.writes_vector2 (op := fun f e x y => divElem f (s.rmode rm sat e) x y) rfl rfl h,
      fun h => State.writes_vector2 (op := fun f _ x y => (pickElem f true x y, none)) rfl rfl h,
      fun h => State.writes_vector2 (op := fun f _ x y => (pickElem f false x y, none)) rfl rfl h⟩
  · intro t f x on writes
    exact ⟨fun h => State.writes_vector1 (op := fun f _ x => absElem f sat x) rfl rfl h,
      fun h => State.writes_vector1 (op := fun f _ x => negElem f sat x) rfl rfl h,
      fun h => State.writes_vector1 (op := fun f e x => exp2Elem f (s.rmode rm sat e) x) rfl rfl h,
      fun h => State.writes_vector1 (op := fun f e x => log2Elem f (s.rmode rm sat e) x) rfl rfl h,
      fun h => State.writes_vector1 (op := fun f e x => rcpElem f (s.rmode rm sat e) x) rfl rfl h,
      fun h => State.writes_vector1 (op := fun f e x => rsqElem f (s.rmode rm sat e) x) rfl rfl h,
      fun h => State.writes_vector1 (op := fun f e x => sqrtElem f (s.rmode rm sat e) x) rfl rfl h⟩
  · intro t f el val ha hb hc lb lc eb ec
    exact ⟨State.writes_vectorFma rfl rfl ha hb hc lb lc eb ec, State.writes_vectorFma rfl rfl ha hb hc lb lc eb ec,
      State.writes_vectorFma rfl rfl ha hb hc lb lc eb ec⟩

/-! ## Integer elements (R135, R137) -/

/-- An integer code stands for its value modulo 2^W. -/
theorem intOf_emod (f : Fmt) (x : Nat) : intOf f x % (2 ^ f.width : Nat) = (x % 2 ^ f.width : Nat) := by
  have half : ((2 : Int) ^ f.width) = (2 ^ f.width : Nat) := by rw [Nat.cast_pow]; rfl
  unfold intOf
  split
  · unfold sext
    dsimp only
    split
    · rw [← Int.natCast_mod, Nat.mod_mod]
    · rw [half, Int.sub_emod, Int.emod_self, Int.sub_zero, Int.emod_emod, ← Int.natCast_mod, Nat.mod_mod]
  · rw [← Int.natCast_mod, Nat.mod_mod]

theorem wrap_eq (x : Int) (n : Nat) : wrap x n = (x % (2 ^ n : Nat)).toNat := by
  rw [wrap, Nat.cast_pow]
  rfl

theorem fst_intResult_of_wraps (f : Fmt) (x : Int) : (intResult f x false).1 = wrap x f.width := by
  unfold intResult
  dsimp only
  split <;> rfl

/-- An integer result is its value modulo 2^W, where operands agree with their codes modulo 2^W. -/
theorem wrap_eq_of_emod {x y : Int} {n : Nat} {k : Nat} (h : x % (2 ^ n : Nat) = y % (2 ^ n : Nat)) (hy : y = (k : Nat)) : wrap x n = k % 2 ^ n := by
  rw [wrap_eq, h, hy, ← Int.natCast_mod, Int.toNat_natCast]

/-- Settles O24: a code and its value agree modulo 2^W, so that their sums, differences and products do. -/
theorem integerElementsWrap : Obligations.IntegerElementsWrap := by
  intro f m x y hi _ hs hx hy
  have ex : intOf f x ≡ x [ZMOD (2 ^ f.width : Nat)] := by rw [Int.ModEq, intOf_emod]; rfl
  have ey : intOf f y ≡ y [ZMOD (2 ^ f.width : Nat)] := by rw [Int.ModEq, intOf_emod]; rfl
  refine ⟨?_, ?_, ?_⟩
  · rw [addElem, if_pos hi, hs, fst_intResult_of_wraps]
    exact wrap_eq_of_emod (ex.add ey) (by push_cast; rfl)
  · rw [subElem, if_pos hi, hs, fst_intResult_of_wraps]
    have turned : (x : Int) - y ≡ x + (2 ^ f.width - y : Nat) [ZMOD (2 ^ f.width : Nat)] := by
      rw [Nat.cast_sub hy.le, add_sub_assoc', add_comm, add_sub_assoc]
      exact (Int.ModEq.symm (Int.add_modEq_left)).trans rfl
    exact wrap_eq_of_emod ((ex.sub ey).trans turned) (by push_cast; rfl)
  · rw [mulElem, if_pos hi, hs, fst_intResult_of_wraps]
    exact wrap_eq_of_emod (ex.mul ey) (by push_cast; rfl)

/-! ## Words of bit patterns (R129, R130, R142, R143, R150) -/

section
variable {s : State} {i : Instr} {p : Pred} {cls : Nat} {vd va vb : Fin 32} {en : State → Nat → Nat → Bool} {on : Nat → Bool} {val : Nat → Nat}

/-- A word of bit patterns of two sources that pass. -/
theorem State.writes_bits2 {op : State → Nat → Nat → Nat → Nat → Nat} (hp : i.pred? = some p)
    (hx : exec i s = .next (s.bits2 i p cls vd va vb en op))
    (hon : ∀ e, e < laneCount (tagLw s.core.tag[va]) → en s (tagLw s.core.tag[va]) e = on e)
    (hval : ∀ e, e < laneCount (tagLw s.core.tag[va]) → op s (tagWidth s.core.tag[va]) e (lane s.core.v[va] (tagLw s.core.tag[va]) e % 2 ^ tagWidth s.core.tag[va])
      (lane s.core.v[vb] (tagLw s.core.tag[va]) e % 2 ^ tagWidth s.core.tag[vb]) % 2 ^ tagWidth s.core.tag[va] = val e % 2 ^ tagWidth s.core.tag[va])
    (ha : tagCheck 0 s.core.tag[va] true = none) (hb : tagCheck 1 s.core.tag[vb] true = none)
    (hl : tagLw s.core.tag[va] = tagLw s.core.tag[vb]) :
    s.WritesBits i cls vd (tagLw s.core.tag[va]) on (fun e => val e % 2 ^ tagWidth s.core.tag[va]) s.core.tag[va] := by
  have gives := gives_of_issue hp hx
  dsimp only at gives
  rw [tagsPassing_of_none (orElse_none ha (orElse_none hb (pairLw_of_eq hl))), map_eq_elemsOn (on := on)
    (el := fun e => (val e % 2 ^ tagWidth s.core.tag[va], none)) fun e he => by rw [hon e he, ← hval e he]; rfl] at gives
  exact (writesElems_of_landVec gives).bits

/-- A word of bit patterns of one source that passes. -/
theorem State.writes_bits1 {op : State → Nat → Nat → Nat → Nat} (hp : i.pred? = some p) (hx : exec i s = .next (s.bits1 i p cls vd va en op))
    (hon : ∀ e, e < laneCount (tagLw s.core.tag[va]) → en s (tagLw s.core.tag[va]) e = on e)
    (hval : ∀ e, e < laneCount (tagLw s.core.tag[va]) → op s (tagLw s.core.tag[va]) (tagWidth s.core.tag[va]) e % 2 ^ tagWidth s.core.tag[va] = val e % 2 ^ tagWidth s.core.tag[va])
    (ha : tagCheck 0 s.core.tag[va] true = none) :
    s.WritesBits i cls vd (tagLw s.core.tag[va]) on (fun e => val e % 2 ^ tagWidth s.core.tag[va]) s.core.tag[va] := by
  have gives := gives_of_issue hp hx
  dsimp only at gives
  rw [tagsPassing_of_none ha, map_eq_elemsOn (on := on) (el := fun e => (val e % 2 ^ tagWidth s.core.tag[va], none)) fun e he => by
    rw [hon e he, ← hval e he]] at gives
  exact (writesElems_of_landVec gives).bits

end

/-- The two sources of VEXT side by side, read from a 32-bit lane on (R150). -/
theorem ofNat_run_eq (x y : V2048) (k : Nat) :
    BitVec.ofNat 2048 ((x.toNat + y.toNat * 2 ^ 2048) / 2 ^ k) = (y ++ x).extractLsb' k 2048 := by
  have joined : (y ++ x).toNat = x.toNat + y.toNat * 2 ^ 2048 := by
    rw [BitVec.toNat_append, ← Nat.shiftLeft_add_eq_or_of_lt x.isLt, Nat.shiftLeft_eq, Nat.add_comm]
  rw [← joined, BitVec.extractLsb', Nat.shiftRight_eq_div_pow]

/-- VEXT of two sources that pass. -/
theorem State.writes_vext {s : State} {p : Pred} {vd va vb : Fin 32} {a6 : BitVec 6} (ha : tagCheck 0 s.core.tag[va] true = none)
    (hb : tagCheck 1 s.core.tag[vb] true = none) :
    s.WritesBits (.vext p vd va vb a6) 14 vd (tagLw s.core.tag[va]) (fun _ => true)
      (fun e => lane ((s.core.v[vb] ++ s.core.v[va]).extractLsb' (32 * a6.toNat) 2048) (tagLw s.core.tag[va]) e % 2 ^ tagWidth s.core.tag[va])
      s.core.tag[va] := by
  have gives := s.gives_of_issue (i := .vext p vd va vb a6) rfl rfl
  dsimp only at gives
  rw [tagsPassing_of_none (orElse_none ha hb), ofNat_run_eq, lanes, List.map_map] at gives
  exact (writesElems_of_landVec (on := fun _ => true) gives).bits

/-- Settles O25: the words of one and of two sources, each by its operation on an element. -/
theorem vectorBitPatterns : Obligations.VectorBitPatterns := by
  intro s p vd va vb vm amt a6 t u lw w x y n on one two
  have masked (e : Nat) (he : e < laneCount lw) : byMask vm s lw e = on e := Isle.enabled_rdVm _ _ he
  have all (e : Nat) (_ : e < laneCount lw) : allOn s lw e = true := rfl
  have plain {v : Nat → Nat} (e : Nat) (_ : e < laneCount lw) : v e % 2 ^ w = v e % 2 ^ w := rfl
  refine ⟨?and, ?or, ?xor, ?shl, ?shr, ?sar, ?sel, ?perm, ?not, ?mov, ?rot, State.writes_vext⟩
  case and => exact State.writes_bits2 rfl rfl masked plain
  case or => exact State.writes_bits2 rfl rfl masked plain
  case xor => exact State.writes_bits2 rfl rfl masked plain
  case shl =>
    refine State.writes_bits2 rfl rfl masked fun e _ => ?_
    rw [shiftElem, if_pos rfl]
    split
    · rfl
    · exact Nat.mod_mod _ _
  case shr => exact State.writes_bits2 rfl rfl masked plain
  case sar => exact State.writes_bits2 rfl rfl masked plain
  case sel =>
    refine State.writes_bits2 rfl rfl all fun e he => ?_
    rw [Isle.enabled_rdVm _ _ he]
    rfl
  case perm => exact State.writes_bits2 rfl rfl masked fun e _ => (Nat.mod_mod _ _).symm
  case not => exact State.writes_bits1 rfl rfl masked plain
  case mov => exact State.writes_bits1 rfl rfl masked fun e _ => (Nat.mod_mod _ _).symm
  case rot => exact State.writes_bits1 rfl rfl all fun e _ => (Nat.mod_mod _ _).symm

/-! ## Conversions (R144-R148) -/

/-- The part of a target, from b[BT][33:32] (R144). -/
theorem State.target_eq (s : State) (bt : Fin 32) :
    s.target bt = ((s.core.rdB bt).truncate 32, ((s.core.rdB bt).extractLsb' 32 2).toNat) := by
  rw [target, State.b, fld_toNat]

theorem failIf_of_not {c : Bool} {cause pos reason : Nat} (h : c = true) : failIf (!c) cause pos reason = none := failIf_of_false (by rw [h]; rfl)

/-- An element that comes from a place of the source, or is written zero (R145). -/
theorem match_partOf (o : Option Nat) (f : Nat → Elem) : (match o with | some k => f k | none => (0, none)) = (o.map f).getD (0, none) := by
  cases o <;> rfl

theorem State.WritesElems.congr {s : State} {i : Instr} {cls lw : Nat} {vd : Fin 32} {on : Nat → Bool} {el el' : Nat → Elem} {t : W32}
    (h : s.WritesElems i cls vd lw on el t) (same : ∀ e, el e = el' e) : s.WritesElems i cls vd lw on el' t := by
  rwa [← funext same]

section
variable {s : State} {p : Pred} {vd va vsc bt : Fin 32} {vm : Fin 8} {rm : Rm} {sat : Bool} {g : Fmt}

/-- VCVT of a source that passes, to a well-formed format (R145). -/
theorem State.writes_vcvt (hg : fmtOf (tagEfd ((s.core.rdB bt).truncate 32)) = some g) (ha : notAcc 0 s.core.tag[va] = none)
    (hs : tagScl s.core.tag[va] = false) (acc : g.acc = false) :
    let u : W32 := (s.core.rdB bt).truncate 32
    let f := tagFmt s.core.tag[va]
    s.WritesElems (.vcvt p vd va bt vm rm sat) 9 vd g.lw (s.core.enables vm g.lw)
      (fun e => ((partOf (laneCount f.lw) (laneCount g.lw) ((s.core.rdB bt).extractLsb' 32 2).toNat e).map fun k =>
        convert g (valueOf f (lane s.core.v[va] f.lw k)) (s.rmode rm sat e)).getD (0, none)) (mkTag (tagEfd u) g.lw false false 0 0) := by
  intro u f
  have gives := s.gives_of_issue (i := .vcvt p vd va bt vm rm sat) rfl rfl
  dsimp only at gives
  simp only [target_eq, hg] at gives
  rw [tagsPassing_of_none (orElse_none (orElse_none ha (failIf_of_false hs)) (failIf_of_false acc)), each_eq] at gives
  exact (writesElems_of_landVec gives).congr fun e => match_partOf _ _

/-- VQNT of a plain source with a scale register that pairs with its target (R147). -/
theorem State.writes_vqnt (hg : fmtOf (tagEfd ((s.core.rdB bt).truncate 32)) = some g) (ha : plainSource 0 s.core.tag[va] = none)
    (hc : notAcc 1 s.core.tag[vsc] = none) (narrow : g.wide = false)
    (pair : scalePairs s.core.tag[vsc] ((s.core.rdB bt).truncate 32) = true) :
    let u : W32 := (s.core.rdB bt).truncate 32
    let f := tagFmt s.core.tag[va]
    s.WritesElems (.vqnt p vd va vsc bt rm) 10 vd 0 (fun _ => true)
      (fun e => ((partOf (laneCount f.lw) 256 ((s.core.rdB bt).extractLsb' 32 2).toNat e).map fun k =>
        quantElem g (valueOf f (lane s.core.v[va] f.lw k)) (s.scaleReg vsc (e / blockOf (tagSblk u))) (s.rmode rm true e)).getD (0, none))
      (mkTag (tagEfd u) 0 true false (tagSfmt u) (tagSblk u)) := by
  intro u f
  have gives := s.gives_of_issue (i := .vqnt p vd va vsc bt rm) rfl rfl
  dsimp only at gives
  simp only [target_eq, hg] at gives
  rw [tagsPassing_of_none (orElse_none (orElse_none ha hc) (orElse_none (failIf_of_false narrow) (failIf_of_not pair))), each_zero] at gives
  exact (writesElems_of_landVec gives).congr fun e => match_partOf _ _

/-- VDQNT of a scaled narrow source with its scale register, to a wide float (R148). -/
theorem State.writes_vdqnt (hg : fmtOf (tagEfd ((s.core.rdB bt).truncate 32)) = some g) (ha : tagCheck 0 s.core.tag[va] false = none)
    (narrow : (tagFmt s.core.tag[va]).wide = false) (scaled : tagScl s.core.tag[va] = true) (hc : notAcc 1 s.core.tag[vsc] = none)
    (float : g.isF = true) (pair : scalePairs s.core.tag[vsc] s.core.tag[va] = true) :
    let u : W32 := (s.core.rdB bt).truncate 32
    let f := tagFmt s.core.tag[va]
    s.WritesElems (.vdqnt p vd va vsc bt rm) 9 vd g.lw (fun _ => true)
      (fun e => ((partOf 256 (laneCount g.lw) ((s.core.rdB bt).extractLsb' 32 2).toNat e).map fun k =>
        convert g ((valueOf f (lane s.core.v[va] 0 k)).mul (s.scaleReg vsc (k / blockOf (tagSblk s.core.tag[va])))) (s.rmode rm false e)).getD
          (0, none))
      (mkTag (tagEfd u) g.lw false false 0 0) := by
  intro u f
  have gives := s.gives_of_issue (i := .vdqnt p vd va vsc bt rm) rfl rfl
  dsimp only at gives
  simp only [target_eq, hg] at gives
  rw [tagsPassing_of_none (orElse_none (orElse_none ha (orElse_none (failIf_of_false narrow) (orElse_none (failIf_of_not scaled) hc)))
    (orElse_none (failIf_of_not float) (failIf_of_not pair))), each_zero] at gives
  exact (writesElems_of_landVec gives).congr fun e => match_partOf _ _

/-- VBSCL of a plain source whose lanes fill the blocks (R146). -/
theorem State.writes_vbscl (hg : fmtOf (tagEfd ((s.core.rdB bt).truncate 32)) = some g) (ha : plainSource 0 s.core.tag[va] = none)
    (narrow : g.wide = false) (scaled : tagSfmt ((s.core.rdB bt).truncate 32) ≠ 0)
    (blocks : blockOf (tagSblk ((s.core.rdB bt).truncate 32)) ≤ laneCount (tagFmt s.core.tag[va]).lw) :
    let u : W32 := (s.core.rdB bt).truncate 32
    let f := tagFmt s.core.tag[va]
    let n := laneCount f.lw
    let b := blockOf (tagSblk u)
    let first := ((s.core.rdB bt).extractLsb' 32 2).toNat % (256 / n) * n / b
    s.WritesElems (.vbscl p vd va bt) 10 vd (if tagSfmt u = 3 then 1 else 0) (fun _ => true)
      (fun e => if first ≤ e ∧ e < first + n / b then
        blockScale (tagSfmt u) g ((List.range b).map fun j => valueOf f (lane s.core.v[va] f.lw ((e - first) * b + j))) else (0, none))
      (scaleTag (tagSfmt u) (tagSblk u)) := by
  intro u f n b first
  have gives := s.gives_of_issue (i := .vbscl p vd va bt) rfl rfl
  have whole : (tagSfmt ((s.core.rdB bt).truncate 32) == 0 ||
      decide (laneCount (tagFmt s.core.tag[va]).lw < blockOf (tagSblk ((s.core.rdB bt).truncate 32)))) = false := by
    rw [Bool.or_eq_false_iff]
    exact ⟨beq_eq_false_iff_ne.2 scaled, decide_eq_false (Nat.not_lt.2 blocks)⟩
  dsimp only at gives
  simp only [target_eq, hg] at gives
  rw [tagsPassing_of_none (orElse_none ha (orElse_none (failIf_of_false narrow) (failIf_of_false whole))), each_zero] at gives
  exact writesElems_of_landVec gives

end

/-- Settles O26: the four conversions where their sources and their target pass. -/
theorem vectorConversions : Obligations.VectorConversions := by
  intro s p vd va vsc bt vm rm sat g t sc u q f el scale on n b first hg
  exact ⟨State.writes_vcvt hg, State.writes_vqnt hg, State.writes_vdqnt hg, State.writes_vbscl hg⟩

/-! ## The tree of a reduction (R149) -/

/-- Two children of a node, of which either may be absent. -/
def joined (comb : Nat → Nat → Nat) : Option Nat → Option Nat → Option Nat
  | some x, some y => some (comb x y)
  | some x, none => some x
  | none, y => y

theorem redNode_succ (comb : Nat → Nat → Nat → Nat) (leaf : Nat → Option Nat) (lvl j : Nat) :
    redNode comb leaf (lvl + 1) j = joined (comb (2 ^ (lvl + 1) * j)) (redNode comb leaf lvl (2 * j)) (redNode comb leaf lvl (2 * j + 1)) := by
  rw [redNode]
  cases redNode comb leaf lvl (2 * j) <;> cases redNode comb leaf lvl (2 * j + 1) <;> rfl

theorem treeLevel_cons_cons (comb : Nat → Nat → Nat → Elem) (w j : Nat) (x y : Option Nat) (t : List (Option Nat)) :
    (treeLevel comb w j (x :: y :: t)).1 = joined (fun a b => (comb (2 * j * w) a b).1) x y :: (treeLevel comb w (j + 1) t).1 := by
  cases x <;> cases y <;> rfl

/-- One level of the tree: node n joins the elements 2n and 2n + 1 of the level below. -/
theorem getD_treeLevel (comb : Nat → Nat → Nat → Elem) (w : Nat) : ∀ (l : List (Option Nat)) (j n : Nat),
    ((treeLevel comb w j l).1).getD n none =
      joined (fun x y => (comb (2 * (j + n) * w) x y).1) (l.getD (2 * n) none) (l.getD (2 * n + 1) none)
  | [], _, _ => rfl
  | [x], _, 0 => by cases x <;> rfl
  | [_], _, _ + 1 => rfl
  | _ :: _ :: _, _, 0 => by rw [treeLevel_cons_cons]; rfl
  | x :: y :: t, j, n + 1 => by
    have place : j + 1 + n = j + (n + 1) := by omega
    rw [treeLevel_cons_cons, List.getD_cons_succ, getD_treeLevel comb w t (j + 1) n, place]
    rfl

/-- The tree over a level of nodes ends in the node that stands k levels above. -/
theorem fst_tree (comb : Nat → Nat → Nat → Elem) (leaf : Nat → Option Nat) (k lvl : Nat) (l : List (Option Nat))
    (h : ∀ j, l.getD j none = redNode (fun e a b => (comb e a b).1) leaf lvl j) :
    (tree comb k (2 ^ lvl) l).1 = redNode (fun e a b => (comb e a b).1) leaf (lvl + k) 0 := by
  induction k generalizing lvl l with
  | zero => exact h 0
  | succ k ih =>
    have up : 2 * 2 ^ lvl = 2 ^ (lvl + 1) := by rw [Nat.pow_succ, Nat.mul_comm]
    have level : ∀ j, ((treeLevel comb (2 ^ lvl) 0 l).1).getD j none = redNode (fun e a b => (comb e a b).1) leaf (lvl + 1) j := fun j => by
      have place : 2 * (0 + j) * 2 ^ lvl = 2 ^ (lvl + 1) * j := by rw [← up]; ring
      rw [getD_treeLevel, h, h, redNode_succ, place]
    have count : lvl + 1 + k = lvl + (k + 1) := by omega
    change (tree comb k (2 * 2 ^ lvl) (treeLevel comb (2 ^ lvl) 0 l).1).1 = _
    rw [up, ih (lvl + 1) _ level, count]

/-! ## Reductions (R138, R149) -/

section
variable {s : State} {i : Instr} {p : Pred} {vd va : Fin 32} {vm : Fin 8}

/-- The elements of a reduction's source that are enabled, by place. -/
def State.redLeaves (s : State) (va : Fin 32) (vm : Fin 8) : List (Option Nat) :=
  let f := tagFmt s.core.tag[va]
  (List.range (laneCount f.lw)).map fun e => if s.core.enables vm f.lw e then some (lane s.core.v[va] f.lw e) else none

theorem State.getD_redLeaves (e : Nat) : (s.redLeaves va vm).getD e none =
    if e < laneCount (tagFmt s.core.tag[va]).lw ∧ s.core.enables vm (tagFmt s.core.tag[va]).lw e = true then
      some (lane s.core.v[va] (tagFmt s.core.tag[va]).lw e) else none := by
  rw [redLeaves, List.getD_eq_getElem?_getD, List.getElem?_map]
  by_cases h : e < laneCount (tagFmt s.core.tag[va]).lw
  · rw [List.getElem?_range h]
    simp only [h, true_and, Option.map_some, Option.getD_some]
  · rw [List.getElem?_eq_none (by rwa [List.length_range, ← Nat.not_lt])]
    simp only [h, false_and, if_false]
    rfl

/-- A reduction of a source that passes writes its root to element 0 and zero elsewhere. -/
theorem State.writes_reduce {root : State → Fmt → List (Option Nat) → Nat × List EvKind} {r : Nat} {evs : List EvKind}
    {owes : List (EvKind × Nat) → Prop} (hp : i.pred? = some p) (hx : exec i s = .next (s.reduce i p vd va vm root))
    (ha : arithSource 0 s.core.tag[va] isWideFI = none) (hr : root s (tagFmt s.core.tag[va]) (s.redLeaves va vm) = (r, evs))
    (ho : owes (eventsOf (evs.map fun k => (0, some k)))) :
    s.WritesLanes i 13 vd (tagFmt s.core.tag[va]).lw (fun _ => true) (fun e => if e = 0 then r else 0) s.core.tag[va] owes := by
  have gives := gives_of_issue hp hx
  have same : (List.range (laneCount (tagFmt s.core.tag[va]).lw)).map (fun e =>
      if enabled (s.core.rdVm vm) (tagFmt s.core.tag[va]).lw e then some (s.elemOf va (tagFmt s.core.tag[va]).lw e) else none) = s.redLeaves va vm :=
    List.map_congr_left fun e he => by rw [Isle.enabled_rdVm _ _ (List.mem_range.1 he)]; rfl
  dsimp only at gives
  rw [tagsPassing_of_none ha, same, hr] at gives
  refine ⟨_, _, _, ho, fun e k he hk => ⟨?_, fun _ => ?_⟩, gives⟩
  · rw [BitVec.getLsbD_allOnes, decide_eq_true (laneBits_mul_add_lt he hk)]
  · rw [getLsbD_ofLanes he hk]
    cases e with
    | zero => rfl
    | succ e => 
      rw [List.getD_cons_succ, List.getD_eq_getElem?_getD, List.getElem?_replicate]
      split <;> rfl

end

theorem eventsOf_at_zero (evs : List EvKind) : ∀ x ∈ eventsOf (evs.map fun k => (0, some k)), x.2 = 0 := by
  intro x hx
  simp only [eventsOf, List.mem_filterMap, Option.map_eq_some_iff] at hx
  obtain ⟨k, _, y, found, rfl⟩ := hx
  obtain ⟨z, _, rfl⟩ := List.mem_map.1 (List.mem_of_find?_eq_some found)
  rfl

/-- The integers that a reduction sums. -/
theorem foldl_redLeaves (f : Fmt) (x : Nat → Nat) (on : Nat → Bool) (n : Nat) :
    (((List.range n).map fun e => if on e then some (x e) else none).filterMap id).foldl (fun a c => a + intOf f c) 0 =
      (((List.range n).filter on).map fun e => intOf f (x e)).sum := by
  have kept : ((List.range n).map fun e => if on e then some (x e) else none).filterMap id = ((List.range n).filter on).map x := by
    rw [List.filterMap_map]
    induction List.range n with
    | nil => rfl
    | cons e t ih => cases h : on e <;> simp_all
  rw [kept, List.foldl_map, List.sum_eq_foldl, List.foldl_map]

/-- An integer reduction's root: the sum clamped or wrapped, OF where it lies outside (R135). -/
theorem intResult_root (f : Fmt) (x : Int) (sat : Bool) :
    (intResult f x sat).1 = (if sat then (clampInt f x).1 else wrap x f.width) ∧
      eventsOf ((intResult f x sat).2.toList.map fun k => (0, some k)) = if f.range.1 ≤ x ∧ x ≤ f.range.2 then [] else [(.of, 0)] := by
  unfold intResult clampInt
  dsimp only
  by_cases h : f.range.1 ≤ x ∧ x ≤ f.range.2
  · have low : ¬ x < f.range.1 := by omega
    have high : ¬ f.range.2 < x := by omega
    rw [if_pos h, if_neg low, if_neg high, if_pos h, ite_self]
    exact ⟨rfl, rfl⟩
  · simp only [if_neg h]
    cases sat
    · exact ⟨rfl, rfl⟩
    · refine ⟨rfl, ?_⟩
      by_cases low : x < f.range.1
      · simp only [if_pos low]
        rfl
      · have high : f.range.2 < x := by omega
        simp only [if_neg low, if_pos high]
        rfl

theorem redAdd_of_float {f : Fmt} (m : Nat → RMode) (sat : Bool) (l : List (Option Nat)) (h : f.isInt = false) :
    redAdd f m sat l = (canonical f ((tree (fun e a b => addElem f (m e) a b) 8 1 l).1.getD 0), (tree (fun e a b => addElem f (m e) a b) 8 1 l).2) := by
  rw [redAdd, if_neg (Bool.eq_false_iff.1 h)]

/-- Settles O27: the model's tree ends in R149's root, and an integer sum is taken once. -/
theorem vectorReductions : Obligations.VectorReductions := by
  intro s p vd va vm rm sat t f on x leaf root sum reduces ha
  have tip (comb : Nat → Nat → Nat → Elem) : (tree comb 8 1 (s.redLeaves va vm)).1 = redNode (fun e a b => (comb e a b).1) leaf 8 0 :=
    fst_tree comb leaf 8 0 _ fun _ => State.getD_redLeaves _
  refine ⟨fun int => ?_, fun float => ?_, ?_, ?_⟩
  · obtain ⟨value, events⟩ := intResult_root f sum sat
    refine State.writes_reduce (evs := (intResult f sum sat).2.toList) rfl rfl ha ?_ events
    rw [redAdd, if_pos int, ← value, State.redLeaves, foldl_redLeaves]
    rfl
  · refine State.writes_reduce (evs := (tree (fun e a b => addElem f (s.rmode rm sat e) a b) 8 1 (s.redLeaves va vm)).2) rfl rfl ha ?_ (eventsOf_at_zero _)
    rw [redAdd_of_float _ _ _ float, tip fun e a b => addElem f (s.rmode rm sat e) a b]
  · refine State.writes_reduce (evs := []) rfl rfl ha ?_ rfl
    rw [redPick, tip]
  · refine State.writes_reduce (evs := []) rfl rfl ha ?_ rfl
    rw [redPick, tip]

end Sys2Proof.Machine
end

section
/-! PROOFS. Words that occupy the matrix engine and the end of their intervals (R166, R169-R173, R232; O30, O31). -/

namespace Sys2Proof.Machine

/-! ## Words that occupy the engine (R166) -/

/-- The run that an occupying word of the present bundle would have. -/
def State.runOf (s : State) (w : XWord) (len : Nat) : XRun :=
  { word := w, first := s.rcOfTick s.startTick, len := len, bundle := s.core.pc, rcyc := s.ctx.rcycle }

section
variable {s : State} {i : Instr} {p : Pred} {b : State → State} {w : XWord} {len : Nat}

theorem State.occupy_of_waiting (h : s.core.mat.latched ≠ none) : s.occupy w len = s.raise 5 0x52 s.core.pc :=
  if_pos (Option.isSome_iff_ne_none.2 h)

theorem State.occupy_of_running (hl : s.core.mat.latched = none) (hr : s.core.mat.running ≠ none) :
    s.occupy w len = s.onCore fun _ => { s.core.count 0x03 1 with mat := { (s.core.count 0x03 1).mat with latched := some (s.runOf w len) } } := by
  have free : ¬ s.core.mat.latched.isSome = true := by simp [hl]
  have busy : ¬ (s.core.count 0x03 1).mat.running.isNone = true := by simpa [Isle.count] using hr
  exact (if_neg free).trans (if_neg busy)

theorem State.occupy_of_idle (hl : s.core.mat.latched = none) (hr : s.core.mat.running = none) :
    s.occupy w len = (s.onCore fun _ => (s.core.count 0x03 1).startX (s.runOf w len)).stageMuwr s.ctx.rcycle := by
  have free : ¬ s.core.mat.latched.isSome = true := by simp [hl]
  have idle : (s.core.count 0x03 1).mat.running.isNone = true := by simp [Isle.count, hr]
  exact (if_neg free).trans (if_pos idle)

/-- A word starting that is no MUWR of this rc reads nothing from AB (R169). -/
theorem State.stageMuwr_of_other {rc : Nat} (h : s.core.muwrIn rc = none) : s.stageMuwr rc = s := by
  rw [stageMuwr, h]

theorem Isle.startX_running (c : Isle) (x : XRun) : (c.startX x).mat.running = some x := by
  rw [startX]
  split <;> rfl

/-- Whether the word is an MUWR that starts in an rc. -/
def XRun.stagesIn (x : XRun) (rc : Nat) : Prop := ∃ a d n, x.word = .muwr a d n ∧ x.first = rc

theorem Isle.muwrIn_of_not_stages {c : Isle} {x : XRun} {rc : Nat} (hr : c.mat.running = some x) (h : ¬ x.stagesIn rc) : c.muwrIn rc = none := by
  rw [muwrIn, hr]
  cases hw : x.word with
  | muwr a d n => simp only [hw, if_neg fun first => h ⟨a, d, n, hw, first⟩]
  | _ => simp only [hw]

/-- The three ways of an occupying word (R166). -/
theorem State.takes_of_occupy (hp : i.pred? = some p) (hx : exec i s = .next (s.issue i p b)) (hb : b s = s.occupy w len)
    (plain : s.core.mat.latched = none → s.core.mat.running = none → ¬ (s.runOf w len).stagesIn s.ctx.rcycle) :
    (s.core.mat.latched = none → s.core.mat.running = none →
      s.Gives i (s.onCore fun _ => (s.core.count 0x03 1).startX (s.runOf w len)).holdClass) ∧
    (s.core.mat.latched = none → s.core.mat.running ≠ none →
      s.Gives i (s.onCore fun _ => { s.core.count 0x03 1 with mat := { (s.core.count 0x03 1).mat with latched := some (s.runOf w len) } }).holdClass) ∧
    (s.core.mat.latched ≠ none → s.core.early = none → s.Gives i (s.trapping 5 0x52 s.core.pc).holdClass) := by
  have gives := gives_of_issue hp hx
  rw [hb] at gives
  refine ⟨fun hl hr => ?_, fun hl hr => ?_, fun hl early => ?_⟩
  · rwa [occupy_of_idle hl hr, stageMuwr_of_other (Isle.muwrIn_of_not_stages (Isle.startX_running _ _) (plain hl hr))] at gives
  · rwa [occupy_of_running hl hr] at gives
  · rwa [occupy_of_waiting hl, raise_first _ _ _ early] at gives

end

/-- MUWR whose range passes (R169). -/
theorem State.muwr_effect {s : State} {bs bu : Fin 32} {cntM1 : BitVec 8} (aligned : (s.core.rdB bs).toNat % 8 = 0)
    (inside : (s.core.rdB bs).toNat + 8 * (cntM1.toNat + 1) ≤ s.ctx.image.foot .ab)
    (room : (s.core.rdB bu).toNat + (cntM1.toNat + 1) ≤ s.core.ustore.length) :
    (s.inBuf .ab (s.b bs) (8 * (cntM1.toNat + 1)) 8 fun s =>
      if s.core.ustore.length < s.b bu + (cntM1.toNat + 1) then s.raise 8 0x35 (s.b bu)
      else s.occupy (.muwr (s.b bs) (s.b bu) (cntM1.toNat + 1)) (ceilDiv (cntM1.toNat + 1) 4 + 4)) =
      s.occupy (.muwr (s.core.rdB bs).toNat (s.core.rdB bu).toNat (cntM1.toNat + 1)) ((cntM1.toNat + 1 + 3) / 4 + 4) :=
  (inBuf_of_inside aligned inside).trans (if_neg (Nat.not_lt.2 room))

/-- MUWR that starts in the rc of its issue: its words stand staged (R169). -/
theorem State.stageMuwr_startX {s : State} {c : Isle} {x : XRun} {src dst n : Nat} (hw : x.word = .muwr src dst n) (clean : c.spoiled .ab src (8 * n) = false) :
    (s.onCore fun _ => c.startX x).stageMuwr x.first = s.onCore fun _ =>
      { c with mat := { c.mat with running := some x, staged := (List.range n).map fun j => BitVec.ofNat 64 (c.ab.rdN (src + 8 * j) 8) } } := by
  have started : c.startX x = { c with mat := { c.mat with running := some x } } := by
    rw [Isle.startX, hw]
  have reads : (c.startX x).muwrIn x.first = some (src, n) := by
    rw [Isle.muwrIn, Isle.startX_running]
    simp only [hw, if_pos]
  have whole : (c.startX x).firstSpoilt (bufCode .ab) src (8 * n) = none := by
    rw [started]
    exact Isle.firstSpoilt_none clean
  rw [stageMuwr]
  simp only [onCore, reads, whole]
  rw [started]

/-- Settles O30: every occupying word ends in `State.occupy` once its own checks pass. -/
theorem occupyingWords : Obligations.OccupyingWords := by
  intro s p idx pm bs bu cntM1 c run takes n src dst
  have takesPlain {i : Instr} {q : Pred} {b : State → State} {w : XWord} {len : Nat} (hp : i.pred? = some q) (hx : exec i s = .next (s.issue i q b))
      (hb : b s = s.occupy w len) (hw : ∀ a d n, w ≠ .muwr a d n) : takes i w len :=
    State.takes_of_occupy hp hx hb fun _ _ ⟨_, _, _, same, _⟩ => hw _ _ _ same
  refine ⟨?swap, ?s0, ?s1, ?mrtset, fun aligned inside room => ?muwr, fun count k look => ?mcall, fun short early => ?short, fun count k whole look => ?mcallr⟩
  case swap => exact takesPlain rfl rfl rfl (fun _ _ _ => nofun)
  case s0 => exact takesPlain rfl rfl rfl (fun _ _ _ => nofun)
  case s1 => exact takesPlain rfl rfl rfl (fun _ _ _ => nofun)
  case mrtset => exact takesPlain rfl rfl rfl (fun _ _ _ => nofun)
  case muwr =>
    intro x
    have effect := State.muwr_effect aligned inside room
    refine ⟨fun later => ?_, fun now hl hr clean => ?_⟩
    · refine State.takes_of_occupy rfl rfl effect fun hl hr ⟨_, _, _, _, first⟩ => ?_
      obtain h | h | h := later
      · exact h first
      · exact h hr
      · exact h hl
    · have gives := s.gives_of_issue (i := .muwr p bs bu cntM1) rfl rfl
      have clean : c.spoiled .ab src (8 * n) = false := clean
      refine ⟨(List.range n).map fun j => BitVec.ofNat 64 (s.core.ab.rdN (src + 8 * j) 8), by simp, fun j hj => by simp [hj], ?_⟩
      have staged := State.stageMuwr_startX (s := s) (c := c) (x := x) rfl clean
      rw [now] at staged
      dsimp only at gives
      rw [effect.trans ((State.occupy_of_idle hl hr).trans staged)] at gives
      exact gives
  case mcall =>
    refine takesPlain rfl rfl ?_ (fun _ _ _ => nofun)
    simp only [look]
  case short =>
    have gives := s.gives_of_issue (i := .mcallr p idx bs) rfl rfl
    rwa [if_pos short, State.raise_first _ _ _ early] at gives
  case mcallr =>
    refine takesPlain rfl rfl ?_ (fun _ _ _ => nofun)
    simp only [if_neg (Bool.eq_false_iff.1 whole), look]

/-! ## The end of an interval (R166, R232) -/

/-- What an ended word leaves, before a latched word starts. -/
def Isle.afterInterval (c : Isle) (x : XRun) : Isle :=
  let m := { c.mat with running := none, done := c.mat.done + 1 }
  match x.word with
  | .msel k => { c with mat := { m with actset := if k = 0 then !m.actset else k = 2 } }
  | .mrtset i w => { c with mat := m, rtab := c.rtab.set i w }
  | .muwr _ dst n =>
    { c with
      mat := { m with staged := [] }
      ustore := c.ustore.take dst ++ m.staged ++ c.ustore.drop (dst + n)
      poison := c.poison.filter fun p => !(p.1 == 5 && dst ≤ p.2 && p.2 < dst + n) }
  | .call _ =>
    match m.unended with
    | none => { c with mat := m }
    | some u =>
      ({ c with mat := { m with routine := none, landing := [] } } : Isle).raiseLate
        { cause := causeStall, addr := u, info := 0x50 + u * 2 ^ 18, slot := 5, issued := true }

theorem Isle.intervalEnd_eq {c : Isle} {x : XRun} {rc : Nat} (hr : c.mat.running = some x) (elapsed : x.first + x.len ≤ rc + 1) :
    c.intervalEnd rc = match (c.afterInterval x).mat.latched with
      | none => c.afterInterval x
      | some y => ({ c.afterInterval x with mat := { (c.afterInterval x).mat with latched := none } } : Isle).startX { y with first := rc + 1 } := by
  rw [intervalEnd, hr]
  simp only [if_pos elapsed]
  rfl

theorem Isle.raiseLate_mat (c : Isle) (t : TrapRec) : (c.raiseLate t).mat = c.mat := by
  rw [raiseLate]
  split
  · rfl
  · split <;> rfl

/-- Every word's end frees the engine, counts the word and leaves the latch (R166). -/
theorem Isle.afterInterval_mat (c : Isle) (x : XRun) :
    (c.afterInterval x).mat.running = none ∧ (c.afterInterval x).mat.latched = c.mat.latched ∧ (c.afterInterval x).mat.done = c.mat.done + 1 := by
  rw [afterInterval]
  cases x.word with
  | call k =>
    dsimp only
    split
    · exact ⟨rfl, rfl, rfl⟩
    · rw [raiseLate_mat]
      exact ⟨rfl, rfl, rfl⟩
  | muwr a d n => exact ⟨rfl, rfl, rfl⟩
  | mrtset i w => exact ⟨rfl, rfl, rfl⟩
  | msel k => exact ⟨rfl, rfl, rfl⟩

/-- What the words of slot X leave in an isle's engine and tables: equal but for the routine and what stands staged. -/
structure Isle.SameEnds (c d : Isle) : Prop where
  running : d.mat.running = c.mat.running
  latched : d.mat.latched = c.mat.latched
  done : d.mat.done = c.mat.done
  actset : d.mat.actset = c.mat.actset
  rtab : d.rtab = c.rtab
  ustore : d.ustore = c.ustore
  late : d.late = c.late

/-- A word that starts takes the engine and changes no table. -/
theorem Isle.startX_ends (c : Isle) (x : XRun) : ({ c with mat := { c.mat with running := some x } } : Isle).SameEnds (c.startX x) := by
  rw [startX]
  split <;> exact ⟨rfl, rfl, rfl, rfl, rfl, rfl, rfl⟩

theorem State.stageMuwr_rest (s : State) (rc : Nat) : s.SameRest (s.stageMuwr rc) ∧ s.core.SameEnds (s.stageMuwr rc).core := by
  have same : s.SameRest s := ⟨rfl, rfl, rfl, rfl, rfl, rfl, rfl, rfl, rfl, rfl, rfl, rfl, rfl, rfl, rfl, rfl, rfl, rfl, rfl, rfl⟩
  rw [stageMuwr]
  split
  · exact ⟨same, rfl, rfl, rfl, rfl, rfl, rfl, rfl⟩
  · split
    · exact ⟨⟨rfl, rfl, rfl, rfl, rfl, rfl, rfl, rfl, rfl, rfl, rfl, rfl, rfl, rfl, rfl, rfl, rfl, rfl, rfl, rfl⟩, rfl, rfl, rfl, rfl, rfl, rfl, rfl⟩
    · exact ⟨⟨rfl, rfl, rfl, rfl, rfl, rfl, rfl, rfl, rfl, rfl, rfl, rfl, rfl, rfl, rfl, rfl, rfl, rfl, rfl, rfl⟩, rfl, rfl, rfl, rfl, rfl, rfl, rfl⟩

theorem Isle.SameEnds.trans {c d e : Isle} (h : c.SameEnds d) (k : d.SameEnds e) : c.SameEnds e :=
  ⟨k.running.trans h.running, k.latched.trans h.latched, k.done.trans h.done, k.actset.trans h.actset, k.rtab.trans h.rtab,
    k.ustore.trans h.ustore, k.late.trans h.late⟩

theorem Isle.raiseLate_late {c : Isle} {t : TrapRec} (h : c.late = none) : (c.raiseLate t).late = some t := by rw [raiseLate_of_none h]

theorem State.SameRest.of_core {s t : State} {c : Isle} (h : ({ s with core := c } : State).SameRest t) : s.SameRest t :=
  ⟨h.live, h.slot, h.pid, h.rid, h.rcycle, h.div, h.ctxid, h.asid, h.feat, h.image, h.left, h.right, h.others, h.dram, h.slots, h.parts, h.fns,
    h.regions, h.asids, h.socks⟩

theorem Isle.afterInterval_call {c : Isle} {x : XRun} {k : Call} {r : Routine} (hw : x.word = .call k) (hr : c.mat.routine = some r) (hl : c.late = none) :
    (c.afterInterval x).late = some { cause := 5, addr := r.upc, info := 0x50 + r.upc * 2 ^ 18, slot := 5, issued := true } := by
  have stopped : ({ c.mat with running := none, done := c.mat.done + 1 } : Matrix).unended = some r.upc := by
    simp only [Matrix.unended, hr]
    rfl
  rw [afterInterval, hw]
  simp only [stopped]
  exact raiseLate_late (c := { c with mat := { c.mat with running := none, done := c.mat.done + 1, routine := none, landing := [] } }) hl

/-- What an interval's end leaves of the isle, whether a latched word starts or none (R166). -/
theorem Isle.intervalEnd_ends {c : Isle} {x : XRun} {rc : Nat} (hr : c.mat.running = some x) (elapsed : x.first + x.len ≤ rc + 1) :
    (c.mat.latched = none → (c.afterInterval x).SameEnds (c.intervalEnd rc)) ∧
      ∀ y, c.mat.latched = some y → ({ c.afterInterval x with
        mat := { (c.afterInterval x).mat with latched := none, running := some { y with first := rc + 1 } } } : Isle).SameEnds (c.intervalEnd rc) := by
  obtain ⟨_, latch, _⟩ := c.afterInterval_mat x
  rw [intervalEnd_eq hr elapsed, latch]
  refine ⟨fun h => ?_, fun y h => ?_⟩
  · simp only [h]
    exact ⟨rfl, rfl, rfl, rfl, rfl, rfl, rfl⟩
  · simp only [h]
    exact startX_ends { c.afterInterval x with mat := { (c.afterInterval x).mat with latched := none } } { y with first := rc + 1 }

/-- Settles O31: the ended word's effect, then the latched word's start. -/
theorem intervalEnds : Obligations.IntervalEnds := by
  intro s x hr elapsed
  obtain ⟨rest, ends⟩ := State.stageMuwr_rest { s with core := s.core.intervalEnd s.ctx.rcycle } (s.ctx.rcycle + 1)
  obtain ⟨idle, starts⟩ := Isle.intervalEnd_ends hr elapsed
  obtain ⟨running, _, done⟩ := s.core.afterInterval_mat x
  have tables : let t := (({ s with core := s.core.intervalEnd s.ctx.rcycle } : State).stageMuwr (s.ctx.rcycle + 1)).core
      t.mat.actset = (s.core.afterInterval x).mat.actset ∧ t.rtab = (s.core.afterInterval x).rtab ∧ t.ustore = (s.core.afterInterval x).ustore ∧
        t.late = (s.core.afterInterval x).late := by
    cases h : s.core.mat.latched with
    | none =>
      have all := (idle h).trans ends
      exact ⟨all.actset, all.rtab, all.ustore, all.late⟩
    | some y =>
      have all := (starts y h).trans ends
      exact ⟨all.actset, all.rtab, all.ustore, all.late⟩
  obtain ⟨actset, rtab, ustore, late⟩ := tables
  refine ⟨_, rfl, rest.of_core, fun h => ?_, fun y h => ?_, fun h => ?_, fun h => ?_, fun h => ?_, fun i w h => ?_, fun a d n h => ?_, fun k r h hr' hl => ?_⟩
  · have all := (idle h).trans ends
    exact ⟨all.running.trans running, all.done.trans done⟩
  · have all := (starts y h).trans ends
    exact ⟨all.latched, all.running⟩
  · rw [actset, Isle.afterInterval, h]
    rfl
  · rw [actset, Isle.afterInterval, h]
    rfl
  · rw [actset, Isle.afterInterval, h]
    rfl
  · rw [rtab, Isle.afterInterval, h]
  · rw [ustore, Isle.afterInterval, h]
  · rw [late, Isle.afterInterval_call h hr' hl]

end Sys2Proof.Machine
end

section
/-! PROOFS. The micro-sequencer's words: loads, the array, drains and commits, and words that wait for their unit -/

namespace Sys2Proof.Machine

/-! ## The micro-sequencer's attempt (R231) -/

section
variable {s : State} {r : Routine} {u : MuUnit} {ready : Routine → Bool} {body : Routine → Except MuFault (Nat × Routine)}

/-- The attempt succeeds: the word's effect, and its unit is busy for the word's duration. -/
theorem State.micro_of_ok {n : Nat} {t : Routine} (at_ : s.MuAt r u) (go : ready r = true) (hb : body { r with upc := r.upc + 1 } = .ok (n, t)) :
    s.micro u ready body = s.withRoutine (t.busy u (r.cycle + n)) := by
  obtain ⟨hr, running, free⟩ := at_
  have due : ¬ (r.returned || decide (r.cycle < r.free u) || !ready r) = true := by simp [running, free, go]
  rw [micro, hr]
  simp only [if_neg due, hb]
  rfl

/-- The attempt meets a fault. -/
theorem State.micro_of_error {f : MuFault} (at_ : s.MuAt r u) (go : ready r = true) (hb : body { r with upc := r.upc + 1 } = .error f) :
    s.micro u ready body = s.muFault r f := by
  obtain ⟨hr, running, free⟩ := at_
  have due : ¬ (r.returned || decide (r.cycle < r.free u) || !ready r) = true := by simp [running, free, go]
  rw [micro, hr]
  simp only [if_neg due, hb]

/-- The attempt waits. -/
theorem State.micro_of_waiting (hr : s.core.mat.routine = some r) (h : r.returned = true ∨ r.cycle < r.free u ∨ ready r = false) :
    s.micro u ready body = s := by
  have waits : (r.returned || decide (r.cycle < r.free u) || !ready r) = true := by
    obtain h | h | h := h <;> simp [h]
  rw [micro, hr]
  simp only [if_pos waits]

end

/-! ## Words of the micro-sequencer (R233, R235, R236) -/

theorem fld_zero_eq (x n : Nat) : fld x 0 n = x % 2 ^ n := by rw [fld, Nat.pow_zero, Nat.div_one]

/-- Settles O32: each word's effect on the routine. -/
theorem microSequencerWords : Obligations.MicroSequencerWords := by
  intro s r n x mp on set h at_ q runs m half moved
  have run {i : Instr} {body : Routine → Except MuFault (Nat × Routine)} {t : Routine} {k : Nat}
      (hx : exec i s = .next (s.micro .seq (fun _ => true) body)) (hb : body { r with upc := r.upc + 1 } = .ok (k, t)) :
      runs i { t with seqFree := r.cycle + k } := by
    change exec i s = _
    rw [hx, State.micro_of_ok at_ rfl hb]
    rfl
  refine ⟨run (k := n.toNat + 1) (t := { r with upc := r.upc + 1 }) rfl rfl, ?rows,
    run (k := 1) (t := { r with upc := r.upc + 1, dlim := m / 65536 % 8192 }) rfl rfl,
    run (k := 1) (t := { r with upc := r.upc + 1, xpose := on }) rfl rfl,
    run (k := 1) (t := { r with upc := r.upc + 1, mi := moved r.mi x.toNat }) rfl rfl,
    run (k := 1) (t := { r with upc := r.upc + 1, nj := moved r.nj x.toNat }) rfl rfl,
    run (k := 1) (t := { r with upc := r.upc + 1, ko := moved r.ko x.toNat }) rfl rfl,
    run (k := 1) (t := { r with upc := r.upc + 1, mi := moved r.mi half }) rfl rfl,
    run (k := 1) (t := { r with upc := r.upc + 1, nj := moved r.nj half }) rfl rfl,
    run (k := 1) (t := { r with upc := r.upc + 1, ko := moved r.ko half }) rfl rfl,
    fun shallow => ?loop, fun shallow some => ?loopMp, fun k u t top more => ?again, fun k u t top last => ?leave⟩
  case rows =>
    have low : fld m 0 13 = m % 8192 := fld_zero_eq m 13
    rw [← low]
    exact run (k := 1) (t := { r with upc := r.upc + 1, rlim := fld m 0 13, clim := m / 8192 % 8192 }) rfl rfl
  case loop =>
    exact run (k := 1) (t := { r with upc := r.upc + 1, loops := (n.toNat + 1, r.upc + 1) :: r.loops }) rfl ((if_neg (Nat.not_le.2 shallow)).trans rfl)
  case loopMp =>
    have low : fld m 0 16 = m % 65536 := fld_zero_eq m 16
    rw [← low] at some ⊢
    exact run (k := 1) (t := { r with upc := r.upc + 1, loops := (fld m 0 16, r.upc + 1) :: r.loops }) rfl
      ((if_neg (Nat.not_le.2 shallow)).trans (if_neg some))
  case again =>
    refine run (k := 1) (t := { r with upc := u, loops := (k - 1, u) :: t }) (i := .muEndl) rfl ?_
    simp only [top, if_pos more]
  case leave =>
    refine run (k := 1) (t := { r with upc := r.upc + 1, loops := t }) (i := .muEndl) rfl ?_
    simp only [top, if_neg (Nat.not_lt.2 last)]

/-! ## Words that wait (R231) -/

/-- CHK or RET waits for every unit. -/
theorem State.commitWord_of_waiting {s : State} {r : Routine} {ret : Bool} (hr : s.core.mat.routine = some r)
    (h : r.returned = true ∨ r.idle = false) : s.commitWord ret = s := by
  rw [commitWord, micro_of_waiting hr (h.imp_right .inr)]
  exact if_pos rfl

theorem Routine.idle_eq_false {r : Routine} {n : Nat} (hn : n ∈ [r.seqFree, r.loadFree, r.arrayFree, r.foldFree, r.drainFree])
    (h : r.cycle < n) : r.idle = false := by
  refine Bool.eq_false_iff.2 fun all => ?_
  have := of_decide_eq_true (List.all_eq_true.1 all n hn)
  omega

/-- Settles O36: a busy unit, or RET before the word, holds the attempt. -/
theorem microWaits : Obligations.MicroWaits := by
  intro s r n mp mpE slot a b adv on depth hr
  have waits {u : MuUnit} {ready : Routine → Bool} {body : Routine → Except MuFault (Nat × Routine)} {i : Instr}
      (h : r.returned = true ∨ r.cycle < r.free u ∨ ready r = false) (hx : exec i s = .next (s.micro u ready body)) : exec i s = .next s := by
    rw [hx, State.micro_of_waiting hr h]
  have busy {u : MuUnit} {ready : Routine → Bool} (h : r.returned = true ∨ r.cycle < r.free u) :
      r.returned = true ∨ r.cycle < r.free u ∨ ready r = false := h.imp_right .inl
  refine ⟨fun h => ?seq, fun h => ?load, fun h => ?array, fun h => ?drain⟩
  case seq => exact ⟨waits (u := .seq) (busy h) rfl, waits (u := .seq) (busy h) rfl, waits (u := .seq) (busy h) rfl, waits (u := .seq) (busy h) rfl⟩
  case load => exact ⟨waits (u := .load) (busy h) rfl, waits (u := .load) (busy h) rfl, waits (u := .load) (busy h) rfl, congrArg _ ((if_pos rfl).trans (State.micro_of_waiting (u := .load) hr (busy h)))⟩
  case array =>
    have fold : r.returned = true ∨ r.cycle < r.foldFree ∨ decide (r.arrayFree ≤ r.cycle) = false :=
      h.imp_right fun h => .inr (decide_eq_false (Nat.not_le.2 h))
    have chk : r.returned = true ∨ r.idle = false := h.imp_right (Routine.idle_eq_false (by simp))
    exact ⟨waits (u := .array) (busy h) rfl, waits (u := .fold) (ready := fun r => decide (r.arrayFree ≤ r.cycle)) fold rfl, congrArg _ (State.commitWord_of_waiting hr chk)⟩
  case drain =>
    have ret : r.returned = true ∨ r.idle = false := h.imp_right (Routine.idle_eq_false (by simp))
    exact ⟨waits (u := .drain) (busy h) rfl, waits (u := .drain) (busy h) rfl, congrArg _ (State.commitWord_of_waiting hr ret)⟩

/-! ## STEP, FOLD and ZERO (R231, R236, R237) -/

/-- What a STEP waits for beside its unit: its slot's loads, and a window that a FOLD is emptying (R231). -/
def Routine.stepReady (r : Routine) (slot : Fin 2) : Bool :=
  decide (r.loaded slot ≤ r.cycle) && (r.window.isSome || decide (r.foldEnd ≤ r.cycle))

/-- What a FOLD does in the cycle of its issue (R236). -/
def State.foldWord (s : State) (r : Routine) : Except MuFault (Nat × Routine) :=
  match r.window with
  | none => .error muIllegal
  | some w =>
    if (match r.lastKo with | some k => decide (w.ko ≤ k) | none => false) then .error muIllegal
    else
      match (if r.work.bind.isNone then { r with work := { bind := some r.bound } } else r).needAcc s with
      | .error f => .error f
      | .ok r =>
        match r.touch with
        | .error f => .error f
        | .ok r => .ok (4, r.folded w (r.upc - 1))

theorem exec_muFold (s : State) : exec .muFold s = .next (s.micro .fold (fun r => decide (r.arrayFree ≤ r.cycle)) s.foldWord) := rfl

theorem State.foldWord_of_window {s : State} {r r1 r2 : Routine} {w : Window} (window : r.window = some w) (rises : ∀ k, r.lastKo = some k → k < w.ko)
    (need : (if r.work.bind = none then { r with work := { bind := some r.bound } } else r).needAcc s = .ok r1) (touched : r1.touch = .ok r2) :
    s.foldWord r = .ok (4, r2.folded w (r2.upc - 1)) := by
  have later : ¬ (match r.lastKo with | some k => decide (w.ko ≤ k) | none => false) = true := by
    cases h : r.lastKo with
    | none => exact Bool.false_ne_true
    | some k =>
      have below := rises k h
      simpa using below
  have bound : (if r.work.bind.isNone then { r with work := { bind := some r.bound } } else r).needAcc s = .ok r1 := by
    simpa only [Option.isNone_iff_eq_none] using need
  rw [window] at bound
  rw [foldWord, window]
  refine (if_neg later).trans ?_
  rw [bound]
  simp only [touched]

/-- Settles O34: the window goes from STEP to FOLD, and the set is cleared by ZERO. -/
theorem microArrayWords : Obligations.MicroArrayWords := by
  intro s r adv slot hr running q dur
  refine ⟨fun array staged folded empty => ?step, fun array staged full => ?stepFull, fun w r1 r2 fold array window rises need touched => ?fold,
    fun fold array empty => ?foldEmpty, fun r1 fold zero => ?zero⟩
  case step =>
    have at_ : s.MuAt r .array := ⟨hr, running, array⟩
    have go : r.stepReady slot = true := by simp [Routine.stepReady, staged, folded]
    have clear : ¬ r.window.isSome = true := by rw [empty]; exact Bool.false_ne_true
    exact congrArg _ (State.micro_of_ok (n := dur) (t := { q with
      window := some (q.sums slot), stepSlot := slot.val, ko := if adv then (r.ko + r.kb) % 65536 else r.ko }) (ready := (·.stepReady slot))
      at_ go (if_neg clear))
  case stepFull =>
    have at_ : s.MuAt r .array := ⟨hr, running, array⟩
    have some : r.window.isSome = true := Option.isSome_iff_ne_none.2 full
    have go : r.stepReady slot = true := by simp [Routine.stepReady, staged, some]
    exact congrArg _ (State.micro_of_error (ready := (·.stepReady slot)) at_ go (if_pos some))
  case fold =>
    have at_ : s.MuAt r .fold := ⟨hr, running, fold⟩
    rw [exec_muFold]
    exact congrArg _ (State.micro_of_ok at_ (decide_eq_true array) (State.foldWord_of_window window rises need touched))
  case foldEmpty =>
    have at_ : s.MuAt r .fold := ⟨hr, running, fold⟩
    refine congrArg _ (State.micro_of_error at_ (decide_eq_true array) ?_)
    simp only [empty]
    rfl
  case zero =>
    have at_ : s.MuAt r .fold := ⟨hr, running, fold⟩
    refine congrArg _ ((if_neg Bool.false_ne_true).trans (State.micro_of_ok (n := 1) (t := r1) (ready := fun _ => true) at_ rfl ?_))
    have zero : ({ r with upc := r.upc + 1 } : Routine).zeroed [] = .ok r1 := zero
    rw [zero]
    rfl

/-! ## Loads (R231, R233, R234, R236, R243) -/

/-- What a load brings: what its sectors hold where none is uncorrectable, in a rerun what it brought before. -/
def Routine.Brings (r : Routine) (c : Isle) (reads : List (Nat × Nat × Nat)) (x y : Loaded) (t : List Loaded) : Prop :=
  (r.feed = [] ∧ c.spoiltIn reads = none ∧ y = x ∧ t = []) ∨ r.feed = y :: t

/-- A routine whose load has brought y. -/
def Routine.got (q : Routine) (y : Loaded) (t : List Loaded) : Routine := { q with loads := q.loads ++ [y], feed := t }

theorem Routine.deliver_of_brings {r : Routine} {c : Isle} {reads : List (Nat × Nat × Nat)} {x y : Loaded} {t : List Loaded}
    (h : r.Brings c reads x y t) : r.deliver c reads x = .ok (y, r.got y t) := by
  obtain ⟨empty, clean, rfl, rfl⟩ | again := h
  · have same : r.got y [] = { r with loads := r.loads ++ [y] } := by
      rw [got, ← empty]
    rw [same, deliver, empty]
    simp only [clean]
  · rw [deliver, again]
    rfl

theorem Routine.deliver_of_spoilt {r : Routine} {c : Isle} {reads : List (Nat × Nat × Nat)} {x : Loaded} {a : Nat} (empty : r.feed = [])
    (h : c.spoiltIn reads = some a) : r.deliver c reads x = .error (causeEcc, a) := by
  rw [deliver, empty]
  simp only [h]

/-- The panel that LDA reads of its operand, and the bytes that it touches. -/
def Routine.panelA (r : Routine) (o : Operand) : Loaded :=
  .panel { elems := panelOf r.kb fun i k => o.hdr.value o.mem o.base (r.mi + i) (r.ko + k), width := ((fmtOf o.hdr.efd).map (·.width)).getD 0
           sparse := o.hdr.sparse }
def Routine.readsA (r : Routine) (o : Operand) : List (Nat × Nat × Nat) := o.panelReads r.kb fun i k => o.hdr.reads o.base (r.mi + i) (r.ko + k)

/-- The panel that LDB reads, by columns. -/
def Routine.panelB (r : Routine) (o : Operand) : Loaded :=
  .panel { elems := panelOf r.kb fun j k => o.hdr.value o.mem o.base (r.ko + k) (r.nj + j), width := ((fmtOf o.hdr.efd).map (·.width)).getD 0
           sparse := o.hdr.sparse }
def Routine.readsB (r : Routine) (o : Operand) : List (Nat × Nat × Nat) := o.panelReads r.kb fun j k => o.hdr.reads o.base (r.ko + k) (r.nj + j)

theorem Routine.opA_srcA {r : Routine} {c : Isle} {o : Operand} (h : r.opA c = .ok o) : r.srcA c = .ok o ∧ o.paired 0 = .ok o := by
  rw [opA] at h
  cases hs : r.srcA c with
  | error f => rw [hs] at h; cases h
  | ok x =>
    rw [hs] at h
    have h : x.paired 0 = .ok o := h
    have same : x = o := by
      rw [Operand.paired] at h
      split at h
      · cases h
      · exact Except.ok.inj h
    exact ⟨by rw [same], same ▸ h⟩

theorem Routine.opB_srcB {r : Routine} {c : Isle} {res : Mem} {o : Operand} (h : r.opB c res = .ok o) : r.srcB c res = .ok o ∧ o.paired 1 = .ok o := by
  rw [opB] at h
  cases hs : r.srcB c res with
  | error f => rw [hs] at h; cases h
  | ok x =>
    rw [hs] at h
    have h : x.paired 1 = .ok o := h
    have same : x = o := by
      rw [Operand.paired] at h
      split at h
      · cases h
      · exact Except.ok.inj h
    exact ⟨by rw [same], same ▸ h⟩

/-- The factors of A, and the bytes that reading them touches. -/
def Routine.factorsA (r : Routine) (o : Operand) : Loaded := .scales (panelOf r.kb fun i k => o.hdr.factor o.mem o.base (r.mi + i) (r.ko + k))
def Routine.scaleReadsA (r : Routine) (o : Operand) : List (Nat × Nat × Nat) :=
  o.panelReads r.kb fun i k => o.hdr.scaleReads o.base (r.mi + i) (r.ko + k)

/-- The factors of B, by columns. -/
def Routine.factorsB (r : Routine) (o : Operand) : Loaded := .scales (panelOf r.kb fun j k => o.hdr.factor o.mem o.base (r.ko + k) (r.nj + j))
def Routine.scaleReadsB (r : Routine) (o : Operand) : List (Nat × Nat × Nat) :=
  o.panelReads r.kb fun j k => o.hdr.scaleReads o.base (r.ko + k) (r.nj + j)

/-- A routine whose staging slot has taken the scales of A, or of B. -/
def Routine.stagedA (q : Routine) (slot : Fin 2) (y : Loaded) : Routine := q.setStage slot ({ q.stage slot with sa := y.scales? } : Stage)
def Routine.stagedB (q : Routine) (slot : Fin 2) (y : Loaded) : Routine := q.setStage slot ({ q.stage slot with sb := y.scales? } : Stage)

theorem Routine.stagedA_cycle (q : Routine) (slot : Fin 2) (y : Loaded) : (q.stagedA slot y).cycle = q.cycle := by
  rw [stagedA, setStage]
  split <;> rfl

theorem Routine.stagedB_cycle (q : Routine) (slot : Fin 2) (y : Loaded) : (q.stagedB slot y).cycle = q.cycle := by
  rw [stagedB, setStage]
  split <;> rfl

theorem Routine.sclA_of_brings {r : Routine} {c : Isle} {slot : Fin 2} {o : Operand} {y : Loaded} {t : List Loaded}
    (h : r.Brings c (r.scaleReadsA o) (r.factorsA o) y t) : r.sclA c slot o = .ok ((r.got y t).stagedA slot y) := by
  change (r.deliver c (r.scaleReadsA o) (r.factorsA o)).map _ = _
  rw [deliver_of_brings h]
  rfl

theorem Routine.sclB_of_brings {r : Routine} {c : Isle} {slot : Fin 2} {o : Operand} {y : Loaded} {t : List Loaded}
    (h : r.Brings c (r.scaleReadsB o) (r.factorsB o) y t) : r.sclB c slot o = .ok ((r.got y t).stagedB slot y) := by
  change (r.deliver c (r.scaleReadsB o) (r.factorsB o)).map _ = _
  rw [deliver_of_brings h]
  rfl

theorem Routine.sclAB_of_ok {r : Routine} {c : Isle} {res : Mem} {slot : Fin 2} {o o' : Operand} (ha : r.opA c = .ok o) (hb : r.opB c res = .ok o') :
    r.sclAB c res slot = (r.sclA c slot o).bind fun r => r.sclB c slot o' := by
  obtain ⟨sa, pa⟩ := opA_srcA ha
  obtain ⟨sb, pb⟩ := opB_srcB hb
  rw [sclAB, sa, sb]
  simp only [pa, pb]

/-- Staging A's scales changes neither what B's are nor what a load brings. -/
theorem Routine.stagedA_scalesB (q : Routine) (slot : Fin 2) (y : Loaded) (o : Operand) :
    (q.stagedA slot y).scaleReadsB o = q.scaleReadsB o ∧ (q.stagedA slot y).factorsB o = q.factorsB o ∧ (q.stagedA slot y).feed = q.feed := by
  rw [stagedA, setStage]
  split <;> exact ⟨rfl, rfl, rfl⟩

theorem Routine.brings_stagedA {q : Routine} {c : Isle} {slot : Fin 2} {o : Operand} {y y' : Loaded} {t' : List Loaded}
    (h : q.Brings c (q.scaleReadsB o) (q.factorsB o) y' t') :
    (q.stagedA slot y).Brings c ((q.stagedA slot y).scaleReadsB o) ((q.stagedA slot y).factorsB o) y' t' := by
  obtain ⟨reads, factors, feed⟩ := q.stagedA_scalesB slot y o
  rw [Brings, reads, factors, feed]
  exact h

/-- What ZERO with LD = 1 does in the cycle of its issue (R236). -/
def State.zeroLoad (s : State) (r : Routine) : Except MuFault (Nat × Routine) :=
  if r.nj % 128 ≠ 0 then .error (8, 0x38)
  else
    let c := s.core.engineView
    match r.meetAcc c (s.ctx.image.foot .acb) with
    | .error f => .error f
    | .ok r =>
      let mp2 := r.call.arg 2
      let h := if r.held then r.acc.map fun w => Hdr.ofNat w.toNat else none
      let reads := match h with | some h => rowRanges mp2 h r.mi r.nj | none => []
      let rows := match h with | some h => loadRows c.acb mp2 h r.mi r.nj | none => []
      match r.deliver c reads (.rows rows) with
      | .error f => .error f
      | .ok x => (x.2.zeroed (x.1.rows?.getD [])).map fun r => (264, r)

theorem exec_muZero_load (s : State) : exec (.muZero true) s = .next (s.micro .load (fun _ => true) s.zeroLoad) := rfl

theorem Routine.meetAcc_arg {r r1 : Routine} {c : Isle} {foot : Nat} (h : r.meetAcc c foot = .ok r1) : r1.call = r.call := by
  have header {l : List Byte} {q : Routine} {a : Nat} (h : r.header c a = .ok (l, q)) : q.call = r.call := by
    rw [Routine.header, deliver] at h
    split at h
    · cases h; rfl
    · split at h
      · cases h
      · cases h; rfl
  unfold meetAcc at h
  split at h
  · cases h; rfl
  · dsimp only at h
    split at h
    · cases h
    · rename_i l q hq
      split at h
      · split at h
        · cases h
        · split at h
          · cases h
          · cases h
            have kept := header hq
            exact kept
      · cases h
        have kept := header hq
        exact kept

/-- ZERO with LD = 1 whose accumulator is met and whose rows are brought. -/
theorem State.zeroLoad_of_ok {s : State} {q r1 r2 : Routine} {k : Nat} {y : Loaded} {t : List Loaded} {h : Option Hdr} (aligned : q.nj % 128 = 0)
    (meet : q.meetAcc s.core.engineView (s.ctx.image.foot .acb) = .ok r1) (same : r1.call.arg 2 = k)
    (held : (if r1.held then r1.acc.map fun w => Hdr.ofNat w.toNat else none) = h)
    (brought : r1.deliver s.core.engineView ((h.map fun h => rowRanges k h r1.mi r1.nj).getD [])
      (.rows ((h.map fun h => loadRows s.core.engineView.acb k h r1.mi r1.nj).getD [])) = .ok (y, r1.got y t))
    (zeroed : (r1.got y t).zeroed (y.rows?.getD []) = .ok r2) : s.zeroLoad q = .ok (264, r2) := by
  rw [zeroLoad, if_neg (Decidable.not_not.2 aligned)]
  simp only [meet, same, held]
  cases h with
  | none =>
    have brought : r1.deliver s.core.engineView [] (.rows []) = .ok (y, r1.got y t) := brought
    simp only [brought, zeroed]
    rfl
  | some h =>
    have brought : r1.deliver s.core.engineView (rowRanges k h r1.mi r1.nj) (.rows (loadRows s.core.engineView.acb k h r1.mi r1.nj)) =
      .ok (y, r1.got y t) := brought
    simp only [brought, zeroed]
    rfl

/-- Settles O33: each load by what it brings (`Routine.deliver_of_brings`). -/
theorem microLoads : Obligations.MicroLoads := by
  intro s r slot at_ q runs width c brings got stagedA stagedB scalesA scalesB
  have run {i : Instr} {ready : Routine → Bool} {body : Routine → Except MuFault (Nat × Routine)} {t : Routine} {k : Nat}
      (hx : exec i s = .next (s.micro .load ready body)) (go : ready r = true) (hb : body q = .ok (k, t)) :
      exec i s = .next (s.withRoutine { t with loadFree := r.cycle + k }) := by
    rw [hx, State.micro_of_ok at_ go hb]
    rfl
  have scl {i : Instr} {e : Routine → Except MuFault Routine} {t : Routine} (idle : r.slotIdle slot = true)
      (hx : exec i s = .next (s.micro .load (·.slotIdle slot) fun r => (e r).map fun r => (1, r.loading slot (r.cycle + 1)))) (hb : e q = .ok t)
      (cycle : t.cycle = r.cycle) : runs i 1 (t.loading slot (r.cycle + 1)) := by
    refine run (k := 1) hx idle ?_
    rw [hb, ← cycle]
    rfl
  have cycleA (q : Routine) (slot : Fin 2) (y : Loaded) : (q.stagedA slot y).cycle = q.cycle := q.stagedA_cycle slot y
  have cycleB (q : Routine) (slot : Fin 2) (y : Loaded) : (q.stagedB slot y).cycle = q.cycle := q.stagedB_cycle slot y
  refine ⟨fun o y t n op idle hn h => ?lda, fun o y t n op idle hn h => ?ldb, fun o y t op idle h => ?sclA, fun o y t op idle h => ?sclB,
    fun o o' y y' t t' opA opB idle ha hb => ?sclAB, fun idle => ?sclNone, fun r1 r2 y t aligned meet => ?zero, fun o a empty op idle spoilt => ?lost⟩
  case lda =>
    subst hn
    refine run (ready := (·.slotIdle slot)) rfl idle ?_
    have op : q.opA s.core.engineView = .ok o := op
    have bring : q.deliver s.core.engineView (q.readsA o) (q.panelA o) = .ok (y, q.got y t) := Routine.deliver_of_brings h
    dsimp only
    rw [op]
    change Except.map _ (q.deliver s.core.engineView (q.readsA o) (q.panelA o)) = _
    rw [bring]
    rfl
  case ldb =>
    subst hn
    refine run (ready := (·.slotIdle slot)) rfl idle ?_
    have op : q.opB s.core.engineView s.residentArea = .ok o := op
    have bring : q.deliver s.core.engineView (q.readsB o) (q.panelB o) = .ok (y, q.got y t) := Routine.deliver_of_brings h
    dsimp only
    rw [op]
    change Except.map _ (q.deliver s.core.engineView (q.readsB o) (q.panelB o)) = _
    rw [bring]
    rfl
  case sclA =>
    refine scl (e := fun q => (q.opA c).bind (q.sclA c slot)) idle rfl ?_ (cycleA _ _ _)
    simp only [op]
    exact Routine.sclA_of_brings h
  case sclB =>
    refine scl (e := fun q => (q.opB c s.residentArea).bind (q.sclB c slot)) idle rfl ?_ (cycleB _ _ _)
    simp only [op]
    exact Routine.sclB_of_brings h
  case sclAB =>
    refine scl (e := fun q => q.sclAB c s.residentArea slot) idle rfl ?_ ((cycleB _ _ _).trans (cycleA _ _ _))
    have first : q.sclA c slot o = .ok ((q.got y t).stagedA slot y) := Routine.sclA_of_brings ha
    simp only [Routine.sclAB_of_ok opA opB, first]
    exact Routine.sclB_of_brings (Routine.brings_stagedA hb)
  case sclNone => exact scl (e := .ok) idle rfl rfl rfl
  case zero =>
    intro h bring zeroed
    refine run (k := 264) (exec_muZero_load s) rfl ?_
    have same : r1.call = q.call := Routine.meetAcc_arg meet
    have brought : r1.deliver c ((h.map fun h => rowRanges (r.call.arg 2) h r1.mi r1.nj).getD [])
        (.rows ((h.map fun h => loadRows c.acb (r.call.arg 2) h r1.mi r1.nj).getD [])) = .ok (y, r1.got y t) := Routine.deliver_of_brings bring
    exact State.zeroLoad_of_ok aligned meet (congrArg (fun k : Call => k.arg 2) same) rfl brought zeroed
  case lost =>
    have at_ := at_
    have op : q.opA s.core.engineView = .ok o := op
    have bring : q.deliver s.core.engineView (q.readsA o) (q.panelA o) = .error (causeEcc, a) := Routine.deliver_of_spoilt empty spoilt
    refine congrArg _ ((State.micro_of_error (ready := (·.slotIdle slot)) (f := (causeEcc, a)) at_ idle ?_).trans (if_pos rfl))
    change (match q.opA s.core.engineView with | .error f => _ | .ok o => _) = _
    rw [op]
    change Except.map _ (q.deliver s.core.engineView (q.readsA o) (q.panelA o)) = _
    rw [bring]
    rfl

/-! ## Drains (R238, R239) -/

/-- Reading a header changes no part of the routine but what its loads have brought. -/
theorem Routine.header_eq {r q : Routine} {c : Isle} {a : Nat} {l : List Byte} (h : r.header c a = .ok (l, q)) :
    ∃ l f, q = { r with loads := l, feed := f } := by
  rw [header, deliver] at h
  split at h
  · cases h; exact ⟨_, _, rfl⟩
  · split at h
    · cases h
    · cases h; exact ⟨_, _, rfl⟩

theorem Routine.drainBound_eq {r w : Routine} {c : Isle} {b : Binding} {a : Hdr} (h : r.drainBound c = .ok (b, a, w)) :
    ∃ l f, w = { r with loads := l, feed := f } := by
  rw [drainBound] at h
  split at h
  · cases h
  · split at h
    · cases h
    · rename_i x l q hq
      dsimp only at h
      split at h
      · cases h
        exact header_eq hq
      · cases h

theorem Routine.drainLook_eq {r w : Routine} {c : Isle} {n : Nat} {copy : Bool} {t : StreamReg} {b : Binding} {g : Hdr}
    (h : r.drainLook c n copy = .ok (t, b, g, w)) : ∃ l f, w = { r with loads := l, feed := f } := by
  rw [drainLook] at h
  generalize (if copy then 3 else 0) = kind at h
  split at h
  · cases h
  · dsimp only at h
    rw [ite_eq_iff] at h
    obtain ⟨_, h⟩ | ⟨_, h⟩ := h
    · cases h
    rw [ite_eq_iff] at h
    obtain ⟨_, h⟩ | ⟨_, h⟩ := h
    · cases h
    rw [ite_eq_iff] at h
    obtain ⟨_, h⟩ | ⟨_, h⟩ := h
    · cases h
    split at h
    · cases h
    · rename_i x y z hq
      rw [ite_eq_iff] at h
      obtain ⟨_, h⟩ | ⟨_, h⟩ := h
      · cases h
      rw [ite_eq_iff] at h
      obtain ⟨_, h⟩ | ⟨_, h⟩ := h
      · cases h
      cases h
      exact drainBound_eq hq

theorem Routine.boundHdr_eq {r q : Routine} {c : Isle} {h : Option Hdr} (hb : r.boundHdr c = .ok (h, q)) :
    ∃ l f, q = { r with loads := l, feed := f } := by
  rw [boundHdr] at hb
  split at hb
  · cases hb; exact ⟨_, _, rfl⟩
  · split at hb
    · cases hb; exact ⟨_, _, rfl⟩
    · rename_i b _ _
      cases hh : r.header c b.acc with
      | error f => rw [hh] at hb; cases hb
      | ok x =>
        rw [hh] at hb
        have same := header_eq (l := x.1) (q := x.2) hh
        cases hb
        exact same

theorem Routine.buffer_of_room {r : Routine} {n : Nat} (room : r.segment.size + n ≤ 294912) :
    r.buffer n = .ok { r with segment := { r.segment with size := r.segment.size + n } } := if_neg (Nat.not_lt.2 room)

/-- An event enters a segment's list and leaves the rest of it. -/
theorem Segment.event_eq (g : Segment) (k : EvKind) (elem upc : Nat) : g.event k elem upc = { g with events := (g.event k elem upc).events } := by
  rw [event]
  split
  · split <;> rfl
  · rfl

/-- The values of a set's row, as a drain looks them up: a row that the set does not list is zero. -/
theorem AccSet.find_values (t : AccSet) (i j : Nat) :
    (match (t.rows.map fun v => (v.1, v.2.values)).find? (·.1 == i) with | some v => v.2.getD j (.fin false 0 0) | none => .fin false 0 0) =
      (t.row i).values.getD j (.fin false 0 0) := by
  rw [List.find?_map, row, show ((·.1 == i) ∘ fun v : Nat × AccRow => (v.1, v.2.values)) = (·.1 == i) from rfl]
  cases t.rows.find? (·.1 == i) with
  | some v => rfl
  | none =>
    have zero : AccRow.zero.values = List.replicate 128 (.fin false 0 0) := by
      rw [AccRow.values, AccRow.zero]
      rfl
    change _ = AccRow.zero.values.getD j _
    rw [zero, List.getD_eq_getElem?_getD, List.getElem?_getD_replicate_default_eq]
    rfl

theorem Segment.foldl_keeps {β : Type} {step : Segment → β → Segment} (h : ∀ g x, (step g x).writes = g.writes ∧ (step g x).failed = g.failed)
    (l : List β) (g : Segment) : (l.foldl step g).writes = g.writes ∧ (l.foldl step g).failed = g.failed := by
  induction l generalizing g with
  | nil => exact ⟨rfl, rfl⟩
  | cons x l ih =>
    obtain ⟨writes, failed⟩ := ih (step g x)
    obtain ⟨writes', failed'⟩ := h g x
    exact ⟨writes.trans writes', failed.trans failed'⟩

theorem Segment.event_keeps (g : Segment) (k : EvKind) (elem upc : Nat) :
    (g.event k elem upc).writes = g.writes ∧ (g.event k elem upc).failed = g.failed := by
  rw [event_eq]
  exact ⟨rfl, rfl⟩

theorem sharedExp_of_shared {free : W64} {l : List Int} {y : Int} (some : l ≠ []) (all : ∀ x ∈ l, x = y) : sharedExp free l = y := by
  cases l with
  | nil => exact absurd rfl some
  | cons x t =>
    obtain rfl := all x (by simp)
    exact if_pos (List.all_eq_true.2 fun z hz => by simpa using all z (by simp [hz]))

/-- A drain's elements buffered: a write and, where the conversion has one, an event for each (R238, R242). -/
def Routine.buffered (r : Routine) (b : Buf) (h : Hdr) (f : Fmt) (base : Nat) (l : List ((Nat × Nat) × (Nat × Nat)))
    (elem : (Nat × Nat) × (Nat × Nat) → Elem) (unsound : Bool) : Routine :=
  let out := l.map fun e => (e, elem e)
  let writes := out.map fun o =>
    let (a, off, n) := h.elemAt f base o.1.2.1 o.1.2.2
    Eff.storeBits b a off n o.2.1
  let seg := out.foldl (fun (g : Segment) o => match o.2.2 with
    | some k => g.event k (o.1.1.1 * 128 + o.1.1.2) (r.upc - 1)
    | none => g) r.segment
  { r with segment := { seg with writes := seg.writes ++ writes, failed := seg.failed || unsound } }

theorem Routine.buffered_eq (r : Routine) (b : Buf) (h : Hdr) (f : Fmt) (base : Nat) (l : List ((Nat × Nat) × (Nat × Nat)))
    (elem : (Nat × Nat) × (Nat × Nat) → Elem) (unsound : Bool) :
    r.buffered b h f base l elem unsound = { r with segment := { l.foldl (fun (g : Segment) e => match (elem e).2 with
        | some k => g.event k (e.1.1 * 128 + e.1.2) (r.upc - 1)
        | none => g) r.segment with
      writes := r.segment.writes ++ l.map fun e =>
        Eff.storeBits b (h.elemAt f base e.2.1 e.2.2).1 (h.elemAt f base e.2.1 e.2.2).2.1 (h.elemAt f base e.2.1 e.2.2).2.2 (elem e).1
      failed := r.segment.failed || unsound } } := by
  obtain ⟨writes, failed⟩ := Segment.foldl_keeps (step := fun (g : Segment) e => match (elem e).2 with
    | some k => g.event k (e.1.1 * 128 + e.1.2) (r.upc - 1)
    | none => g) (fun g x => by split <;> simp [Segment.event_keeps]) l r.segment
  rw [← writes, ← failed]
  unfold buffered
  simp only [List.foldl_map, List.map_map]
  rfl

/-! ## CHK and RET (R231, R241, R242) -/

theorem Routine.idle_of_free {r : Routine} (seq : r.seqFree ≤ r.cycle) (load : r.loadFree ≤ r.cycle) (array : r.arrayFree ≤ r.cycle)
    (fold : r.foldFree ≤ r.cycle) (drain : r.drainFree ≤ r.cycle) : r.idle = true := by
  simp [idle, seq, load, array, fold, drain]

/-- CHK or RET on a routine whose units are idle: its effect, and the checkpoint from which the next segment starts. -/
theorem State.commitWord_of_ok {s : State} {r t : Routine} {n : Nat} {ret : Bool} (hr : s.core.mat.routine = some r) (running : r.returned = false)
    (idle : r.idle = true) (fold : r.foldFree ≤ r.cycle) (moved : t.upc ≠ r.upc)
    (hb : ({ r with upc := r.upc + 1 } : Routine).commitWord s.core.mat.actset s.core.engineView ret = .ok (n, t)) :
    s.commitWord ret = s.onCore fun d => { d with mat := { d.mat with
      chk := some ({ t with foldFree := r.cycle + n } : Routine).opening, past := t.loads
      routine := some { t with foldFree := r.cycle + n, loads := [] } } } := by
  rw [commitWord, micro_of_ok (u := .fold) (ready := (·.idle)) ⟨hr, running, fold⟩ idle hb]
  refine (if_neg ?_).trans rfl
  rw [hr]
  exact fun h => moved (Option.some.inj h)

/-- Settles O35. -/
theorem microDrainsAndCommits : Obligations.MicroDrainsAndCommits := by
  refine ⟨fun s r mp mpE at_ => ?drains, fun s r hr running => ?commits, fun r act h => ⟨fun clean => ?clean, fun dirty => ?dirty⟩⟩
  case clean => simp [Routine.close, clean]
  case dirty => simp [Routine.close, dirty]
  case commits =>
    intro c seq load array fold drain aligned n h q bound g w runs
    have whole : ¬ (r.segment.dirty = true ∧ ((r.work.bind.map (·.nj)).getD 0) % 128 ≠ 0) := by
      rintro ⟨dirty, odd⟩
      cases hb : r.work.bind with
      | none => rw [hb] at odd; exact odd rfl
      | some b => rw [hb] at odd; exact odd (aligned dirty b hb)
    have same : ∃ l f, q = { ({ r with upc := r.upc + 1 } : Routine) with loads := l, feed := f } := by
      split at bound
      · exact Routine.boundHdr_eq bound
      · cases bound; exact ⟨_, _, rfl⟩
    have word (ret : Bool) : s.commitWord ret = s.onCore fun d =>
        { d with mat := { d.mat with chk := some (w ret).opening, past := q.loads, routine := some { w ret with loads := [] } } } := by
      obtain ⟨l, f, rfl⟩ := same
      refine State.commitWord_of_ok (n := n) (t := { w ret with foldFree := r.foldFree }) hr running (Routine.idle_of_free seq load array fold drain) fold
        (Nat.succ_ne_self _) ?_
      rw [Routine.commitWord, if_neg whole]
      dsimp only
      rw [bound]
      rfl
    exact ⟨congrArg _ (word false), congrArg _ (word true)⟩
  case drains =>
    intro q n runs c d fails
    have run {i : Instr} {body : Routine → Except MuFault (Nat × Routine)} {t : Routine} {k : Nat}
        (hx : exec i s = .next (s.micro .drain (fun _ => true) body)) (hb : body q = .ok (k, t)) :
        runs i { t with drainFree := r.cycle + k } := by
      change exec i s = _
      rw [hx, State.micro_of_ok at_ rfl hb]
      rfl
    have low : fld (q.arg mp) 0 4 = n := fld_zero_eq _ 4
    refine ⟨fun t b h w look => ?drain, fun t b h w look => ?drnc, fun t b a w ws bound room => ?hdr⟩
    case drain =>
      intro f size x rc elem l g writes room
      obtain ⟨loads, feed, rfl⟩ := Routine.drainLook_eq look
      refine run (k := 128) (t := { q with loads := loads, feed := feed, segment := { g with writes := r.segment.writes ++ writes, failed := fails } }) rfl ?_
      dsimp only
      rw [low, look]
      dsimp only
      have space : ({ q with loads := loads, feed := feed } : Routine).buffer (128 * ceilDiv (128 * f.width) 8) =
          .ok { q with loads := loads, feed := feed, segment := { q.segment with size := size } } := Routine.buffer_of_room room
      rw [space]
      refine congrArg (fun t : Routine => Except.ok (128, t)) (Eq.trans (b := Routine.buffered
        { q with loads := loads, feed := feed, segment := { q.segment with size := size } } t.buf h f t.base l elem (!d.sound)) ?_ (Routine.buffered_eq ..))
      refine congrArg (Routine.buffered _ t.buf h f t.base l · (!d.sound)) (funext fun e => ?_)
      have value := AccSet.find_values d e.1.1 e.1.2
      have rm : (match fld (q.arg mp) 4 2 with | 0 => Rm.rne | 1 => .rtz | 2 => .rna | _ => .sr) = [Rm.rne, .rtz, .rna, .sr].getD (x / 16 % 4) .sr := by
        change (match x / 16 % 4 with | 0 => Rm.rne | 1 => .rtz | 2 => .rna | _ => .sr) = _
        have := Nat.mod_lt (x / 16) (show 4 > 0 by decide)
        interval_cases x / 16 % 4 <;> rfl
      have sat : bit (q.arg mp) 6 = x.testBit 6 := by
        rw [bit, Nat.testBit_eq_decide_div_mod_eq]
        rfl
      exact congr (congrArg (convert f) value) (congrArg₂ (fun rm sat => ({ rm := rm, sat := sat, r := _ } : RMode)) rm sat)
    case drnc =>
      intro l group sig room
      obtain ⟨loads, feed, rfl⟩ := Routine.drainLook_eq look
      let shared (g : Nat × Nat) : Int := sharedExp (s.callFree (1024 + r.cycle * 128 + g.1 % 128))
        ((l.filter fun e => e.2.1 == g.1 && e.2.2 / 128 == g.2).map fun e => (d.row e.1.1).e)
      refine ⟨shared, fun g y some all => ?shared, ?word⟩
      case shared =>
        obtain ⟨e, he, at_⟩ := some
        refine sharedExp_of_shared (List.ne_nil_of_mem (List.mem_map.2 ⟨e, List.mem_filter.2 ⟨he, by simp [← at_]⟩, rfl⟩)) fun x hx => ?_
        obtain ⟨e', he', rfl⟩ := List.mem_map.1 hx
        obtain ⟨mem, same⟩ := List.mem_filter.1 he'
        exact all e' mem (by simpa [Prod.ext_iff] using same)
      case word =>
        refine run (k := 128) (t := { q with
          loads := loads, feed := feed
          segment := { r.segment with
            size := r.segment.size + 135168, failed := fails
            writes := r.segment.writes ++ sig ++ (l.map fun e => (e.2.1, e.2.2 / 128)).dedup.map fun g =>
              Eff.store t.buf (place (group g.1 g.2) (toLe 2 (wrap (shared g) 16))) } }) rfl ?_
        dsimp only
        rw [low, look]
        dsimp only
        have space : ({ q with loads := loads, feed := feed } : Routine).buffer (128 * 1056) =
            .ok { q with loads := loads, feed := feed, segment := { q.segment with size := r.segment.size + 135168 } } := Routine.buffer_of_room room
        rw [space]
        dsimp only
        simp only [Nat.mul_div_cancel _ (show 0 < 128 by decide)]
        rfl
    case hdr =>
      intro h hh writable inside
      obtain ⟨loads, feed, rfl⟩ := Routine.drainBound_eq bound
      refine run (k := 1) (t := { q with
        loads := loads, feed := feed
        st := r.st.set n { t with tscale := h.tscale, moff := h.moff, soff := h.soff, doff := h.doff, stride := h.stride, cols := h.cols
                                  rows := h.rows, kind := h.kind, geom := h.geom, efd := h.efd }
        segment := { r.segment with
          size := r.segment.size + 32, writes := r.segment.writes ++ [.store t.buf (place t.base h.image)] } }) rfl ?_
      dsimp only
      have efd : fld (({ q with loads := loads, feed := feed } : Routine).arg mpE) 8 24 = r.call.arg mpE.val / 256 % 2 ^ 24 := rfl
      rw [low, ws]
      dsimp only
      rw [bound]
      dsimp only
      rw [efd, ← hh, writable]
      dsimp only
      have space : ({ q with loads := loads, feed := feed } : Routine).buffer 32 =
          .ok { q with loads := loads, feed := feed, segment := { q.segment with size := r.segment.size + 32 } } := Routine.buffer_of_room room
      rw [if_neg (Nat.not_lt.2 inside), space]

end Sys2Proof.Machine
end

section
/-! PROOFS. Slot N and the network, the traps before issue of slots V and N, and slot D -/

namespace Sys2Proof.Machine

/-! ## Routes in the region (R275, R279) -/

theorem State.inside_iff {s : State} {x y : Int} : s.inside x y = true ↔ (0 ≤ x ∧ x < s.ctx.image.w) ∧ 0 ≤ y ∧ y < s.ctx.image.h := by
  simp only [inside, Bool.and_eq_true, decide_eq_true_eq, and_assoc]

/-- A leg whose isles all lie in the region reaches its end. -/
theorem State.walkLeg_of_inside {s : State} {d : Dir} {sx sy : Int} (step : ∀ x y, d.step x y = (x + sx, y + sy)) {n : Nat} {x y : Int}
    (h : ∀ k : Nat, 0 < k → k ≤ n → s.inside (x + k * sx) (y + k * sy) = true) : s.walkLeg d n (x, y) = (none, (x + n * sx, y + n * sy)) := by
  induction n generalizing x y with
  | zero => simp [walkLeg]
  | succ n ih =>
    have first := h 1 Nat.one_pos (by omega)
    have rest := ih (x := x + sx) (y := y + sy) fun k pos le => by
      have := h (k + 1) (by omega) (by omega)
      convert this using 2 <;> push_cast <;> ring
    simp only [Nat.cast_one, one_mul] at first
    simp only [walkLeg, step, first, if_true, rest]
    congr 2 <;> push_cast <;> ring

/-- A horizontal leg inside the region. -/
theorem State.walkLeg_horizontal {s : State} {x y dx : Int} (from_ : s.inside x y = true) (dest : s.inside (x + dx) y = true) :
    s.walkLeg (if 0 < dx then .e else .w) dx.natAbs (x, y) = (none, (x + dx, y)) := by
  obtain ⟨⟨x0, xw⟩, row⟩ := inside_iff.1 from_
  obtain ⟨⟨x0', xw'⟩, _⟩ := inside_iff.1 dest
  split
  next pos =>
    rw [walkLeg_of_inside (sx := 1) (sy := 0) (fun x y => by simp [Dir.step]) fun k _ le => inside_iff.2 ⟨by omega, by simpa using row⟩]
    simp only [mul_one, mul_zero, add_zero]
    congr 3; omega
  next neg =>
    rw [walkLeg_of_inside (sx := -1) (sy := 0) (fun x y => by simp [Dir.step, Int.sub_eq_add_neg]) fun k _ le =>
      inside_iff.2 ⟨by omega, by simpa using row⟩]
    simp only [mul_zero, add_zero]
    congr 3; omega

/-- A vertical leg inside the region. -/
theorem State.walkLeg_vertical {s : State} {x y dy : Int} (from_ : s.inside x y = true) (dest : s.inside x (y + dy) = true) :
    s.walkLeg (if 0 < dy then .s else .n) dy.natAbs (x, y) = (none, (x, y + dy)) := by
  obtain ⟨col, y0, yh⟩ := inside_iff.1 from_
  obtain ⟨_, y0', yh'⟩ := inside_iff.1 dest
  split
  next pos =>
    rw [walkLeg_of_inside (sx := 0) (sy := 1) (fun x y => by simp [Dir.step]) fun k _ le => inside_iff.2 ⟨by simpa using col, by omega⟩]
    simp only [mul_one, mul_zero, add_zero]
    congr 3; omega
  next neg =>
    rw [walkLeg_of_inside (sx := 0) (sy := -1) (fun x y => by simp [Dir.step, Int.sub_eq_add_neg]) fun k _ le =>
      inside_iff.2 ⟨by simpa using col, by omega⟩]
    simp only [mul_zero, add_zero]
    congr 3; omega

/-- A route whose legs end inside the region leaves it nowhere. -/
theorem State.leaves_of_inside {s : State} {dx dy : Int} (from_ : s.inside s.core.px s.core.py = true)
    (dest : s.inside (s.core.px + dx) (s.core.py + dy) = true) :
    s.leaves (if 0 < dx then .e else .w) dx.natAbs (if 0 < dy then .s else .n) dy.natAbs = none := by
  have corner : s.inside (s.core.px + dx) s.core.py = true := inside_iff.2 ⟨(inside_iff.1 dest).1, (inside_iff.1 from_).2⟩
  simp only [leaves, walkLeg_horizontal from_ corner, walkLeg_vertical corner dest]

theorem State.leaves_one (s : State) (d : Dir) :
    s.leaves d 1 d 0 = if s.inside (d.step s.core.px s.core.py).1 (d.step s.core.px s.core.py).2 then none else some d := by
  simp only [leaves, walkLeg]
  cases s.inside (d.step s.core.px s.core.py).1 (d.step s.core.px s.core.py).2 <;> rfl

/-! ## The words of slot N (R273-R285) -/

section
variable {s : State} {i : Instr} {p : Pred} {b : State → State} {t : State}

/-- A word of slot N answers with its effect; it holds no class cycle (R378). -/
theorem State.gives_of_effectN (hs : s.slot = .N) (hp : i.pred? = some p) (hx : exec i s = .next (s.issue i p b)) (kept : t.slot = s.slot)
    (effect : b s = t) : s.Gives i t := by
  subst effect
  have ctl : (b s).slot.cls = .ctl := by rw [kept, hs]; rfl
  intro hi
  rw [hx, issue_ctl b hi hp ctl]

end

/-- The words that a send puts on the network, and nothing else that a program sees. -/
structure State.Sent (s t : State) (l : List Trav) : Prop where
  slot : t.slot = s.slot
  words : t.ctx.words = s.ctx.words ++ l
  seq : t.seq = s.seq + l.length
  core : ∃ perf, t.core = { s.core with perf := perf }
  rest : s.SameRest t

section
variable {s t u : State} {l m : List Trav} {w : NWord} {k : Cargo} {d1 d2 : Dir} {n1 n2 : Nat} {g : GReg}

theorem State.Sent.refl (s : State) : s.Sent s [] :=
  { slot := rfl, words := by simp, seq := rfl, core := ⟨s.core.perf, rfl⟩, rest := by constructor <;> rfl }

/-- One word sent, and its event counted (R275, R387). -/
theorem State.Sent.launchWord (h : s.Sent t l) :
    s.Sent (({ t with core := t.core.count 0x05 1 } : State).launchWord w k d1 n1 d2 n2 g) (l ++ [s.firstHop w k d1 n1 d2 n2 g (s.seq + l.length)]) := by
  obtain ⟨slot, words, seq, ⟨perf, core⟩, rest⟩ := h
  obtain ⟨_, _, _, _, rcycle, _, _, _, _, image, _, _, _, _, _, _, _, _, _, _⟩ := rest
  have px : t.core.px = s.core.px := by rw [core]
  have py : t.core.py = s.core.py := by rw [core]
  refine { slot := slot, words := ?_, seq := ?_, core := ?_, rest := ?_ }
  · change t.ctx.words ++ [t.firstHop w k d1 n1 d2 n2 g t.seq] = _
    rw [words, seq, List.append_assoc, firstHop, firstHop, px, py, rcycle, hop, hop, lat, image]
    rfl
  · change t.seq + 1 = _
    rw [seq, List.length_append]
    rfl
  · exact ⟨_, by change Isle.count t.core 5 1 = _; rw [core, Isle.count]⟩
  · constructor <;> assumption

/-- A word of slot N that sends. -/
theorem State.Sent.gives {i : Instr} {p : Pred} {b : State → State} (hs : s.slot = .N) (hp : i.pred? = some p) (hx : exec i s = .next (s.issue i p b))
    (h : s.Sent (b s) l) : ∃ t, s.Gives i t ∧ t.ctx.words = s.ctx.words ++ l ∧ t.seq = s.seq + l.length ∧
      s.core.SameArch t.core ∧ t.core.flights = s.core.flights ∧ s.SameRest t := by
  obtain ⟨slot, words, seq, ⟨perf, core⟩, rest⟩ := h
  refine ⟨b s, gives_of_effectN hs hp hx slot rfl, words, seq, ?_, ?_, rest⟩
  · rw [core]
    constructor <;> rfl
  · rw [core]

/-- One direction of a broadcast (R284). -/
theorem State.Sent.copy (h : s.Sent t l) (d : Dir) : s.Sent
    (if t.beyond d = 0 then t else ({ t with core := t.core.count 0x05 1 } : State).launchWord w .copies d (t.beyond d) d 0 (.a 0))
    (l ++ if s.beyond d = 0 then [] else [s.firstHop w .copies d (s.beyond d) d 0 (.a 0) (s.seq + l.length)]) := by
  have same : t.beyond d = s.beyond d := by
    obtain ⟨_, _, _, ⟨perf, core⟩, rest⟩ := h
    have image := rest.image
    cases d <;> simp only [beyond, core, image]
  rw [same]
  split
  · rwa [List.append_nil]
  · exact h.launchWord

end

/-- The half of a register that a send takes (R273). -/
theorem State.half_eq (s : State) (v : Fin 32) (h : Bool) :
    s.half v h = { data := s.core.v[v].extractLsb' (if h then 1024 else 0) 1024, tag := s.core.tag[v] } := by
  rw [half]
  congr 1
  refine BitVec.eq_of_getLsbD_eq fun k hk => ?_
  cases h
  · simp [hk, BitVec.getLsbD_extractLsb']
  · simp [hk, BitVec.getLsbD_setWidth, BitVec.getLsbD_ushiftRight]

/-- The mask of the low n bits. -/
theorem lowMask_eq (n w : Nat) : (BitVec.allOnes n).setWidth w = BitVec.ofNat w (2 ^ n - 1) := by
  refine BitVec.eq_of_getLsbD_eq fun k hk => ?_
  rw [BitVec.getLsbD_setWidth, BitVec.getLsbD_ofNat, Nat.testBit_two_pow_sub_one, BitVec.getLsbD_allOnes]

/-- The fields of NRMT's reference (R285). -/
theorem fld_extract (w : W64) (lo n : Nat) : fld w.toNat lo n = (w.extractLsb' lo n).toNat := by
  rw [fld, BitVec.extractLsb'_toNat, Nat.shiftRight_eq_div_pow]

theorem sext_toInt {n : Nat} (x : BitVec n) (pos : 0 < n) : sext x.toNat n = x.toInt := by
  obtain ⟨m, rfl⟩ : ∃ m, n = m + 1 := ⟨n - 1, by omega⟩
  have small : x.toNat < 2 ^ (m + 1) := x.isLt
  have half : 2 * x.toNat < 2 ^ (m + 1) ↔ x.toNat < 2 ^ m := by rw [pow_succ]; omega
  simp only [sext, Nat.mod_eq_of_lt small, BitVec.toInt_eq_toNat_cond, Nat.add_sub_cancel, half]
  push_cast
  rfl

/-- NRMT whose reference is well formed, whose word lies in the footprint and whose target lies in the region (R285). -/
theorem State.nrmt_of_ok {s : State} {p : Pred} {op : AtomOp} {g : GReg} {ba bv : Fin 32} {u : Buf} {a : Nat} {dx dy : Int} {ref : W64}
    (hr : ref = s.core.rdB ba) (ha : a = (ref.extractLsb' 0 24).toNat) (hx : dx = (ref.extractLsb' 32 6).toInt) (hy : dy = (ref.extractLsb' 40 6).toInt)
    (buf : bufOf (ref.extractLsb' 24 2).toNat = some u) (high : ref.extractLsb' 46 18 = 0) (mid : ref.extractLsb' 38 2 = 0)
    (low : ref.extractLsb' 26 6 = 0) (some : ¬ (dx = 0 ∧ dy = 0)) (aligned : a % 8 = 0) (fits : a + 8 ≤ s.ctx.image.foot u)
    (from_ : s.inside s.core.px s.core.py = true) (dest : s.inside (s.core.px + dx) (s.core.py + dy) = true) :
    ∃ b, exec (.nrmt p op g ba bv) s = .next (s.issue (.nrmt p op g ba bv) p b) ∧ b s =
      let t : State := { s with core := s.core.count 0x05 1 }
      let c := Cargo.request op u a (s.core.rdB bv)
      if dx = 0 then t.launchWord { data := 0, tag := 0 } c (if 0 < dy then .s else .n) dy.natAbs (if 0 < dy then .s else .n) 0 g
      else t.launchWord { data := 0, tag := 0 } c (if 0 < dx then .e else .w) dx.natAbs (if 0 < dy then .s else .n) dy.natAbs g := by
  have field (lo n : Nat) : fld (s.b ba) lo n = (ref.extractLsb' lo n).toNat := by rw [hr]; exact fld_extract _ lo n
  have x : sext (fld (s.b ba) 32 6) 6 = dx := by rw [field, sext_toInt _ (by decide), hx]
  have y : sext (fld (s.b ba) 40 6) 6 = dy := by rw [field, sext_toInt _ (by decide), hy]
  have a0 : fld (s.b ba) 0 24 = a := by rw [field, ha]
  have zero {n : Nat} {v : BitVec n} (h : v = 0) : v.toNat = 0 := by rw [h]; rfl
  have ok : ¬ (fld (s.b ba) 46 18 ≠ 0 ∨ fld (s.b ba) 38 2 ≠ 0 ∨ fld (s.b ba) 26 6 ≠ 0 ∨ (dx = 0 ∧ dy = 0)) := by
    simp only [field, zero high, zero mid, zero low, ne_eq, not_true, false_or]
    exact some
  refine ⟨_, rfl, ?_⟩
  dsimp only
  rw [x, y, a0, field 24 2, buf]
  dsimp only
  rw [if_neg ok, bounded_of_fits aligned fits, leaves_of_inside from_ dest]

/-- Settles O37. -/
theorem networkWords : Obligations.NetworkWords := by
  intro s p v g h r dir dout cntM1 op ba bv hs c half sends east south copy w low ref dx dy a
  have send {i : Instr} {b : State → State} {l : List Trav} (hp : i.pred? = some p) (hx : exec i s = .next (s.issue i p b))
      (sent : s.Sent (b s) l) : sends i l := sent.gives hs hp hx
  have both (d d' : Dir) : s.Sent (s.broadcast half [d, d']) (([] ++ if s.beyond d = 0 then [] else [copy d (s.beyond d) s.seq]) ++
      if s.beyond d' = 0 then [] else [copy d' (s.beyond d') (s.seq + ([] ++ if s.beyond d = 0 then [] else [copy d (s.beyond d) s.seq]).length)]) :=
    ((State.Sent.refl s).copy d).copy d'
  have row {l : List Trav} (hl : s.Sent (s.broadcast half [.e, .w]) l) : sends (.nbcRow p v h) l :=
    send rfl rfl (by rw [State.half_eq]; exact hl)
  have col {l : List Trav} (hl : s.Sent (s.broadcast half [.n, .s]) l) : sends (.nbcCol p v h) l :=
    send rfl rfl (by rw [State.half_eq]; exact hl)
  have two {d d' : Dir} (hd : 0 < s.beyond d) (he : 0 < s.beyond d') :
      s.Sent (s.broadcast half [d, d']) [copy d (s.beyond d) s.seq, copy d' (s.beyond d') (s.seq + 1)] := by
    have list := both d d'
    rwa [if_neg hd.ne', if_neg he.ne'] at list
  have first {d d' : Dir} (hd : 0 < s.beyond d) (he : s.beyond d' = 0) : s.Sent (s.broadcast half [d, d']) [copy d (s.beyond d) s.seq] := by
    have list := both d d'
    rwa [if_neg hd.ne', if_pos he] at list
  have second {d d' : Dir} (hd : s.beyond d = 0) (he : 0 < s.beyond d') : s.Sent (s.broadcast half [d, d']) [copy d' (s.beyond d') s.seq] := by
    have list := both d d'
    rwa [if_pos hd, if_neg he.ne'] at list
  have none {d d' : Dir} (hd : s.beyond d = 0) (he : s.beyond d' = 0) : s.Sent (s.broadcast half [d, d']) [] := by
    have list := both d d'
    rwa [if_pos hd, if_pos he] at list
  refine ⟨fun stays => ⟨?send, ?sends⟩, fun he hw => row (two he hw), fun he hw => row (first he hw), fun he hw => row (second he hw), fun he hw => row (none he hw),
    fun n s => col (two n s), fun n s => col (first n s), fun n s => col (second n s), fun n s => col (none n s), ?recv, ?recvs, fun inn => ?fwd,
    fun u buf high mid low x aligned fits dest from_ => ?nrmt, fun u buf high mid low x y aligned fits dest from_ => ?nrmtV⟩
  case send =>
    refine send rfl rfl ?_
    rw [State.sendOn, stays, State.half_eq]
    exact (State.Sent.refl s).launchWord
  case sends =>
    refine send rfl rfl ?_
    rw [State.sendOn, stays]
    exact (State.Sent.refl s).launchWord
  case recv =>
    have mask : (BitVec.allOnes 1024).zeroExtend 2048 = low := lowMask_eq 1024 2048
    clear_value low
    subst mask
    exact State.gives_of_effectN hs rfl rfl rfl rfl
  case recvs => exact State.gives_of_effectN hs rfl rfl rfl rfl
  case fwd =>
    refine State.gives_of_effectN hs rfl rfl rfl ?_
    rw [State.leaves_one, inn]
    rfl
  case nrmt =>
    obtain ⟨b, hx, hb⟩ := State.nrmt_of_ok (s := s) (p := p) (op := op) (g := g) (ba := ba) (bv := bv) rfl rfl rfl rfl buf high mid low (fun h => x h.1) aligned fits from_ dest
    refine send rfl hx ?_
    rw [hb]
    dsimp only
    rw [if_neg x]
    exact (State.Sent.refl s).launchWord
  case nrmtV =>
    have dest : s.inside (s.core.px + dx) (s.core.py + dy) = true := by rw [x, add_zero]; exact dest
    obtain ⟨b, hx, hb⟩ := State.nrmt_of_ok (s := s) (p := p) (op := op) (g := g) (ba := ba) (bv := bv) rfl rfl rfl rfl buf high mid low (fun h => y h.2) aligned fits from_ dest
    refine send rfl hx ?_
    rw [hb]
    dsimp only
    rw [if_pos x]
    exact (State.Sent.refl s).launchWord

/-! ## Words at the far end of a hop (R274, R275, R278, R283) -/

theorem State.focusIsle_self (s : State) : s.focusIsle s.left.length = s := by
  have there : s.isles.drop s.left.length = s.core :: s.right := by simp [isles]
  have before : (s.isles.take s.left.length).reverse = s.left := by simp [isles]
  rw [focusIsle, there, before]

/-- A function applied on the isle in focus, which it leaves in its place. -/
theorem State.atIsle_self {s : State} {x y : Nat} {f : State → State} (here : s.left.length = s.ixOf x y) (kept : (f s).left = s.left) :
    s.atIsle x y f = f s := by
  rw [atIsle, ← here, focusIsle_self, isleIx, ← kept, focusIsle_self]

/-- The first overrun of an rc on an isle: LINK_COLLISION 0x79 at its side (R278). -/
theorem Isle.linkEvent_of_none {c : Isle} {d : Dir} {rc : Nat} (h : c.late = none) :
    ∃ e, c.linkEvent false d rc = { c with late := some e } ∧ e.cause = 7 ∧ e.addr = rc ∧ e.info % 2 ^ 10 = 0x79 + d.ix.val * 2 ^ 8 := by
  rw [linkEvent]
  simp only [h]
  refine ⟨_, rfl, rfl, rfl, ?_⟩
  cases d <;> (dsimp only; decide)

/-- What a function does on the isle in focus, where it leaves the isle in its place. -/
theorem State.atIsle_eq {s t : State} {x y : Nat} {f : State → State} (here : s.left.length = s.ixOf x y) (h : f s = t) (kept : t.left = s.left) :
    s.atIsle x y f = t := by
  subst h
  exact atIsle_self here kept

section
variable {s : State} {k : Trav}

/-- The words of the context without one. -/
theorem filter_any_singleton (l : List Trav) (k : Trav) : (l.filter fun u => !([k].any (· == u))) = l.filter (· != k) :=
  List.filter_congr fun u _ => by rw [List.any_cons, List.any_nil, Bool.or_false, bne, Bool.beq_comm]

/-- A word alone on its link that has gone all its hops lands at the isle in focus (R275). -/
theorem State.wordArrives_of_last (found : s.ctx.words.find? (fun t => t.id == k.id && t.due == s.ctx.rcycle) = some k) (alone : s.onLink k = [k])
    (plain : k.cargo = .plain) (last1 : k.left1 = 0) (last2 : k.left2 = 0)
    (here : s.left.length = s.ixOf (k.dir.step k.x k.y).1.toNat (k.dir.step k.x k.y).2.toNat)
    {t : State} (lands : (s.onCtx fun c => { c with words := s.ctx.words.filter (· != k) }).landWord k k.dir.opp s.ctx.rcycle = t) (kept : t.left = s.left) :
    exec (.networkWordArrival k.id) s = .next t := by
  subst lands
  have last (x y : Nat) : k.next? x y = none := by simp [Trav.next?, last1, last2]
  change Host.Outcome.next (s.wordArrives k.id) = _
  rw [wordArrives, found]
  dsimp only
  have cleared : (s.onCtx fun c => { c with words := c.words.filter fun u => !([k].any (· == u)) }) =
      s.onCtx fun c => { c with words := s.ctx.words.filter (· != k) } :=
    congrArg (fun l => s.onCtx fun c => { c with words := l }) (filter_any_singleton s.ctx.words k)
  rw [alone, if_neg (by simp), cleared]
  have end_ : State.atFarEnd k s.ctx.rcycle (s.onCtx fun c => { c with words := s.ctx.words.filter (· != k) }) =
      (s.onCtx fun c => { c with words := s.ctx.words.filter (· != k) }).landWord k k.dir.opp s.ctx.rcycle := by
    rw [atFarEnd]
    simp only [plain, last]
  exact congrArg _ ((atIsle_self (s := s.onCtx fun c => { c with words := s.ctx.words.filter (· != k) }) here (by rw [end_]; exact kept)).trans end_)

end

/-- A word put in a latch of the isle in focus. -/
theorem State.putWord_of_empty {s : State} {t : Trav} {side : Dir} {rc : Nat} (h : s.core.latch[side.ix] = none) :
    s.putWord t side rc = s.onCore fun c => { c with latch := s.core.latch.set side.ix (some t.word) } := by
  rw [putWord, h]
  rfl

theorem State.putWord_of_full {s : State} {t : Trav} {side : Dir} {rc : Nat} (h : s.core.latch[side.ix] ≠ none) (late : s.core.late = none) :
    ∃ e, s.putWord t side rc = s.onCore (fun c => { c with late := some e, latch := s.core.latch.set side.ix (some t.word) }) ∧
      e.cause = 7 ∧ e.addr = rc ∧ e.info % 2 ^ 10 = 0x79 + side.ix.val * 2 ^ 8 := by
  obtain ⟨e, he, cause, addr, info⟩ := Isle.linkEvent_of_none (d := side) (rc := rc) late
  refine ⟨e, ?_, cause, addr, info⟩
  rw [putWord, if_pos (Option.isSome_iff_ne_none.2 h), he]
  rfl

/-- The windows of an isle after one that may have closed (R283). -/
theorem Isle.expire_eq (c : Isle) (rc : Nat) (d : Dir) : c.expire rc d =
    { c with fwd := match c.fwd[d.ix] with
        | some w => if w.last < rc then c.fwd.set d.ix none else c.fwd
        | none => c.fwd } := by
  rw [expire]
  cases h : c.fwd[d.ix] with
  | none => rfl
  | some w =>
    dsimp only
    split <;> rfl

/-- The reply goes on the network in the place of its request. -/
theorem State.replyTo_eq (s : State) (k : Trav) (old : W64) : ∃ n : Trav,
    s.replyTo k old = (s.onCtx fun c => { c with words := c.words.filter (· != k) ++ [n] }) ∧
    n.cargo = .reply k.dest old k.id ∧ n.hops = ((k.ox : Int) - s.core.px).natAbs + ((k.oy : Int) - s.core.py).natAbs := ⟨_, rfl, rfl, rfl⟩

/-- Settles O38. -/
theorem networkEvents : Obligations.NetworkEvents := by
  intro s k dir w side dst reaches rest
  let v : State := s.onCtx fun c => { c with words := rest }
  have reach {q : State → Prop} (lands : s.core.late = none → ∃ t, v.landWord k side s.ctx.rcycle = t ∧ s.SameRest t ∧ q t) : reaches q := by
    intro found due alone plain last1 last2 here late
    obtain ⟨t, ht, same, hq⟩ := lands late
    exact ⟨t, State.wordArrives_of_last found alone plain last1 last2 here ht same.left, same, hq⟩
  refine ⟨fun window empty => reach fun late => ?empty, fun window full => reach fun late => ?full, fun window inn => reach fun late => ?open_,
    congrArg (fun c : Isle => Host.Outcome.next ({ s with core := c } : State)) (Isle.expire_eq s.core s.ctx.rcycle dir),
    fun op u a y found cargo arrived here normal empty clean => ?atomic⟩
  case empty =>
    have window : v.core.fwd[side.ix] = none := window
    refine ⟨_, rfl, ?_⟩
    rw [State.landWord, window]
    dsimp only
    rw [State.putWord_of_empty (s := v) empty]
    exact ⟨by constructor <;> rfl, rfl, rfl, late⟩
  case full =>
    have window : v.core.fwd[side.ix] = none := window
    obtain ⟨e, he, cause, addr, info⟩ := State.putWord_of_full (s := v) (t := k) (rc := s.ctx.rcycle) full late
    refine ⟨_, rfl, ?_⟩
    rw [State.landWord, window]
    dsimp only
    rw [he]
    exact ⟨by constructor <;> rfl, rfl, e, rfl, cause, addr, info⟩
  case open_ =>
    have window : v.core.fwd[side.ix] = some w := window
    refine ⟨_, rfl, ?_⟩
    rw [State.landWord, window]
    dsimp only
    rw [if_pos inn]
    exact ⟨by constructor <;> rfl, rfl, _, rfl, rfl, rfl, rfl, rfl, rfl⟩
  case atomic =>
    let old : W64 := BitVec.ofNat 64 ((s.core.buf u).rdN a 8)
    have found : s.requestOf k.id = some k := found
    have flying : (s.onCore fun c => { c with flights := c.flights.filter fun f => f.eff != .remote k.id }) = s := by
      rw [State.onCore, empty, List.filter_nil, ← empty]
    have whole : s.core.firstSpoilt (bufCode u) a 8 = none := Isle.firstSpoilt_none clean
    have reads : s.chainWord u a = old := by
      rw [State.chainWord, Isle.inFlight, if_neg (by simp [normal]), empty]
      rfl
    let f : Flight :=
      { due := s.dueIn 0, seq := k.id, slot := .N, bundle := 0, rcyc := k.rcyc, time := k.rcyc, cls := chainClass
        eff := .store u (place a (toLe 8 (atomic op old y).toNat)) }
    have chains : s.core.chain u a f = s.core.flying [f] := by
      have fresh := Isle.chain_of_fresh (c := s.core) (u := u) (a := a) (l := []) f normal (by simp)
      rwa [show s.core.flying [] = s.core by rw [Isle.flying, ← empty]] at fresh
    have served : s.serveRemote k op u a y = (s.onCore fun c => c.flying [f]).replyTo k old := by
      rw [State.serveRemote, reads]
      exact congrArg (fun c => State.replyTo ({ s with core := c } : State) k old) chains
    obtain ⟨n, reply, carries, hops⟩ := (s.onCore fun c => c.flying [f]).replyTo_eq k old
    rw [reply] at served
    refine ⟨(s.onCore fun c => c.flying [f]).onCtx fun c => { c with words := c.words.filter (· != k) ++ [n] }, ?_, ?_, ⟨f, rfl, rfl⟩, n, rfl, carries, hops⟩
    rotate_left
    · constructor <;> rfl
    refine congrArg Host.Outcome.next ?_
    rw [found]
    dsimp only
    rw [if_pos arrived]
    refine State.atIsle_eq here ?_ rfl
    rw [flying, cargo]
    dsimp only
    rw [whole, ← served]

/-! ## Traps of a source without a format, and of a route that leaves the region (R82, R130, R279) -/

/-- A raw tag fails as the first source of an arithmetic word (R130). -/
theorem arithSource_raw (ok : Fmt → Bool) : arithSource 0 0 ok = some (causeCombo, 0, 0x10) := rfl

/-- The class cycle that a word holds is no part of what a program sees. -/
theorem State.holdClass_arch {s t : State} (h : s.core.SameArch t.core) : s.core.SameArch t.holdClass.core ∧ t.holdClass.core.early = t.core.early := by
  have held {u : State} (arch : s.core.SameArch u.core) (l : Vector Nat 4) : s.core.SameArch { u.core with held := l } := { arch with }
  obtain same | ⟨u, d, l, rfl | rfl, same⟩ := t.holdClass_cases
  · rw [same]
    exact ⟨h, rfl⟩
  · rw [same]
    exact ⟨held h l, rfl⟩
  · rw [same]
    have push (f : Flight) : s.core.SameArch (t.core.push f) ∧ (t.core.push f).early = t.core.early := by
      rw [Isle.push]
      split <;> exact ⟨{ h with }, rfl⟩
    exact ⟨held (u := t.fly d noClass .begin_) (push _).1 l, (push _).2⟩

/-- A word whose first source fails R82 traps, at an address that no rule states. -/
theorem State.traps_of_tags {s : State} {i : Instr} {p : Pred} {f : Fail} {g : Option Fail} {k : State → State} {b : State → State}
    (hp : i.pred? = some p) (hx : exec i s = .next (s.issue i p b)) (hb : b s = s.tagsPassing g k) (hg : g = some f) (early : s.core.early = none)
    (hi : s.Issues i) : ∃ t, exec i s = .next t ∧ s.core.SameArch t.core ∧
      t.core.early = some { cause := f.1, addr := (s.free 0).toNat, info := f.info, slot := s.slot.idx, issued := false } := by
  have raised : b s = s.trapping f.1 f.info (s.free 0).toNat := by
    rw [hb, hg]
    exact raise_first _ _ _ early
  obtain ⟨arch, record⟩ := State.holdClass_arch (s := s) (t := b s) (by rw [raised]; constructor <;> rfl)
  exact ⟨(b s).holdClass, gives_of_issue hp hx hi, arch, by rw [record, raised]; rfl⟩

/-- FENCE before issue (R279). -/
theorem State.fence_of_none {s : State} {reason : Nat} {d : Dir} (hs : s.slot = .N) (early : s.core.early = none) :
    s.fence reason d = s.onCore fun c =>
      { c with early := some { cause := 6, addr := (s.free 0).toNat, info := reason + d.ix.val * 2 ^ 8, slot := 6, issued := false } } := by
  rw [fence, raiseOpen, raise_first _ _ _ early, trapping, hs]
  rfl

/-- Settles O39. -/
theorem formatAndFenceTraps : Obligations.FormatAndFenceTraps := by
  constructor
  · intro s p vd va vb vm rm sat raw early hs normal
    refine ⟨(s.free 0).toNat, 0x10, fun i hi issues => ?_⟩
    have traps {b k : State → State} {g : Option Fail} (hp : i.pred? = some p) (hx : exec i s = .next (s.issue i p b)) (hb : b s = s.tagsPassing g k)
        (hg : g = some (causeCombo, 0, 0x10)) : ∃ t, exec i s = .next t ∧ s.core.SameArch t.core ∧
          t.core.early = some { cause := causeCombo, addr := (s.free 0).toNat, info := 0x10, slot := 4, issued := false } ∧ 0x10 % 256 = 0x10 := by
      obtain ⟨t, ht, arch, record⟩ := State.traps_of_tags hp hx hb hg early issues
      rw [hs] at record
      exact ⟨t, ht, arch, record, rfl⟩
    have one (ok : Fmt → Bool) : arithSource 0 s.core.tag[va] ok = some (causeCombo, 0, 0x10) := by rw [raw, arithSource_raw]
    have two (ok : Fmt → Bool) (g : Option Fail) : (arithSource 0 s.core.tag[va] ok <|> g) = some (causeCombo, 0, 0x10) := by rw [one]; rfl
    simp only [List.mem_cons, List.not_mem_nil, or_false] at hi
    obtain rfl | rfl | rfl | rfl | rfl | rfl | rfl | rfl | rfl | rfl | rfl := hi
    · exact traps rfl rfl rfl (two _ _)
    · exact traps rfl rfl rfl (two _ _)
    · exact traps rfl rfl rfl (two _ _)
    · exact traps rfl rfl rfl (two _ _)
    · exact traps rfl rfl rfl (two _ _)
    · exact traps rfl rfl rfl (one _)
    · exact traps rfl rfl rfl (one _)
    · exact traps rfl rfl rfl (one _)
    · exact traps rfl rfl rfl (two _ _)
    · exact traps rfl rfl rfl (one _)
    · exact traps rfl rfl rfl (one _)
  · intro s p v g h r dir dout d cntM1 hs early fenced
    have fence {i : Instr} {b : State → State} {reason : Nat} {d : Dir} (hp : i.pred? = some p) (hx : exec i s = .next (s.issue i p b))
        (hb : b s = s.fence reason d) : fenced i reason d :=
      ⟨(s.free 0).toNat, State.gives_of_effectN hs hp hx rfl (hb.trans (State.fence_of_none hs early))⟩
    refine ⟨fun leaves => ⟨fence rfl rfl ?_, fence rfl rfl ?_⟩, fun outside => fence rfl rfl ?_⟩
    · rw [State.sendOn, leaves]
    · rw [State.sendOn, leaves]
    · rw [State.leaves_one, outside]
      rfl

/-! ## The checks of slot D's words (R288, R292, R296) -/

section
variable {s : State} {i : Instr} {p : Pred} {b : State → State} {t : State} {k : State → State}

/-- A word whose effect is known answers with it, and holds its class cycle (R378). -/
theorem State.gives_held (hp : i.pred? = some p) (hx : exec i s = .next (s.issue i p b)) (effect : b s = t) : s.Gives i t.holdClass :=
  effect ▸ gives_of_issue hp hx

theorem State.entering_of_free (h : s.HasEntry) : s.entering k = k s := if_neg (Nat.not_le.2 h)

theorem State.vaPassing_of_ok {va al : Nat} {wr : Bool} (range : va < 2 ^ 52) (aligned : va % al = 0) : s.vaPassing va al wr k = k s :=
  (if_neg (Nat.not_le.2 range)).trans (if_neg (Decidable.not_not.2 aligned))

/-- A reference of AB names an address of 16 bytes' alignment (R292). -/
theorem barRef_ab_aligned {ref : W64} {o : Nat} (h : barRef ref = some (.ab o)) : o % 16 = 0 := by
  rw [barRef] at h
  split at h
  · cases h
  · rename_i aligned
    split at h
    · split at h
      · cases h
        rw [fld, Nat.pow_zero, Nat.div_one]
        omega
      · cases h
    · split at h <;> cases h

theorem State.refPassing_of_ok {ref : W64} {r : BarRef} (named : barRef ref = some r) (fits : ∀ o, r = .ab o → o + 16 ≤ s.ctx.image.foot .ab) :
    s.refPassing ref k = k s := by
  rw [refPassing, named]
  cases r with
  | ab o => exact bounded_of_fits (barRef_ab_aligned named) (fits o rfl)
  | dm v => rfl

theorem State.barPassing_of_ok {bbar : Fin 32}
    (ok : ∀ ref, s.barOf bbar = some ref → ∃ r, barRef ref = some r ∧ ∀ o, r = .ab o → o + 16 ≤ s.ctx.image.foot .ab) :
    s.barPassing bbar k = k s := by
  rw [barPassing]
  cases h : s.barOf bbar with
  | none => rfl
  | some ref =>
    obtain ⟨r, named, fits⟩ := ok ref h
    exact refPassing_of_ok named fits

end

/-- Sign extension looks at the low bits alone. -/
theorem sext_mod (x n : Nat) : sext (x % 2 ^ n) n = sext x n := by rw [sext, sext, Nat.mod_mod]

/-! ## Transfers, barriers and releases (R288, R298, R299, R302, R303, R305) -/

/-- Settles O40. -/
theorem transferAndBarrierWords : Obligations.TransferAndBarrierWords := by
  intro s p u bbuf bva f bv bbar bx sz op sc n al a va x ref flag count ab dm
  have abs {i : Instr} {up : BarUpd} {rel : Bool} (hp : i.pred? = some p) (hx : exec i s = .next (s.barWord i p bbar up rel))
      (init : (match up with | .init x => barInitFault true x | _ => none) = none) : ab i (if rel then s.release else s) up := by
    intro o named fits
    refine State.gives_held hp hx ?_
    rw [State.refPassing_of_ok named fun o' h => by cases h; exact fits]
    rw [named]
    dsimp only
    split
    next r refused => exact absurd (refused.symm.trans init) nofun
    next => cases rel <;> rfl
  have dms {i : Instr} {up : BarUpd} {rel : Bool} (hp : i.pred? = some p) (hx : exec i s = .next (s.barWord i p bbar up rel)) :
      dm i (if rel then s.release else s) up := by
    intro o named free
    refine State.gives_held hp hx ?_
    rw [State.refPassing_of_ok named fun o' h => by cases h]
    rw [named]
    dsimp only
    rw [State.entering_of_free free]
  have low : sext (s.b bx) 48 = count := by
    have field : x.toNat % 2 ^ 48 = (x.extractLsb' 0 48).toNat := by rw [BitVec.extractLsb'_toNat, Nat.shiftRight_zero]
    change sext x.toNat 48 = _
    rw [← sext_mod, field, sext_toInt _ (by decide)]
  refine ⟨fun aligned fits range va_aligned free => ⟨State.gives_held rfl rfl ?xld, State.gives_held rfl rfl ?xst⟩,
    fun range va_aligned res_aligned fits free => State.gives_held rfl rfl ?xatom,
    fun init => abs (rel := false) rfl rfl init, dms (rel := false) rfl rfl, abs (rel := true) rfl (by rw [← low]; rfl) rfl,
    dms (rel := true) rfl (by rw [← low]; rfl), abs (rel := false) rfl (by rw [← low]; rfl) rfl, dms (rel := false) rfl (by rw [← low]; rfl),
    State.gives_held rfl rfl rfl, State.gives_held rfl rfl rfl⟩
  case xld => exact (State.bounded_of_fits aligned fits).trans ((State.vaPassing_of_ok range va_aligned).trans (State.entering_of_free free))
  case xst => exact (State.bounded_of_fits aligned fits).trans ((State.vaPassing_of_ok range va_aligned).trans (State.entering_of_free free))
  case xatom =>
    exact (State.vaPassing_of_ok range va_aligned).trans ((State.bounded_of_fits res_aligned fits).trans (State.entering_of_free free))

/-! ## Operations of slot D (R301, R306, R309, R310, R314, R315, R355, R356) -/

/-- What one side of a copy passes (R296, R301): its base and its header, and every one of its rows. -/
theorem State.sidePassing_of_ok {s : State} {k : State → State} {code base hdr off stride n bytes : Nat} {wr : Bool} (pos : 0 < n)
    (device : sideBuf code = none → base < 2 ^ 52 ∧ base % 32 = 0 ∧ (n = 1 ∨ stride % 32 = 0))
    (buffer : ∀ u, sideBuf code = some u → base % 32 = 0 ∧ base + hdr ≤ s.ctx.image.foot u ∧
      ∀ row, row < n → ((base + off) % 2 ^ 64 + row * stride) % 32 = 0 ∧ (base + off) % 2 ^ 64 + row * stride + bytes ≤ s.ctx.image.foot u) :
    s.sidePassing code base hdr off stride n bytes wr k = k s := by
  rw [sidePassing]
  cases h : sideBuf code with
  | none =>
    obtain ⟨range, aligned, one⟩ := device h
    dsimp only
    rw [vaPassing_of_ok range aligned, if_neg (by omega)]
  | some u =>
    obtain ⟨aligned, head, rows⟩ := buffer u h
    have first := rows 0 pos
    rw [Nat.zero_mul, Nat.add_zero] at first
    dsimp only
    rw [bounded_of_fits aligned head, bounded_of_fits first.1 first.2]
    split
    next several =>
      have second := rows 1 several
      rw [Nat.one_mul] at second
      have last := rows (n - 1) (by omega)
      rw [bounded_of_fits second.1 second.2, bounded_of_fits last.1 last.2]
    next => rfl

/-- Settles O41. -/
theorem operationWords : Obligations.OperationWords := by
  intro s p tidx bb bbar bslot brec bpkt f g sock sel free t base src dst rec_ n pkt w x r h bar barOk side doff fx fy
  have copies {post : Option (Nat × Nat × Nat)} (copy : copyTmplOk t = true) (bars : barOk)
      (sideS : side (tmplFld t 4 2) src (if h = 0 then 0 else 32) (doff.getD 0) (tmplSstride t))
      (sideD : side (tmplFld t 6 2) dst (if h = 2 then 32 else 0) (if h = 2 then 32 else 0) (tmplDstride t))
      (inn : ¬ (tmplFld t 12 1 = 1 ∧ (!s.inside fx fy) = true))
      (posts : (if tmplFld t 12 1 = 1 then some (tmplFld t 13 5, fx.toNat, fy.toNat) else none) = post) :
      s.Gives (.xcopy p tidx bb bbar) (s.newOp (.xcopy src dst t 0 0 doff none false) post bar true).holdClass := by
    refine State.gives_held rfl rfl ((if_neg ?_).trans ((State.barPassing_of_ok bars).trans
      ((State.sidePassing_of_ok (Nat.succ_pos _) sideS.1 sideS.2).trans ((State.sidePassing_of_ok (Nat.succ_pos _) sideD.1 sideD.2).trans
      ((if_neg inn).trans ((State.entering_of_free free).trans ?_))))))
    · rw [show copyTmplOk (s.template tidx) = true from copy]
      decide
    · rw [← posts]
      rfl
  refine ⟨fun copy bars sideS sideD => ⟨fun plain => copies copy bars sideS sideD (fun h => ?plain) ?none,
      fun flagged inn => copies copy bars sideS sideD (fun h => ?inn) (if_pos flagged)⟩,
    fun coll serves bars srcR srcA dstR dstA => State.gives_held rfl rfl ?coll, fun id some listed => State.gives_held rfl rfl ?ovl,
    fun aligned fits mine => State.gives_held rfl rfl ?launch,
    fun c aligned fits kctx present running clean good few => State.gives_held rfl rfl ?kpost, State.gives_held rfl rfl rfl⟩
  case plain => rw [plain] at h; exact absurd h.1 (by decide)
  case none => exact if_neg (by rw [plain]; decide)
  case inn => rw [inn] at h; exact absurd h.2 (by decide)
  case coll =>
    have ok : ¬ (!(collTmplOk t && s.groupServes (collGid t))) = true := by
      rw [coll, serves]
      decide
    exact (if_neg ok).trans ((State.barPassing_of_ok bars).trans ((State.vaPassing_of_ok srcR srcA).trans
      ((State.vaPassing_of_ok dstR dstA).trans (State.entering_of_free free))))
  case ovl =>
    refine (if_neg ?_).trans (State.entering_of_free free)
    obtain ⟨o, mem, named, here⟩ := listed
    have any : (s.ctx.image.ovls.any fun o => o.ovl == id.toNat && (o.isle.getD s.isleIx == s.isleIx)) = true := by
      refine List.any_eq_true.2 ⟨o, mem, ?_⟩
      obtain here | here := here <;> simp [named, here]
    rw [any]
    simpa using some
  case launch =>
    exact (State.bounded_of_fits aligned fits).trans ((if_neg (Decidable.not_not.2 mine)).trans (State.entering_of_free free))
  case kpost =>
    have listens : ¬ (!(s.sock sock.val).present || (s.sock sock.val).frozen) = true := by
      rw [show (s.sock sock.val).present = true from present, show (s.sock sock.val).frozen = false from running]
      decide
    refine (State.bounded_of_fits aligned fits).trans ?_
    rw [kctx]
    refine (if_neg listens).trans ((State.reading_of_unspoiled clean).trans ((if_neg (Bool.eq_false_iff.1 good)).trans
      ((if_neg (Nat.not_le.2 few)).trans ?_)))
    have cbar : BitVec.ofNat 64 (fld w 384 64) = BitVec.ofNat 64 (w / 2 ^ 384) := by
      rw [fld]
      exact BitVec.eq_of_toNat_eq (by rw [BitVec.toNat_ofNat, BitVec.toNat_ofNat, Nat.mod_mod])
    exact congrArg (fun c => ((r.newOp (.kpost sock.val []) none (Option.some c) false).fly s.dAccess noClass (.access (.packet r.seq pkt) s.dAccess))) cbar

end Sys2Proof.Machine
end

section
/-! PROOFS. A step runs what it fetches (R37, R87, R89, R322) -/

namespace Sys2Proof.Machine

/-! ## What stands while a slot word issues (R87, R94) -/

/-- The other isles and contexts stand, the isle in focus keeps its place in the sequence but for END (where `e` does not hold) and CLKDIV (where `d`
does not), its memories stay canonical, and so does device memory. -/
structure State.Framed (e d : Prop) (s t : State) : Prop where
  left : t.left = s.left
  right : t.right = s.right
  others : t.others = s.others
  ended : e → t.core.ended = s.core.ended
  clk : d → t.core.clk = s.core.clk
  stall : t.core.stall = s.core.stall
  mem : s.core.MemCanonical → t.core.MemCanonical
  dram : s.dram.wf = true → t.dram.wf = true

namespace State.Framed

variable {e d : Prop} {s t u : State}

theorem refl : s.Framed e d s := ⟨rfl, rfl, rfl, fun _ => rfl, fun _ => rfl, rfl, id, id⟩

theorem trans (h : s.Framed e d t) (k : t.Framed e d u) : s.Framed e d u :=
  ⟨k.left.trans h.left, k.right.trans h.right, k.others.trans h.others, fun he => (k.ended he).trans (h.ended he), fun hd => (k.clk hd).trans (h.clk hd), k.stall.trans h.stall, k.mem ∘ h.mem, k.dram ∘ h.dram⟩

theorem ite {c : Prop} [Decidable c] (h : s.Framed e d t) (k : s.Framed e d u) : s.Framed e d (if c then t else u) := by
  split
  · exact h
  · exact k

/-- A change of the isle in focus that leaves its memories, and whether it issues. -/
theorem of_core {c : Isle} (ended : c.ended = s.core.ended) (clk : c.clk = s.core.clk) (stall : c.stall = s.core.stall) (wb : c.wb = s.core.wb) (ab : c.ab = s.core.ab)
    (acb : c.acb = s.core.acb) (ballast : c.ballast = s.core.ballast) : s.Framed e d { s with core := c } :=
  ⟨rfl, rfl, rfl, fun _ => ended, fun _ => clk, stall, fun h => by rw [Isle.MemCanonical, wb, ab, acb, ballast]; exact h, id⟩

end State.Framed

section
variable {e d : Prop} {s : State}

theorem State.raise_framed {c i a : Nat} : s.Framed e d (s.raise c i a) := by
  obtain h | h := s.raise_cases c i a <;> rw [h]
  · exact .refl
  · exact .of_core rfl rfl rfl rfl rfl rfl rfl

theorem State.raiseAfterOpen_framed {c i : Nat} : s.Framed e d (s.raiseAfterOpen c i) := by
  have late (t : TrapRec) : s.core.raiseLate t = { s.core with late := (s.core.raiseLate t).late } := by
    unfold Isle.raiseLate
    split
    · rfl
    · split <;> rfl
  rw [raiseAfterOpen, onCore, late]
  exact .of_core rfl rfl rfl rfl rfl rfl rfl

theorem State.holdIssue_framed {h : Hold} : s.Framed e d (s.holdIssue h) := by
  unfold holdIssue
  split
  · exact .refl
  · exact .of_core rfl rfl rfl rfl rfl rfl rfl

theorem State.loseAt_framed {k : SlotId} {a : Nat} : s.Framed e d (s.loseAt k a) := ⟨rfl, rfl, rfl, fun _ => rfl, fun _ => rfl, rfl, id, id⟩

theorem State.loseVa_framed {va : Nat} {u : ErrUnit} : s.Framed e d (s.loseVa va u) := ⟨rfl, rfl, rfl, fun _ => rfl, fun _ => rfl, rfl, id, id⟩

theorem State.fly_framed {due : Due} {c : Nat} {x : Eff} : s.Framed e d (s.fly due c x) := by
  have push (f : Flight) : s.core.push f = { s.core with flights := (s.core.push f).flights, hflights := (s.core.push f).hflights } := by
    unfold Isle.push
    split <;> rfl
  rw [fly, push]
  exact ⟨rfl, rfl, rfl, fun _ => rfl, fun _ => rfl, rfl, id, id⟩

theorem State.holdClass_framed : s.Framed e d s.holdClass := by
  obtain h | ⟨t, due, l, rfl | rfl, h⟩ := s.holdClass_cases <;> rw [h]
  · exact .refl
  · exact .of_core rfl rfl rfl rfl rfl rfl rfl
  · exact fly_framed.trans (.of_core rfl rfl rfl rfl rfl rfl rfl)

theorem State.release_framed : s.Framed e d s.release := .ite .refl ⟨rfl, rfl, rfl, fun _ => rfl, fun _ => rfl, rfl, id, id⟩

theorem State.newOp_framed {k : OpKind} {f : Option (Nat × Nat × Nat)} {b : Option W64} {cu : Bool} : s.Framed e d (s.newOp k f b cu) := by
  cases cu <;> exact ⟨rfl, rfl, rfl, fun _ => rfl, fun _ => rfl, rfl, id, id⟩

theorem State.goto_framed {n : Next} : s.Framed e d (s.goto n) := .of_core rfl rfl rfl rfl rfl rfl rfl

theorem State.setLoops_framed {l : List LoopEnt} : s.Framed e d { s with core := s.core.setLoops l } := by
  unfold Isle.setLoops
  split <;> exact .of_core rfl rfl rfl rfl rfl rfl rfl

theorem State.setCalls_framed {l : List Nat} : s.Framed e d { s with core := s.core.setCalls l } := by
  unfold Isle.setCalls
  split <;> exact .of_core rfl rfl rfl rfl rfl rfl rfl

theorem State.pushLoop_framed {len count : Nat} : s.Framed e d (s.pushLoop len count) :=
  .ite raise_framed (.ite goto_framed (.ite raise_framed setLoops_framed))

/-! ### Frames that an access zeroes (R258) -/

theorem State.zeroFrame_framed {pl : Place} : s.Framed e d (s.zeroFrame pl) :=
  .ite ⟨rfl, rfl, rfl, fun _ => rfl, fun _ => rfl, rfl, id, Mem.wf_clearRange _ _⟩ .refl

theorem State.zeroFrames_framed {l : List Place} : s.Framed e d (s.zeroFrames l) := by
  induction l generalizing s with
  | nil => exact .refl
  | cons pl l ih => exact zeroFrame_framed.trans ih

theorem State.refTouch_framed {ref : W64} : s.Framed e d (s.refTouch ref) := by
  unfold refTouch
  split
  · exact zeroFrames_framed
  · exact .refl

/-! ### The matrix engine -/

theorem Isle.startX_eq (c : Isle) (x : XRun) : c.startX x = { c with mat := (c.startX x).mat } := by
  unfold startX
  split <;> rfl

theorem State.stageMuwr_framed {rc : Nat} : s.Framed e d (s.stageMuwr rc) := by
  unfold stageMuwr
  split
  · exact .refl
  · split
    · exact loseAt_framed
    · exact .of_core rfl rfl rfl rfl rfl rfl rfl

theorem State.startX_framed {x : XRun} : s.Framed e d { s with core := s.core.startX x } := by
  rw [Isle.startX_eq]
  exact .of_core rfl rfl rfl rfl rfl rfl rfl

theorem State.count_framed {ev n : Nat} : s.Framed e d { s with core := s.core.count ev n } := .of_core rfl rfl rfl rfl rfl rfl rfl

theorem State.occupy_framed {w : XWord} {len : Nat} : s.Framed e d (s.occupy w len) := by
  refine .ite raise_framed (.ite (.trans ?_ stageMuwr_framed) (.of_core rfl rfl rfl rfl rfl rfl rfl))
  exact count_framed.trans (startX_framed (s := { s with core := s.core.count 3 1 }))

theorem State.callFails_framed {f : CallFault} : s.Framed e d (s.callFails f) := .ite loseAt_framed raise_framed

/-! ### The network -/

theorem State.launchWord_framed {w : NWord} {c : Cargo} {d₁ d₂ : Dir} {m n : Nat} {g : GReg} : s.Framed e d (s.launchWord w c d₁ m d₂ n g) :=
  ⟨rfl, rfl, rfl, fun _ => rfl, fun _ => rfl, rfl, id, id⟩

theorem State.sendOn_framed {w : NWord} {r : Route} : s.Framed e d (s.sendOn w r) := by
  unfold sendOn
  split
  · exact raise_framed
  · exact count_framed.trans launchWord_framed

theorem State.broadcast_framed (w : NWord) (l : List Dir) : s.Framed e d (s.broadcast w l) := by
  induction l generalizing s with
  | nil => exact .refl
  | cons d l ih => exact .trans (.ite .refl (count_framed.trans launchWord_framed)) ih

/-! ### Checks before the rest of a word -/

section
variable {k : State → State} {u : Buf} {a n al va : Nat} {wr : Bool}

theorem State.bounded_framed (hk : s.Framed e d (k s)) : s.Framed e d (s.bounded u a n al k) := .ite raise_framed (.ite raise_framed hk)

theorem State.vaPassing_framed (hk : s.Framed e d (k s)) : s.Framed e d (s.vaPassing va al wr k) := .ite raise_framed (.ite raise_framed hk)

theorem State.entering_framed (hk : s.Framed e d (k s)) : s.Framed e d (s.entering k) := .ite holdIssue_framed hk

theorem State.reading_framed (hk : s.Framed e d (k s)) : s.Framed e d (s.reading u a n k) := by
  unfold reading
  split
  · exact loseAt_framed
  · exact hk

theorem State.passing_framed {f : Option Fail} (hk : s.Framed e d (k s)) : s.Framed e d (s.passing f a k) := by
  unfold passing
  split
  · exact raise_framed
  · exact hk

theorem State.tagsPassing_framed {f : Option Fail} (hk : s.Framed e d (k s)) : s.Framed e d (s.tagsPassing f k) := by
  unfold tagsPassing
  split
  · exact raise_framed
  · exact hk

theorem State.gathered_framed {l : List (Nat × Nat)} (hk : s.Framed e d (k s)) : s.Framed e d (s.gathered u n l k) := by
  unfold gathered
  split
  · exact raise_framed
  · exact hk

theorem State.refPassing_framed {ref : W64} (hk : s.Framed e d (k s)) : s.Framed e d (s.refPassing ref k) := by
  unfold refPassing
  split
  · exact raise_framed
  · exact bounded_framed hk
  · exact hk

theorem State.barPassing_framed {bbar : Fin 32} (hk : s.Framed e d (k s)) : s.Framed e d (s.barPassing bbar k) := by
  unfold barPassing
  split
  · exact hk
  · exact refPassing_framed hk

theorem State.sidePassing_framed {side base hdr off stride bytes : Nat} (hk : s.Framed e d (k s)) :
    s.Framed e d (s.sidePassing side base hdr off stride n bytes wr k) := by
  unfold sidePassing
  dsimp only
  split
  · exact vaPassing_framed (.ite raise_framed hk)
  · exact bounded_framed (bounded_framed (.ite (bounded_framed (bounded_framed hk)) hk))

end

/-! ## Words -/

section
variable {i : Instr} {p : Pred} {b : State → State}

theorem State.issue_framed (hb : s.Framed e d (b s)) : s.Framed e d (s.issue i p b) := .ite raise_framed (.ite (hb.trans holdClass_framed) .refl)

/-- A word of slot C leaves its stall count first. -/
theorem State.issueC_framed {n : Fin 16} (hb : (s.withStall n).Framed e d (b (s.withStall n))) : s.Framed e d (s.issueC i p n b) :=
  .trans (t := s.withStall n) (.of_core rfl rfl rfl rfl rfl rfl rfl) (issue_framed hb)

end

end

/-- The next state of an answer is framed. -/
def State.FramesOut (e d : Prop) (s : State) (o : Out) : Prop := ∀ t, o = .next t → s.Framed e d t

section
variable {e d : Prop} {s : State} {p : Pred}

open State

theorem State.FramesOut.of {t : State} (h : s.Framed e d t) : s.FramesOut e d (.next t) := fun _ ht => Host.Outcome.next.inj ht ▸ h

/-- A word whose effect is framed. -/
theorem State.frames_issue {i : Instr} {b : State → State} (hb : s.Framed e d (b s)) : s.FramesOut e d (.next (s.issue i p b)) := .of (issue_framed hb)

theorem State.frames_issueC {i : Instr} {n : Fin 16} {b : State → State} (hb : (s.withStall n).Framed e d (b (s.withStall n))) :
    s.FramesOut e d (.next (s.issueC i p n b)) := .of (issueC_framed hb)

/-! ### Words with more than one course -/

theorem execRet_framed {n : Fin 16} : s.FramesOut e d (execRet p n s) := by
  refine frames_issueC ?_
  split
  · exact raise_framed
  · exact .ite (setCalls_framed.trans goto_framed) raise_framed

theorem execWaitf_framed {n : Fin 16} {f : Fin 32} {sig : Option (Fin 4)} {cnt : BitVec 10} : s.FramesOut e d (execWaitf p n f sig cnt s) := by
  refine frames_issueC ?_
  split
  · exact .of_core rfl rfl rfl rfl rfl rfl rfl
  · exact .of_core rfl rfl rfl rfl rfl rfl rfl

theorem execPostf_framed {n : Fin 16} {f : Fin 32} {sig : Option (Fin 4)} {cnt : BitVec 10} : s.FramesOut e d (execPostf p n f sig cnt s) := by
  refine frames_issueC (.ite holdIssue_framed ?_)
  split
  · exact .refl
  · exact .ite raise_framed fly_framed

theorem execWaitb_framed {n : Fin 16} {bbar : Fin 32} {sig : Option (Fin 4)} {ph : Fin 16} : s.FramesOut e d (execWaitb p n bbar sig ph s) := by
  refine frames_issueC ((refTouch_framed (ref := s.core.rdB bbar)).trans ?_)
  dsimp only
  split
  · exact raise_framed
  · exact .of_core rfl rfl rfl rfl rfl rfl rfl
  · exact holdIssue_framed
  · exact loseVa_framed
  · exact loseAt_framed
  · split <;> exact .of_core rfl rfl rfl rfl rfl rfl rfl

theorem execStatpop_framed {n : Fin 16} {g : GReg} : s.FramesOut e d (execStatpop p n g s) := by
  refine frames_issueC ?_
  split
  · exact fly_framed
  · exact .trans (t := State.land _ _ _) fly_framed fly_framed

theorem execFill_framed {g : GReg} {off : BitVec 9} : s.FramesOut e d (execFill p g off s) := by
  refine frames_issue ?_
  split
  · exact loseAt_framed
  · exact fly_framed

theorem execFillv_framed {vd : Fin 32} {off : Fin 16} : s.FramesOut e d (execFillv p vd off s) := by
  refine frames_issue ?_
  split
  · exact loseAt_framed
  · exact fly_framed

theorem sopen_framed {i : Instr} {wr : Bool} {t : Fin 16} {u : Buf} {ba : Fin 32} : s.FramesOut e d (.next (s.sopen i p wr t u ba)) :=
  frames_issue (.ite raise_framed (reading_framed (passing_framed (.ite raise_framed (.ite raise_framed (.ite raise_framed fly_framed))))))

theorem execMcall_framed {idx : Fin 64} {pmask : BitVec 8} : s.FramesOut e d (execMcall p idx pmask s) := by
  refine frames_issue ?_
  split
  · exact callFails_framed
  · exact occupy_framed

theorem execMcallr_framed {idx : Fin 64} {br : Fin 32} : s.FramesOut e d (execMcallr p idx br s) := by
  refine frames_issue (.ite raise_framed ?_)
  split
  · exact callFails_framed
  · exact holdIssue_framed
  · exact occupy_framed

theorem execFwd_framed {din dout : Dir} {cntM1 : BitVec 10} : s.FramesOut e d (execFwd p din dout cntM1 s) := by
  refine frames_issue ?_
  split
  · exact raise_framed
  · exact fly_framed

theorem execNrmt_framed {op : AtomOp} {g : GReg} {ba bv : Fin 32} : s.FramesOut e d (execNrmt p op g ba bv s) := by
  refine frames_issue ?_
  dsimp only
  split
  · exact raise_framed
  · refine .ite raise_framed (bounded_framed ?_)
    split
    · exact raise_framed
    · exact .ite (count_framed.trans launchWord_framed) (count_framed.trans launchWord_framed)

theorem execKpost_framed {sock : Fin 2} {bpkt : Fin 32} : s.FramesOut e d (execKpost p sock bpkt s) := by
  refine frames_issue (bounded_framed ?_)
  dsimp only
  split
  · exact raise_framed
  · exact .ite raise_framed (reading_framed (.ite raise_framed (.ite holdIssue_framed (release_framed.trans (newOp_framed.trans fly_framed)))))

theorem barWord_framed {i : Instr} {bbar : Fin 32} {u : BarUpd} {rel : Bool} : s.FramesOut e d (.next (s.barWord i p bbar u rel)) := by
  have released : s.Framed e d (if rel then s.release else s) := .ite release_framed .refl
  refine frames_issue (refPassing_framed ?_)
  split
  · split
    · exact raise_framed
    · exact released.trans fly_framed
  · exact entering_framed (released.trans newOp_framed)

/-- Every slot word is framed. -/
theorem exec_framed (i : Instr) (s : State) (h : i.pred? = some p) :
    s.FramesOut (∀ p n, i ≠ .endC p n) (∀ p n k d, i ≠ .clkdiv p n k d) (exec i s) := by
  cases i with
  | nop => cases h; exact .of (.ite raise_framed .refl)
  | hint => cases h; exact .of (.ite (.of_core rfl rfl rfl rfl rfl rfl rfl) .refl)
  -- slot C
  | nopC => cases h; exact frames_issueC .refl
  | br | tret => cases h; exact frames_issueC goto_framed
  | bri => cases h; exact frames_issueC (.ite goto_framed raise_framed)
  | call => cases h; exact frames_issueC (.ite raise_framed (setCalls_framed.trans goto_framed))
  | ret => cases h; exact execRet_framed
  | loop => cases h; exact frames_issueC pushLoop_framed
  | loopr => cases h; exact frames_issueC (.ite raise_framed pushLoop_framed)
  | lbrk => cases h; exact frames_issueC (.ite raise_framed goto_framed)
  | safept => cases h; exact frames_issueC (.ite raise_framed (.of_core rfl rfl rfl rfl rfl rfl rfl))
  | clkdiv =>
    cases h
    exact frames_issueC (.ite raise_framed ⟨rfl, rfl, rfl, fun _ => rfl, fun other => absurd rfl (other _ _ _ _), rfl, id, id⟩)
  | endC =>
    cases h
    exact frames_issueC ⟨rfl, rfl, rfl, fun other => absurd rfl (other _ _), fun _ => rfl, rfl, id, id⟩
  | yieldC => cases h; exact frames_issueC (.of_core rfl rfl rfl rfl rfl rfl rfl)
  | trap | brk => cases h; exact frames_issueC raiseAfterOpen_framed
  | waitf => cases h; exact execWaitf_framed
  | postf => cases h; exact execPostf_framed
  | waitb => cases h; exact execWaitb_framed
  | sysrd => cases h; exact frames_issueC fly_framed
  | syswr => cases h; exact frames_issueC fly_framed
  | statpop => cases h; exact execStatpop_framed
  -- slots A and B
  | add | addi | sub | mul | mulh | mulhn | and | andi | or | ori | xor | xori | shl | shr | sar | shli | shri | sari | min | max | minn | maxn
  | sel | li | lui | addw | clz | popc | bext | bins | movx => cases h; exact frames_issue fly_framed
  | cmp | cmpi | plog => cases h; exact frames_issue fly_framed
  -- slot M
  | ld | ldv | hdrchk | laop => cases h; exact frames_issue (bounded_framed fly_framed)
  | st | stv => cases h; exact frames_issue (bounded_framed fly_framed)
  | ldvT => cases h; exact frames_issue (bounded_framed (reading_framed (passing_framed (bounded_framed fly_framed))))
  | stvT =>
    cases h
    exact frames_issue (bounded_framed (tagsPassing_framed (reading_framed (passing_framed (bounded_framed fly_framed)))))
  | fill => cases h; exact execFill_framed
  | fillv => cases h; exact execFillv_framed
  | spill | spillv | sclose => cases h; exact frames_issue fly_framed
  | sopenR | sopenW => cases h; exact sopen_framed
  | sread =>
    cases h
    exact frames_issue (.ite raise_framed (.ite raise_framed (passing_framed (fly_framed.trans fly_framed))))
  | swrite =>
    cases h
    exact frames_issue (.ite raise_framed (.ite raise_framed (tagsPassing_framed (passing_framed (fly_framed.trans fly_framed)))))
  | sseek => cases h; exact frames_issue (.ite raise_framed (.ite raise_framed fly_framed))
  | hdrmk => cases h; exact frames_issue (bounded_framed (passing_framed fly_framed))
  | bclr =>
    cases h
    exact frames_issue (.ite raise_framed (.ite raise_framed (bounded_framed (.ite .refl fly_framed))))
  | ldidx => cases h; exact frames_issue (gathered_framed fly_framed)
  | stidx => cases h; exact frames_issue (gathered_framed fly_framed)
  -- slot V
  | vadd | vsub | vmul | vmax | vmin | vdiv => cases h; exact frames_issue (tagsPassing_framed fly_framed)
  | vabs | vneg | vexp2 | vlog2 | vrcp | vrsq | vsqrt => cases h; exact frames_issue (tagsPassing_framed fly_framed)
  | vfma | vfms | vfnma => cases h; exact frames_issue (tagsPassing_framed fly_framed)
  | vsel | vand | vor | vxor | vshl | vshr | vsar | vperm => cases h; exact frames_issue (tagsPassing_framed fly_framed)
  | vnot | vrot | vmov => cases h; exact frames_issue (tagsPassing_framed fly_framed)
  | vredadd | vredmax | vredmin => cases h; exact frames_issue (tagsPassing_framed fly_framed)
  | vbcast | vins | viota => cases h; exact frames_issue (tagsPassing_framed fly_framed)
  | vcmp => cases h; exact frames_issue (tagsPassing_framed fly_framed)
  | vext => cases h; exact frames_issue (tagsPassing_framed fly_framed)
  | vseed => cases h; exact frames_issue fly_framed
  | vtag | vmask | vmaskB => cases h; exact frames_issue fly_framed
  | vcvt | vqnt | vdqnt | vbscl =>
    cases h
    refine frames_issue ?_
    dsimp only
    split
    · exact tagsPassing_framed .refl
    · exact tagsPassing_framed fly_framed
  -- slot X
  | mcall => cases h; exact execMcall_framed
  | mcallr => cases h; exact execMcallr_framed
  | mpset | mpsetImm => cases h; exact frames_issue fly_framed
  | mpld => cases h; exact frames_issue ((fun h => .ite raise_framed h) (reading_framed fly_framed))
  | muwr => cases h; exact frames_issue ((fun h => .ite raise_framed h) (.ite raise_framed occupy_framed))
  | mrtset | mselSwap | mselS0 | mselS1 => cases h; exact frames_issue occupy_framed
  | mstat => cases h; exact frames_issue (.ite (fly_framed.trans fly_framed) fly_framed)
  -- slot N
  | send | sends => cases h; exact frames_issue sendOn_framed
  | recv | recvs => cases h; exact frames_issue (fly_framed.trans fly_framed)
  | fwd => cases h; exact execFwd_framed
  | nbcRow | nbcCol => cases h; exact frames_issue (broadcast_framed _ _)
  | nrmt => cases h; exact execNrmt_framed
  -- slot D
  | xld | xst => cases h; exact frames_issue (bounded_framed (vaPassing_framed (entering_framed newOp_framed)))
  | xatom => cases h; exact frames_issue (vaPassing_framed (bounded_framed (entering_framed newOp_framed)))
  | xcopy =>
    cases h
    exact frames_issue (.ite raise_framed (barPassing_framed (sidePassing_framed (sidePassing_framed (.ite raise_framed
      (entering_framed newOp_framed))))))
  | coll =>
    cases h
    exact frames_issue (.ite raise_framed (barPassing_framed (vaPassing_framed (vaPassing_framed (entering_framed newOp_framed)))))
  | barinit | bararr | baradd => cases h; exact barWord_framed
  | phaseR | phaseRa => cases h; exact frames_issue release_framed
  | phaseA | xpf => cases h; exact frames_issue .refl
  | ovl => cases h; exact frames_issue (.ite raise_framed (entering_framed newOp_framed))
  | launch =>
    cases h
    exact frames_issue (bounded_framed (.ite raise_framed (entering_framed (release_framed.trans (newOp_framed.trans fly_framed)))))
  | kpost => cases h; exact execKpost_framed
  | kstat => cases h; exact frames_issue fly_framed
  | _ => cases h

end

/-! ## The words of a decoded bundle (R87, R88) -/

/-- Every word of a decoded bundle is its slot's. -/
theorem decodeSlot_of_decodeWords {h : Bool} {pc : Nat} {b : BitVec 256} {named : List RegName} {ks : List SlotId} {l : List (SlotId × Instr)}
    (ok : decodeWords h pc b named ks = .ok l) : ∀ x ∈ l, decodeSlot x.1 (bundleWord b x.1) = .ok x.2 := by
  induction ks generalizing named l with
  | nil =>
    cases ok
    simp
  | cons k ks ih =>
    rw [decodeWords] at ok
    cases hd : decodeSlot k (bundleWord b k) with
    | error r => rw [hd] at ok; cases ok
    | ok i =>
      rw [hd] at ok
      dsimp only at ok
      split at ok
      · cases ok
      · split at ok
        · cases ok
        · rename_i rest
          cases ok
          intro x hx
          obtain rfl | hx := List.mem_cons.1 hx
          · exact hd
          · exact ih rest x hx

/-- A word that has an encoding has a predicate (R88). -/
theorem pred_of_encodeWord {i : Instr} {w : Nat} (h : encodeWord i = some w) : ∃ p, i.pred? = some p := by
  cases hp : i.pred? with
  | some p => exact ⟨p, rfl⟩
  | none => cases i <;> cases hp <;> cases h

/-- END and CLKDIV, the words of slot C that change what judges the bundle's own rc. -/
def Instr.atClock : Instr → Bool
  | .endC _ _ => true
  | .clkdiv _ _ _ _ => true
  | _ => false

theorem atClock_of_ckWord {w z : Nat} {r : Bool} {i j : Instr} (h : ckWord w z r j = .ok i) (hj : Instr.atClock j = false) : Instr.atClock i = false :=
  (ckWord_eq_ok_iff.1 h).2.2.2 ▸ hj

theorem atClock_ite {c : Prop} [Decidable c] {i j : Instr} (hi : Instr.atClock i = false) (hj : Instr.atClock j = false) :
    Instr.atClock (if c then i else j) = false := by
  split
  · exact hi
  · exact hj

theorem not_atClock_of_decHint {w : Nat} {i : Instr} (h : decHint w = .ok i) : Instr.atClock i = false := atClock_of_ckWord h rfl

/-- No slot but C has END or CLKDIV (R97-R104). -/
theorem not_atClock_of_decodeSlot {k : SlotId} {w : W32} {i : Instr} (hk : k ≠ .C) (h : decodeSlot k w = .ok i) : Instr.atClock i = false := by
  have ab {w : Nat} (h : decAB w = .ok i) : Instr.atClock i = false := by
    unfold decAB at h
    split at h
    case h_40 => cases h
    all_goals exact atClock_of_ckWord h rfl
  cases k with
  | C => exact absurd rfl hk
  | A => exact ab h
  | B => exact ab h
  | M =>
    change decM w.toNat = .ok i at h
    unfold decM at h
    split at h
    case h_25 => cases h
    case h_4 | h_5 | h_10 => exact atClock_of_ckWord h (atClock_ite rfl rfl)
    all_goals exact atClock_of_ckWord h rfl
  | V =>
    change decV w.toNat = .ok i at h
    unfold decV at h
    split at h
    case h_48 => cases h
    case h_43 => split at h <;> exact atClock_of_ckWord h rfl
    all_goals exact atClock_of_ckWord h rfl
  | X =>
    change decX w.toNat = .ok i at h
    unfold decX at h
    split at h
    case h_14 => cases h
    case h_4 | h_8 => split at h <;> exact atClock_of_ckWord h rfl
    all_goals exact atClock_of_ckWord h rfl
  | N =>
    change decN w.toNat = .ok i at h
    unfold decN at h
    split at h
    case h_13 => cases h
    case h_7 => exact atClock_of_ckWord h (atClock_ite rfl rfl)
    all_goals exact atClock_of_ckWord h rfl
  | D =>
    change decD w.toNat = .ok i at h
    unfold decD at h
    split at h
    case h_20 => cases h
    case h_9 => split at h <;> exact atClock_of_ckWord h rfl
    all_goals exact atClock_of_ckWord h rfl

/-! ## A context of one isle -/

section
variable {s : State} {f : State → State}

theorem State.focusIsle_alone (left : s.left = []) : s.focusIsle 0 = s := by
  have self := s.focusIsle_self
  rwa [left] at self

theorem State.isleCount_alone (left : s.left = []) (right : s.right = []) : s.isleCount = 1 := by simp [isleCount, left, right]

theorem State.isles_alone (left : s.left = []) (right : s.right = []) : s.isles = [s.core] := by simp [isles, left, right]

theorem State.isleList_alone (left : s.left = []) (right : s.right = []) : s.isleList = [0] := by rw [isleList, isleCount_alone left right]; rfl

/-- What each isle does, where there is one, is done once. -/
theorem State.eachIsle_alone (left : s.left = []) (right : s.right = []) (kept : (f s).left = []) : s.eachIsle f = f s := by
  have one : State.overIsles f (List.range s.isleCount) s = f s := by
    rw [isleCount_alone left right]
    change f (s.focusIsle 0) = f s
    rw [focusIsle_alone left]
  rw [eachIsle, one, isleIx, left]
  exact focusIsle_alone kept

end

/-! ## The words of a bundle in turn (R87, R89) -/

theorem State.Framed.mono {e d e' d' : Prop} {s t : State} (h : s.Framed e d t) (he : e' → e) (hd : d' → d) : s.Framed e' d' t :=
  { h with ended := h.ended ∘ he, clk := h.clk ∘ hd }

theorem State.run_framed {e d : Prop} {s : State} {i : Instr} (h : s.FramesOut e d (exec i s)) : s.Framed e d (s.run i) := by
  rw [run]
  split
  · exact h _ ‹_›
  · exact .refl

/-- The words of a list executed one after another on the isle in focus. -/
def State.runWords (l : List (SlotId × Instr)) (s : State) : State := l.foldl (fun s w => ({ s with slot := w.1 } : State).run w.2) s

theorem State.runWords_append (l m : List (SlotId × Instr)) (s : State) : State.runWords (l ++ m) s = State.runWords m (State.runWords l s) :=
  List.foldl_append

theorem State.issueWords_eq (test : SlotId → Bool) (l : List (SlotId × Instr)) (s : State) :
    s.issueWords test l = State.runWords (l.filter fun w => test w.1) s := by
  rw [issueWords, runWords, List.foldl_filter]

/-- Slot words in turn leave what each of them leaves. -/
theorem State.runWords_framed {e d : Prop} {l : List (SlotId × Instr)} (slot : ∀ w ∈ l, ∃ p, w.2.pred? = some p)
    (he : e → ∀ w ∈ l, ∀ p n, w.2 ≠ .endC p n) (hd : d → ∀ w ∈ l, ∀ p n k x, w.2 ≠ .clkdiv p n k x) (s : State) : s.Framed e d (s.runWords l) := by
  induction l generalizing s with
  | nil => exact .refl
  | cons w l ih =>
    obtain ⟨p, hp⟩ := slot w (by simp)
    have first : ({ s with slot := w.1 } : State).Framed e d (({ s with slot := w.1 } : State).run w.2) :=
      (run_framed (exec_framed w.2 _ hp)).mono (fun h => he h w (by simp)) (fun h => hd h w (by simp))
    have placed : s.Framed e d { s with slot := w.1 } := ⟨rfl, rfl, rfl, fun _ => rfl, fun _ => rfl, rfl, id, id⟩
    exact placed.trans (first.trans (ih (fun w hw => slot w (by simp [hw])) (fun h w hw => he h w (by simp [hw])) (fun h w hw => hd h w (by simp [hw])) _))

/-! ## A bundle that issues (R37, R86, R87) -/

section
variable {s : State} {pc : Nat} {b : BitVec 256} {l : List (SlotId × Instr)}

/-- The words of a decoded bundle are slot words. -/
theorem pred_of_decodeBundle (ok : decodeBundle false pc b = .ok l) : ∀ w ∈ l, ∃ p, w.2.pred? = some p :=
  fun w hw => pred_of_encodeWord (encode_decodeSlot (decodeSlot_of_decodeWords ok w hw)).2

/-- A decoded bundle holds END or CLKDIV, not both. -/
theorem not_both_of_decodeBundle (ok : decodeBundle false pc b = .ok l) :
    (∀ w ∈ l, ∀ p n, w.2 ≠ .endC p n) ∨ ∀ w ∈ l, ∀ p n k x, w.2 ≠ .clkdiv p n k x := by
  have atC (w : SlotId × Instr) (hw : w ∈ l) (h : Instr.atClock w.2 = true) : decodeSlot .C (bundleWord b .C) = .ok w.2 := by
    have word := decodeSlot_of_decodeWords ok w hw
    by_cases hk : w.1 = .C
    · rwa [hk] at word
    · rw [not_atClock_of_decodeSlot hk word] at h
      cases h
  refine or_iff_not_imp_left.2 fun h w hw p n k x hc => ?_
  push Not at h
  obtain ⟨v, hv, q, m, he⟩ := h
  have first := atC v hv (by rw [he]; rfl)
  have second := atC w hw (by rw [hc]; rfl)
  rw [he] at first
  rw [hc] at second
  cases first.symm.trans second

/-- After the words of a bundle the isle in focus is still alone, and it still issues unless no CLKDIV has executed. -/
theorem State.executed_framed (ok : decodeBundle false pc b = .ok l) (s : State) :
    s.Framed (∀ w ∈ l, ∀ p n, w.2 ≠ .endC p n) (∀ w ∈ l, ∀ p n k x, w.2 ≠ .clkdiv p n k x) (s.executed l) := by
  have sub : ∀ w ∈ l.filter (·.1 == .C) ++ l.filter (·.1 != .C), w ∈ l := fun w hw => by
    obtain h | h := List.mem_append.1 hw <;> exact (List.mem_filter.1 h).1
  exact runWords_framed (fun w hw => pred_of_decodeBundle ok w (sub w hw)) (fun h w hw => h w (sub w hw)) (fun h w hw => h w (sub w hw)) s

/-- The words of a bundle issued on the only isle, slot C's first. -/
theorem State.issueRc_alone (left : s.left = []) (ok : decodeBundle false pc b = .ok l) : s.issueRc [(0, .words l)] = s.executed l := by
  have first : s.Framed False False (State.runWords (l.filter (·.1 == .C)) s) :=
    runWords_framed (fun w hw => pred_of_decodeBundle ok w (List.mem_filter.1 hw).1) False.elim False.elim s
  change State.issueAll (· != .C) [(0, l)] (State.issueAll (· == .C) [(0, l)] s) = _
  have c : State.issueAll (· == .C) [(0, l)] s = State.runWords (l.filter (·.1 == .C)) s := by
    change (s.focusIsle 0).issueWords (· == .C) l = _
    rw [focusIsle_alone left, issueWords_eq]
  rw [c]
  change ((State.runWords (l.filter (·.1 == .C)) s).focusIsle 0).issueWords (· != .C) l = _
  rw [focusIsle_alone (first.left.trans left), issueWords_eq, ← runWords_append]
  rfl

/-- The next bundle that an isle fetches in normal mode (R86, R87, R200). -/
theorem State.fetch_of_page (normal : s.core.handler = false) (range : modeRange false s.core.pc = true) (mapped : ∃ o, (s.core.pc / 64, o) ∈ s.core.imap)
    (found : s.core.imem.find? (fun x => x.1 == s.core.pc) = some (s.core.pc, b)) (clean : (4, s.core.pc) ∉ s.core.poison)
    (quiet : ∀ k : Fin 4, s.core.bkpt[k].getLsbD 31 = false) :
    s.fetch = match decodeBundle false s.core.pc b with
      | .ok l => .words l
      | .error (k, r) => .trap { cause := 0x01, addr := s.core.pc, info := r, slot := k.idx, issued := false } := by
  have page : s.core.imap.any (fun x => x.1 == s.core.pc / 64) = true := by
    obtain ⟨o, ho⟩ := mapped
    exact List.any_eq_true.2 ⟨_, ho, by simp⟩
  have bundle : s.core.bundleAt s.core.pc = b := by rw [Isle.bundleAt, found]; rfl
  have nomatch_ : s.core.breakMatch b = none := by
    rw [Isle.breakMatch, List.findSome?_eq_none_iff]
    intro k _
    have off : bit (s.core.bkpt[k]).toNat 31 = false := by rw [bit_toNat]; exact quiet k
    simp only [off, Bool.false_and, Bool.false_eq_true, if_false]
  rw [fetch]
  simp only [normal, range, page, bundle, nomatch_, List.contains_eq_mem, clean, ite_self]
  rfl

end

/-! ## A context's turn (R37, R38, R42) -/

/-- The turn of a context of one isle that nothing holds is a region cycle. -/
theorem State.step_of_runs {s : State} {r : Region} {rest : List Nat} (agenda : s.agenda = []) (turn : s.turn = s.ctx.slot :: rest) (h : s.Runs r) :
    step s = .next ({ s with turn := rest } : State).regionCycle := by
  obtain ⟨live, ⟨left, right⟩, region, selected, going, ⟨throttled, ramp, replay⟩, owed, normal, overdue, hold, wait, ended, stall⟩ := h
  let t : State := { s with turn := rest }
  have isles : t.isles = [s.core] := isles_alone (s := t) left right
  have focus : (t.focusSlot s.ctx.slot).focusIsle 0 = t := by
    rw [focusSlot, if_pos (by simp [t, live])]
    exact focusIsle_alone left
  have here : t.hasCtx s.ctx.slot = true := by simp [hasCtx, t, live]
  have found : t.region t.ctx.rid = some r := region
  have chosen : t.selected = true := selected
  have onTime : t.isOverdue = false := overdue
  have proceeds : t.proceed = t.regionCycle := by
    have waits : t.anyWait = false := by rw [anyWait, isles, List.any_cons, List.any_nil, wait]; rfl
    have runs : t.allEnded = false := by rw [allEnded, isles, List.all_cons, ended]; rfl
    rw [proceed, waits, runs]
    rfl
  have turned : t.turnOf s.ctx.slot = t.regionCycle := by
    have active : ¬ (t.ctx.cstate = .suspending) := going
    rw [turnOf, here]
    dsimp only
    rw [focus, found]
    simp only [isles, if_neg active, chosen, throttled, ramp, replay, onTime, List.any_cons, List.any_nil, normal, owed, hold, Option.isSome_none,
      Bool.not_true, Bool.or_self, Bool.false_eq_true, if_false, Bool.false_and, proceeds]
  change s.oneStep = _
  rw [oneStep]
  split
  · rename_i i l next
    cases agenda.symm.trans next
  · split
    · rename_i n l next
      obtain ⟨rfl, rfl⟩ := List.cons.inj (turn.symm.trans next)
      exact congrArg Host.Outcome.next turned
    · rename_i next
      cases turn.symm.trans next

/-! ## The region cycle of one isle (R37, R87, R322) -/

section
variable {s : State} {pc : Nat} {b : BitVec 256} {l : List (SlotId × Instr)}

/-- Before its rc the only isle has nothing of an earlier rc left. -/
theorem State.openCycle_alone (left : s.left = []) (right : s.right = []) :
    (s.onCtx fun c => { c with safeList := none, cstate := .issuing }).openCycle = s.issuing :=
  eachIsle_alone left right left

theorem State.liveIsles_alone (left : s.left = []) (right : s.right = []) (ended : s.core.ended = false) (stall : s.core.stall = 0) :
    s.liveIsles = [0] := by
  simp [liveIsles, isleList_alone left right, focusIsle_alone left, ended, stall]

theorem State.fetchAll_alone (left : s.left = []) : State.fetchAll [0] s = [(0, s.fetch)] := by
  rw [fetchAll, List.map_singleton, focusIsle_alone left]

/-- The only isle never disagrees with another on CLKDIV (R189). -/
theorem State.clockTrap_executed (left : s.left = []) (right : s.right = []) (ended : s.core.ended = false) (stall : s.core.stall = 0)
    (clk : s.core.clk = none) (ok : decodeBundle false pc b = .ok l) : (s.executed l).clockTrap [(0, .words l)] = none := by
  have frame := executed_framed ok s
  have leftA := frame.left.trans left
  have rightA := frame.right.trans right
  have isles : (s.executed l).clkIsles [(0, .words l)] = ((s.executed l).core.clkWord.map fun k => (0, k)).toList := by
    rw [clkIsles, List.filterMap_cons]
    dsimp only
    rw [focusIsle_alone leftA]
    cases (s.executed l).core.clkWord <;> rfl
  rw [clockTrap, isles]
  cases word : (s.executed l).core.clkWord with
  | none => rfl
  | some k =>
    have agrees : (s.executed l).core.clk.isNone ∨
        ((s.executed l).liveIsles.length = (s.executed l).isleCount ∧ (s.executed l).isles.all fun c => c.clkWord == some k) := by
      obtain noEnd | noClk := not_both_of_decodeBundle ok
      · refine .inr ⟨?_, ?_⟩
        · rw [liveIsles_alone leftA rightA ((frame.ended noEnd).trans ended) (frame.stall.trans stall), isleCount_alone leftA rightA]
          rfl
        · simp [isles_alone leftA rightA, word]
      · exact .inl (by rw [frame.clk noClk, clk]; rfl)
    change (if ((s.executed l).focusIsle 0).core.clk.isNone ∨ _ then _ else _) = _
    rw [focusIsle_alone leftA, if_pos agrees]

/-- The traps before issue of the only isle's bundle. -/
theorem State.earlyTraps_executed (left : s.left = []) (right : s.right = []) (ended : s.core.ended = false) (stall : s.core.stall = 0)
    (clk : s.core.clk = none) (ok : decodeBundle false pc b = .ok l) :
    (s.executed l).earlyTraps [(0, .words l)] = ((s.executed l).trapAt 0).toList := by
  rw [earlyTraps, clockTrap_executed left right ended stall clk ok]
  dsimp only
  rw [List.filterMap_cons]
  dsimp only
  split
  · rw [‹(s.executed l).trapAt 0 = none›]
    rfl
  · rw [‹(s.executed l).trapAt 0 = some _›]
    rfl

/-- A trap of the only isle, taken at its freeze point. -/
theorem State.enterTraps_alone (left : s.left = []) (t : TrapRec) (clean : s.core.spoilt 3 3072 32 = false) :
    (((s.raised []).enterTraps [(0, t)]).focusIsle 0).core = s.core.takeTrap t s.core.pc s.core.pc := by
  have taken : (s.raised []).trapHere t s.core.pc = { s.raised [] with core := s.core.takeTrap t s.core.pc s.core.pc } := by
    rw [trapHere]
    exact if_neg (by rw [show (s.raised []).core = s.core from rfl, clean]; decide)
  have here : (s.raised []).focusIsle 0 = s.raised [] := focusIsle_alone left
  have entered : (s.raised []).enterTraps [(0, t)] =
      ({ s.raised [] with core := s.core.takeTrap t s.core.pc s.core.pc } : State).onCtx fun c => { c with safeList := none } := by
    rw [enterTraps, List.foldl_cons, List.foldl_nil]
    dsimp only
    rw [here]
    exact congrArg (fun z : State => z.onCtx fun c => { c with safeList := none }) taken
  rw [entered, focusIsle_alone (by exact left)]
  rfl

theorem State.trapAt_of_early (left : s.left = []) {t : TrapRec} (early : s.core.early = some t) : s.trapAt 0 = some (0, t, none) := by
  rw [trapAt, focusIsle_alone left, early]

theorem State.trapAt_of_none (left : s.left = []) (early : s.core.early = none) (deferred : s.core.deferred = none) : s.trapAt 0 = none := by
  rw [trapAt, focusIsle_alone left, early, deferred]

/-- A bundle that traps before issue enters the handler and does nothing else. -/
theorem State.issueCycle_traps {f : List (Nat × Fetched)} {t : TrapRec} (left : s.left = []) (clean : s.core.spoilt 3 3072 32 = false)
    (traps : (s.issueRc f).earlyTraps f = [(0, t, none)]) : (s.issueCycle f).core = s.core.takeTrap t s.core.pc s.core.pc := by
  rw [issueCycle, traps]
  exact enterTraps_alone left t clean

/-- A bundle that issues. -/
theorem State.issueCycle_issues {w : List (SlotId × Instr)} {a : State} (leftA : a.left = []) (rightA : a.right = []) (hold : a.core.hold = none)
    (agendaA : a.agenda = []) (rc : s.issueRc [(0, .words w)] = a) (left : s.left = []) (traps : a.earlyTraps [(0, .words w)] = []) :
    s.issueCycle [(0, .words w)] = (a.counted s.core w).finishCycle [(0, w)] := by
  have none_held : a.isles.any (·.hold.isSome) = false := by simp [isles_alone leftA rightA, hold]
  have counts : a.countAll 0x01 = a.onCore (·.count 0x01 1) := eachIsle_alone leftA rightA leftA
  have here : (a.onCore (·.count 0x01 1)).focusIsle 0 = a.onCore (·.count 0x01 1) := focusIsle_alone leftA
  have vec : (List.foldl (fun (t : State) (x : Nat × List (SlotId × Instr)) => let t := t.focusIsle x.1
      if x.2.any (vecWord (s.focusIsle x.1).core) then { t with core := t.core.count 0x02 1 } else t) (a.countAll 0x01) [(0, w)]) =
      a.counted s.core w := by
    rw [List.foldl_cons, List.foldl_nil]
    dsimp only
    rw [counts, here, focusIsle_alone left]
    rfl
  have leftC : (a.counted s.core w).left = [] := by
    rw [counted]
    split <;> exact leftA
  rw [issueCycle, rc, traps]
  dsimp only
  rw [none_held, if_neg (by decide), if_neg (by rw [agendaA]; exact Nat.not_lt_zero _)]
  change (State.focusIsle (List.foldl _ _ [(0, w)]) 0).finishCycle [(0, w)] = _
  rw [vec, focusIsle_alone leftC]

/-- The region cycle of the only isle, by what it fetches. -/
theorem State.regionCycle_alone (left : s.left = []) (right : s.right = []) (ended : s.core.ended = false) (stall : s.core.stall = 0)
    (kept : s.issuing.fetch ≠ .lost) :
    s.regionCycle = if (wordsOf [(0, s.issuing.fetch)]).any fun x => s.issuing.bundleWaits x.2
      then ((s.issuing.countAll 0x01).countAll 0x07).finishCycle [] else s.issuing.issueCycle [(0, s.issuing.fetch)] := by
  have live : s.issuing.liveIsles = [0] := liveIsles_alone (s := s.issuing) left right ended stall
  have fetched : State.fetchAll [0] s.issuing = [(0, s.issuing.fetch)] := fetchAll_alone (s := s.issuing) left
  have not_lost : [(0, s.issuing.fetch)].find? (fun x => x.2 == .lost) = none := by simp [kept]
  have waits : ((wordsOf [(0, s.issuing.fetch)]).any fun x => (s.issuing.focusIsle x.1).bundleWaits x.2) =
      (wordsOf [(0, s.issuing.fetch)]).any fun x => s.issuing.bundleWaits x.2 := by
    rw [wordsOf, List.filterMap_cons]
    cases s.issuing.fetch with
    | words w =>
      change ([(0, w)].any fun x => (s.issuing.focusIsle x.1).bundleWaits x.2) = [(0, w)].any fun x => s.issuing.bundleWaits x.2
      rw [List.any_cons, List.any_cons, focusIsle_alone (s := s.issuing) left]
      rfl
    | _ => rfl
  rw [regionCycle, openCycle_alone left right]
  dsimp only
  rw [live, fetched, not_lost, waits]

end

/-! ## The end of an rc in which nothing lands (R37, R189, R378) -/

/-- A context of one isle whose engine, network and results in flight are idle. -/
structure State.Idle (c : Ctx) (s : State) : Prop where
  ctx : s.ctx = c
  left : s.left = []
  right : s.right = []
  normal : s.core.handler = false
  flights : s.core.flights = []
  words : c.words = []
  running : s.core.mat.running = none
  landing : s.core.mat.landing = []

section
variable {c : Ctx} {s : State}

theorem State.Idle.inFlight (h : s.Idle c) : s.core.inFlight = [] := by
  rw [Isle.inFlight, h.normal]
  exact h.flights

theorem State.Idle.each (h : s.Idle c) (f : State → State) (kept : (f s).Idle c) : (s.eachIsle f).Idle c := by
  rwa [eachIsle_alone h.left h.right kept.left]

theorem State.Idle.performAll (h : s.Idle c) : s.performAll.Idle c := by
  have none_due : s.accessesDue = [] := by rw [accessesDue, h.inFlight]; rfl
  rw [State.performAll, none_due]
  exact h

theorem State.Idle.serveAll (h : s.Idle c) : s.serveAll.Idle c := by
  have none_due : s.remotesDue = [] := by rw [remotesDue, h.flights]; rfl
  rw [State.serveAll, none_due]
  exact h

theorem State.Idle.matCyclesOf (h : s.Idle c) (l : List Nat) : (State.matCyclesOf l s).Idle c := by
  have idle : s.muRunning = none := by rw [muRunning, h.running]
  induction l with
  | nil => exact h
  | cons u l ih =>
    have unstopped : s.muBreak = none := by rw [muBreak, idle]
    have cycle (due : Nat) : s.matCycle due = s := by rw [matCycle, idle]
    rw [State.matCyclesOf, unstopped]
    dsimp only
    rw [cycle]
    split
    · exact { h with }
    · exact ih

theorem State.Idle.landAll (h : s.Idle c) (test : Eff → Bool) : (s.landAll test).Idle c := by
  rw [State.landAll, h.inFlight]
  exact h

theorem State.Idle.closeNetwork (h : s.Idle c) : s.closeNetwork.Idle c := by
  have no_words : s.ctx.words = [] := by rw [h.ctx, h.words]
  rw [State.closeNetwork, no_words]
  exact h

theorem State.Idle.stageMuwr (h : s.Idle c) (rc : Nat) : (s.stageMuwr rc).Idle c := by
  unfold State.stageMuwr
  split
  · exact h
  · split <;> exact { h with }

theorem State.Idle.intervalEnd (h : s.Idle c) : (s.run .engineIntervalEnd).Idle c := by
  have same : s.core.intervalEnd s.ctx.rcycle = s.core := by rw [Isle.intervalEnd, h.running]
  change (({ s with core := s.core.intervalEnd s.ctx.rcycle } : State).stageMuwr (s.ctx.rcycle + 1)).Idle c
  rw [same]
  exact h.stageMuwr _

theorem State.Idle.endEngine (h : s.Idle c) : s.endEngine.Idle c := by
  have commit : s.core.matCommit s.ctx.rcycle = s.core := by
    have none_lands (p : Landing → Bool) : s.core.mat.landing.filter p = s.core.mat.landing := by rw [h.landing]; rfl
    have nothing (p : Landing → Bool) : s.core.mat.landing.filter p = [] := by rw [h.landing]; rfl
    rw [Isle.matCommit, nothing (fun l => decide (l.due ≤ s.ctx.rcycle)), none_lands]
    rfl
  have same : s.onCore (·.matCommit s.ctx.rcycle) = s := congrArg (fun x => { s with core := x }) commit
  rw [State.endEngine, same]
  split
  · exact h
  · exact h.intervalEnd

theorem Isle.expire_idle (k : Isle) (rc : Nat) (d : Dir) : ∃ f, k.expire rc d = { k with fwd := f } := by
  unfold expire
  split
  · split
    · exact ⟨_, rfl⟩
    · exact ⟨_, rfl⟩
  · exact ⟨_, rfl⟩

theorem State.Idle.expires (h : s.Idle c) (d : Dir) : (s.run (.fwdWindowExpiry d)).Idle c := by
  obtain ⟨f, hf⟩ := s.core.expire_idle s.ctx.rcycle d
  change State.Idle c { s with core := s.core.expire s.ctx.rcycle d }
  rw [hf]
  exact { h with }

theorem State.Idle.endIntervals (h : s.Idle c) : s.endIntervals.Idle c :=
  ((((h.endEngine.expires .n).expires .e).expires .s).expires .w)

/-- An rc's accesses, MAT cycles, arrivals, landings and intervals. -/
def State.closed (s : State) : State :=
  let t := (s.eachIsle State.performAll).eachIsle State.serveAll
  let t := (t.eachIsle (State.matCyclesOf t.matTicks)).eachIsle (·.landAll Eff.first)
  ((t.closeNetwork.eachIsle (·.landAll fun e => !e.isSys)).eachIsle State.endIntervals).eachIsle (·.landAll Eff.isSys)

theorem State.Idle.closed (h : s.Idle c) : s.closed.Idle c := by
  have h := h.each _ h.performAll
  have h := h.each _ h.serveAll
  have h := h.each _ (h.matCyclesOf ((s.eachIsle State.performAll).eachIsle State.serveAll).matTicks)
  have h := h.each (·.landAll Eff.first) (h.landAll _)
  have h := h.closeNetwork
  have h := h.each (·.landAll fun e => !e.isSys) (h.landAll _)
  have h := h.each _ h.endIntervals
  exact h.each (·.landAll Eff.isSys) (h.landAll _)

/-- The isle in focus goes on to its next bundle. -/
theorem State.Idle.steps (h : s.Idle c) (l : List (Nat × List (SlotId × Instr))) :
    (s.eachIsle fun t => t.onCore (·.stepPc (l.any (·.1 == t.isleIx)))).ctx = c := by
  have stepped := eachIsle_alone (f := fun t => t.onCore (·.stepPc (l.any (·.1 == t.isleIx)))) h.left h.right h.left
  rw [stepped]
  exact h.ctx

/-- The clocks at the end of an rc: RCYCLE, the ticks, and the divisor of a CLKDIV (R189, R378). -/
def State.ticked (s : State) (clk : Option (ClkClass × Nat)) : State :=
  let t := s.onCtx fun c => { c with rcycle := c.rcycle + 1, e := c.e + s.divOf .ctl }
  match clk with
  | some k => t.setClock k
  | none => t

/-- The clocks of a context whose rc has ended, as those of the one that began it. -/
theorem State.ticked_ctx (t : State) (clk : Option (ClkClass × Nat)) (same : t.ctx = s.ctx) :
    (match clk with
      | some k => (t.onCtx fun c => { c with rcycle := c.rcycle + 1, e := c.e + s.divOf .ctl }).setClock k
      | none => t.onCtx fun c => { c with rcycle := c.rcycle + 1, e := c.e + s.divOf .ctl } : State).ctx = (s.ticked clk).ctx := by
  cases clk with
  | none => exact congrArg (fun c : Ctx => { c with rcycle := c.rcycle + 1, e := c.e + s.divOf .ctl }) same
  | some k =>
    exact congrArg (fun c : Ctx => { c with
      rcycle := c.rcycle + 1, e := c.e + s.divOf .ctl, div := c.div.set k.1.ix (k.2 + 1), eX := c.eX.set k.1.ix (c.e + s.divOf .ctl) }) same

theorem State.closeCycle_ctx (h : s.Idle s.ctx) (l : List (Nat × List (SlotId × Instr))) :
    (s.closeCycle l).ctx = (s.ticked s.core.clk).ctx := by
  have closed := h.closed
  rw [← ticked_ctx _ s.core.clk (closed.steps l), closeCycle]
  rfl

end

/-! ## What a step does first (log 4) -/

section
variable {s : State}

theorem State.step_of_agenda {i : Instr} {rest : List Instr} (agenda : s.agenda = i :: rest) : step s = exec i { s with agenda := rest } := by
  change s.oneStep = _
  rw [oneStep]
  split
  · rename_i next
    cases agenda.symm.trans next
    rfl
  · rename_i next
    cases agenda.symm.trans next

theorem State.run_of_next {i : Instr} {t : State} (h : exec i s = .next t) : s.run i = t := by rw [run, h]

theorem State.step_of_round (agenda : s.agenda = []) (turn : s.turn = []) : step s = .next s.round := by
  change s.oneStep = _
  rw [oneStep]
  split
  · rename_i next
    cases agenda.symm.trans next
  · split
    · rename_i next
      cases turn.symm.trans next
    · rfl

/-- A round in which nothing is due (log 4). -/
theorem State.round_of_quiet (ctx : s.allCtx = []) (due : ({ s with now := s.now + 1, turn := [] } : State).dueEvents = [])
    (interval : (s.now + 1) / 20000 ≤ s.interval) (walk : (s.now + 1) % 2000000 ≠ 0) : s.round = { s with now := s.now + 1, turn := [] } := by
  let u : State := { s with now := s.now + 1, turn := [] }
  have clock : u.clockEvents = [] := by
    rw [clockEvents, if_neg (Nat.not_lt.2 interval), if_neg walk]
    rfl
  have internal : u.nextInternal = none := by
    rw [nextInternal, due]
    rfl
  have turns : (s.allCtx.map fun (c : Ctx) => c.slot).sorted (fun a b => decide (a ≤ b)) = [] := by rw [ctx]; rfl
  rw [round, turns]
  dsimp only
  change (if !u.clockEvents.isEmpty then _ else match u.nextInternal with | none => u | some i => _) = u
  rw [clock, internal]
  rfl

/-- The micro-sequencer runs the micro-word at its micro-PC (R230, R233). -/
theorem State.muIssue_of_decodes {r : Routine} {w : W64} {i : Instr} (going : r.returned = false) (word : s.core.ustore[r.upc]? = some w)
    (clean : (5, r.upc) ∉ s.core.poison) (ok : decodeMicro w = some i) : s.muIssue r = s.run i := by
  have unpoisoned : s.core.poison.contains (5, r.upc) = false := by rw [List.contains_eq_mem]; exact decide_eq_false clean
  rw [muIssue, going, word]
  dsimp only
  rw [unpoisoned, ok]
  rfl

end

/-! ## A step runs what it fetches -/

section
variable {s : State} {r : Region} {rest : List Nat} {b : BitVec 256}

/-- A page that holds the bundle at the PC of the only isle, in normal mode, clean and without breakpoints (R86, R87, R200). -/
structure State.Fetches (s : State) (b : BitVec 256) : Prop where
  range : modeRange false s.core.pc = true
  mapped : ∃ o, (s.core.pc / 64, o) ∈ s.core.imap
  found : s.core.imem.find? (fun x => x.1 == s.core.pc) = some (s.core.pc, b)
  clean : (4, s.core.pc) ∉ s.core.poison
  quiet : ∀ k : Fin 4, s.core.bkpt[k].getLsbD 31 = false

/-- The words of its bundle issue in the turn of a context of one isle. -/
theorem State.step_of_words {l : List (SlotId × Instr)} (agenda : s.agenda = []) (turn : s.turn = s.ctx.slot :: rest) (runs : s.Runs r) (page : s.Fetches b)
    (ok : decodeBundle false s.core.pc b = .ok l) (free : ({ s with turn := rest } : State).issuing.bundleWaits l = false) :
    step s = .next (({ s with turn := rest } : State).issuing.issueCycle [(0, .words l)]) := by
  obtain ⟨left, right⟩ := runs.alone
  have fetched : ({ s with turn := rest } : State).issuing.fetch = .words l := by
    rw [fetch_of_page (s := ({ s with turn := rest } : State).issuing) runs.normal page.range page.mapped page.found page.clean page.quiet]
    change (match decodeBundle false s.core.pc b with | .ok l => Fetched.words l | .error (k, r) => _) = _
    rw [ok]
  have cycle := regionCycle_alone (s := { s with turn := rest }) left right runs.notEnded runs.noStall (by rw [fetched]; nofun)
  have goes : ((wordsOf [(0, Fetched.words l)]).any fun x => ({ s with turn := rest } : State).issuing.bundleWaits x.2) = false := by
    change ([(0, l)].any fun x => ({ s with turn := rest } : State).issuing.bundleWaits x.2) = false
    rw [List.any_cons, free]
    rfl
  rw [fetched, goes] at cycle
  exact (step_of_runs agenda turn runs).trans (congrArg _ cycle)

/-- A bundle that does not decode traps in the turn of a context of one isle. -/
theorem State.step_of_error {k : SlotId} {reason : Nat} (agenda : s.agenda = []) (turn : s.turn = s.ctx.slot :: rest) (runs : s.Runs r) (page : s.Fetches b)
    (err : decodeBundle false s.core.pc b = .error (k, reason)) :
    step s = .next (({ s with turn := rest } : State).issuing.issueCycle
      [(0, .trap { cause := 1, addr := s.core.pc, info := reason, slot := k.idx, issued := false })]) := by
  obtain ⟨left, right⟩ := runs.alone
  have fetched : ({ s with turn := rest } : State).issuing.fetch =
      .trap { cause := 1, addr := s.core.pc, info := reason, slot := k.idx, issued := false } := by
    rw [fetch_of_page (s := ({ s with turn := rest } : State).issuing) runs.normal page.range page.mapped page.found page.clean page.quiet]
    change (match decodeBundle false s.core.pc b with | .ok l => Fetched.words l | .error (k, r) => _) = _
    rw [err]
    rfl
  have cycle := regionCycle_alone (s := { s with turn := rest }) left right runs.notEnded runs.noStall (by rw [fetched]; nofun)
  rw [fetched] at cycle
  exact (step_of_runs agenda turn runs).trans (congrArg _ cycle)

/-- In its turn a context of one isle issues the bundle at its PC, or enters the handler (R37, R86, R87, R89, R322). -/
theorem State.turn_issues (agenda : s.agenda = []) (turn : s.turn = s.ctx.slot :: rest) (runs : s.Runs r) (page : s.Fetches b) :
    let u := ({ s with turn := rest } : State).issuing
    (∀ l, decodeBundle false s.core.pc b = .ok l → u.bundleWaits l = false →
      let a := u.executed l
      a.isles = [a.core] →
      (a.core.early = none → a.core.deferred = none → a.core.hold = none → a.agenda = [] →
        step s = .next ((a.counted u.core l).finishCycle [(0, l)])) ∧
      (∀ t, a.core.early = some t → s.core.spoilt 3 3072 32 = false → ∃ z, step s = .next z ∧ z.core = u.core.takeTrap t s.core.pc s.core.pc)) ∧
    (∀ k reason, decodeBundle false s.core.pc b = .error (k, reason) → s.core.spoilt 3 3072 32 = false → ∃ z, step s = .next z ∧
      z.core = u.core.takeTrap { cause := 1, addr := s.core.pc, info := reason, slot := k.idx, issued := false } s.core.pc s.core.pc) := by
  intro u
  obtain ⟨left, right⟩ := runs.alone
  have leftU : u.left = [] := left
  have rightU : u.right = [] := right
  refine ⟨?_, fun k reason err clean => ?_⟩
  · intro l ok free a _
    have frame := executed_framed ok u
    have leftA : a.left = [] := frame.left.trans leftU
    have issued : u.issueRc [(0, .words l)] = a := issueRc_alone leftU ok
    have stepped := step_of_words agenda turn runs page ok free
    have traps : a.earlyTraps [(0, .words l)] = (a.trapAt 0).toList := earlyTraps_executed leftU rightU runs.notEnded runs.noStall rfl ok
    refine ⟨fun early deferred hold agendaA => ?_, fun t early clean => ⟨_, stepped, ?_⟩⟩
    · rw [trapAt_of_none leftA early deferred] at traps
      rw [stepped]
      exact congrArg _ (issueCycle_issues leftA (frame.right.trans rightU) hold agendaA issued leftU traps)
    · refine issueCycle_traps (s := u) leftU clean ?_
      rw [issued, traps, trapAt_of_early leftA early]
      rfl
  · exact ⟨_, step_of_error agenda turn runs page err, issueCycle_traps (s := u) leftU clean rfl⟩

end

/-- Settles O54: a step runs the event that stands first, or the turn of a context, or a new round. -/
theorem stepRunsDecodedInstructions : Obligations.StepRunsDecodedInstructions := by
  refine ⟨fun s i rest => State.step_of_agenda, fun i s t => State.run_of_next,
    fun s r rest b agenda turn runs range mapped found clean quiet => State.turn_issues agenda turn runs ⟨range, mapped, found, clean, quiet⟩,
    fun s r w i => State.muIssue_of_decodes, fun s l left right normal flights words running landing => ?_, fun s agenda turn => ?_⟩
  · have idle : s.Idle s.ctx := ⟨rfl, left, right, normal, flights, words, running, landing⟩
    have close := State.closeCycle_ctx idle l
    refine ⟨fun clk => ?_, fun k d clk => ?_⟩ <;> rw [close, clk] <;> rfl
  · exact ⟨⟨_, State.step_of_round agenda turn⟩, fun ctx due interval walk =>
      (State.step_of_round agenda turn).trans (congrArg _ (State.round_of_quiet ctx due interval walk))⟩

end Sys2Proof.Machine
end

section
/-! PROOFS. The events of waits (R352, R359, R371, R375) -/

namespace Sys2Proof.Machine

/-! ## The isles of the context in focus (R26) -/

section
variable {s t : State} {n : Nat}

theorem State.length_isles (s : State) : s.isles.length = s.isleCount := by
  rw [isles, isleCount, List.length_append, List.length_reverse, List.length_cons]
  omega

/-- Bringing an isle into focus moves the focus only. -/
theorem State.focusIsle_eq (s : State) (n : Nat) : ∃ c l r, s.focusIsle n = { s with core := c, left := l, right := r } := by
  unfold focusIsle
  split
  · exact ⟨s.core, s.left, s.right, rfl⟩
  · exact ⟨_, _, _, rfl⟩

@[simp] theorem State.focusIsle_ctx (s : State) (n : Nat) : (s.focusIsle n).ctx = s.ctx := by
  obtain ⟨c, l, r, h⟩ := s.focusIsle_eq n
  rw [h]

@[simp] theorem State.focusIsle_others (s : State) (n : Nat) : (s.focusIsle n).others = s.others := by
  obtain ⟨c, l, r, h⟩ := s.focusIsle_eq n
  rw [h]

@[simp] theorem State.focusIsle_dram (s : State) (n : Nat) : (s.focusIsle n).dram = s.dram := by
  obtain ⟨c, l, r, h⟩ := s.focusIsle_eq n
  rw [h]

@[simp] theorem State.focusIsle_isles (s : State) (n : Nat) : (s.focusIsle n).isles = s.isles := by
  unfold focusIsle
  split
  · rfl
  · next c r h =>
    rw [isles]
    dsimp only
    rw [List.reverse_reverse, ← h, List.take_append_drop]

@[simp] theorem State.focusIsle_isleCount (s : State) (n : Nat) : (s.focusIsle n).isleCount = s.isleCount := by
  rw [← length_isles, focusIsle_isles, length_isles]

/-- The isle of an index, in focus. -/
theorem State.focusIsle_of_lt (h : n < s.isleCount) : (s.focusIsle n).isleIx = n ∧ s.isles[n]? = some (s.focusIsle n).core := by
  have inside : n < s.isles.length := by rwa [length_isles]
  unfold focusIsle
  split
  · next h => exact absurd (List.drop_eq_nil_iff.1 h) (by omega)
  · next c r h =>
    refine ⟨?_, ?_⟩
    · rw [isleIx, List.length_reverse, List.length_take]
      omega
    · have first := List.getElem?_drop (xs := s.isles) (i := n) (j := 0)
      rw [h] at first
      exact first.symm

/-- A change of the isle in focus changes it alone. -/
theorem State.isles_core (s : State) (c : Isle) : ({ s with core := c } : State).isles = s.isles.set s.isleIx c := by
  rw [isles, isles, isleIx, List.set_append_right _ _ (by rw [List.length_reverse]), List.length_reverse, Nat.sub_self, List.set_cons_zero]

theorem State.isles_ix (s : State) : s.isles[s.isleIx]? = some s.core := by
  rw [isles, isleIx, List.getElem?_append_right (by rw [List.length_reverse]), List.length_reverse, Nat.sub_self, List.getElem?_cons_zero]

theorem State.isleIx_lt (s : State) : s.isleIx < s.isleCount := by
  rw [isleIx, isleCount]
  omega

theorem State.overIsles_eq (f : State → State) (l : List Nat) (s : State) : State.overIsles f l s = l.foldl (fun t n => f (t.focusIsle n)) s := by
  induction l generalizing s with
  | nil => rfl
  | cons n l ih => exact ih _

/-- What holds of the state as each isle in turn has its change, holds when all have. -/
theorem State.overIsles_range {P : Nat → State → Prop} {f : State → State} (start : P 0 s) (next : ∀ k t, k < n → P k t → P (k + 1) (f (t.focusIsle k))) :
    P n (State.overIsles f (List.range n) s) := by
  rw [overIsles_eq]
  induction n with
  | zero => exact start
  | succ n ih =>
    rw [List.range_succ, List.foldl_append]
    exact next n _ (Nat.lt_succ_self n) (ih fun k t hk => next k t (by omega))

/-- What each isle's change keeps, and the change of focus, the changes of all keep. -/
theorem State.eachIsle_keeps {P : State → Prop} {f : State → State} (start : P s) (focus : ∀ t n, P t → P (t.focusIsle n)) (next : ∀ t, P t → P (f t)) :
    P (s.eachIsle f) :=
  focus _ _ (overIsles_range (P := fun _ => P) start fun k t _ h => next _ (focus t k h))

end

/-! ## Waits consumed together (R371, R375) -/

/-- The wait and the flags of an isle stand. -/
structure Isle.SameWait (c d : Isle) : Prop where
  wait : d.wait = c.wait
  flag : d.flag = c.flag

/-- The wait of an isle has been consumed. -/
structure Isle.Consumed (c d : Isle) : Prop where
  wait : d.wait = none
  counted : ∀ f k sig, c.wait = some (.flag f k sig) → d.flag = c.flag.set f (c.flag[f] - BitVec.ofNat 16 k)
  kept : (∀ f k sig, c.wait ≠ some (.flag f k sig)) → d.flag = c.flag

theorem Isle.SameWait.refl {c : Isle} : c.SameWait c := ⟨rfl, rfl⟩

theorem Isle.SameWait.trans {c d k : Isle} (h : c.SameWait d) (g : d.SameWait k) : c.SameWait k := ⟨g.wait.trans h.wait, g.flag.trans h.flag⟩

theorem Isle.SameWait.consumed {c d k : Isle} (h : c.SameWait d) (g : d.Consumed k) : c.Consumed k :=
  ⟨g.wait, by rw [← h.wait, ← h.flag]; exact g.counted, by rw [← h.wait, ← h.flag]; exact g.kept⟩

theorem Isle.Consumed.same {c d k : Isle} (h : c.Consumed d) (g : d.SameWait k) : c.Consumed k :=
  ⟨g.wait.trans h.wait, fun f n sig w => g.flag.trans (h.counted f n sig w), fun w => g.flag.trans (h.kept w)⟩

/-- Every isle of one state is related to the isle of its index of the other, and the context and the others stand. -/
structure State.Isleswise (R : Nat → Isle → Isle → Prop) (s t : State) : Prop where
  count : t.isleCount = s.isleCount
  ctx : t.ctx = s.ctx
  others : t.others = s.others
  isle : ∀ i c d, s.isles[i]? = some c → t.isles[i]? = some d → R i c d

section
variable {s t u : State} {R Q : Nat → Isle → Isle → Prop}

theorem State.Isleswise.focus (h : s.Isleswise R t) (n : Nat) : s.Isleswise R (t.focusIsle n) :=
  ⟨by rw [focusIsle_isleCount, h.count], by rw [focusIsle_ctx, h.ctx], by rw [focusIsle_others, h.others], by rw [focusIsle_isles]; exact h.isle⟩

/-- Two changes, one after the other. -/
theorem State.Isleswise.trans {R' : Nat → Isle → Isle → Prop} (h : s.Isleswise R t) (g : t.Isleswise Q u) (join : ∀ i c d e, R i c d → Q i d e → R' i c e) :
    s.Isleswise R' u := by
  refine ⟨g.count.trans h.count, g.ctx.trans h.ctx, g.others.trans h.others, fun i c e hc he => ?_⟩
  have inside : i < t.isles.length := by
    have hi := (List.getElem?_eq_some_iff.1 hc).1
    rwa [length_isles, h.count, ← length_isles]
  exact join i c _ e (h.isle i c _ hc (List.getElem?_eq_getElem inside)) (g.isle i _ e (List.getElem?_eq_getElem inside) he)

/-- A change of the isle in focus. -/
theorem State.Isleswise.of_core {c : Isle} (own : R s.isleIx s.core c) (refl : ∀ i c, i ≠ s.isleIx → R i c c) : s.Isleswise R { s with core := c } := by
  refine ⟨rfl, rfl, rfl, fun i d e hd he => ?_⟩
  rw [isles_core] at he
  by_cases hi : s.isleIx = i
  · subst hi
    rw [isles_ix] at hd
    rw [List.getElem?_set_self (by rw [length_isles]; exact isleIx_lt s)] at he
    cases hd
    cases he
    exact own
  · rw [List.getElem?_set_ne hi, hd] at he
    cases he
    exact refl i d (Ne.symm hi)

end

section
variable {s : State}

theorem Isle.record_sameWait (c : Isle) (r : W64) : c.SameWait (c.record r) := by
  unfold record
  dsimp only
  split <;> exact ⟨rfl, rfl⟩

/-- Records of a collective leave waits and flags. -/
theorem Isle.takeColl_sameWait (c : Isle) (ref : W64) (ph : Nat) : c.SameWait (c.takeColl ref ph) := by
  have records (l : List CollRec) (d : Isle) : d.SameWait (l.foldl (fun c r => c.record r.record) d) := by
    induction l generalizing d with
    | nil => exact .refl
    | cons r l ih => exact (record_sameWait d r.record).trans (ih _)
  exact SameWait.trans (⟨rfl, rfl⟩ : c.SameWait { c with collRecs := c.collRecs.filter fun r => !r.covered ref ph }) (records _ _)

theorem State.Isleswise.refl : s.Isleswise (fun _ => Isle.SameWait) s :=
  ⟨rfl, rfl, rfl, fun i c d hc hd => by rw [hc] at hd; cases hd; exact .refl⟩

theorem State.showColl_isleswise (s : State) (ref : W64) (ph : Nat) : s.Isleswise (fun _ => Isle.SameWait) (s.showColl ref ph) := by
  have here (t : State) : t.Isleswise (fun _ => Isle.SameWait) (t.onCore (·.takeColl ref ph)) :=
    .of_core (Isle.takeColl_sameWait _ ref ph) fun _ _ _ => .refl
  unfold showColl
  split
  · exact here s
  · split
    · exact .refl
    · exact eachIsle_keeps .refl (fun t n h => h.focus n) fun t h => h.trans (here t) fun _ _ _ _ => Isle.SameWait.trans

/-- Consuming the wait of the isle in focus. -/
theorem State.consume_isleswise (s : State) :
    s.Isleswise (fun i c d => (i = s.isleIx → c.Consumed d) ∧ (i ≠ s.isleIx → c.SameWait d)) s.consume := by
  have place {c : Isle} (own : s.core.Consumed c) :
      s.Isleswise (fun i c d => (i = s.isleIx → c.Consumed d) ∧ (i ≠ s.isleIx → c.SameWait d)) { s with core := c } :=
    .of_core ⟨fun _ => own, fun h => absurd rfl h⟩ fun i c h => ⟨fun g => absurd g h, fun _ => .refl⟩
  unfold consume
  split
  · next f n sig wait => exact place ⟨rfl, fun f' n' sig' w => by cases wait.symm.trans w; rfl, fun h => absurd wait (h _ _ _)⟩
  · next ref ph sig met wait =>
    have cleared := place (c := { s.core with wait := none }) ⟨rfl, fun f' n' sig' w => (nomatch wait.symm.trans w), fun _ => rfl⟩
    exact cleared.trans (showColl_isleswise _ ref ph) fun i c d k h g =>
      ⟨fun hi => (h.1 hi).same g, fun hi => (h.2 hi).trans g⟩
  · next none_flag _ => exact place ⟨rfl, fun f' n' sig' h => absurd h (none_flag _ _ _), fun _ => rfl⟩

/-- Where all waits are consumed together, each isle's is. -/
theorem State.consumeEach_isleswise (s : State) : s.Isleswise (fun _ => Isle.Consumed) (s.eachIsle State.consume) := by
  have all : s.Isleswise (fun i c d => (i < s.isleCount → c.Consumed d) ∧ (s.isleCount ≤ i → c.SameWait d))
      (State.overIsles State.consume (List.range s.isleCount) s) := by
    refine overIsles_range (P := fun k t => s.Isleswise (fun i c d => (i < k → c.Consumed d) ∧ (k ≤ i → c.SameWait d)) t) ?_ fun k t hk h => ?_
    · exact ⟨rfl, rfl, rfl, fun i c d hc hd => by rw [hc] at hd; cases hd; exact ⟨nofun, fun _ => .refl⟩⟩
    · have place : (t.focusIsle k).isleIx = k := (focusIsle_of_lt (h.count ▸ hk)).1
      refine (h.focus k).trans (consume_isleswise (t.focusIsle k)) fun i c d e before now => ?_
      rw [place] at now
      refine ⟨fun hi => ?_, fun hi => (before.2 (by omega)).trans (now.2 (by omega))⟩
      obtain hi | rfl := Nat.lt_succ_iff_lt_or_eq.1 hi
      · exact (before.1 hi).same (now.2 (by omega))
      · exact (before.2 le_rfl).consumed (now.1 rfl)
  refine ⟨(all.focus _).count, (all.focus _).ctx, (all.focus _).others, fun i c d hc hd => ((all.focus _).isle i c d hc hd).1 ?_⟩
  rw [← length_isles]
  exact (List.getElem?_eq_some_iff.1 hc).1

theorem State.allWaitsMet_iff (s : State) : s.allWaitsMet = true ↔ ∀ n, n < s.isleCount → (s.focusIsle n).waitMet = true := by
  rw [allWaitsMet, List.all_eq_true]
  exact ⟨fun h n hn => h n (List.mem_range.2 hn), fun h n hn => h n (List.mem_range.1 hn)⟩

theorem State.exec_waitSatisfied_of_unmet (unmet : s.allWaitsMet = false) : exec .waitSatisfied s = .next s := by
  change Host.Outcome.next (if s.allWaitsMet then s.eachIsle State.consume else s) = _
  rw [unmet]
  rfl

theorem State.exec_waitSatisfied_of_met (met : s.allWaitsMet = true) : exec .waitSatisfied s = .next (s.eachIsle State.consume) := by
  change Host.Outcome.next (if s.allWaitsMet then s.eachIsle State.consume else s) = _
  rw [met]
  rfl

end

/-! ## The events of waits (R352, R359, R371, R375) -/

section
variable {s t : State}

/-- A wait of the only isle that is satisfied. -/
theorem State.exec_waitSatisfied_alone (left : s.left = []) (right : s.right = []) (met : s.waitMet = true) (kept : s.consume.left = []) :
    exec .waitSatisfied s = .next s.consume := by
  have all : s.allWaitsMet = true := by
    rw [allWaitsMet, isleCount_alone left right]
    change ([0].all fun n => (s.focusIsle n).waitMet) = true
    rw [List.all_cons, focusIsle_alone left, met]
    rfl
  rw [exec_waitSatisfied_of_met all, eachIsle_alone left right kept]

/-- A wait of the only isle that is not. -/
theorem State.exec_waitSatisfied_unmet (left : s.left = []) (unmet : s.waitMet = false) : exec .waitSatisfied s = .next s := by
  refine exec_waitSatisfied_of_unmet (Bool.eq_false_iff.2 fun h => ?_)
  have own := (allWaitsMet_iff s).1 h 0 (Nat.lt_of_le_of_lt (Nat.zero_le _) s.isleIx_lt)
  rw [focusIsle_alone left, unmet] at own
  cases own

theorem State.consume_of_flag {f : Fin 32} {n : Nat} {sig : Option (Fin 4)} (wait : s.core.wait = some (.flag f n sig)) :
    s.consume = s.onCore fun c => { c with wait := none, flag := c.flag.set f (c.flag[f] - BitVec.ofNat 16 n) } := by
  rw [consume, wait]
  rfl

theorem State.consume_of_yield {sig : Option (Fin 4)} (wait : s.core.wait = some (.yielding sig)) :
    s.consume = s.onCore fun c => { c with wait := none } := by
  rw [consume, wait]
  rfl

/-- A WAITF of the only isle (R369, R371). -/
theorem State.waitf_event (left : s.left = []) (right : s.right = []) {f : Fin 32} {n : Nat} {sig : Option (Fin 4)}
    (wait : s.core.wait = some (.flag f n sig)) :
    (n ≤ (s.core.flag[f]).toNat → ∃ x : BitVec 16, x.toNat = (s.core.flag[f]).toNat - n ∧
      exec .waitSatisfied s = .next (s.onCore fun c => { c with wait := none, flag := c.flag.set f x })) ∧
    ((s.core.flag[f]).toNat < n → exec .waitSatisfied s = .next s) := by
  have met : s.waitMet = decide (n ≤ (s.core.flag[f]).toNat) := by
    rw [waitMet, wait]
  refine ⟨fun enough => ⟨s.core.flag[f] - BitVec.ofNat 16 n, ?_, ?_⟩, fun few => ?_⟩
  · have fits := (s.core.flag[f]).isLt
    have small : (BitVec.ofNat 16 n).toNat = n := BitVec.toNat_ofNat n 16 ▸ Nat.mod_eq_of_lt (by omega)
    rw [BitVec.toNat_sub_of_le (by rw [BitVec.le_def, small]; exact enough), small]
  · have consumed := consume_of_flag wait
    rw [exec_waitSatisfied_alone left right (by rw [met]; exact decide_eq_true enough) (by rw [consumed]; exact left), consumed]
    rfl
  · exact exec_waitSatisfied_unmet left (by rw [met]; exact decide_eq_false (by omega))

/-- A YIELD of the only isle (R188, R371). -/
theorem State.yield_event (left : s.left = []) (right : s.right = []) {sig : Option (Fin 4)} (wait : s.core.wait = some (.yielding sig)) :
    exec .waitSatisfied s = .next (s.onCore fun c => { c with wait := none }) := by
  have consumed := consume_of_yield wait
  rw [exec_waitSatisfied_alone left right (by rw [waitMet, wait]) (by rw [consumed]; exact left), consumed]

/-! ### The read of a barrier's phase (R375, R384) -/

/-- A function with the context in focus in focus. -/
theorem State.withSlot_self {f : State → State} (live : s.ctx.live = true) : s.withSlot s.ctx.slot f = f s := by
  have own : s.hasCtx s.ctx.slot = true := by simp [hasCtx, live]
  have focus : s.focusSlot s.ctx.slot = s := if_pos (by simp [live])
  rw [withSlot, own, if_pos rfl, focus]
  simp

/-- What one isle does at the read of a barrier's phase. -/
def State.phaseRead (slot va : Nat) (s : State) : State :=
  if s.core.hold = some (.phaseRead va) ∨ s.core.hold = some (.phaseWait va) then
    match s.ctxRead s.ctx va with
    | .error _ => let t := s.ctxTouch va true false; { t with core := { t.core with hold := none } }
    | .ok pl =>
      match (s.ctxTouch va true false).letIn pl with
      | some t => { t with core := { t.core.holdPhase va pl.key with hold := none } }
      | none =>
        (if s.core.hold = some (.phaseRead va) then { s with core := { s.core.count 0x14 1 with hold := some (.phaseWait va) } }
        else s).await (.barrierPhaseRead slot va)
  else s

theorem State.exec_barrierPhaseRead (s : State) (slot va : Nat) :
    exec (.barrierPhaseRead slot va) s = .next (s.withSlot slot (·.eachIsle (State.phaseRead slot va))) := rfl

theorem State.letIn_core {pl : Place} (h : s.letIn pl = some t) : t.core = s.core ∧ t.left = s.left := by
  have channel (u : State) (h : u.channelIn pl = some t) : t.core = u.core ∧ t.left = u.left := by
    unfold channelIn at h
    split at h
    · split at h
      · cases h
        exact ⟨rfl, rfl⟩
      · cases h
    · cases h
      exact ⟨rfl, rfl⟩
  exact channel (s.spend s.ctx.rid) (Option.ite_none_right_eq_some.1 h).2

/-- The only isle's bundle waits for the value of a barrier (R375, R384). -/
theorem State.phaseRead_event (left : s.left = []) (right : s.right = []) (live : s.ctx.live = true) {va : Nat} {pl : Place}
    (hold : s.core.hold = some (.phaseRead va) ∨ s.core.hold = some (.phaseWait va)) (read : s.ctxRead s.ctx va = .ok pl) :
    (∀ t, (s.ctxTouch va true false).letIn pl = some t → exec (.barrierPhaseRead s.ctx.slot va) s = .next { t with core :=
      { s.core with hold := none, phases := ((va, pl.key) :: s.core.phases.filter (·.1 != va)).take 16 } }) ∧
    ((s.ctxTouch va true false).letIn pl = none → s.core.hold = some (.phaseRead va) → exec (.barrierPhaseRead s.ctx.slot va) s =
      .next ((s.onCore fun c => { c.count 0x14 1 with hold := some (.phaseWait va) }).await (.barrierPhaseRead s.ctx.slot va))) ∧
    ((s.ctxTouch va true false).letIn pl = none → s.core.hold = some (.phaseWait va) →
      exec (.barrierPhaseRead s.ctx.slot va) s = .next (s.await (.barrierPhaseRead s.ctx.slot va))) := by
  have whole (t : State) (does : s.phaseRead s.ctx.slot va = t) (kept : t.left = []) : exec (.barrierPhaseRead s.ctx.slot va) s = .next t := by
    rw [exec_barrierPhaseRead, withSlot_self live, eachIsle_alone left right (by rw [does]; exact kept), does]
  have awaits (u : State) (i : Instr) : (u.await i).left = u.left := by
    unfold await
    split <;> rfl
  have frame : s.Framed True True (s.ctxTouch va true false) := zeroFrames_framed
  have core : (s.ctxTouch va true false).core = s.core := zeroFrames_core _
  refine ⟨fun t passed => ?_, fun blocked own => ?_, fun blocked own => ?_⟩
  · obtain ⟨coreT, leftT⟩ := letIn_core passed
    refine whole _ ?_ (leftT.trans (frame.left.trans left))
    rw [phaseRead, if_pos hold, read]
    dsimp only
    rw [passed]
    dsimp only
    rw [coreT, core]
    rfl
  · refine whole _ ?_ ((awaits _ _).trans left)
    rw [phaseRead, if_pos hold, read]
    dsimp only
    rw [blocked]
    dsimp only
    rw [if_pos own]
    rfl
  · refine whole _ ?_ ((awaits _ _).trans left)
    rw [phaseRead, if_pos hold, read]
    dsimp only
    rw [blocked]
    dsimp only
    rw [if_neg (by rw [own]; simp)]

/-! ### The fetch of a handle's entry (R352) -/

/-- The entry that a partition's handle table gains by a fetch: one that no LOAD has made valid. -/
def Handle.fetched (idx : Nat) : Handle :=
  { idx := idx, valid := false, res := false, key := 0, kmask := 0, bclass := false, rwb := 0, hdr := 0, tva := 0, tasid := 0 }

theorem State.entryFetch_event (left : s.left = []) (right : s.right = []) {q : Part} {idx : Nat} (parts : s.parts = [q]) (pid : q.pid = s.ctx.pid)
    (empty : q.handles = []) (idle : q.whtBusy = none) (alone : s.others = []) (hold : s.core.hold = some (.handleFetch idx)) :
    ∃ t, exec (.whtEntryFetch q.pid idx) s = .next t ∧ t.core = { s.core with hold := none } ∧ t.parts = [{ q with handles := [.fetched idx] }] := by
  have found : s.part q.pid = some q := by rw [part, parts]; simp
  have added : (s.parts.map fun p => if p.pid == q.pid then
      (if p.handles.any (·.idx == idx) then p else { p with handles := p.handles ++ [Handle.fetched idx] }) else p) =
      [{ q with handles := [Handle.fetched idx] }] := by
    rw [parts]
    simp [empty]
  refine ⟨{ s with core := { s.core with hold := none }, parts := [{ q with handles := [Handle.fetched idx] }] }, ?_, rfl, rfl⟩
  have own : s.ctx.pid = q.pid := pid.symm
  have freed : (if s.core.hold = some (.handleFetch idx) && !(((s.part q.pid).bind (·.whtBusy)).map (fun w => fld w.toNat 0 20) == some idx)
      then { s.core with hold := none } else s.core) = { s.core with hold := none } := by
    rw [hold, found, Option.bind_some, idle]
    simp
  have rest : s.others.map (fun r => if r.ctx.pid == q.pid then { r with isles := r.isles.map fun c => if c.hold = some (.handleFetch idx) &&
      !(((s.part q.pid).bind (·.whtBusy)).map (fun w => fld w.toNat 0 20) == some idx) then { c with hold := none } else c } else r) = s.others := by
    rw [alone]
    rfl
  change Host.Outcome.next (if s.ctx.pid = q.pid then State.eachIsle _ _ else _) = _
  rw [if_pos own, eachIsle_alone (by exact left) (by exact right) (by exact left)]
  have join {c d : Isle} {p r : List Part} {l m : List CtxRec} (hc : c = d) (hp : p = r) (hl : l = m) :
      ({ s with core := c, parts := p, others := l } : State) = { s with core := d, parts := r, others := m } := by rw [hc, hp, hl]
  exact congrArg Host.Outcome.next (join freed added rest)

/-! ### The wait-for table (R359) -/

/-- The entry of an unsatisfied wait, as R359 lays it out. -/
def State.waitWord (s : State) (kind sig obj : Nat) : BitVec 128 :=
  BitVec.ofNat 128 (2 ^ 127 + kind * 2 ^ 124 + s.ctx.slot % 4096 * 2 ^ 112 + sig % 4096 * 2 ^ 100 + obj % 2 ^ 64)

theorem State.waitWord_fields {kind sig obj : Nat} (hk : kind < 8) (hs : s.ctx.slot < 4096) (hg : sig < 4096) :
    let x := s.waitWord kind sig obj
    x.getLsbD 127 = true ∧ (x.extractLsb' 124 3).toNat = kind ∧ (x.extractLsb' 112 12).toNat = s.ctx.slot ∧ (x.extractLsb' 100 12).toNat = sig ∧
      x.extractLsb' 64 36 = 0 ∧ (x.extractLsb' 0 64).toNat = obj % 2 ^ 64 := by
  have small : obj % 2 ^ 64 < 2 ^ 64 := Nat.mod_lt _ (by decide)
  have whole : (s.waitWord kind sig obj).toNat = 2 ^ 127 + kind * 2 ^ 124 + s.ctx.slot * 2 ^ 112 + sig * 2 ^ 100 + obj % 2 ^ 64 := by
    rw [waitWord, BitVec.toNat_ofNat, Nat.mod_eq_of_lt hs, Nat.mod_eq_of_lt hg]
    omega
  generalize s.waitWord kind sig obj = x at whole
  generalize obj % 2 ^ 64 = o at small whole
  have field (p n : Nat) : (x.extractLsb' p n).toNat = x.toNat / 2 ^ p % 2 ^ n := by rw [BitVec.extractLsb'_toNat, Nat.shiftRight_eq_div_pow]
  refine ⟨?_, ?_, ?_, ?_, BitVec.eq_of_toNat_eq ?_, ?_⟩
  · rw [BitVec.getLsbD, Nat.testBit_eq_decide_div_mod_eq, whole, decide_eq_true_eq]
    omega
  all_goals rw [field, whole]
  · omega
  · omega
  · omega
  · change _ = 0
    omega
  · omega

theorem State.enterWait_event {kind sig obj : Nat} (unmet : s.waitMet = false) (entry : s.waitEntry = some (kind, sig, obj)) :
    ((∃ e ∈ s.waitfor, e.1 = s.waitKey) → s.enterWait = s) ∧
    ((∀ e ∈ s.waitfor, e.1 ≠ s.waitKey) → s.enterWait =
      if 4096 ≤ (s.waitfor.filter fun e => e.1 / 2 ^ 24 == s.waitKey / 2 ^ 24).length then { s with waitforLost := s.waitforLost + 1 }
      else { s with waitfor := s.waitfor ++ [(s.waitKey, s.waitWord kind sig obj)] }) := by
  have look : s.enterWait = if s.waitfor.any (·.1 == s.waitKey) then s
      else if 4096 ≤ (s.waitfor.filter fun e => e.1 / 2 ^ 24 == s.waitKey / 2 ^ 24).length then { s with waitforLost := s.waitforLost + 1 }
      else { s with waitfor := s.waitfor ++ [(s.waitKey, s.waitWord kind sig obj)] } := by
    rw [enterWait, unmet, entry]
    rfl
  refine ⟨fun ⟨e, he, key⟩ => ?_, fun fresh => ?_⟩
  · rw [look, if_pos (List.any_eq_true.2 ⟨e, he, by simpa using key⟩)]
  · rw [look, if_neg]
    rw [List.any_eq_true]
    exact fun ⟨e, he, key⟩ => fresh e he (by simpa using key)

end

/-- Settles O44: waits are consumed isle by isle, and a held bundle, a fetched entry and the wait-for table each by their own event. -/
theorem waitEvents : Obligations.WaitEvents := by
  refine ⟨fun s => ⟨s.allWaitsMet_iff, State.exec_waitSatisfied_of_unmet, fun met => ?_⟩, fun s left right => ?_⟩
  · have waits := s.consumeEach_isleswise
    refine ⟨_, State.exec_waitSatisfied_of_met met, waits.count, waits.ctx, waits.others, fun n hn => ?_⟩
    obtain ⟨cleared, counted, kept⟩ := waits.isle n _ _ (State.focusIsle_of_lt hn).2 (State.focusIsle_of_lt (waits.count ▸ hn)).2
    exact ⟨cleared, counted, kept⟩
  · refine ⟨fun f n sig wait => (State.waitf_event left right wait).1, fun f n sig wait => (State.waitf_event left right wait).2,
      fun sig => State.yield_event left right, fun va pl live hold read => State.phaseRead_event left right live hold read,
      fun q idx parts pid empty idle alone hold => ?_, fun kind sig obj unmet entry hk hs hg => ?_⟩
    · obtain ⟨t, step, core, after⟩ := State.entryFetch_event left right parts pid empty idle alone hold
      exact ⟨t, step, core, _, after, rfl, rfl⟩
    · obtain ⟨known, fresh⟩ := State.enterWait_event unmet entry
      refine ⟨known, fun new full => (fresh new).trans (if_pos full), fun new room => ⟨_, (fresh new).trans (if_neg (by omega)), State.waitWord_fields hk hs hg⟩⟩

end Sys2Proof.Machine
end

section
/-! PROOFS. Partitions, the functions of a device and its interfaces -/

namespace Sys2Proof.Machine

/-! ## Tables kept by number: functions, launch slots, partitions (R333, R388) -/

/-- A change of the entries of one number, which keeps numbers, in a list looked up by number. -/
theorem find?_map_of_key {α : Type} (key : α → Nat) (l : List α) (n m : Nat) (f : α → α) (keep : ∀ x, key (f x) = key x) :
    (l.map fun x => if key x == n then f x else x).find? (fun x => key x == m) =
      (l.find? fun x => key x == m).map fun x => if m = n then f x else x := by
  have look : ((fun x => key x == m) ∘ fun x => if key x == n then f x else x) = fun x => key x == m := by
    funext x
    dsimp only [Function.comp]
    split <;> simp only [keep]
  rw [List.find?_map, look]
  cases found : l.find? (fun x => key x == m) with
  | none => rfl
  | some x =>
    have number : key x = m := by simpa using List.find?_some found
    simp only [Option.map_some, number, beq_iff_eq]

section
variable {s : State} {n m : Nat} {f : Fn → Fn}

/-- Nothing but the table of functions differs. -/
def State.OnlyFns (s t : State) : Prop := ∃ l, t = { s with fns := l }

theorem State.OnlyFns.refl : s.OnlyFns s := ⟨s.fns, rfl⟩

theorem State.OnlyFns.trans {t u : State} (h : s.OnlyFns t) (g : t.OnlyFns u) : s.OnlyFns u := by
  obtain ⟨l, rfl⟩ := h
  obtain ⟨k, rfl⟩ := g
  exact ⟨k, rfl⟩

theorem State.onFn_onlyFns (s : State) (n : Nat) (f : Fn → Fn) : s.OnlyFns (s.onFn n f) := by
  unfold onFn
  split
  · exact ⟨_, rfl⟩
  · exact ⟨_, rfl⟩

/-- What a function reads after a change of one. -/
theorem State.fn_onFn (keep : ∀ x, (f x).n = x.n) : (s.onFn n f).fn m = if m = n then f (s.fn n) else s.fn m := by
  unfold onFn
  split
  · rw [fn]
    dsimp only
    rw [find?_map_of_key Fn.n s.fns n m f keep]
    split
    · next same =>
      subst same
      obtain ⟨y, hy, number⟩ := List.any_eq_true.1 ‹s.fns.any _ = true›
      rw [fn]
      cases found : s.fns.find? (fun x => x.n == m) with
      | none => exact absurd number (by simpa using List.find?_eq_none.1 found y hy)
      | some x => rfl
    · rw [fn]
      cases s.fns.find? (fun x => x.n == m) <;> rfl
  · next absent =>
    have none_listed : s.fns.find? (fun x => x.n == n) = none := by
      rw [List.find?_eq_none]
      exact fun x hx h => absent (List.any_eq_true.2 ⟨x, hx, h⟩)
    rw [fn]
    dsimp only
    rw [List.find?_append]
    split
    · next same =>
      subst same
      rw [none_listed, fn, none_listed]
      have listed : ((f { n := m }).n == m) = true := by rw [keep]; exact beq_self_eq_true m
      rw [Option.none_or, List.find?_singleton, if_pos listed]
      rfl
    · next other =>
      have unlisted : ((f { n := n }).n == m) = false := by rw [keep]; exact beq_eq_false_iff_ne.2 (Ne.symm other)
      rw [List.find?_singleton, if_neg (by rw [unlisted]; decide), Option.or_none, fn]

theorem State.fn_onFn_self (keep : ∀ x, (f x).n = x.n) : (s.onFn n f).fn n = f (s.fn n) := by rw [fn_onFn keep, if_pos rfl]

/-! ### Messages and events (R393, R394) -/

/-- A signal changes what has been sent and what is pending. -/
theorem Fn.signal_eq (x : Fn) (v : Fin 4) : ∃ a b, x.signal v = { x with msix := a, pend := b } := by
  unfold signal
  split
  · exact ⟨x.msix, _, rfl⟩
  · exact ⟨_, _, rfl⟩

@[simp] theorem Fn.signal_n (x : Fn) (v : Fin 4) : (x.signal v).n = x.n := by
  obtain ⟨a, b, h⟩ := x.signal_eq v
  rw [h]

/-- What a function reads after a message of one. -/
theorem State.fn_message {v : Fin 4} : (s.message n v).fn m = if m = n then (s.fn n).signal v else s.fn m := fn_onFn fun x => x.signal_n v

theorem State.message_onlyFns (s : State) (n : Nat) (v : Fin 4) : s.OnlyFns (s.message n v) := s.onFn_onlyFns n _

theorem State.dropped_onlyFns (s : State) (n : Nat) : s.OnlyFns (s.dropped n) := by
  unfold dropped
  split
  · exact .refl
  · exact (s.onFn_onlyFns n _).trans (message_onlyFns _ n 3)

theorem State.completion_onlyFns (s : State) (n c : Nat) : s.OnlyFns (s.completion n c) := by
  unfold completion
  split
  · exact s.message_onlyFns n 0
  · split
    · exact .refl
    · exact s.onFn_onlyFns n _

/-- A function that has taken an event into its ring (R394). -/
def Fn.withEvent (x : Fn) (e : List Byte) : Fn :=
  { x with evring := ((x.evring ++ List.replicate 64 []).take 64).set (x.evprod % 64) e, evprod := x.evprod + 1 }

/-- An event of a partition: the next entry of its physical function's ring, or EVLOST where the ring is full (R394). -/
theorem State.event_of_part {pid kind : Nat} {l : List Byte} {p : Part} (found : s.part pid = some p) :
    s.event pid kind l = if (s.fn p.pf).evcons + 64 ≤ (s.fn p.pf).evprod then s.onFn p.pf fun f => { f with evlost := true }
      else (s.onFn p.pf fun f => f.withEvent (eventEntry kind pid l)).message p.pf 1 := by
  rw [event, found]
  rfl

theorem State.event_of_none {pid kind : Nat} {l : List Byte} (found : s.part pid = none) : s.event pid kind l = s := by rw [event, found]

theorem State.event_onlyFns (s : State) (pid kind : Nat) (l : List Byte) : s.OnlyFns (s.event pid kind l) := by
  cases found : s.part pid with
  | none => rw [event_of_none found]; exact .refl
  | some p =>
    rw [event_of_part found]
    split
    · exact s.onFn_onlyFns _ _
    · exact (s.onFn_onlyFns _ _).trans (message_onlyFns _ _ _)

/-- What an event leaves of a function: all but its ring, what it has lost, and its messages. -/
theorem State.fn_event (s : State) (pid kind : Nat) (l : List Byte) (n : Nat) : ∃ r k e a b, (s.event pid kind l).fn n =
    { s.fn n with evring := r, evprod := k, evlost := e, msix := a, pend := b } := by
  cases found : s.part pid with
  | none => rw [event_of_none found]; exact ⟨_, _, _, _, _, rfl⟩
  | some p =>
    rw [event_of_part found]
    split
    · rw [fn_onFn]
      · split
        · next h => rw [h]; exact ⟨_, _, _, _, _, rfl⟩
        · exact ⟨_, _, _, _, _, rfl⟩
      · exact fun _ => rfl
    · rw [fn_message, fn_onFn, fn_onFn, if_pos rfl]
      · split
        · next h =>
          rw [h]
          obtain ⟨a, b, hx⟩ := ((s.fn p.pf).withEvent (eventEntry kind pid l)).signal_eq 1
          exact ⟨_, _, _, a, b, hx⟩
        · exact ⟨_, _, _, _, _, rfl⟩
      all_goals exact fun _ => rfl

end

/-! ## Masters that misbehave, interfaces, attestation and firmware (R394, R397-R403) -/

section
variable {s : State} {fn : Nat}

/-- A link that is frozen already stays so (R397). -/
theorem State.exec_fabricLinkBreach_of_frozen {link : Nat} (frozen : link ∈ s.frozenLinks) : exec (.fabricLinkBreach link) s = .next s := by
  change Host.Outcome.next (if s.frozenLinks.contains link then s else _) = _
  rw [if_pos (by simpa using frozen)]

theorem State.exec_fabricLinkBreach {link : Nat} (fresh : link ∉ s.frozenLinks) :
    ∃ t, exec (.fabricLinkBreach link) s = .next t ∧ ({ s with frozenLinks := link :: s.frozenLinks } : State).OnlyFns t := by
  refine ⟨_, rfl, ?_⟩
  rw [if_neg (by simpa using fresh)]
  dsimp only
  split
  · exact event_onlyFns _ _ _ _
  · exact .refl

/-- What waits of a function is refused, and no function changes. -/
theorem State.fn_refuseWaits (s : State) (n m : Nat) : (s.refuseWaits n).fn m = s.fn m := rfl

/-- A breach of a locked interface (R403). -/
theorem State.exec_tdispBreach_of_locked (locked : (s.fn fn).tdisp = .locked ∨ (s.fn fn).tdisp = .run) :
    ∃ t, exec (.tdispBreach fn) s = .next t ∧ (t.fn fn).tdisp = .error ∧ (t.fn fn).frozen = true := by
  refine ⟨_, rfl, ?_⟩
  rw [if_pos locked]
  have broken : (((s.refuseWaits fn).onFn fn fun f => { f with tdisp := .error, frozen := true }).fn fn) =
      { s.fn fn with tdisp := .error, frozen := true } := by
    rw [fn_onFn_self]
    · rfl
    · exact fun _ => rfl
  dsimp only
  split
  · obtain ⟨r, k, e, a, b, h⟩ := fn_event ((s.refuseWaits fn).onFn fn fun f => { f with tdisp := .error, frozen := true }) ‹Nat› 5 (toLe 1 0 ++ toLe 1 fn) fn
    rw [h, broken]
    exact ⟨rfl, rfl⟩
  · rw [broken]
    exact ⟨rfl, rfl⟩

theorem State.exec_tdispBreach_of_open (free : (s.fn fn).tdisp = .unlocked ∨ (s.fn fn).tdisp = .error) : exec (.tdispBreach fn) s = .next s := by
  change Host.Outcome.next (if (s.fn fn).tdisp = .locked ∨ (s.fn fn).tdisp = .run then _ else s) = _
  rw [if_neg]
  rcases free with h | h <;> rw [h] <;> simp

/-! ### SPDM (R398) -/

/-- A request to the responder: its answer, and the transcript. -/
theorem State.fn_spdm (pf code : Nat) (operand : List Byte) (physical : isPf pf = true) : (s.spdm pf code operand).fn pf =
    { s.fn pf with
      answer := Config.spdmAnswer code operand (s.fn pf).spdmLog
      spdmLog := (s.fn pf).spdmLog ++ toLe 1 code ++ operand ++ Config.spdmAnswer code operand (s.fn pf).spdmLog } := by
  rw [spdm, if_neg (by rw [physical]; decide), fn_onFn_self]
  exact fun _ => rfl

theorem State.spdm_onlyFns (s : State) (pf code : Nat) (operand : List Byte) : s.OnlyFns (s.spdm pf code operand) := by
  unfold spdm
  split
  · exact .refl
  · exact s.onFn_onlyFns _ _

/-- A state whose function has answered an SPDM request after a transcript. -/
structure State.Answered (s : State) (pf code : Nat) (l log : List Byte) (t : State) : Prop where
  answer : (t.fn pf).answer = Config.spdmAnswer code l log
  log : (t.fn pf).spdmLog = log ++ toLe 1 code ++ l ++ Config.spdmAnswer code l log
  dram : t.dram = s.dram

theorem State.spdm_answered (s : State) (pf code : Nat) (l : List Byte) (physical : isPf pf = true) :
    s.Answered pf code l (s.fn pf).spdmLog (s.spdm pf code l) := by
  have look := fn_spdm (s := s) pf code l physical
  obtain ⟨k, h⟩ := s.spdm_onlyFns pf code l
  exact ⟨by rw [look], by rw [look], by rw [h]⟩

/-- The phase of a session changes after the answer. -/
theorem State.Answered.phase {t : State} {pf code : Nat} {l log : List Byte} (h : s.Answered pf code l log t) (p : Fn → Nat) :
    s.Answered pf code l log (t.onFn pf fun f => { f with spdmPhase := p f }) := by
  have look : ((t.onFn pf fun f => { f with spdmPhase := p f }).fn pf) = { t.fn pf with spdmPhase := p (t.fn pf) } := by
    rw [fn_onFn_self]
    exact fun _ => rfl
  obtain ⟨k, only⟩ := t.onFn_onlyFns pf fun f => { f with spdmPhase := p f }
  exact ⟨by rw [look]; exact h.answer, by rw [look]; exact h.log, by rw [only]; exact h.dram⟩

/-- GET_VERSION begins a transcript. -/
theorem State.getVersion_answered (s : State) (pf : Nat) (physical : isPf pf = true) :
    s.Answered pf 0x84 [] [] ((s.onFn pf fun f => { f with spdmLog := [], spdmPhase := 0 }).spdm pf 0x84 []) := by
  have look : ((s.onFn pf fun f => { f with spdmLog := [], spdmPhase := 0 }).fn pf) = { s.fn pf with spdmLog := [], spdmPhase := 0 } := by
    rw [fn_onFn_self]
    exact fun _ => rfl
  obtain ⟨k, only⟩ := s.onFn_onlyFns pf fun f => { f with spdmLog := [], spdmPhase := 0 }
  have h := spdm_answered (s.onFn pf fun f => { f with spdmLog := [], spdmPhase := 0 }) pf 0x84 [] physical
  rw [look] at h
  exact ⟨h.answer, h.log, h.dram.trans (by rw [only])⟩

/-! ### Events (R394) -/

/-- The layout of an event entry (R394). -/
theorem eventEntry_layout (kind pid : Nat) {l : List Byte} (short : l.length ≤ 24) :
    let e := eventEntry kind pid l
    e.length = 32 ∧ e.getD 0 0 = BitVec.ofNat 8 kind ∧ e.getD 1 0 = BitVec.ofNat 8 pid ∧
      ∀ k, 2 ≤ k → k < 32 → e.getD k 0 = if k < 8 then 0 else l.getD (k - 8) 0 := by
  have tail : ((l ++ List.replicate 24 0).take 24).length = 24 := by simp
  have whole : eventEntry kind pid l = BitVec.ofNat 8 kind :: BitVec.ofNat 8 pid :: (List.replicate 6 0 ++ (l ++ List.replicate 24 0).take 24) := rfl
  refine ⟨by rw [whole, List.length_cons, List.length_cons, List.length_append, tail]; rfl, rfl, rfl, fun k low high => ?_⟩
  obtain ⟨j, rfl⟩ := Nat.exists_eq_add_of_le' low
  rw [whole, List.getD_cons_succ, List.getD_cons_succ]
  split
  · rw [List.getD_append _ _ _ _ (by rw [List.length_replicate]; omega), List.getD_replicate _ (by omega)]
  · rw [List.getD_append_right _ _ _ _ (by rw [List.length_replicate]; omega), List.length_replicate, List.getD_eq_getElem?_getD,
      List.getElem?_take_of_lt (by omega), ← List.getD_eq_getElem?_getD]
    have index : j + 2 - 8 = j - 6 := by omega
    rw [index]
    by_cases h : j - 6 < l.length
    · rw [List.getD_append _ _ _ _ h]
    · rw [List.getD_append_right _ _ _ _ (by omega), List.getD_replicate _ (by omega), List.getD_eq_default _ _ (by omega)]

/-- An event that its ring takes (R394). -/
theorem State.event_taken {pid kind : Nat} {l : List Byte} {p : Part} (found : s.part pid = some p)
    (room : (s.fn p.pf).evprod < (s.fn p.pf).evcons + 64) : ((s.event pid kind l).fn p.pf).evprod = (s.fn p.pf).evprod + 1 ∧
      ((s.event pid kind l).fn p.pf).evring[(s.fn p.pf).evprod % 64]? = some (eventEntry kind pid l) := by
  have look : (s.event pid kind l).fn p.pf = ((s.fn p.pf).withEvent (eventEntry kind pid l)).signal 1 := by
    rw [event_of_part found, if_neg (by omega), fn_message, if_pos rfl, fn_onFn_self]
    exact fun _ => rfl
  obtain ⟨a, b, h⟩ := ((s.fn p.pf).withEvent (eventEntry kind pid l)).signal_eq 1
  rw [look, h]
  refine ⟨rfl, ?_⟩
  refine List.getElem?_set_self (l := ((s.fn p.pf).evring ++ List.replicate 64 []).take 64) ?_
  rw [List.length_take, List.length_append, List.length_replicate]
  have := Nat.mod_lt (s.fn p.pf).evprod (show 0 < 64 by decide)
  omega

end

/-- Settles O52: interfaces and links, the SPDM responder, firmware and the event ring, each by its own rule. -/
theorem securityEvents : Obligations.SecurityEvents := by
  refine ⟨fun s fn stream link => ?_, fun s pf slot idx nonce data physical => ?_, fun s img => ?_, fun s pid kind l p found short => ?_⟩
  · refine ⟨State.exec_fabricLinkBreach_of_frozen, fun fresh => ?_, fun locked => ⟨State.exec_tdispBreach_of_locked locked, ?_⟩,
      fun free => ⟨State.exec_tdispBreach_of_open free, ?_⟩, fun free awake virtual owned => ?_, fun locked awake => ?_, fun used => ?_, fun n p owner found => ?_⟩
    · obtain ⟨t, step, k, rfl⟩ := State.exec_fabricLinkBreach fresh
      exact ⟨_, step, rfl, rfl⟩
    · change Host.Outcome.next (if !isPf fn && (s.fn fn).pid.isSome && !(s.fn fn).frozen && (s.fn fn).tdisp == .unlocked then _ else s) = _
      rw [if_neg]
      rcases locked with h | h <;> rw [h] <;> simp
    · change Host.Outcome.next (if (s.fn fn).tdisp = .locked ∧ !(s.fn fn).frozen then _ else s) = _
      rw [if_neg]
      rcases free with h | h <;> rw [h] <;> simp
    · change Host.Outcome.next (if !isPf fn && (s.fn fn).pid.isSome && !(s.fn fn).frozen && (s.fn fn).tdisp == .unlocked then _ else s) = _
      rw [if_pos]
      rw [free, awake, virtual, Option.isSome_iff_ne_none.2 owned]
      rfl
    · change Host.Outcome.next (if (s.fn fn).tdisp = .locked ∧ !(s.fn fn).frozen then _ else s) = _
      rw [if_pos ⟨locked, by rw [awake]; rfl⟩]
    · change Host.Outcome.next (if (s.fn fn).tdisp = .unlocked then s else _) = _
      rw [if_neg used]
    · change Host.Outcome.next (match (s.fn fn).pid.bind s.part with | none => s | some p => _) = _
      rw [owner, Option.bind_some, found]
  · have plain (code : Nat) (l : List Byte) : ∃ t, Host.Outcome.next (s.spdm pf code l) = (.next t : Out) ∧ (t.fn pf).answer = Config.spdmAnswer code l (s.fn pf).spdmLog ∧
        (t.fn pf).spdmLog = (s.fn pf).spdmLog ++ toLe 1 code ++ l ++ Config.spdmAnswer code l (s.fn pf).spdmLog ∧ t.dram = s.dram := by
      obtain ⟨answer, log, dram⟩ := s.spdm_answered pf code l physical
      exact ⟨_, rfl, answer, log, dram⟩
    have phased (code : Nat) (l : List Byte) (g : Fn → Nat) : ∃ t, Host.Outcome.next ((s.spdm pf code l).onFn pf fun f => { f with spdmPhase := g f }) = (.next t : Out) ∧
        (t.fn pf).answer = Config.spdmAnswer code l (s.fn pf).spdmLog ∧
        (t.fn pf).spdmLog = (s.fn pf).spdmLog ++ toLe 1 code ++ l ++ Config.spdmAnswer code l (s.fn pf).spdmLog ∧ t.dram = s.dram := by
      obtain ⟨answer, log, dram⟩ := (s.spdm_answered pf code l physical).phase g
      exact ⟨_, rfl, answer, log, dram⟩
    obtain ⟨answer, log, dram⟩ := s.getVersion_answered pf physical
    exact ⟨⟨_, rfl, answer, log, dram⟩, plain _ _, plain _ _, plain _ _, plain _ _, plain _ _, plain _ _, phased _ _ _, phased _ _ _⟩
  · refine ⟨fun ecdsa lms new => ⟨_, rfl, ?_⟩, fun bad => ?_⟩
    · rw [ecdsa, lms, if_pos (by simpa using new)]
      exact ⟨rfl, rfl⟩
    · change Host.Outcome.next (if Config.ecdsaVerifies img.body img.ecdsa && Config.lmsVerifies img.body img.lms && decide (s.fwFused ≤ img.version) then _ else s) = _
      rw [if_neg]
      rcases bad with h | h | h
      · rw [h]; simp
      · rw [h]; simp
      · simp [Nat.not_le.2 h]
  · refine ⟨fun full => ?_, fun room => ?_⟩
    · rw [State.event_of_part found, if_pos full]
    · obtain ⟨count, entry⟩ := State.event_taken (kind := kind) (l := l) found room
      obtain ⟨k, only⟩ := s.event_onlyFns pid kind l
      exact ⟨by rw [only], count, _, entry, eventEntry_layout kind pid short⟩

/-! ## Partitions (R395, R396) -/

section
variable {s : State} {pid n m : Nat} {f : Part → Part}

/-- What a partition reads after a change of one. -/
theorem State.part_onPart (keep : ∀ x, (f x).pid = x.pid) : (s.onPart n f).part m = (s.part m).map fun x => if m = n then f x else x :=
  find?_map_of_key Part.pid s.parts n m f keep

theorem State.part_onPart_self (keep : ∀ x, (f x).pid = x.pid) : (s.onPart n f).part n = (s.part n).map f := by
  rw [part_onPart keep]
  simp only [if_pos]

/-- A partition is found under its own number. -/
theorem State.pid_of_part {p : Part} (found : s.part n = some p) : p.pid = n := by simpa using List.find?_some found

/-- A register write that a function may make (R389, R396, R397). -/
theorem State.regWrite_of_hears {fn : Nat} {vf : Bool} {g : State → State} (hears : s.Hears fn) (may : isPf fn = true ∨ vf = true) :
    s.regWrite fn vf g = g s := by
  rw [regWrite, hears.1, hears.2]
  rcases may with h | h <;> rw [h] <;> simp

theorem State.partCommand_of_idle {fn : Nat} {g : State → State} (hears : s.Hears fn) (physical : isPf fn = true) (idle : (s.fn fn).partBusy = none) :
    s.partCommand fn g = g s := by
  rw [partCommand, regWrite_of_hears hears (.inl physical), idle]
  rfl

theorem State.partCommand_of_busy {fn : Nat} {g : State → State} (hears : s.Hears fn) (physical : isPf fn = true) (busy : (s.fn fn).partBusy ≠ none) :
    s.partCommand fn g = s.partRefused fn 7 := by
  rw [partCommand, regWrite_of_hears hears (.inl physical), if_pos (Option.isSome_iff_ne_none.2 busy)]

/-- A partition begins the reset of a RESET or DESTROY (R396). -/
theorem State.beginReset_of_part {fn op : Nat} {q : Part} (hears : s.Hears fn) (physical : isPf fn = true) (idle : (s.fn fn).partBusy = none)
    (found : s.part pid = some q) (empty : s.shareSlots q = []) :
    ((s.beginReset fn op pid).fn fn).partBusy = some (op, pid) ∧ (s.beginReset fn op pid).part pid = some { q with resetting := true } := by
  let v : State := (s.unlockByError pid).onPart pid fun p => { p with resetting := true }
  have begun : s.beginReset fn op pid = v.onFn fn fun f => { f with partBusy := some (op, pid), partErr := false, partReason := 0 } := by
    rw [beginReset, partCommand_of_idle hears physical idle]
    dsimp only
    rw [found]
    dsimp only
    rw [empty]
    rfl
  obtain ⟨k, only⟩ := v.onFn_onlyFns fn fun f => { f with partBusy := some (op, pid), partErr := false, partReason := 0 }
  refine ⟨?_, ?_⟩
  · rw [begun, fn_onFn_self]
    exact fun _ => rfl
  · have same : v.part pid = some { q with resetting := true } := by
      rw [part_onPart_self]
      · exact congrArg (Option.map _) found
      · exact fun _ => rfl
    rw [begun, only]
    exact same

/-! ### CREATE -/

/-- Functions given to a partition, one after another. -/
theorem State.fnmap_onFns (l : List Nat) (s : State) : s.OnlyFns (l.foldl (fun s n => s.onFn n fun f => { f with pid := some pid }) s) ∧
    ∀ n, n ∈ l ∨ (s.fn n).pid = some pid → ((l.foldl (fun s n => s.onFn n fun f => { f with pid := some pid }) s).fn n).pid = some pid := by
  induction l generalizing s with
  | nil => exact ⟨.refl, fun n h => h.resolve_left (by simp)⟩
  | cons k l ih =>
    obtain ⟨only, given⟩ := ih (s.onFn k fun f => { f with pid := some pid })
    refine ⟨(s.onFn_onlyFns k _).trans only, fun n h => given n ?_⟩
    have look : ((s.onFn k fun f => { f with pid := some pid }).fn n) = if n = k then { s.fn k with pid := some pid } else s.fn n := fn_onFn fun _ => rfl
    rw [look]
    by_cases same : n = k
    · exact .inr (by rw [if_pos same])
    · rw [if_neg same]
      exact h.imp_left fun hn => (List.mem_cons.1 hn).resolve_left same

/-- CREATE of a descriptor that passes its checks, with no frame retired (R395). -/
theorem State.create_of_good {fn : Nat} {desc : List Byte} (hears : s.Hears fn) (physical : isPf fn = true) (idle : (s.fn fn).partBusy = none)
    (good : s.createFault (Part.ofDesc pid fn desc) desc = none) (kept : s.retiredFrames = []) : ∃ t, exec (.create fn pid desc) s = .next t ∧
      t.parts = s.parts ++ [s.usable (Part.ofDesc pid fn desc)] ∧ (t.fn fn).partBusy = some (0, pid) ∧ (t.fn fn).partErr = false ∧
      ∀ n ∈ (Part.ofDesc pid fn desc).fnmap, (t.fn n).pid = some pid := by
  let q := s.usable (Part.ofDesc pid fn desc)
  let u := q.fnmap.foldl (fun s n => s.onFn n fun f => { f with pid := some pid }) { s with parts := s.parts ++ [q] }
  obtain ⟨⟨k, only⟩, given⟩ := fnmap_onFns (pid := pid) q.fnmap { s with parts := s.parts ++ [q] }
  have onlyU : u = { s with parts := s.parts ++ [q], fns := k } := only
  have frames : u.retiredFrames = [] := by rw [onlyU]; exact kept
  refine ⟨u.onFn fn fun f => { f with partBusy := some (0, pid), partErr := false, partReason := 0 }, ?_, ?_, ?_, ?_, fun n hn => ?_⟩
  · change Host.Outcome.next (s.partCommand fn _) = _
    rw [partCommand_of_idle hears physical idle]
    dsimp only
    rw [good]
    change Host.Outcome.next ((mapAround u.retiredFrames u).onFn fn _) = _
    rw [frames]
    rfl
  · obtain ⟨j, h⟩ := u.onFn_onlyFns fn fun f => { f with partBusy := some (0, pid), partErr := false, partReason := 0 }
    rw [h, onlyU]
  · rw [fn_onFn_self]
    exact fun _ => rfl
  · rw [fn_onFn_self]
    exact fun _ => rfl
  · have look : ((u.onFn fn fun f => { f with partBusy := some (0, pid), partErr := false, partReason := 0 }).fn n) =
        if n = fn then { u.fn fn with partBusy := some (0, pid), partErr := false, partReason := 0 } else u.fn n := fn_onFn fun _ => rfl
    have owned : (u.fn n).pid = some pid := given n (.inl hn)
    rw [look]
    split
    · next h => rw [h] at owned; exact owned
    · exact owned

/-! ### The end of RESET and DESTROY -/

/-- A range once cleared stays zero through the clearing of others. -/
theorem Mem.rd_clearRanges {α : Type} (l : List α) (at_ len : α → Nat) (m : Mem) (b : Nat)
    (zero : m.rd b = 0 ∨ ∃ x ∈ l, at_ x ≤ b ∧ b < at_ x + len x) : (l.foldl (fun m x => m.clearRange (at_ x) (len x)) m).rd b = 0 := by
  induction l generalizing m with
  | nil => exact zero.resolve_right (by simp)
  | cons x l ih =>
    refine ih _ ?_
    by_cases inside : at_ x ≤ b ∧ b < at_ x + len x
    · exact .inl (rd_clearRange_in m inside)
    · rw [rd_clearRange_out m (by omega)]
      refine zero.imp_right fun ⟨y, hy, range⟩ => ⟨y, (List.mem_cons.1 hy).resolve_left ?_, range⟩
      rintro rfl
      exact inside range

/-- The power cycle of a partition's units leaves its channels zero. -/
theorem State.powerCycle_dram (s : State) (q : Part) {c a : Nat} (own : c ∈ q.chans) (low : a < 2 ^ 31) :
    (s.powerCycle q).dram.rd ((channelBase c).1 * 2 ^ 40 + (channelBase c).2 + a) = 0 := by
  have wiped : (s.powerCycle q).dram = [4, 5].foldl (fun m d => m.clearRange (d * 2 ^ 40 + tierBase + q.t2off) q.half)
      (q.chans.foldl (fun m c => m.clearRange ((channelBase c).1 * 2 ^ 40 + (channelBase c).2) (2 ^ 31)) s.dram) := rfl
  rw [wiped]
  refine Mem.rd_clearRanges [4, 5] (fun d => d * 2 ^ 40 + tierBase + q.t2off) (fun _ => q.half) _ _ (.inl ?_)
  exact Mem.rd_clearRanges q.chans (fun c => (channelBase c).1 * 2 ^ 40 + (channelBase c).2) (fun _ => 2 ^ 31) _ _ (.inr ⟨c, own, by omega, by omega⟩)

/-- A launch slot of the share reads as FREE after a power cycle. -/
theorem State.powerCycle_slots (s : State) (q : Part) {n : Nat} (low : q.slotBase ≤ n) (high : n < q.slotBase + q.slotCnt) :
    (s.powerCycle q).slotAt n = { n := n } := by
  have gone : ((s.powerCycle q).slots.find? fun x => x.n == n) = none := by
    change (List.find? _ (s.slots.filter fun x => !decide (q.slotBase ≤ x.n ∧ x.n < q.slotBase + q.slotCnt))) = none
    rw [List.find?_eq_none]
    intro x hx number
    have outside := (List.mem_filter.1 hx).2
    have same : x.n = n := by simpa using number
    rw [same] at outside
    simp [low, high] at outside
  rw [slotAt, gone]
  rfl

theorem State.powerCycle_asids (s : State) (q : Part) : ∀ e ∈ (s.powerCycle q).asids, e.2.1 ≠ q.pid := by
  intro e he
  have kept : e ∈ s.asids.filter fun a => a.2.1 != q.pid := he
  simpa using (List.mem_filter.1 kept).2

/-- The partition after a power cycle. -/
theorem State.powerCycle_part (s : State) {q : Part} (found : s.part q.pid = some q) :
    ∃ u, (s.powerCycle q).part q.pid = some u ∧ u.handles = [] ∧ u.featAccept = 0 ∧ u.featOpen = true ∧ u.resetting = false := by
  have look : (s.powerCycle q).part q.pid = (s.part q.pid).map fun p =>
      { p with
        s2 := p.s2.map (fun (e : Nat × W64) => (e.1, if e.2.getLsbD 1 then e.2 ||| 0x80 else e.2)), handles := [], whM := [], whB := [], whtBusy := none
        featAccept := 0, featOpen := true, ckpt := none, resetting := false } := by
    have changed := part_onPart_self (s := s) (n := q.pid) (f := fun p =>
      { p with
        s2 := p.s2.map (fun (e : Nat × W64) => (e.1, if e.2.getLsbD 1 then e.2 ||| 0x80 else e.2)), handles := [], whM := [], whB := [], whtBusy := none
        featAccept := 0, featOpen := true, ckpt := none, resetting := false }) fun _ => rfl
    exact changed
  rw [look, found]
  exact ⟨_, rfl, rfl, rfl, rfl, rfl⟩

/-- What the end of a partition command leaves of the machine but for its functions and, after DESTROY, its partition. -/
theorem State.exec_partcmdComplete {fn op : Nat} {q : Part} (busy : (s.fn fn).partBusy = some (op, pid)) (used : op ≠ 0) (found : s.part pid = some q)
    (quiet : ∀ c ∈ s.allCtx, c.pid ≠ pid) : exec (.partcmdComplete fn) s =
      .next ((if op = 2 then (s.powerCycle q).release_ pid else s.powerCycle q).onFn fn fun f => { f with partBusy := none }) := by
  have done : s.partDone fn = true := by
    rw [partDone, busy]
    simpa [used] using quiet
  change Host.Outcome.next (if !s.partDone fn then s else _) = _
  rw [done, busy]
  dsimp only
  rw [found]
  dsimp only
  rw [if_neg used]
  rfl

theorem State.exec_partcmdComplete_waits {fn op : Nat} (busy : (s.fn fn).partBusy = some (op, pid)) (used : op ≠ 0)
    (held : ∃ c ∈ s.allCtx, c.pid = pid) : exec (.partcmdComplete fn) s = .next s := by
  have waits : s.partDone fn = false := by
    rw [partDone, busy]
    obtain ⟨c, hc, own⟩ := held
    simpa [used] using ⟨c, hc, own⟩
  change Host.Outcome.next (if !s.partDone fn then s else _) = _
  rw [waits]
  rfl

end

/-- Settles O49: a command of a partition is refused, begins or ends, each by its own rule. -/
theorem partitionCommands : Obligations.PartitionCommands := by
  refine ⟨fun s fn pid desc hears physical => ?_, fun s fn op pid q busy used found => ⟨State.exec_partcmdComplete_waits busy used, fun quiet => ?_⟩⟩
  · intro p
    refine ⟨fun busy i hi => ?_, fun idle r bad => ?_, fun ⟨q, hq, same⟩ => ?_, fun idle good kept => State.create_of_good hears physical idle good kept,
      fun idle missing i hi => ?_, fun q idle found empty => ⟨⟨_, rfl, State.beginReset_of_part hears physical idle found empty⟩,
        ⟨_, rfl, State.beginReset_of_part hears physical idle found empty⟩⟩⟩
    · simp only [List.mem_cons, List.not_mem_nil, or_false] at hi
      rcases hi with rfl | rfl | rfl <;> exact congrArg Host.Outcome.next (State.partCommand_of_busy hears physical busy)
    · change Host.Outcome.next (s.partCommand fn _) = _
      rw [State.partCommand_of_idle hears physical idle]
      dsimp only
      rw [show s.createFault (Part.ofDesc pid fn desc) desc = some r from bad]
      rfl
    · rw [State.createFault]
      exact if_pos (List.any_eq_true.2 ⟨q, hq, (beq_iff_eq (a := q.pid)).2 same⟩)
    · simp only [List.mem_cons, List.not_mem_nil, or_false] at hi
      have refused (op : Nat) : s.beginReset fn op pid = s.partRefused fn 1 := by
        rw [State.beginReset, State.partCommand_of_idle hears physical idle]
        dsimp only
        rw [missing]
      rcases hi with rfl | rfl <;> exact congrArg Host.Outcome.next (refused _)
  · obtain rfl := State.pid_of_part found
    refine ⟨_, State.exec_partcmdComplete busy used found quiet, ?_, ?_⟩
    · rw [State.fn_onFn_self]
      exact fun _ => rfl
    · obtain ⟨k, only⟩ := State.onFn_onlyFns (if op = 2 then (s.powerCycle q).release_ q.pid else s.powerCycle q) fn fun f => { f with partBusy := none }
      rw [only]
      by_cases destroy : op = 2
      · rw [if_pos destroy]
        refine ⟨fun c own a low => s.powerCycle_dram q own low, fun n low high => s.powerCycle_slots q low high, s.powerCycle_asids q, fun _ => ?_, fun h => absurd destroy h⟩
        refine List.find?_eq_none.2 fun x hx number => ?_
        have kept : x ∈ (s.powerCycle q).parts.filter (·.pid != q.pid) := hx
        have other := (List.mem_filter.1 kept).2
        simp only [bne_iff_ne, ne_eq] at other
        exact other (by simpa using number)
      · rw [if_neg destroy]
        exact ⟨fun c own a low => s.powerCycle_dram q own low, fun n low high => s.powerCycle_slots q low high, s.powerCycle_asids q,
          fun h => absurd h destroy, fun _ => s.powerCycle_part found⟩

end Sys2Proof.Machine
end

section
/-! PROOFS. Errors, power, temperature and frames -/

namespace Sys2Proof.Machine

/-! ## Errors, power, temperature and frames (R246, R258, R259, R331, R333, R360, R381-R385) -/

section
variable {s t : State}

/-! ### Errors counted (R331) -/

/-- Nothing but what a defect's report and pre-emption touch: the defect map and device memory stand. -/
structure State.SameDefects (s t : State) : Prop where
  defects : t.defects = s.defects
  errs : t.errs = s.errs

theorem State.SameDefects.refl : s.SameDefects s := ⟨rfl, rfl⟩

theorem State.SameDefects.trans {u : State} (h : s.SameDefects t) (g : t.SameDefects u) : s.SameDefects u :=
  ⟨g.defects.trans h.defects, g.errs.trans h.errs⟩

theorem State.OnlyFns.sameDefects (h : s.OnlyFns t) : s.SameDefects t := by
  obtain ⟨k, rfl⟩ := h
  exact ⟨rfl, rfl⟩

theorem State.focusIsle_sameDefects (s : State) (n : Nat) : s.SameDefects (s.focusIsle n) := by
  obtain ⟨c, l, r, h⟩ := s.focusIsle_eq n
  rw [h]
  exact ⟨rfl, rfl⟩

theorem State.focusSlot_sameDefects (s : State) (n : Nat) : s.SameDefects (s.focusSlot n) := by
  unfold focusSlot unpack
  split
  · exact .refl
  · split
    · exact .refl
    · dsimp only
      split <;> exact ⟨rfl, rfl⟩

theorem State.withSlot_sameDefects {f : State → State} (n : Nat) (h : ∀ t, State.SameDefects t (f t)) (s : State) : s.SameDefects (s.withSlot n f) := by
  unfold withSlot
  split
  · have inner := (s.focusSlot_sameDefects n).trans (h _)
    dsimp only
    split
    · exact (inner.trans (focusSlot_sameDefects _ _)).trans (focusIsle_sameDefects _ _)
    · exact inner
  · exact .refl

theorem State.eachIsle_sameDefects {f : State → State} (h : ∀ t, State.SameDefects t (f t)) (s : State) : s.SameDefects (s.eachIsle f) :=
  eachIsle_keeps .refl (fun t n k => k.trans (focusIsle_sameDefects t n)) fun t k => k.trans (h t)

theorem State.countIsle_sameDefects (s : State) (u : ErrUnit) : s.SameDefects (s.countIsle u) := by
  have tally (d c r : Nat) (t : State) : t.SameDefects (if t.here = some (d, c, r) then { t with core := t.core.count 0x16 1 } else t) := by
    split <;> exact ⟨rfl, rfl⟩
  have raised : s.SameDefects { s with fresh := s.fresh + 1 } := ⟨rfl, rfl⟩
  unfold countIsle
  split
  · next d c r =>
    dsimp only
    split
    · exact .refl
    · next x _ => exact raised.trans (withSlot_sameDefects x.slot (fun t => eachIsle_sameDefects (tally d c r) t) _)
  · exact .refl

theorem State.onSlot_sameDefects (s : State) (n : Nat) (f : LSlot → LSlot) : s.SameDefects (s.onSlot n f) := by
  unfold onSlot
  split <;> exact ⟨rfl, rfl⟩

theorem State.beginSuspend_sameDefects (s : State) (n : Nat) : s.SameDefects (s.beginSuspend n) := by
  let u := (s.onSlot n fun x => { x with st := .suspending }).onRegion (s.slotAt n).rid fun r =>
    { r with preempt := if r.preempt.contains n then r.preempt else r.preempt ++ [n] }
  have first : s.SameDefects u := (s.onSlot_sameDefects n _).trans ⟨rfl, rfl⟩
  have asked : u.SameDefects (u.withSlot n fun s => s.onCtx fun c => { c with sinceSafe := 0, overdue := 0, reqAt := s.now }) :=
    withSlot_sameDefects (f := fun s => s.onCtx fun c => { c with sinceSafe := 0, overdue := 0, reqAt := s.now }) n (fun _ => ⟨rfl, rfl⟩) u
  unfold beginSuspend
  dsimp only
  split
  · exact first.trans ⟨rfl, rfl⟩
  · exact (first.trans asked).trans ⟨rfl, rfl⟩

theorem State.relocate_sameDefects (s : State) (n : Nat) : s.SameDefects (s.relocate n) := by
  unfold relocate
  split
  · exact (s.onSlot_sameDefects n _).trans (beginSuspend_sameDefects _ n)
  · exact (s.onSlot_sameDefects n _).trans (beginSuspend_sameDefects _ n)
  · exact s.onSlot_sameDefects n _
  · exact .refl

theorem State.relocateAll_sameDefects (l : List Nat) (s : State) : s.SameDefects (State.relocateAll l s) := by
  induction l generalizing s with
  | nil => exact .refl
  | cons n l ih => exact (s.relocate_sameDefects n).trans (ih _)

theorem State.capChange_sameDefects (s : State) (pid : Nat) (f : Part → Part) : s.SameDefects (s.capChange pid f) := by
  have changed : s.SameDefects (s.onPart pid fun p => { f p with capgen := p.capgen + 1 }) := ⟨rfl, rfl⟩
  exact changed.trans (event_onlyFns _ _ _ _).sameDefects

theorem State.capChanges_sameDefects (f : Part → Part) (l : List Part) (s : State) : s.SameDefects (State.capChanges f l s) := by
  induction l generalizing s with
  | nil => exact .refl
  | cons p l ih => exact (s.capChange_sameDefects p.pid f).trans (ih _)

/-- An isle that has become lasting is on the defect map. -/
theorem State.lasting_isle (s : State) (d c r : Nat) : (d, c, r) ∈ (s.lasting (.isle d c r)).defects := by
  change (d, c, r) ∈ (if s.defects.contains (d, c, r) then s else _ : State).defects
  split
  · next listed => exact List.contains_iff_mem.1 listed
  · rw [((capChanges_sameDefects _ _ _).trans (relocateAll_sameDefects _ _)).defects]
    exact List.mem_cons_self

/-- The errors of an isle that stood within the last second. -/
def State.recentOf (s : State) (u : ErrUnit) : List (ErrUnit × Nat) := s.errs.filter fun e => e.1 == u && decide (s.now - e.2 ≤ 2000000000)

/-- What an error of an isle does, by the errors that it has had within 1 s (R331). -/
theorem State.exec_correctedError (s : State) (d c r : Nat) :
    ((s.recentOf (.isle d c r)).length < 7 → ∃ t, exec (.correctedError (.isle d c r)) s = .next t ∧ t.defects = s.defects ∧
      (ErrUnit.isle d c r, s.now) ∈ t.errs) ∧
    ((s.recentOf (.isle d c r)).length = 7 → ∃ t, exec (.correctedError (.isle d c r)) s = .next t ∧ (d, c, r) ∈ t.defects) := by
  have same : ((s.errs.filter fun e => decide (s.now - e.2 ≤ 2000000000)).filter (·.1 == ErrUnit.isle d c r)) = s.recentOf (.isle d c r) :=
    List.filter_filter
  have kept := s.countIsle_sameDefects (.isle d c r)
  change (_ → ∃ t, execCorrectedError _ _ = _ ∧ _) ∧ (_ → ∃ t, execCorrectedError _ _ = _ ∧ _)
  unfold execCorrectedError
  simp only [wholeUnit, same]
  constructor
  · intro few
    rw [if_neg (show ¬ 8 ≤ (s.recentOf (.isle d c r)).length by omega), if_neg (show ¬ (s.recentOf (.isle d c r)).length = 7 by omega)]
    exact ⟨_, rfl, kept.defects, List.mem_cons_self⟩
  · intro seven
    rw [if_neg (show ¬ 8 ≤ (s.recentOf (.isle d c r)).length by omega), if_pos seven]
    exact ⟨_, rfl, lasting_isle _ d c r⟩

/-! ### The wait-for walk (R360) -/

/-- Reports change nothing but the functions of the device. -/
theorem State.events_onlyFns (kind : Nat) (body : State → List Byte) (pids : List Nat) (s : State) :
    s.OnlyFns (pids.foldl (fun s pid => s.event pid kind (body s)) s) := by
  induction pids generalizing s with
  | nil => exact .refl
  | cons p l ih => exact (s.event_onlyFns p kind (body s)).trans (ih _)

theorem State.report_onlyFns (s : State) (g : List Nat) : s.OnlyFns (s.report g) := by
  unfold report
  exact events_onlyFns 3 (fun s => toLe 2 (g.headD 0) ++ toLe 2 (g.drop 1).length ++ toLe 4 s.waitforLost ++ ((g.drop 1).take 8).flatMap (toLe 2)) _ s

theorem State.reports_onlyFns (l : List (List Nat)) (s : State) : s.OnlyFns (l.foldl (fun s g => s.report g) s) := by
  induction l generalizing s with
  | nil => exact .refl
  | cons g l ih => exact (s.report_onlyFns g).trans (ih _)

/-- A walk leaves its groups for the next; only groups found in both are told of. -/
theorem State.exec_waitForWalk (s : State) : ∃ t, exec .waitForWalk s = .next t ∧ t.lastWalk = cyclesOf s.edges ++ s.stalls ∧ t.dram = s.dram ∧
    t.slots = s.slots ∧ ((∀ g ∈ t.lastWalk, g ∉ s.lastWalk) → t.fns = s.fns) := by
  let told := (cyclesOf s.edges ++ s.stalls).filter s.lastWalk.contains
  obtain ⟨k, hk⟩ : s.OnlyFns (told.foldl (fun s g => s.report g) s) := reports_onlyFns told s
  have ran : exec .waitForWalk s = .next { (told.foldl (fun s g => s.report g) s) with
    lastWalk := cyclesOf s.edges ++ s.stalls, waitforLost := if told.isEmpty then s.waitforLost else 0 } := rfl
  rw [hk] at ran
  refine ⟨_, ran, rfl, rfl, rfl, fun unseen => ?_⟩
  have none : told = [] := List.filter_eq_nil_iff.2 fun g hg h => unseen g hg (List.contains_iff_mem.1 h)
  rw [none] at hk
  exact (congrArg State.fns hk).symm

end

/-! ### The waiting groups of kind 1 -/

theorem mem_putSorted {α : Type} (le : α → α → Bool) (a b : α) (l : List α) : b ∈ List.putSorted le a l ↔ b = a ∨ b ∈ l := by
  induction l with
  | nil => simp [List.putSorted]
  | cons c l ih =>
    unfold List.putSorted
    split
    · simp
    · simp only [List.mem_cons, ih]
      tauto

theorem mem_sorted {α : Type} (le : α → α → Bool) (b : α) (l : List α) : b ∈ l.sorted le ↔ b ∈ l := by
  induction l with
  | nil => rfl
  | cons a l ih => exact (mem_putSorted le a b _).trans ((or_congr_right ih).trans List.mem_cons.symm)

/-- What a round has reached stays reached. -/
theorem mem_reaches_of_mem (l : List (Nat × Nat)) {a : Nat} : ∀ (n : Nat) {x : List Nat}, a ∈ x → a ∈ reaches l n x
  | 0, _, h => h
  | n + 1, _, h => mem_reaches_of_mem l n (List.mem_dedup.2 (List.mem_append_left _ h))

/-- One round takes an edge. -/
theorem mem_reaches_of_edge {l : List (Nat × Nat)} {a b : Nat} {x : List Nat} {n : Nat} (edge : (a, b) ∈ l) (h : a ∈ x) : b ∈ reaches l (n + 1) x := by
  by_cases there : b ∈ x
  · exact mem_reaches_of_mem l _ there
  · refine mem_reaches_of_mem l n (List.mem_dedup.2 (List.mem_append_right _ (List.mem_map.2 ⟨(a, b), List.mem_filter.2 ⟨edge, ?_⟩, rfl⟩)))
    simp [h, there]

/-- A slot's own edges and the edges behind them lead to what stands ahead of it. -/
theorem mem_ahead_of_edge {l : List (Nat × Nat)} {a b : Nat} (edge : (a, b) ∈ l) : b ∈ ahead l a :=
  mem_reaches_of_mem l _ (List.mem_dedup.2 (List.mem_map.2 ⟨(a, b), List.mem_filter.2 ⟨edge, by simp⟩, rfl⟩))

theorem mem_ahead_of_edges {l : List (Nat × Nat)} {a b c : Nat} (first : (a, b) ∈ l) (second : (b, c) ∈ l) : c ∈ ahead l a := by
  obtain ⟨n, hn⟩ : ∃ n, l.length = n + 1 := Nat.exists_eq_succ_of_ne_zero (List.length_pos_of_mem first).ne'
  unfold ahead
  rw [hn]
  exact mem_reaches_of_edge second (List.mem_dedup.2 (List.mem_map.2 ⟨(a, b), List.mem_filter.2 ⟨first, by simp⟩, rfl⟩))

/-- Two slots that wait for each other stand in one group. -/
theorem cyclesOf_of_pair {l : List (Nat × Nat)} {a b : Nat} (out : (a, b) ∈ l) (back : (b, a) ∈ l) :
    ∃ g ∈ cyclesOf l, a ∈ g.drop 1 ∧ b ∈ g.drop 1 := by
  have on {c d : Nat} (out : (c, d) ∈ l) (back : (d, c) ∈ l) :
      c ∈ ((l.map (·.1)).dedup.filter fun a => (ahead l a).contains a).sorted (· ≤ ·) :=
    (mem_sorted _ _ _).2 (List.mem_filter.2 ⟨List.mem_dedup.2 (List.mem_map.2 ⟨_, out, rfl⟩), List.contains_iff_mem.2 (mem_ahead_of_edges out back)⟩)
  refine ⟨_, List.mem_dedup.2 (List.mem_map.2 ⟨a, on out back, rfl⟩), ?_, ?_⟩
  · exact List.mem_filter.2 ⟨on out back, by simp [mem_ahead_of_edges out back]⟩
  · exact List.mem_filter.2 ⟨on back out, by simp [mem_ahead_of_edge out, mem_ahead_of_edge back]⟩

/-! ### Frames (R246, R259, R331) -/

section
variable {s : State} {die frame : Nat}

theorem State.exec_frame_absent (h : s.frameExists die frame = false) :
    exec (.frameZeroed die frame) s = .fault .unpopulatedAddress ∧ exec (.frameRetirement die frame) s = .fault .unpopulatedAddress := by
  constructor
  · change execFrameZeroed die frame s = _
    unfold execFrameZeroed
    simp [h]
  · change execFrameRetirement die frame s = _
    unfold execFrameRetirement
    simp [h]

/-- A small frame that awaits its zeroing is zero afterwards, and no other byte changes. -/
theorem State.exec_frameZeroed {pl : Place} (there : s.frameExists die frame = true) (at_ : s.placeOf die frame = some pl) (due : s.awaitsZero pl = true)
    (small : pl.big = false) : ∃ t, exec (.frameZeroed die frame) s = .next t ∧ (∀ a, a < 65536 → t.dram.rd (pl.key / 65536 * 65536 + a) = 0) ∧
      ∀ a, a / 65536 ≠ pl.key / 65536 → t.dram.rd a = s.dram.rd a := by
  have ran : exec (.frameZeroed die frame) s = .next (s.zeroFrame pl) := by
    change execFrameZeroed die frame s = _
    unfold execFrameZeroed
    rw [if_pos there, at_]
  have wiped : (s.zeroFrame pl).dram = s.dram.clearRange (pl.key / 65536 * 65536) 65536 := by
    unfold zeroFrame
    rw [if_pos due]
    unfold Place.frame Place.size
    rw [small]
    rfl
  refine ⟨_, ran, fun a ha => ?_, fun a ha => ?_⟩ <;> rw [wiped]
  · exact Mem.rd_clearRange_in _ ⟨Nat.le_add_right _ _, by omega⟩
  · exact Mem.rd_clearRange_out _ (by omega)

/-- A frame that no partition maps is listed as retired, and no byte changes. -/
theorem State.exec_frameRetirement (there : s.frameExists die frame = true) (none : s.parts = []) :
    ∃ t, exec (.frameRetirement die frame) s = .next t ∧ t.dram = s.dram ∧ die * 2 ^ 24 + frame ∈ t.retiredFrames := by
  have ran : exec (.frameRetirement die frame) s = .next
      (if s.retiredFrames.contains (die * 2 ^ 24 + frame) then s else { s with retiredFrames := (die * 2 ^ 24 + frame) :: s.retiredFrames }) := by
    change execFrameRetirement die frame s = _
    unfold execFrameRetirement retireFrame
    rw [if_pos there, none]
    rfl
  refine ⟨_, ran, ?_⟩
  split
  · next listed => exact ⟨rfl, List.contains_iff_mem.1 listed⟩
  · exact ⟨rfl, List.mem_cons_self⟩

end

/-! ## The obligation -/

section
variable (s : State) (d c r : Nat)

/-- The island of an isle that no region holds is gated, where it is neither gated nor waking. -/
theorem State.exec_islandIdleGating (free : ∀ g ∈ s.regions, (d, c, r) ∉ g.cells) (warm : (d, c, r) ∉ s.gated) (awake : (d, c, r) ∉ s.waking) :
    exec (.islandIdleGating d c r) s = .next
      { s with gated := (d, c, r) :: s.gated, overlays := s.overlays.filter fun t => (t.die, t.col, t.row) != (d, c, r) } := by
  change execIslandIdleGating d c r s = _
  unfold execIslandIdleGating
  exact congrArg Host.Outcome.next (if_neg (by simpa [warm, awake] using free))

theorem State.exec_islandIdleGating_held (held : ∃ g ∈ s.regions, (d, c, r) ∈ g.cells) : exec (.islandIdleGating d c r) s = .next s := by
  change execIslandIdleGating d c r s = _
  unfold execIslandIdleGating
  have any : s.regions.any (fun g => g.cells.contains (d, c, r)) = true := by simpa using held
  exact congrArg Host.Outcome.next (if_pos (by rw [any]; rfl))

end

/-- Settles O51. -/
theorem deviceEvents : Obligations.DeviceEvents := by
  refine ⟨fun s rid d c r stack temp on => ?_, fun t => rfl, State.exec_waitForWalk, fun l a b _ out back => cyclesOf_of_pair out back,
    fun s => ⟨_, rfl, rfl, rfl, rfl, rfl, rfl, rfl, rfl, rfl, rfl, rfl, rfl⟩,
    fun s die frame => ⟨State.exec_frame_absent, fun _ => State.exec_frameZeroed, State.exec_frameRetirement⟩⟩
  obtain ⟨counted, lasting⟩ := s.exec_correctedError d c r
  exact ⟨counted, lasting, rfl, rfl, s.exec_islandIdleGating d c r, s.exec_islandIdleGating_held d c r, rfl, rfl, rfl⟩

end Sys2Proof.Machine
end

section
/-! PROOFS. Checkpoints and restores -/

namespace Sys2Proof.Machine

/-! ## Checkpoints and restores (R404-R408) -/

section
variable {s : State} {p : Part}

/-- Nothing but the frames of device memory and the partitions' leaves over them differs. -/
def State.OnlyFrames (s t : State) : Prop := ∃ d q l, t = { s with dram := d, dpoison := q, parts := l }

theorem State.OnlyFrames.refl : s.OnlyFrames s := ⟨s.dram, s.dpoison, s.parts, rfl⟩

theorem State.OnlyFrames.trans {t u : State} (h : s.OnlyFrames t) (g : t.OnlyFrames u) : s.OnlyFrames u := by
  obtain ⟨d, q, l, rfl⟩ := h
  obtain ⟨d', q', l', rfl⟩ := g
  exact ⟨d', q', l', rfl⟩

theorem State.zeroFrame_onlyFrames (s : State) (pl : Place) : s.OnlyFrames (s.zeroFrame pl) := by
  unfold zeroFrame
  split
  · exact ⟨_, _, _, rfl⟩
  · exact .refl

theorem State.onPart_onlyFrames (s : State) (n : Nat) (f : Part → Part) : s.OnlyFrames (s.onPart n f) := ⟨_, _, _, rfl⟩

theorem State.touchGpa_onlyFrames (s : State) (p : Part) (gpa n : Nat) : s.OnlyFrames (s.touchGpa p gpa n) := by
  unfold touchGpa
  induction pageStarts gpa n generalizing s with
  | nil => exact .refl
  | cons a l ih =>
    rw [List.foldl_cons]
    cases s.stage2 p a true false with
    | error r => exact ih s
    | ok pl => exact (s.zeroFrame_onlyFrames pl).trans (ih _)

/-! ### Commands (R404, R407) -/

section
variable {fn op : Nat} {d : List Byte} {start : Part → State → State}

/-- A write that acts on a partition which no lock forbids. -/
theorem State.partWrite_of_hears {vf : Bool} {f : Part → State → State} (hears : s.Hears fn) (may : isPf fn = true ∨ vf = true)
    (acts : s.actsOn fn = some p) : s.partWrite fn vf false f = f p s := by
  rw [partWrite, regWrite_of_hears hears may, acts]
  rfl

/-- The state in which a CHECKPOINT or RESTORE reads its descriptor. -/
def State.described (s : State) (p : Part) : State := (s.onPart p.pid fun p => { p with ckptPages := 0 }).touchGpa p p.ckptAddr 256

theorem State.described_onlyFrames (s : State) (p : Part) : s.OnlyFrames (s.described p) :=
  (s.onPart_onlyFrames _ _).trans (touchGpa_onlyFrames _ _ _ _)

/-- The state in which a command begins its steps. -/
def State.began (s : State) (p : Part) (fn op : Nat) (d : List Byte) : State :=
  (s.described p).onPart p.pid fun p => { p with
    ckptErr := false, ckptReason := 0
    ckpt := some { op := op, fn := fn, desc := d, phase := 0, page := 0, entries := [], store := 0, since := s.now, manifest := [] } }

theorem State.ckptCommand_of_busy (hears : s.Hears fn) (acts : s.actsOn fn = some p) (busy : p.ckpt ≠ none) :
    s.ckptCommand fn op start = s.dropped fn := by
  rw [ckptCommand, partWrite_of_hears hears (.inr rfl) acts, if_pos (Option.isSome_iff_ne_none.2 busy)]

theorem State.ckptCommand_of_bad (hears : s.Hears fn) (acts : s.actsOn fn = some p) (idle : p.ckpt = none)
    (read : (s.described p).readGpa p p.ckptAddr 256 = .ok d) (bad : descBad p d = true) :
    s.ckptCommand fn op start = (s.described p).ckptEnd p.pid fn (some 1) := by
  rw [ckptCommand, partWrite_of_hears hears (.inr rfl) acts, if_neg (by rw [idle]; decide)]
  unfold described at read ⊢
  dsimp only
  rw [read]
  exact if_pos bad

theorem State.ckptCommand_of_good (hears : s.Hears fn) (acts : s.actsOn fn = some p) (idle : p.ckpt = none)
    (read : (s.described p).readGpa p p.ckptAddr 256 = .ok d) (good : descBad p d = false) : s.ckptCommand fn op start = start p (s.began p fn op d) := by
  have time : (s.described p).now = s.now := by
    obtain ⟨_, _, _, h⟩ := s.described_onlyFrames p
    rw [h]
  rw [ckptCommand, partWrite_of_hears hears (.inr rfl) acts, if_neg (by rw [idle]; decide)]
  unfold began
  rw [← time]
  unfold described at read ⊢
  dsimp only
  rw [read]
  exact if_neg (by rw [good]; decide)

theorem State.shareSlots_began : (s.began p fn op d).shareSlots p = s.shareSlots p := by
  obtain ⟨_, _, _, h⟩ := (s.described_onlyFrames p).trans (onPart_onlyFrames _ p.pid fun p => { p with
    ckptErr := false, ckptReason := 0
    ckpt := some { op := op, fn := fn, desc := d, phase := 0, page := 0, entries := [], store := 0, since := s.now, manifest := [] } })
  unfold began
  rw [h]
  rfl

/-- CHECKPOINT of a partition with no launch slot begins, and pre-empts nothing. -/
theorem State.exec_checkpoint_of_good (hears : s.Hears fn) (acts : s.actsOn fn = some p) (idle : p.ckpt = none)
    (read : (s.described p).readGpa p p.ckptAddr 256 = .ok d) (good : descBad p d = false) (empty : s.shareSlots p = []) :
    exec (.checkpoint fn) s = .next (s.began p fn 0 d) := by
  have begun := (ckptCommand_of_good (op := 0) hears acts idle read good :
    s.ckptCommand fn 0 (fun p s => State.relocateAll (((s.shareSlots p).filter fun x => x.st == .placed || x.st == .running).map (·.n)) s) = _)
  rw [shareSlots_began, empty] at begun
  exact congrArg Host.Outcome.next begun

theorem State.exec_restore_of_good (hears : s.Hears fn) (acts : s.actsOn fn = some p) (idle : p.ckpt = none)
    (read : (s.described p).readGpa p p.ckptAddr 256 = .ok d) (good : descBad p d = false) (empty : s.shareSlots p = []) :
    exec (.restore fn) s = .next (s.began p fn 1 d) := by
  have begun := (ckptCommand_of_good (op := 1) hears acts idle read good :
    s.ckptCommand fn 1 (fun p s => if (s.heldSlots p).isEmpty then s else s.ckptRefused p fn 0x01) = _)
  have held : (s.began p fn 1 d).heldSlots p = [] := by
    rw [heldSlots, shareSlots_began, empty]
    rfl
  rw [held] at begun
  exact congrArg Host.Outcome.next begun

/-- A command's end leaves the launch slots. -/
theorem State.slots_ckptEnd (s : State) (pid fn : Nat) (r : Option Nat) : (s.ckptEnd pid fn r).slots = s.slots := by
  unfold ckptEnd
  dsimp only
  obtain ⟨_, h⟩ := (event_onlyFns (s := (s.forgetPeers pid).onPart pid _) pid 6 _).trans (message_onlyFns _ fn 2)
  rw [h]
  rfl

/-- A checkpoint's end gives no slot back where the partition has none. -/
theorem State.checkpointEnds_of_empty {r : Option Nat} (empty : s.shareSlots p = []) : s.checkpointEnds p fn r = s.ckptEnd p.pid fn r := by
  have still : (s.ckptEnd p.pid fn r).shareSlots p = [] := by
    rw [← empty, shareSlots, slots_ckptEnd]
    rfl
  rw [checkpointEnds, clearDreq, still]
  rfl

/-- ABORT (R407), by the command that is in progress. -/
theorem State.exec_abort (hears : s.Hears fn) (acts : s.actsOn fn = some p) : exec (.abort fn) s = .next
    (match p.ckpt with
    | none => s
    | some c => if c.op = 0 then s.checkpointEnds p c.fn none else if c.ends.isSome then s else s.restoreFails p none) := by
  change Host.Outcome.next (s.partWrite fn true false _) = _
  rw [partWrite_of_hears hears (.inr rfl) acts] <;> rfl

theorem State.restoreFails_of_empty {r : Option Nat} (empty : s.shareSlots p = []) : s.restoreFails p r =
    (s.onPart p.pid fun p => { p with resetting := true }).onCkpt p.pid fun c => { c with ends := some r } := by
  rw [restoreFails, empty]
  rfl

end

/-! ### The steps of a command (R405, R408) -/

section
variable {c : Ckpt}

/-- A command's step changed, as its partition reads it. -/
theorem State.part_onCkpt {f : Ckpt → Ckpt} (found : s.part p.pid = some p) (running : p.ckpt = some c) :
    (s.onCkpt p.pid f).part p.pid = some { p with ckpt := some (f c) } := by
  rw [onCkpt, part_onPart_self]
  · rw [found, Option.map_some, running]
    rfl
  · exact fun _ => rfl

theorem State.exec_checkpointComplete (found : s.part p.pid = some p) (running : p.ckpt = some c) (op : c.op = 0) :
    exec (.checkpointComplete p.pid) s = .next (s.checkpointStep p c) := by
  change execCheckpointComplete p.pid s = _
  unfold execCheckpointComplete
  rw [found]
  dsimp only
  rw [running]
  exact congrArg Host.Outcome.next (if_pos op)

theorem State.exec_restoreComplete (found : s.part p.pid = some p) (running : p.ckpt = some c) (op : c.op = 1) :
    exec (.restoreComplete p.pid) s = .next (s.restoreStep p c) := by
  change execRestoreComplete p.pid s = _
  unfold execRestoreComplete
  rw [found]
  dsimp only
  rw [running]
  exact congrArg Host.Outcome.next (if_pos op)

theorem State.exec_complete_of_none (found : s.part p.pid = some p) (idle : p.ckpt = none) :
    exec (.checkpointComplete p.pid) s = .next s ∧ exec (.restoreComplete p.pid) s = .next s := by
  constructor
  · change execCheckpointComplete p.pid s = _
    unfold execCheckpointComplete
    rw [found]
    dsimp only
    rw [idle]
  · change execRestoreComplete p.pid s = _
    unfold execRestoreComplete
    rw [found]
    dsimp only
    rw [idle]

/-- The quiet point ends the first phase. -/
theorem State.checkpointStep_of_quiet (phase : c.phase = 0) (quiet : s.partQuiet p = true) :
    s.checkpointStep p c = s.onCkpt p.pid fun c => { c with phase := c.phase + 1, page := 0, since := s.now } := by
  unfold checkpointStep
  rw [phase]
  exact if_pos quiet

theorem State.checkpointStep_of_page {page : Nat} (phase : c.phase = 1) (at_ : p.pageAt c.page = some page) :
    s.checkpointStep p c = s.hashPage p c page := by
  unfold checkpointStep
  rw [phase]
  dsimp only
  rw [at_]
  rfl

/-- A page that no range names keeps its own copy. -/
theorem State.hashPage_of_read {page : Nat} {pl : Place} {l : List Byte} (placed : s.stage2 p (page * 65536) true false = .ok pl)
    (written : s.awaitsZero pl = false) (read : s.readPage p page = .ok l) (plain : inRanges c.desc page = none) :
    s.hashPage p c page = s.onCkpt p.pid fun c => { c with page := c.page + 1, entries := c.entries ++ [(page, locOwn, 0, Config.sha384 l)] } := by
  unfold hashPage
  dsimp only
  rw [placed]
  dsimp only
  rw [if_neg (by rw [written]; decide), read]
  dsimp only
  rw [plain]

theorem State.hashPage_of_zero {page : Nat} {pl : Place} (placed : s.stage2 p (page * 65536) true false = .ok pl) (due : s.awaitsZero pl = true) :
    s.hashPage p c page =
      s.onCkpt p.pid fun c => { c with page := c.page + 1, entries := c.entries ++ [(page, locZero, 0, Config.sha384 (List.replicate 65536 0))] } := by
  unfold hashPage
  dsimp only
  rw [placed]
  exact if_pos due

/-- The first step of a restore: its manifest held to its descriptor. -/
theorem State.restoreStep_first (phase : c.phase = 0) (going : c.ends = none) : s.restoreStep p c =
    match (s.touchGpa p (le8 c.desc 0x20) 128).checkManifest p c.desc with
    | .error r => ((s.touchGpa p (le8 c.desc 0x20) 128).blame r.2).restoreFails p (some r.1)
    | .ok l => ((s.touchGpa p (le8 c.desc 0x20) 128).touchGpa p (le8 c.desc 0x20) l.length).onCkpt p.pid fun c =>
        { c with phase := 1, manifest := l, entries := manifestEntries l, since := s.now } := by
  have time : (s.touchGpa p (le8 c.desc 0x20) 128).now = s.now := by
    obtain ⟨_, _, _, h⟩ := s.touchGpa_onlyFrames p (le8 c.desc 0x20) 128
    rw [h]
  unfold restoreStep
  rw [phase, going, ← time]
  rfl

/-- The reset that ends a restore waits until its contexts are gone. -/
theorem State.restoreStep_ended {r : Option Nat} (ended : c.ends = some r) : s.restoreStep p c = s.restoreReset p c.fn r := by
  unfold restoreStep
  rw [ended]

theorem State.restoreReset_of_gone {fn : Nat} {r : Option Nat} (gone : ∀ x ∈ s.allCtx, x.pid ≠ p.pid) :
    s.restoreReset p fn r = (s.powerCycle p).ckptEnd p.pid fn r := if_pos (by simpa using gone)

theorem State.restoreReset_of_there {fn : Nat} {r : Option Nat} (there : ∃ x ∈ s.allCtx, x.pid = p.pid) : s.restoreReset p fn r = s :=
  if_neg (by simpa using there)

end

end

/-! ### What peers send (R405, R408, R306) -/

section
variable {s : State} {p : Part} {pid rank page : Nat} {job step_ : W64}

/-- What a message of a peer rank that may be reached leaves. -/
def State.heeded (s : State) (p : Part) : ReplicaMsg → State
  | .hashes pid rank job step l =>
    let new : List PeerHash := l.map fun x => { pid := pid, rank := rank, job := job, step := step, page := x.1, hash := x.2 }
    { s with peerHashes := new ++ s.peerHashes.filter fun h => new.all fun n => { n with hash := h.hash } != h }
  | .pages pid rank job step l =>
    { s with
      peerManifest := (pid, rank, job, step) :: s.peerManifest.filter fun x => !(x.1 == pid && x.2.1 == rank)
      peerPages := s.peerPages ++ l.map fun x => (pid, rank, x.1, x.2) }
  | .pull _ _ page store => s.servePull p page store

theorem State.exec_replicaExchange {m : ReplicaMsg} (found : s.part (replicaPart m) = some p) (meet : s.replicasMeet p = true) :
    exec (.replicaExchange m) s = .next (s.heeded p m) := by
  change execReplicaExchange m s = _
  unfold execReplicaExchange
  rw [found]
  dsimp only
  rw [meet]
  cases m <;> rfl

theorem State.exec_replicaExchange_of_apart {m : ReplicaMsg} (found : s.part (replicaPart m) = some p) (apart : s.replicasMeet p = false) :
    exec (.replicaExchange m) s = .next s := by
  change execReplicaExchange m s = _
  unfold execReplicaExchange
  rw [found]
  dsimp only
  rw [apart]
  rfl

/-- A hash that a rank sends is the one looked up for its page of the step. -/
theorem State.exec_hashes {h : BitVec 384} (found : s.part pid = some p) (meet : s.replicasMeet p = true) :
    ∃ t, exec (.replicaExchange (.hashes pid rank job step_ [(page, h)])) s = .next t ∧
      ∀ d, le8 d 0 = job.toNat → le8 d 8 = step_.toNat → t.peerHash pid d rank page = some h := by
  refine ⟨_, exec_replicaExchange found meet, fun d hj hs => ?_⟩
  have named : (({ pid := pid, rank := rank, job := job, step := step_, page := page, hash := h } : PeerHash).pid == pid && rank == rank &&
      job.toNat == le8 d 0 && step_.toNat == le8 d 8 && page == page) = true := by simp [hj, hs]
  exact congrArg (Option.map PeerHash.hash) (List.find?_cons_of_pos named)

theorem State.exec_pages {l : List Byte} (found : s.part pid = some p) (meet : s.replicasMeet p = true) :
    ∃ t, exec (.replicaExchange (.pages pid rank job step_ [(page, l)])) s = .next t ∧ (pid, rank, page, l) ∈ t.peerPages ∧
      (pid, rank, job, step_) ∈ t.peerManifest :=
  ⟨_, exec_replicaExchange found meet, List.mem_append_right _ List.mem_cons_self, List.mem_cons_self⟩

/-- A page pulled from HBM is the answer. -/
theorem State.exec_pull {l : List Byte} (found : s.part pid = some p) (meet : s.replicasMeet p = true)
    (read : (s.touchPage p page).readPage p page = .ok l) :
    exec (.replicaExchange (.pull pid rank page none)) s = .next ((s.touchPage p page).onFn p.pf fun f => { f with answer := l }) := by
  have given : s.servePull p page none = (s.touchPage p page).onFn p.pf fun f => { f with answer := l } := by
    unfold servePull givePage
    dsimp only
    rw [read]
  rw [exec_replicaExchange found meet]
  exact congrArg Host.Outcome.next given

/-- A peer's contribution over a link that serves. -/
def State.joined (s : State) (r : PeerReq) : State := { s with contribs := s.contribs ++ [{
  gid := r.gid, rank := r.rank, npart := r.npart, op := r.op, failed := r.failed, header := r.header, bytes := r.bytes
  who := (4096 + r.link, r.rank, r.src), origin := none }] }

section
variable {r : PeerReq}

theorem State.exec_peerAccess_of_none (sound : r.link ∉ s.frozenLinks) (good : r.link ∉ s.badLinks) (unowned : s.ownerOfLink r.link = none) :
    exec (.peerAccess r) s = .next { s with agenda := .fabricLinkBreach r.link :: s.agenda } := by
  change execPeerAccess r s = _
  unfold execPeerAccess
  rw [if_neg (by simp [sound, good]), unowned]

theorem State.exec_peerAccess_of_foreign (sound : r.link ∉ s.frozenLinks) (good : r.link ∉ s.badLinks) (owned : s.ownerOfLink r.link = some p)
    (foreign : p.holdsGroup r.gid = false) : exec (.peerAccess r) s = .next { s with agenda := .fabricLinkBreach r.link :: s.agenda } := by
  change execPeerAccess r s = _
  unfold execPeerAccess
  rw [if_neg (by simp [sound, good]), owned]
  dsimp only
  rw [if_pos (by rw [foreign]; rfl)]

/-- A contribution of a group that the link's partition holds, to a place that stands, joins. -/
theorem State.exec_peerAccess_of_held {pl : Place} (sound : r.link ∉ s.frozenLinks) (good : r.link ∉ s.badLinks)
    (owned : s.ownerOfLink r.link = some p) (held : p.holdsGroup r.gid = true) (accepted : p.featAccept.testBit 1 = true) (low : p.asidBase ≤ r.asid)
    (high : r.asid < p.asidBase + p.asidCnt) (placed : s.translate r.asid p.pid (.ctx r.va false true) = .ok pl) (whole : pl.bad = false) :
    exec (.peerAccess r) s = .next ((s.joined r).touch r.asid p.pid (.ctx r.va false true)) := by
  have fabric : bit p.featAccept 1 = true := by
    rw [← accepted, Nat.testBit_eq_decide_div_mod_eq]
    rfl
  change execPeerAccess r s = _
  unfold execPeerAccess
  rw [if_neg (by simp [sound, good]), owned]
  dsimp only
  rw [if_neg (by rw [held, fabric, decide_eq_true ⟨low, high⟩]; decide), placed]
  dsimp only
  rw [if_neg (by rw [whole]; decide)]
  rfl

end

end

/-! ## The obligation -/

/-- Settles O50. -/
theorem checkpointEvents : Obligations.CheckpointEvents := by
  refine ⟨fun s fn p d hears acts found => ?_, fun s p found => ?_, fun s p pid rank page job step_ h l found => ?_, fun s r pl sound good => ?_⟩
  · refine ⟨fun busy => ?_, fun idle read bad => ?_, fun idle read good empty => ?_, fun idle => ?_, fun c running op empty => ?_,
      fun c running op going empty => ?_, fun c running op ended => ?_⟩
    · exact ⟨congrArg Host.Outcome.next (State.ckptCommand_of_busy hears acts busy), congrArg Host.Outcome.next (State.ckptCommand_of_busy hears acts busy)⟩
    · exact ⟨congrArg Host.Outcome.next (State.ckptCommand_of_bad hears acts idle read bad),
        congrArg Host.Outcome.next (State.ckptCommand_of_bad hears acts idle read bad)⟩
    · exact ⟨State.exec_checkpoint_of_good hears acts idle read good empty, State.exec_restore_of_good hears acts idle read good empty⟩
    all_goals rw [State.exec_abort hears acts]
    · rw [idle]
    · rw [running]
      dsimp only
      rw [if_pos op, State.checkpointEnds_of_empty empty]
    · rw [running]
      dsimp only
      rw [if_neg (by omega), going, State.restoreFails_of_empty empty]
      rfl
    · rw [running]
      dsimp only
      rw [if_neg (by omega), if_pos (Option.isSome_iff_ne_none.2 ended)]
  · refine ⟨State.exec_complete_of_none found, fun c running op phase quiet => ?_, fun c page pl l running op phase at_ placed written read plain => ?_,
      fun c page pl running op phase at_ placed due => ?_, fun c running op phase going => ?_, fun c r running op ended => ?_⟩
    · refine ⟨_, (State.exec_checkpointComplete found running op).trans (congrArg Host.Outcome.next (State.checkpointStep_of_quiet phase quiet)), ?_⟩
      rw [State.part_onCkpt found running, phase]
    · exact ⟨_, (State.exec_checkpointComplete found running op).trans (congrArg Host.Outcome.next ((State.checkpointStep_of_page phase at_).trans
        (State.hashPage_of_read placed written read plain))), State.part_onCkpt found running⟩
    · exact ⟨_, (State.exec_checkpointComplete found running op).trans (congrArg Host.Outcome.next ((State.checkpointStep_of_page phase at_).trans
        (State.hashPage_of_zero placed due))), State.part_onCkpt found running⟩
    · refine ⟨fun r bad => ?_, fun l good => ?_⟩ <;> rw [State.exec_restoreComplete found running op, State.restoreStep_first phase going]
      · rw [bad]
      · rw [good]
    · refine ⟨fun gone => ?_, fun there => ?_⟩ <;> rw [State.exec_restoreComplete found running op, State.restoreStep_ended ended]
      · rw [State.restoreReset_of_gone gone]
      · rw [State.restoreReset_of_there there]
  · refine ⟨fun meet => ⟨State.exec_hashes found meet, State.exec_pages found meet, State.exec_pull found meet⟩, fun apart m named => ?_⟩
    exact State.exec_replicaExchange_of_apart (named ▸ found) apart
  · exact ⟨State.exec_peerAccess_of_none sound good, fun p => State.exec_peerAccess_of_foreign sound good, fun p owned held accepted low high =>
      State.exec_peerAccess_of_held sound good owned held accepted low high⟩

end Sys2Proof.Machine
end

section
/-! PROOFS. The events of a kite -/

namespace Sys2Proof.Machine

/-! ## What the contexts and their budgets do to the rest of the machine: nothing -/

section
variable {s t : State}

/-- Nothing but the contexts, the focus among them, and the budgets of the interval differs. -/
def State.OnlyContexts (s t : State) : Prop :=
  ∃ c x l r n o b, t = { s with core := c, ctx := x, left := l, right := r, slot := n, others := o, budgetUse := b }

theorem State.OnlyContexts.refl : s.OnlyContexts s := ⟨s.core, s.ctx, s.left, s.right, s.slot, s.others, s.budgetUse, rfl⟩

theorem State.OnlyContexts.trans {u : State} (h : s.OnlyContexts t) (g : t.OnlyContexts u) : s.OnlyContexts u := by
  obtain ⟨c, x, l, r, n, o, b, rfl⟩ := h
  obtain ⟨c', x', l', r', n', o', b', rfl⟩ := g
  exact ⟨c', x', l', r', n', o', b', rfl⟩

theorem State.OnlyContexts.ite {u : State} {p : Prop} [Decidable p] (h : s.OnlyContexts t) (g : s.OnlyContexts u) : s.OnlyContexts (if p then t else u) := by
  split
  · exact h
  · exact g

theorem State.OnlyContexts.socks (h : s.OnlyContexts t) : t.socks = s.socks := by
  obtain ⟨_, _, _, _, _, _, _, rfl⟩ := h
  rfl

theorem State.OnlyContexts.dram (h : s.OnlyContexts t) : t.dram = s.dram := by
  obtain ⟨_, _, _, _, _, _, _, rfl⟩ := h
  rfl

theorem State.onCore_onlyContexts (s : State) (f : Isle → Isle) : s.OnlyContexts (s.onCore f) := ⟨_, _, _, _, _, _, _, rfl⟩

theorem State.onCtx_onlyContexts (s : State) (f : Ctx → Ctx) : s.OnlyContexts (s.onCtx f) := ⟨_, _, _, _, _, _, _, rfl⟩

theorem State.focusIsle_onlyContexts (s : State) (n : Nat) : s.OnlyContexts (s.focusIsle n) := by
  obtain ⟨c, l, r, h⟩ := s.focusIsle_eq n
  rw [h]
  exact ⟨_, _, _, _, _, _, _, rfl⟩

theorem State.unpack_onlyContexts (s : State) (r : CtxRec) : s.OnlyContexts (s.unpack r) := by
  unfold unpack
  split <;> exact ⟨_, _, _, _, _, _, _, rfl⟩

theorem State.others_onlyContexts (s : State) (o : List CtxRec) : s.OnlyContexts { s with others := o } := ⟨_, _, _, _, _, _, _, rfl⟩

theorem State.focusSlot_onlyContexts (s : State) (n : Nat) : s.OnlyContexts (s.focusSlot n) := by
  unfold focusSlot
  split
  · exact .refl
  · split
    · exact .refl
    · exact (s.others_onlyContexts _).trans (unpack_onlyContexts _ _)

theorem State.withSlot_onlyContexts {f : State → State} (n : Nat) (h : ∀ t, State.OnlyContexts t (f t)) (s : State) : s.OnlyContexts (s.withSlot n f) := by
  unfold withSlot
  have inner := (s.focusSlot_onlyContexts n).trans (h _)
  split
  · dsimp only
    split
    · exact (inner.trans (focusSlot_onlyContexts _ _)).trans (focusIsle_onlyContexts _ _)
    · exact inner
  · exact .refl

theorem State.atIsle_onlyContexts {f : State → State} (x y : Nat) (h : ∀ t, State.OnlyContexts t (f t)) (s : State) : s.OnlyContexts (s.atIsle x y f) :=
  ((s.focusIsle_onlyContexts _).trans (h _)).trans (focusIsle_onlyContexts _ _)

theorem State.eachIsle_onlyContexts {f : State → State} (h : ∀ t, State.OnlyContexts t (f t)) (s : State) : s.OnlyContexts (s.eachIsle f) :=
  eachIsle_keeps .refl (fun t n k => k.trans (t.focusIsle_onlyContexts n)) fun t k => k.trans (h t)

theorem State.spend_onlyContexts (s : State) (k : Nat) : s.OnlyContexts (s.spend k) := ⟨_, _, _, _, _, _, _, rfl⟩

theorem State.channelIn_onlyContexts {pl : Place} (h : s.channelIn pl = some t) : s.OnlyContexts t := by
  unfold channelIn at h
  split at h
  · split at h
    · exact Option.some.inj h ▸ s.spend_onlyContexts _
    · cases h
  · exact Option.some.inj h ▸ .refl

theorem State.letIn_onlyContexts {pl : Place} (h : s.letIn pl = some t) : s.OnlyContexts t := by
  unfold letIn at h
  dsimp only at h
  rw [Option.ite_none_right_eq_some] at h
  exact (s.spend_onlyContexts _).trans (channelIn_onlyContexts h.2)

theorem State.pass_onlyContexts (l : List Place) (s : State) : s.OnlyContexts (s.pass l).1 := by
  unfold pass
  induction l generalizing s with
  | nil => exact .refl
  | cons pl l ih =>
    rw [admitBy]
    cases passed : s.letIn pl with
    | none => exact .refl
    | some u => exact (letIn_onlyContexts passed).trans (ih u)

end

/-! ## Frames that accesses zero (R258) -/

section
variable {s t : State}

theorem State.OnlyFrames.socks (h : s.OnlyFrames t) : t.socks = s.socks := by
  obtain ⟨_, _, _, rfl⟩ := h
  rfl

theorem State.zeroFrames_onlyFrames (l : List Place) (s : State) : s.OnlyFrames (s.zeroFrames l) := by
  induction l generalizing s with
  | nil => exact .refl
  | cons pl l ih => exact (s.zeroFrame_onlyFrames pl).trans (ih _)

theorem State.touch_onlyFrames (s : State) (asid pid : Nat) (q : Asked) : s.OnlyFrames (s.touch asid pid q) := zeroFrames_onlyFrames _ s

theorem State.touchAll_onlyFrames (s : State) (asid pid : Nat) (q : Asked) (n : Nat) : s.OnlyFrames (s.touchAll asid pid q n) := by
  unfold touchAll
  induction pageStarts q.va n generalizing s with
  | nil => exact .refl
  | cons a l ih => exact (s.touch_onlyFrames _ _ _).trans (ih _)

end

/-! ## The kite sockets (R311-R320) -/

section
variable {s t : State} {k : Nat} {f : Socket → Socket}

theorem State.there_of_present (h : (s.sock k).present = true) : k < s.socks.length := by
  by_contra beyond
  rw [sock, List.getElem?_eq_none (by omega)] at h
  cases h

theorem State.sock_onSock_self (there : k < s.socks.length) : (s.onSock k f).sock k = f (s.sock k) := by
  simp [sock, onSock, there]

@[simp] theorem State.length_onSock (s : State) (k : Nat) (f : Socket → Socket) : (s.onSock k f).socks.length = s.socks.length := List.length_modify ..

theorem State.sock_of_socks (h : t.socks = s.socks) : t.sock k = s.sock k := by rw [sock, h, sock]

/-! ### Faults of packets, and a kite that is frozen (R316, R319) -/

theorem State.record_onlyContexts (n : Nat) (d : DefFault) (s : State) : s.OnlyContexts (s.withSlot n fun s => s.record d) :=
  withSlot_onlyContexts (f := fun s => s.record d) n (fun t => t.onCtx_onlyContexts _) s

/-- What a packet's fault leaves. -/
structure State.Blamed (s t : State) : Prop where
  sockets : t.socks.length = s.socks.length
  dram : t.dram = s.dram

theorem State.packetFault_blamed (s : State) (q : Packet) (cause info addr : Nat) : s.Blamed (s.packetFault k q cause info addr) := by
  have recorded := fun d => record_onlyContexts q.slot d s
  unfold packetFault
  split
  · exact ⟨rfl, rfl⟩
  · dsimp only
    split
    · exact ⟨(length_onSock _ _ _).trans (congrArg List.length (recorded _).socks), (recorded _).dram⟩
    · exact ⟨congrArg List.length (recorded _).socks, (recorded _).dram⟩

theorem State.packetFaults_blamed (cause info : Nat) (l : List Packet) (s : State) : s.Blamed (State.packetFaults k cause info l s) := by
  induction l generalizing s with
  | nil => exact ⟨rfl, rfl⟩
  | cons q l ih =>
    have first := s.packetFault_blamed (k := k) q cause info q.seq
    exact ⟨(ih _).sockets.trans first.sockets, (ih _).dram.trans first.dram⟩

theorem State.eachPart_onlyFns {g : Part → State → State} (h : ∀ p s, State.OnlyFns s (g p s)) (l : List Part) (s : State) :
    s.OnlyFns (State.eachPart g l s) := by
  induction l generalizing s with
  | nil => exact .refl
  | cons p l ih => exact (h p s).trans (ih _)

/-- A kite that was there is frozen, its link down, with no packet outstanding. -/
theorem State.freezeKite_freezes (present : (s.sock k).present = true) (running : (s.sock k).frozen = false) :
    ((s.freezeKite k).sock k).frozen = true ∧ ((s.freezeKite k).sock k).link = false ∧ ((s.freezeKite k).sock k).packets = [] := by
  let t := State.packetFaults k causeKite 0x8C (s.sock k).packets s
  let reset (x : Socket) : Socket := { x with frozen := true, link := false, packets := [], quiesce := [], tether := [] }
  have told (p : Part) (u : State) : u.OnlyFns (if p.onSocket k then u.event p.pid 5 (toLe 1 1 ++ toLe 1 k) else u) := by
    split
    · exact u.event_onlyFns _ _ _
    · exact .refl
  have socks : (s.freezeKite k).socks = (t.onSock k reset).socks := by
    unfold freezeKite
    dsimp only
    rw [if_neg (by rw [present, running]; decide)]
    obtain ⟨_, h⟩ := eachPart_onlyFns told s.parts { (t.onSock k reset).unwait (kiteEvent k) with
      attest := t.attest ++ (s.sock k).identity ++ ((s.measured.find? (·.1 == kiteIndex k)).map (·.2)).getD [] }
    rw [h]
    rfl
  have there : k < t.socks.length := by
    rw [(packetFaults_blamed _ _ _ _).sockets]
    exact there_of_present present
  rw [sock_of_socks socks, sock_onSock_self there]
  exact ⟨rfl, rfl, rfl⟩

end

/-! ## The events of a kite (R313, R316-R319) -/

/-- An event freezes a kite and resets its socket. -/
def State.Freezes (s : State) (k : Nat) (i : Instr) : Prop :=
  ∃ t, exec i s = .next t ∧ (t.sock k).frozen = true ∧ (t.sock k).link = false ∧ (t.sock k).packets = []

/-- The partition of a packet's context. -/
def State.pidOf (s : State) (q : Packet) : Nat := ((s.partOfSlot q.slot).map (·.pid)).getD 0

/-- The state in which an arrival updates the barrier of its packet. -/
def State.reached (s : State) (q : Packet) (cbar bytes : Nat) : State :=
  (s.touch q.asid (s.pidOf q) ((BarUpd.kite bytes).asked cbar true)).withSlot q.slot fun u =>
    (u.barLetIn q.asid (s.pidOf q) cbar true (.kite bytes)).getD u

/-! ### What waits for an interval (R384) -/

theorem State.await_eq (s : State) (i : Instr) : ∃ w, i ∈ w ∧ s.await i = { s with waits := w } := by
  unfold await
  split
  · next there => exact ⟨_, List.contains_iff_mem.1 there, rfl⟩
  · exact ⟨_, List.mem_append_right _ List.mem_cons_self, rfl⟩

/-- An arrival that waits keeps its packet, marked as ended. -/
theorem State.arriveWaits_spec (s : State) (k : Nat) (q : Packet) (bytes : Nat) (own : Bool) (present : (s.sock k).present = true) :
    (s.arriveWaits k q bytes own).dram = s.dram ∧ .kiteArrive k q.kctx (q.seq % 65536) q.cbar bytes ∈ (s.arriveWaits k q bytes own).waits ∧
    ((s.arriveWaits k q bytes own).sock k).packets = (s.sock k).packets.map fun y =>
      if y.kctx == q.kctx && y.seq == q.seq then { y with ending := some bytes, metered := y.metered || own } else y := by
  let counted (t : State) : State := t.atIsle q.px q.py (·.onCore (·.count 0x14 1))
  let marked (x : Socket) : Socket := { x with packets := x.packets.map fun y =>
    if y.kctx == q.kctx && y.seq == q.seq then { y with ending := some bytes, metered := y.metered || own } else y }
  have once (t : State) : t.OnlyContexts (counted t) := atIsle_onlyContexts q.px q.py (fun u => u.onCore_onlyContexts _) t
  have met : s.OnlyContexts (if own && !q.metered then s.withSlot q.slot counted else s) := .ite (withSlot_onlyContexts _ once s) .refl
  have there := there_of_present present
  rw [← met.socks] at there
  have eq : s.arriveWaits k q bytes own = ((if own && !q.metered then s.withSlot q.slot counted else s).onSock k marked).await
    (.kiteArrive k q.kctx (q.seq % 65536) q.cbar bytes) := rfl
  obtain ⟨w, listed, h⟩ := ((if own && !q.metered then s.withSlot q.slot counted else s).onSock k marked).await_eq
    (.kiteArrive k q.kctx (q.seq % 65536) q.cbar bytes)
  rw [eq, h]
  refine ⟨met.dram, listed, ?_⟩
  change (State.sock (State.onSock _ k marked) k).packets = _
  rw [sock_onSock_self there, sock_of_socks met.socks]

/-- The sectors of a tether request of a packet whose context is gone pass. -/
theorem State.tetherPays_of_gone {s : State} {r : TetherReq} {q : Packet} {l : List Place} (gone : s.hasCtx q.slot = false) :
    s.tetherPays r q l = (s.onSock r.sock fun x => { x with tether := x.tether.filter (·.1 != r) }, true) := by
  unfold tetherPays
  rw [gone]
  rfl

/-- A tether request whose sectors wait is kept, with those that have passed. -/
theorem State.tetherPays_of_held {s t : State} {r : TetherReq} {q : Packet} {l : List Place} (present : (s.sock r.sock).present = true)
    (held : s.tetherPays r q l = (t, false)) : t.dram = s.dram ∧ .tetherRequest r ∈ t.waits ∧ ∃ m, (r, m) ∈ (t.sock r.sock).tether := by
  let forget (x : Socket) : Socket := { x with tether := x.tether.filter (·.1 != r) }
  let counted (t : State) : State := t.atIsle q.px q.py (·.onCore (·.count 0x14 1))
  have once (t : State) : t.OnlyContexts (counted t) := atIsle_onlyContexts q.px q.py (fun u => u.onCore_onlyContexts _) t
  have kept (todo : List Place) (b : Bool) (m : Nat) :
      let v := (s.withSlot q.slot fun s => (s.pass todo).1).onSock r.sock forget
      let u := if b then v.withSlot q.slot counted else v
      let t := (u.onSock r.sock fun x => { x with tether := x.tether ++ [(r, m)] }).await (.tetherRequest r)
      t.dram = s.dram ∧ .tetherRequest r ∈ t.waits ∧ ∃ m, (r, m) ∈ (t.sock r.sock).tether := by
    intro v u t
    have passed : s.OnlyContexts (s.withSlot q.slot fun s => (s.pass todo).1) := withSlot_onlyContexts q.slot (pass_onlyContexts todo) s
    have met : v.OnlyContexts u := .ite (withSlot_onlyContexts _ once v) .refl
    have there : r.sock < u.socks.length := by
      rw [met.socks, length_onSock, passed.socks]
      exact there_of_present present
    obtain ⟨w, listed, h⟩ := (u.onSock r.sock fun x => { x with tether := x.tether ++ [(r, m)] }).await_eq (.tetherRequest r)
    have last : t = { u.onSock r.sock (fun x => { x with tether := x.tether ++ [(r, m)] }) with waits := w } := h
    rw [last]
    refine ⟨met.dram.trans passed.dram, listed, m, ?_⟩
    change _ ∈ (State.sock (State.onSock u r.sock _) r.sock).tether
    rw [sock_onSock_self there]
    exact List.mem_append_right _ List.mem_cons_self
  unfold tetherPays at held
  split at held
  · cases congrArg Prod.snd held
  · dsimp only at held
    split at held
    · cases congrArg Prod.snd held
    · obtain rfl := congrArg Prod.fst held
      exact kept _ _ _

section
variable {s : State} {k kctx n cbar bytes code : Nat} {q : Packet} (present : (s.sock k).present = true) (running : (s.sock k).frozen = false)
include present running

theorem State.serves : ¬ (!(s.sock k).present || (s.sock k).frozen) = true := by rw [present, running]; decide

theorem State.freezes_of_next {i : Instr} (h : exec i s = .next (s.freezeKite k)) : s.Freezes k i := ⟨_, h, freezeKite_freezes present running⟩

/-! ### Arrivals (R316, R384) -/

theorem State.kiteArrive_freezes_of_none (unnamed : s.packetOf k kctx n = none) (unended : s.endingPacket k kctx n bytes = none) :
    s.Freezes k (.kiteArrive k kctx n cbar bytes) := by
  refine freezes_of_next present running (congrArg Host.Outcome.next ((if_neg (serves present running)).trans ?_))
  rw [unnamed, unended]
  rfl

/-- An arrival for a packet that is outstanding, by the waits before it. -/
theorem State.exec_kiteArrive (named : s.packetOf k kctx n = some q) : exec (.kiteArrive k kctx n cbar bytes) s = .next
    (if q.cbar ≠ cbar then s.freezeKite k
    else if s.writesWait k q then s.arriveWaits k q bytes false
    else if s.arriveHeld q (s.pidOf q) bytes then s.arriveWaits k q bytes true
    else
      (match (s.reached q cbar bytes).barAt q.asid (s.pidOf q) cbar true (.kite bytes) with
      | .ok t => t
      | .misuse r => (s.reached q cbar bytes).packetFault k q causeBarrier r cbar
      | .xfault f => (s.reached q cbar bytes).packetFault k q causeKite (0x89 + f.2 % 256 * 256) q.seq
      | .uncorrectable e => (s.reached q cbar bytes).withSlot q.slot fun s => s.loseVa cbar e).endPacket k q) := by
  refine congrArg Host.Outcome.next ((if_neg (serves present running)).trans ?_)
  rw [named]
  rfl

theorem State.exec_kiteArrive_of_ok {t : State} (named : s.packetOf k kctx n = some q) (bar : q.cbar = cbar) (written : s.writesWait k q = false)
    (passes : s.arriveHeld q (s.pidOf q) bytes = false) (done : (s.reached q cbar bytes).barAt q.asid (s.pidOf q) cbar true (.kite bytes) = .ok t) :
    exec (.kiteArrive k kctx n cbar bytes) s = .next (t.endPacket k q) := by
  rw [exec_kiteArrive present running named, if_neg (by rw [bar]; simp), if_neg (by rw [written]; decide), if_neg (by rw [passes]; decide), done]

theorem State.exec_kiteArrive_of_waits {own : Bool} (named : s.packetOf k kctx n = some q) (bar : q.cbar = cbar)
    (waits : (s.writesWait k q = true ∧ own = false) ∨ (s.writesWait k q = false ∧ s.arriveHeld q (s.pidOf q) bytes = true ∧ own = true)) :
    exec (.kiteArrive k kctx n cbar bytes) s = .next (s.arriveWaits k q bytes own) := by
  rw [exec_kiteArrive present running named, if_neg (by rw [bar]; simp)]
  obtain ⟨writes, rfl⟩ | ⟨written, held, rfl⟩ := waits
  · rw [if_pos writes]
  · rw [if_neg (by rw [written]; decide), if_pos held]

theorem State.kiteArrive_freezes_of_other (named : s.packetOf k kctx n = some q) (other : q.cbar ≠ cbar) :
    s.Freezes k (.kiteArrive k kctx n cbar bytes) :=
  freezes_of_next present running ((exec_kiteArrive present running named).trans (congrArg Host.Outcome.next (if_pos other)))

/-! ### Fault packets, ABANDON and the quiesce timer (R313, R316-R319) -/

theorem State.faultPacket_freezes (unnamed : s.packetOf k kctx n = none) : s.Freezes k (.faultPacket k kctx n code) := by
  refine freezes_of_next present running (congrArg Host.Outcome.next ((if_neg (serves present running)).trans ?_))
  rw [unnamed]

/-- A fault packet ends its packet and records KITE_FAULT 0x8A with the kite's code. -/
theorem State.exec_faultPacket (named : s.packetOf k kctx n = some q) (own : q.abandoned = false) (first : q.faulted = false) (live : s.ctx.live = true)
    (slot : s.ctx.slot = q.slot) : ∃ t, exec (.faultPacket k kctx n code) s = .next t ∧
      (t.sock k).packets = (s.sock k).packets.filter (fun y => !(y.kctx == q.kctx && y.seq == q.seq)) ∧
      t.ctx.faults = s.ctx.faults ++ [{ seq := q.issue, px := q.px, py := q.py, flag := none, bar := some (BitVec.ofNat 64 q.cbar)
                                        trap := { cause := causeKite, addr := q.seq, info := 0x8A + code % 2 ^ 32 * 2 ^ 32, slot := 0, issued := false } }] := by
  let d : DefFault :=
    { seq := q.issue, px := q.px, py := q.py, flag := none, bar := some (BitVec.ofNat 64 q.cbar)
      trap := { cause := causeKite, addr := q.seq, info := 0x8A + code % 2 ^ 32 * 2 ^ 32, slot := 0, issued := false } }
  let named_ (y : Packet) : Bool := y.kctx == q.kctx && y.seq == q.seq
  let marked (x : Socket) : Socket := { x with packets := x.packets.map fun y => if named_ y then { y with faulted := true } else y }
  have faulted : s.packetFault k q causeKite (0x8A + code % 2 ^ 32 * 2 ^ 32) q.seq = (s.record d).onSock k marked := by
    unfold packetFault
    rw [if_neg (by rw [own, first]; decide), ← slot, withSlot_self live]
    exact if_pos rfl
  have ran : exec (.faultPacket k kctx n code) s = .next (((s.record d).onSock k marked).endPacket k q) := by
    rw [← faulted]
    refine congrArg Host.Outcome.next ((if_neg (serves present running)).trans ?_)
    rw [named]
  have there : k < (s.record d).socks.length := there_of_present present
  refine ⟨_, ran, ?_, rfl⟩
  have gone (l : List Packet) : ((l.map fun y => if named_ y then { y with faulted := true } else y).filter fun y => !named_ y) =
      l.filter fun y => !named_ y := by
    induction l with
    | nil => rfl
    | cons y l ih =>
      cases hy : named_ y with
      | true =>
        have still : named_ { y with faulted := true } = true := hy
        simp [hy, still, ih]
      | false => simp [hy, ih]
  change (State.sock (State.onSock (State.onSock (State.onSock (s.record d) k marked) k _) k _) k).packets = _
  rw [sock_onSock_self (by simpa using there), sock_onSock_self (by simpa using there), sock_onSock_self there]
  exact gone _

/-- The answer to QUIESCE that lists what is outstanding. -/
theorem State.exec_abandon (seqs : List Nat) (awaited : ∃ d, (kctx, d) ∈ (s.sock k).quiesce) (few : seqs.length ≤ 16)
    (listed : ∀ x ∈ seqs, ∃ q ∈ (s.sock k).packets.filter fun q => q.kctx == kctx && q.ending.isNone, q.seq % 65536 = x)
    (whole : ∀ q ∈ (s.sock k).packets.filter fun q => q.kctx == kctx && q.ending.isNone, q.seq % 65536 ∈ seqs) :
    ∃ t, exec (.abandon k kctx seqs) s = .next t ∧ (t.sock k).packets = (s.sock k).packets.filter (fun q => q.kctx != kctx || q.ending.isSome) ∧
      (t.sock k).parked = (s.sock k).parked ++ ((s.sock k).packets.filter fun q => q.kctx == kctx && q.ending.isNone).filter (fun q => !q.abandoned) ∧
      (∀ d, (kctx, d) ∉ (t.sock k).quiesce) := by
  have there := there_of_present present
  obtain ⟨d, hd⟩ := awaited
  refine ⟨_, congrArg Host.Outcome.next ((if_neg (serves present running)).trans (if_neg ?_)), ?_⟩
  · have asked : (s.sock k).quiesce.any (·.1 == kctx) = true := List.any_eq_true.2 ⟨_, hd, beq_self_eq_true kctx⟩
    have known : seqs.all (fun n => ((s.sock k).packets.filter fun q => q.kctx == kctx && q.ending.isNone).any fun q => q.seq % 65536 == n) = true :=
      List.all_eq_true.2 fun x hx => by
        obtain ⟨q, hq, number⟩ := listed x hx
        exact List.any_eq_true.2 ⟨q, hq, beq_iff_eq.2 number⟩
    have all : ((s.sock k).packets.filter fun q => q.kctx == kctx && q.ending.isNone).all (fun q => seqs.contains (q.seq % 65536)) = true :=
      List.all_eq_true.2 fun q hq => List.contains_iff_mem.2 (whole q hq)
    rw [asked, known, all, decide_eq_false (by omega)]
    decide
  · dsimp only
    rw [sock_onSock_self (by exact there)]
    refine ⟨rfl, rfl, fun d hd => ?_⟩
    exact absurd (List.mem_filter.1 hd).2 (by simp)

theorem State.kiteQuiesceTimeout_freezes (late : ∃ q ∈ (s.sock k).quiesce, q.2 ≤ s.now) : s.Freezes k (.kiteQuiesceTimeout k) :=
  freezes_of_next present running (congrArg Host.Outcome.next (if_neg (by simpa using late)))

omit present running in
theorem State.exec_kiteQuiesceTimeout_early (early : ∀ q ∈ (s.sock k).quiesce, s.now < q.2) : exec (.kiteQuiesceTimeout k) s = .next s :=
  congrArg Host.Outcome.next (if_pos (by simpa using early))

/-! ### Tether requests (R254, R316, R319, R384) -/

section
variable {r : TetherReq} (at_ : r.sock = k) (named : s.packetOf k r.kctx r.seq16 = some q)
include at_ named

/-- A request for another address space, or one that is not well formed, freezes the kite. -/
theorem State.tetherRequest_freezes (bad : q.asid ≠ r.asid ∨ r.wellFormed = false) : s.Freezes k (.tetherRequest r) := by
  subst at_
  have found : s.packetFor r = some q := by rw [packetFor, named]; rfl
  refine freezes_of_next present running (congrArg Host.Outcome.next ((if_neg (serves present running)).trans ?_))
  rw [found]
  exact if_pos (by simpa using bad)

variable (space : q.asid = r.asid) (formed : r.wellFormed = true)
include space formed

/-- A request for a packet that is outstanding. -/
theorem State.exec_tetherRequest {m : Nat} (size : m = match r.write with | some l => l.length | none => r.len) :
    let u := s.touchAll r.asid (s.pidOf q) (.tether r.va r.write.isSome) m
    let refuse (s : State) : State := s.onSock r.sock fun x => { x with answer := none, tether := x.tether.filter (·.1 != r) }
    exec (.tetherRequest r) s = .next
      (match u.tetherPlaces r.asid (s.pidOf q) r.write.isSome r.va m with
      | .error f => refuse (u.packetFault r.sock q causeKite (0x89 + f.2 % 256 * 256) q.seq)
      | .ok l =>
        match l.find? fun pl => pl.bad || (r.write.isNone && u.poisoned pl) with
        | some pl => refuse (u.withSlot q.slot fun s => s.loseVa r.va pl.unit)
        | none =>
          let (t, ok) := u.tetherPays r q l
          if !ok then t
          else
            match r.write with
            | some b => (State.writePlaces (l.zip b) t).onSock r.sock fun x => { x with answer := some [] }
            | none => t.onSock r.sock fun x => { x with answer := some (l.flatMap fun p => u.devRead p 1) }) := by
  subst at_ size
  have found : s.packetFor r = some q := by rw [packetFor, named]; rfl
  refine congrArg Host.Outcome.next ((if_neg (serves present running)).trans ?_)
  rw [found]
  exact if_neg (by simp [space, formed])

/-- A read whose places stand is answered once its sectors have passed. -/
theorem State.exec_tetherRequest_read {t : State} {l : List Place} {ok : Bool} (reads : r.write = none)
    (places : (s.touchAll r.asid (s.pidOf q) (.tether r.va false) r.len).tetherPlaces r.asid (s.pidOf q) false r.va r.len = .ok l)
    (sound : ∀ pl ∈ l, pl.bad = false ∧ (s.touchAll r.asid (s.pidOf q) (.tether r.va false) r.len).poisoned pl = false)
    (pays : (s.touchAll r.asid (s.pidOf q) (.tether r.va false) r.len).tetherPays r q l = (t, ok)) :
    exec (.tetherRequest r) s = .next (if ok then t.onSock k fun x =>
      { x with answer := some (l.flatMap fun pl => (s.touchAll r.asid (s.pidOf q) (.tether r.va false) r.len).devRead pl 1) } else t) := by
  have ran := exec_tetherRequest present running at_ named space formed (m := r.len) (by rw [reads])
  have none : (l.find? fun pl => pl.bad || (true && (s.touchAll r.asid (s.pidOf q) (.tether r.va false) r.len).poisoned pl)) = none :=
    List.find?_eq_none.2 fun pl hpl => by simp [sound pl hpl]
  rw [reads] at ran
  dsimp only [Option.isSome_none, Option.isNone_none] at ran
  rw [places] at ran
  dsimp only at ran
  rw [none, pays] at ran
  subst at_
  cases ok <;> exact ran

theorem State.exec_tetherRequest_write {t : State} {l : List Place} {b : List Byte} {ok : Bool} (writes : r.write = some b)
    (places : (s.touchAll r.asid (s.pidOf q) (.tether r.va true) b.length).tetherPlaces r.asid (s.pidOf q) true r.va b.length = .ok l)
    (sound : ∀ pl ∈ l, pl.bad = false)
    (pays : (s.touchAll r.asid (s.pidOf q) (.tether r.va true) b.length).tetherPays r q l = (t, ok)) :
    exec (.tetherRequest r) s = .next (if ok then (State.writePlaces (l.zip b) t).onSock k fun x => { x with answer := some [] } else t) := by
  have ran := exec_tetherRequest present running at_ named space formed (m := b.length) (by rw [writes])
  have none : (l.find? fun pl => pl.bad || (false && (s.touchAll r.asid (s.pidOf q) (.tether r.va true) b.length).poisoned pl)) = none :=
    List.find?_eq_none.2 fun pl hpl => by simp [sound pl hpl]
  rw [writes] at ran
  dsimp only [Option.isSome_some, Option.isNone_some] at ran
  rw [places] at ran
  dsimp only at ran
  rw [none, pays] at ran
  subst at_
  cases ok <;> exact ran

/-- A read that a translation refuses is answered with an error, and reads nothing. -/
theorem State.exec_tetherRequest_refused {f : XFault} (reads : r.write = none)
    (places : (s.touchAll r.asid (s.pidOf q) (.tether r.va false) r.len).tetherPlaces r.asid (s.pidOf q) false r.va r.len = .error f) :
    ∃ t, exec (.tetherRequest r) s = .next t ∧ t.dram = (s.touchAll r.asid (s.pidOf q) (.tether r.va false) r.len).dram ∧
      (t.sock k).answer = none := by
  have ran := exec_tetherRequest present running at_ named space formed (m := r.len) (by rw [reads])
  rw [reads] at ran
  dsimp only [Option.isSome_none] at ran
  rw [places] at ran
  subst at_
  have blamed := (s.touchAll r.asid (s.pidOf q) (.tether r.va false) r.len).packetFault_blamed (k := r.sock) q causeKite (0x89 + f.2 % 256 * 256) q.seq
  have there := there_of_present present
  refine ⟨_, ran, blamed.dram, ?_⟩
  dsimp only
  rw [sock_onSock_self]
  rw [blamed.sockets, (touchAll_onlyFrames _ _ _ _ _).socks]
  exact there

end

end

/-- Settles O45. -/
theorem kiteEvents : Obligations.KiteEvents := by
  intro s k kctx n cbar bytes code present running freezes pidOf
  refine ⟨fun unnamed => ⟨State.kiteArrive_freezes_of_none present running unnamed, State.faultPacket_freezes present running unnamed⟩,
    fun q named => ⟨State.kiteArrive_freezes_of_other present running named, fun t bar written passes done => ?_, fun own bar waits => ?_,
      fun own first live slot => State.exec_faultPacket present running named own first live slot⟩,
    fun seqs => State.exec_abandon present running seqs, State.exec_kiteQuiesceTimeout_early, State.kiteQuiesceTimeout_freezes present running,
    fun vendor device identity => ⟨_, rfl⟩, fun r q at_ named => ⟨State.tetherRequest_freezes present running at_ named, ?_, ?_, ?_, ?_, ?_⟩⟩
  · exact State.exec_kiteArrive_of_ok present running named bar written passes done
  · exact ⟨_, State.exec_kiteArrive_of_waits present running named bar waits, State.arriveWaits_spec s k q bytes own present⟩
  · exact fun l space formed reads places sound => ⟨fun t pays => State.exec_tetherRequest_read present running at_ named space formed reads places sound pays,
      fun t pays => State.exec_tetherRequest_read present running at_ named space formed reads places sound pays⟩
  · exact fun l b space formed writes places sound => ⟨fun t pays => State.exec_tetherRequest_write present running at_ named space formed writes places sound pays,
      fun t pays => State.exec_tetherRequest_write present running at_ named space formed writes places sound pays⟩
  · exact fun l gone => at_ ▸ State.tetherPays_of_gone gone
  · exact fun l t held => at_ ▸ State.tetherPays_of_held (at_.symm ▸ present) held
  · exact fun f space formed reads places => State.exec_tetherRequest_refused present running at_ named space formed reads places

end Sys2Proof.Machine
end

section
/-! PROOFS. The events of a region and its contexts -/

namespace Sys2Proof.Machine

/-! ## Regions and launch slots beside the contexts -/

section
variable {s t : State} {n m : Nat} {f : Region → Region}

theorem State.region_onRegion (keep : ∀ r, (f r).rid = r.rid) : (s.onRegion n f).region m = (s.region m).map fun r => if m = n then f r else r :=
  find?_map_of_key Region.rid s.regions n m f keep

theorem State.region_onRegion_self (keep : ∀ r, (f r).rid = r.rid) : (s.onRegion n f).region n = (s.region n).map f := by
  rw [region_onRegion keep]
  simp only [if_pos]

theorem State.rid_of_region {r : Region} (h : s.region n = some r) : r.rid = n := by simpa using List.find?_some h

theorem State.OnlyContexts.region (h : s.OnlyContexts t) : t.region n = s.region n := by
  obtain ⟨_, _, _, _, _, _, _, rfl⟩ := h
  rfl

theorem State.OnlyContexts.slotAt (h : s.OnlyContexts t) : t.slotAt n = s.slotAt n := by
  obtain ⟨_, _, _, _, _, _, _, rfl⟩ := h
  rfl

@[simp] theorem State.slotAt_onRegion : (s.onRegion n f).slotAt m = s.slotAt m := rfl

theorem State.slotAt_onSlot_self {g : LSlot → LSlot} (keep : ∀ x, (g x).n = x.n) : (s.onSlot n g).slotAt n = g (s.slotAt n) :=
  s.slotAt_onSlot_same n g fun x h => (keep x).trans h

/-- Nothing but the launch slots differs. -/
theorem State.onSlot_eq (s : State) (n : Nat) (g : LSlot → LSlot) : ∃ l, s.onSlot n g = { s with slots := l } := by
  unfold onSlot
  split <;> exact ⟨_, rfl⟩

end

/-! ## The selector (R36, R343) -/

theorem Ctx.before_iff (x y : Ctx) : x.before y = true ↔ y.eprio < x.eprio ∨ x.eprio = y.eprio ∧ (x.since < y.since ∨
    x.since = y.since ∧ x.ctxid.val < y.ctxid.val) := by
  simp [before]

/-- Of two contexts the one that comes first, the earlier found where neither does. -/
def Ctx.first (acc : Option Ctx) (c : Ctx) : Option Ctx :=
  match acc with
  | some d => if c.before d then some c else acc
  | none => some c

/-- What a search for the first finds stands in the list, and nothing comes before it. -/
theorem Ctx.foldl_first {c : Ctx} : ∀ (l : List Ctx) (acc : Option Ctx), l.foldl Ctx.first acc = some c →
    (acc = some c ∨ c ∈ l) ∧ ∀ d, acc = some d ∨ d ∈ l → ¬ d.before c = true
  | [], acc, h => ⟨.inl h, fun d hd => by
      obtain rfl : d = c := by
        rcases hd with hd | hd
        · exact Option.some.inj (hd.symm.trans h)
        · cases hd
      rw [Ctx.before_iff]
      omega⟩
  | x :: l, acc, h => by
    obtain ⟨found, least⟩ := foldl_first l (Ctx.first acc x) h
    cases acc with
    | none =>
      refine ⟨.inr ?_, fun d hd => least d ?_⟩
      · exact found.elim (fun e => Option.some.inj e ▸ List.mem_cons_self) (List.mem_cons_of_mem _)
      · exact (List.mem_cons.1 (hd.resolve_left (by simp))).imp (fun e => congrArg some e.symm) id
    | some e =>
      by_cases earlier : x.before e = true
      · have taken : Ctx.first (some e) x = some x := if_pos earlier
        rw [taken] at found least
        refine ⟨.inr (found.elim (fun h => Option.some.inj h ▸ List.mem_cons_self) (List.mem_cons_of_mem _)), fun d hd => ?_⟩
        rcases hd with hd | hd
        · have own := least x (.inl rfl)
          obtain rfl := Option.some.inj hd
          rw [Ctx.before_iff] at own earlier ⊢
          omega
        · exact least d ((List.mem_cons.1 hd).imp (fun h => congrArg some h.symm) id)
      · have kept : Ctx.first (some e) x = some e := if_neg earlier
        rw [kept] at found least
        refine ⟨found.imp id (List.mem_cons_of_mem _), fun d hd => ?_⟩
        rcases hd with hd | hd
        · exact least d (.inl hd)
        · rcases List.mem_cons.1 hd with rfl | hd
          · have own := least e (.inl rfl)
            rw [Ctx.before_iff] at own earlier ⊢
            omega
          · exact least d (.inr hd)

section
variable {s : State} {r : Region} {c : Ctx}

theorem State.choose_eq : s.choose r =
    ((((s.residents r.rid).filter fun c => s.readySlot c.slot).find? fun c =>
        some c.ctxid.val == ((s.residents r.rid).find? fun c => some c.ctxid == r.act).bind (·.sig)) <|>
      ((s.residents r.rid).filter fun c => s.readySlot c.slot).foldl Ctx.first none) := rfl

/-- What the selector chooses is a ready resident. -/
theorem State.mem_of_choose (h : s.choose r = some c) : c ∈ s.residents r.rid ∧ s.readySlot c.slot = true := by
  rw [choose_eq, Option.orElse_eq_orElse, Option.orElse_eq_or, Option.or_eq_some_iff] at h
  suffices there : c ∈ (s.residents r.rid).filter fun c => s.readySlot c.slot from List.mem_filter.1 there
  rcases h with h | ⟨_, h⟩
  · exact List.mem_of_find?_eq_some h
  · exact (Ctx.foldl_first _ _ h).1.resolve_left (by simp)

/-- Where nobody signals, no ready resident comes before the one chosen. -/
theorem State.choose_least (unnamed : ∀ d ∈ s.residents r.rid, d.sig = none) (h : s.choose r = some c) {d : Ctx} (there : d ∈ s.residents r.rid)
    (ready : s.readySlot d.slot = true) : d.eprio < c.eprio ∨ d.eprio = c.eprio ∧ (c.since < d.since ∨ c.since = d.since ∧ c.ctxid ≤ d.ctxid) := by
  have named : ((s.residents r.rid).find? fun c => some c.ctxid == r.act).bind (·.sig) = none := by
    cases found : (s.residents r.rid).find? fun c => some c.ctxid == r.act with
    | none => rfl
    | some e => exact unnamed e (List.mem_of_find?_eq_some found)
  have none_named : (((s.residents r.rid).filter fun c => s.readySlot c.slot).find? fun c => some c.ctxid.val == (none : Option Nat)) = none :=
    List.find?_eq_none.2 fun _ _ => by simp
  rw [choose_eq, named, none_named] at h
  have least := (Ctx.foldl_first _ _ h).2 d (.inr (List.mem_filter.2 ⟨there, ready⟩))
  rw [Ctx.before_iff] at least
  rw [Fin.le_def]
  omega

theorem State.rid_of_resident {rid : Nat} (h : c ∈ s.residents rid) : c.rid = rid := by simpa using (List.mem_filter.1 h).2

/-- What a context's beginning leaves of its region and its slot. -/
theorem State.begin_spec (s : State) (c : Ctx) :
    (s.begin c).region c.rid = (s.region c.rid).map (fun r => { r with act := some c.ctxid, switchReq := false }.loadDivs c) ∧
    (s.begin c).slotAt c.slot = if (s.slotAt c.slot).st = .placed then { s.slotAt c.slot with st := .running } else s.slotAt c.slot := by
  let starts (s : State) : State := s.onCtx fun c =>
    { c with cstate := .issuing, started := true, since := s.now, sinceSafe := 0, overdue := 0, reqAt := s.now, sig := none }
  let resumes (s : State) : State := if c.started then (starts s).eachIsle fun s => { s with core := s.core.reloadSets.waitAgain } else starts s
  have each (u : State) : u.OnlyContexts (resumes u) := by
    have begun : u.OnlyContexts (starts u) := u.onCtx_onlyContexts _
    exact .ite (begun.trans (eachIsle_onlyContexts (fun v => v.onCore_onlyContexts fun c => c.reloadSets.waitAgain) _)) begun
  have same : s.OnlyContexts (s.withSlot c.slot resumes) := withSlot_onlyContexts _ each s
  let t := (s.withSlot c.slot resumes).onRegion c.rid fun r => { r with act := some c.ctxid, switchReq := false }.loadDivs c
  let runs (x : LSlot) : LSlot := if x.st = .placed then { x with st := .running } else x
  have eq : s.begin c = t.onSlot c.slot runs := rfl
  constructor
  · obtain ⟨_, h⟩ := t.onSlot_eq c.slot runs
    rw [eq, h, ← same.region]
    exact region_onRegion_self fun _ => rfl
  · have keep (x : LSlot) : (runs x).n = x.n := by
      change (ite _ _ _ : LSlot).n = _
      split <;> rfl
    rw [eq, slotAt_onSlot_self keep]
    change runs (t.slotAt c.slot) = runs _
    rw [← same.slotAt]
    rfl

/-- The context that gives way is marked; regions and slots stand. -/
theorem State.yieldTo_eq (s : State) (r : Region) (c : Ctx) : ∃ u, s.OnlyContexts u ∧ s.yieldTo r c = u.begin c := by
  unfold yieldTo
  dsimp only
  split
  · next d _ =>
    exact ⟨_, withSlot_onlyContexts (f := fun s => s.onCtx fun d => { d with cstate := if d.cstate = CState.issuing then .ready else d.cstate, since := s.now })
      _ (fun t => t.onCtx_onlyContexts _) s, rfl⟩
  · exact ⟨s, .refl, rfl⟩

section
variable {rid : Nat} (there : s.region rid = some r) (may : s.mayChoose r = true) (awake : ∀ c ∈ r.cells, c ∉ s.waking)
include there may awake

/-- CONTEXT_SWITCH of a region that may choose. -/
theorem State.exec_contextSwitch : exec (.contextSwitch rid) s = .next (match s.choose r with
    | none => s.onRegion rid fun r => { r with switchReq := false }
    | some c =>
      if some c.ctxid = r.act then
        (s.withSlot c.slot fun s => s.onCtx fun c => { c with sinceSafe := 0, overdue := 0, reqAt := s.now }).onRegion rid fun r =>
          { r with switchReq := false }
      else s.yieldTo r c) := by
  have none_wakes : r.cells.any s.waking.contains = false := by simpa using awake
  change execContextSwitch rid s = _
  unfold execContextSwitch
  rw [there]
  refine congrArg Host.Outcome.next ((if_neg (by rw [may, none_wakes]; simp)).trans ?_)
  rfl

theorem State.exec_contextSwitch_of_other (chosen : s.choose r = some c) (other : some c.ctxid ≠ r.act) :
    ∃ t, exec (.contextSwitch rid) s = .next t ∧ (∃ g, t.region rid = some g ∧ g.act = some c.ctxid ∧ g.switchReq = false) ∧
      ((s.slotAt c.slot).st = .placed → (t.slotAt c.slot).st = .running) := by
  have own : c.rid = rid := (rid_of_resident (mem_of_choose chosen).1).trans (rid_of_region there)
  obtain ⟨u, same, yields⟩ := s.yieldTo_eq r c
  obtain ⟨region, slot⟩ := u.begin_spec c
  have at_ : (u.begin c).region rid = some ({ r with act := some c.ctxid, switchReq := false }.loadDivs c) := by
    rw [← own, region, same.region, own, there]
    rfl
  refine ⟨u.begin c, ?_, ⟨_, at_, rfl, rfl⟩, fun placed => ?_⟩
  · rw [exec_contextSwitch there may awake, chosen, ← yields]
    exact congrArg Host.Outcome.next (if_neg other)
  · rw [slot, same.slotAt, if_pos placed]

end

end

/-! ## A context's end and what is left of its slot (R52, R330, R346) -/

section
variable {s : State} {n : Nat}

/-- What the leaving of a context touches. -/
theorem State.dropCtx_eq (s : State) (n : Nat) : ∃ c x l r o tn rg w, s.dropCtx n =
    { s with core := c, ctx := x, left := l, right := r, others := o, turn := tn, regions := rg, waitfor := w } := by
  unfold dropCtx
  dsimp only
  split <;> exact ⟨_, _, _, _, _, _, _, _, rfl⟩

/-- Nothing stays in focus where it was. -/
theorem State.dropCtx_ctx (own : (s.ctx.live && s.ctx.slot == n) = true) : (s.dropCtx n).ctx = {} := by
  unfold dropCtx
  dsimp only
  rw [if_pos own]
  rfl

theorem State.arriveCbar_of_zero (none : (s.slotAt n).cbar = 0) : s.arriveCbar n = s := by
  unfold arriveCbar
  dsimp only
  split
  · rfl
  · exact if_pos (.inl none)

theorem State.clearAsid_eq (s : State) (n : Nat) : ∃ a, s.clearAsid n = { s with asids := a } := by
  unfold clearAsid
  split
  · exact ⟨_, rfl⟩
  · dsimp only
    split <;> exact ⟨_, rfl⟩

theorem State.signalSlot_onlyFns (s : State) (n : Nat) : s.OnlyFns (s.signalSlot n) := by
  unfold signalSlot
  split
  · exact .refl
  · exact s.completion_onlyFns _ _

/-- The end of a context with no completion barrier: its slot is FAULTED, and nothing of it is left. -/
theorem State.endContext_spec {fcause freason : Nat} (none : (s.slotAt n).cbar = 0) :
    (s.endContext n fcause freason).ctx = s.ctx ∧ (s.endContext n fcause freason).saved = s.saved.filter (·.ctx.slot != n) ∧
    (s.endContext n fcause freason).ops = s.ops.filter (·.slot != n) ∧
    (s.endContext n fcause freason).slotAt n =
      { s.slotAt n with st := .faulted, fcause := fcause, freason := freason, dying := .none, savedMid := false } := by
  let t : State :=
    { s with
      saved := s.saved.filter (·.ctx.slot != n)
      ops := s.ops.filter (·.slot != n)
      contribs := s.contribs.filter fun c => c.origin.isNone || c.who.1 != n
      socks := s.socks.map fun x => { x with parked := x.parked.filter fun q => q.slot != n } }
  let ends (x : LSlot) : LSlot := { x with st := .faulted, fcause := fcause, freason := freason, dying := .none, savedMid := false }
  have slot : (t.onSlot n ends).slotAt n = ends (s.slotAt n) := slotAt_onSlot_self fun _ => rfl
  have quiet : (t.onSlot n ends).arriveCbar n = t.onSlot n ends := arriveCbar_of_zero (by rw [slot]; exact none)
  have eq : s.endContext n fcause freason = (((t.onSlot n ends).arriveCbar n).clearAsid n).signalSlot n := rfl
  rw [quiet] at eq
  obtain ⟨a, ha⟩ := (t.onSlot n ends).clearAsid_eq n
  obtain ⟨k, hk⟩ := ((t.onSlot n ends).clearAsid n).signalSlot_onlyFns n
  obtain ⟨l, hl⟩ := t.onSlot_eq n ends
  rw [hk, ha] at eq
  refine ⟨?_, ?_, ?_, ?_⟩ <;> rw [eq]
  · rw [hl]
  · rw [hl]
  · rw [hl]
  · exact slot

end

/-! ## Suspension, relocation, overdue safe points and retirement (R50, R344, R345, R52) -/

section
variable {s : State}

/-- QUIESCE reaches the sockets only. -/
theorem State.quiesceOne_eq (s : State) (k : Nat) (drop : Bool) : ∃ x, s.quiesceOne k drop = { s with socks := x } := by
  unfold quiesceOne
  split <;> exact ⟨_, rfl⟩

theorem State.quiesceAll_eq (s : State) (drop : Bool) : ∃ x, s.quiesceAll drop = { s with socks := x } := by
  obtain ⟨x, hx⟩ := s.quiesceOne_eq 0 drop
  obtain ⟨y, hy⟩ := (s.quiesceOne 0 drop).quiesceOne_eq 1 drop
  refine ⟨y, hy.trans ?_⟩
  rw [hx]

/-- A context without kite contexts has nothing to quiesce. -/
theorem State.quiesceAll_of_none {drop : Bool} (k0 : s.ctx.kctx0 = none) (k1 : s.ctx.kctx1 = none) : s.quiesceAll drop = s := by
  have one (k : Nat) : s.quiesceOne k drop = s := by
    have none : s.ctx.kctx k = none := by
      rw [Ctx.kctx, k0, k1, ite_self]
    rw [quiesceOne, none]
  rw [quiesceAll, one, one]

theorem State.inFocus (live : s.ctx.live = true) : (s.ctx.live && s.ctx.slot == s.ctx.slot) = true := by simp [live]

theorem State.focusSlot_self (live : s.ctx.live = true) : s.focusSlot s.ctx.slot = s := if_pos (inFocus live)

theorem State.hasCtx_self (live : s.ctx.live = true) : s.hasCtx s.ctx.slot = true := by simp [hasCtx, live]

/-- What a request for suspension does to a context in focus that is not suspending. -/
def State.suspend (s : State) : State :=
  if s.selected ∧ !s.atSafePoint then s
  else (if s.ctx.started then s.quiesceAll false else s).onCtx fun c => { c with cstate := .suspending }

theorem State.suspend_of_free (free : s.selected = false ∨ s.atSafePoint = true) :
    ∃ x, s.suspend = { s with ctx := { s.ctx with cstate := .suspending }, socks := x } := by
  obtain ⟨x, hx⟩ := s.quiesceAll_eq false
  unfold suspend
  rw [if_neg (by simpa [imp_iff_not_or] using free), hx]
  split <;> exact ⟨_, rfl⟩

section
variable (live : s.ctx.live = true)
include live

theorem State.exec_suspensionRequest (asked : (s.slotAt s.ctx.slot).st = .suspending) (going : s.ctx.cstate ≠ .suspending) :
    exec (.suspensionRequest s.ctx.slot) s = .next
      (let t := s.suspend
      let served := t.hasCtx s.ctx.slot && (t.focusSlot s.ctx.slot).ctx.cstate == .suspending
      let id := (t.focusSlot s.ctx.slot).ctx.ctxid
      if served then
        (t.onRegion (s.slotAt s.ctx.slot).rid fun r =>
          { r with act := if r.act = some id then none else r.act, preempt := r.preempt.filter (· != s.ctx.slot) }).forgetWaits s.ctx.slot
      else t) := by
  have own : (s.withSlot s.ctx.slot fun s =>
      if s.ctx.cstate = .suspending then (if s.allPosted && s.unquiesced then s.quiesceAll false else s)
      else s.suspend) = s.suspend := by
    rw [withSlot_self live]
    exact if_neg going
  rw [← own]
  exact congrArg Host.Outcome.next (if_neg (by simp [asked]))

/-- A selected context that does not stand at a safe point goes on. -/
theorem State.exec_suspensionRequest_early (asked : (s.slotAt s.ctx.slot).st = .suspending) (going : s.ctx.cstate ≠ .suspending)
    (selected : s.selected = true) (unsafe_ : s.atSafePoint = false) : exec (.suspensionRequest s.ctx.slot) s = .next s := by
  have same : s.suspend = s := if_pos ⟨selected, by rw [unsafe_]; rfl⟩
  rw [exec_suspensionRequest live asked going, same]
  dsimp only
  rw [hasCtx_self live, focusSlot_self live, if_neg (by simpa using going)]

theorem State.exec_suspensionRequest_served (asked : (s.slotAt s.ctx.slot).st = .suspending) (own : (s.slotAt s.ctx.slot).rid = s.ctx.rid)
    (going : s.ctx.cstate ≠ .suspending) (free : s.selected = false ∨ s.atSafePoint = true) :
    ∃ t, exec (.suspensionRequest s.ctx.slot) s = .next t ∧ t.ctx.cstate = .suspending ∧
      ∀ g, t.region s.ctx.rid = some g → g.act ≠ some s.ctx.ctxid ∧ s.ctx.slot ∉ g.preempt := by
  obtain ⟨x, hx⟩ := suspend_of_free free
  have stays : s.suspend.ctx = { s.ctx with cstate := .suspending } := by rw [hx]
  have there : s.suspend.hasCtx s.ctx.slot = true := by
    have h := hasCtx_self (s := s.suspend) (by rw [stays]; exact live)
    rw [stays] at h
    exact h
  have focus : s.suspend.focusSlot s.ctx.slot = s.suspend := by
    have h := focusSlot_self (s := s.suspend) (by rw [stays]; exact live)
    rw [stays] at h
    exact h
  let leaves (r : Region) : Region :=
    { r with act := if r.act = some s.ctx.ctxid then none else r.act, preempt := r.preempt.filter (· != s.ctx.slot) }
  have ran : exec (.suspensionRequest s.ctx.slot) s = .next ((s.suspend.onRegion s.ctx.rid leaves).forgetWaits s.ctx.slot) := by
    rw [exec_suspensionRequest live asked going, ← own]
    dsimp only
    rw [there, focus, stays]
    rfl
  refine ⟨_, ran, congrArg Ctx.cstate stays, fun g hg => ?_⟩
  have region : (s.suspend.onRegion s.ctx.rid leaves).region s.ctx.rid = some g := hg
  rw [region_onRegion_self (f := leaves) fun _ => rfl] at region
  obtain ⟨r, -, rfl⟩ := Option.map_eq_some_iff.1 region
  constructor
  · change (if r.act = some s.ctx.ctxid then none else r.act) ≠ _
    split
    · exact (nomatch ·)
    · assumption
  · simp [leaves]

section
variable (asked : (s.slotAt s.ctx.slot).st = .suspending) (alive : (s.slotAt s.ctx.slot).dying = none) (quiet : s.quietForSave = true)
include asked alive quiet

theorem State.exec_suspensionComplete : exec (.suspensionComplete s.ctx.slot) s = .next
    (match s.writeSave (s.slotAt s.ctx.slot).save with
    | (u, false) => u.doom s.ctx.slot 0 0x06
    | (u, true) =>
      let kept : CtxRec := { ctx := { u.ctx with rid := 512 }, isles := u.isles.map fun c => { c with phases := [] } }
      (({ u with saved := kept :: u.saved.filter (·.ctx.slot != s.ctx.slot) } : State).dropCtx s.ctx.slot).onSlot s.ctx.slot fun x =>
        let x := { x with savedMid := true }
        if x.wanted then { x with st := .suspended } else x.enterReady s.now) := by
  refine congrArg Host.Outcome.next ((if_neg (by simp [asked, alive, hasCtx_self live])).trans ?_)
  rw [focusSlot_self live]
  exact if_neg (by rw [quiet]; decide)

theorem State.exec_suspensionComplete_failed {u : State} (failed : s.writeSave (s.slotAt s.ctx.slot).save = (u, false)) :
    exec (.suspensionComplete s.ctx.slot) s = .next { u with agenda := .teardown s.ctx.slot 0 6 :: u.agenda } := by
  rw [exec_suspensionComplete live asked alive quiet, failed]
  rfl

theorem State.exec_suspensionComplete_written {u : State} (written : s.writeSave (s.slotAt s.ctx.slot).save = (u, true)) :
    ∃ t, exec (.suspensionComplete s.ctx.slot) s = .next t ∧ t.dram = u.dram ∧
      (∃ r : CtxRec, t.saved = r :: u.saved.filter (·.ctx.slot != s.ctx.slot) ∧ r.ctx = { u.ctx with rid := 512 } ∧ r.isles.length = u.isles.length) ∧
      (t.slotAt s.ctx.slot).savedMid = true ∧ ((u.slotAt s.ctx.slot).wanted = true → (t.slotAt s.ctx.slot).st = .suspended) ∧
      ((u.slotAt s.ctx.slot).wanted = false → (t.slotAt s.ctx.slot).st = .ready ∧ (t.slotAt s.ctx.slot).readyAt = s.now) := by
  let kept : CtxRec := { ctx := { u.ctx with rid := 512 }, isles := u.isles.map fun c => { c with phases := [] } }
  let v : State := { u with saved := kept :: u.saved.filter (·.ctx.slot != s.ctx.slot) }
  let ends (x : LSlot) : LSlot :=
    if x.wanted then { x with savedMid := true, st := .suspended } else { x with savedMid := true }.enterReady s.now
  have ran : exec (.suspensionComplete s.ctx.slot) s = .next ((v.dropCtx s.ctx.slot).onSlot s.ctx.slot ends) := by
    rw [exec_suspensionComplete live asked alive quiet, written]
    rfl
  obtain ⟨_, _, _, _, _, _, _, _, hd⟩ := v.dropCtx_eq s.ctx.slot
  obtain ⟨_, hl⟩ := (v.dropCtx s.ctx.slot).onSlot_eq s.ctx.slot ends
  have keep (x : LSlot) : (ends x).n = x.n := by
    change (ite _ _ _ : LSlot).n = _
    split <;> rfl
  have slot : ((v.dropCtx s.ctx.slot).onSlot s.ctx.slot ends).slotAt s.ctx.slot = ends (u.slotAt s.ctx.slot) := by
    rw [slotAt_onSlot_self keep, hd]
    rfl
  refine ⟨_, ran, ?_, ⟨kept, ?_, rfl, List.length_map _⟩, ?_, fun wanted => ?_, fun unwanted => ?_⟩
  · rw [hl, hd]
  · rw [hl, hd]
  all_goals rw [slot]
  · change (ite _ _ _ : LSlot).savedMid = true
    split <;> rfl
  · exact congrArg LSlot.st (if_pos wanted)
  · have ready : ends (u.slotAt s.ctx.slot) = { u.slotAt s.ctx.slot with savedMid := true }.enterReady s.now := if_neg (by rw [unwanted]; decide)
    rw [ready]
    exact ⟨rfl, rfl⟩

end

end

/-- The beginning of a suspension marks its slot. -/
theorem State.slotAt_beginSuspend (s : State) (n : Nat) : (s.beginSuspend n).slotAt n = { s.slotAt n with st := .suspending } := by
  let asks (s : State) : State := s.onCtx fun c => { c with sinceSafe := 0, overdue := 0, reqAt := s.now }
  let u := (s.onSlot n fun x => { x with st := .suspending }).onRegion (s.slotAt n).rid fun r =>
    { r with preempt := if r.preempt.contains n then r.preempt else r.preempt ++ [n] }
  have fresh : u.OnlyContexts (if s.pressed n then u else u.withSlot n asks) := .ite .refl (withSlot_onlyContexts n (fun t => t.onCtx_onlyContexts _) u)
  have slot : u.slotAt n = { s.slotAt n with st := .suspending } := slotAt_onSlot_self (g := fun x => { x with st := .suspending }) fun _ => rfl
  rw [← slot]
  exact fresh.slotAt

/-- A suspension by the device of a slot that has a context. -/
theorem State.exec_relocation_of_placed (s : State) (n : Nat) (placed : (s.slotAt n).st = .placed ∨ (s.slotAt n).st = .running) :
    ∃ t, exec (.relocation n) s = .next t ∧ t.slotAt n = { s.slotAt n with st := .suspending, dreq := true } := by
  have slot : ((s.onSlot n fun x => { x with dreq := true }).beginSuspend n).slotAt n = { s.slotAt n with st := .suspending, dreq := true } := by
    rw [slotAt_beginSuspend, slotAt_onSlot_self (g := fun x => { x with dreq := true }) fun _ => rfl]
  refine ⟨_, congrArg Host.Outcome.next ((if_neg ?_).trans ?_), slot⟩
  · rcases placed with h | h <;> simp [h]
  · unfold relocate
    rcases placed with h | h <;> rw [h]

theorem State.exec_relocation_of_suspended (s : State) (n : Nat) (suspended : (s.slotAt n).st = .suspended) (free : s.checkpointing n = false)
    (asked : (s.slotAt n).dreq = true) (host : (s.slotAt n).hreq = false) (guest : (s.slotAt n).greq = false) :
    ∃ t, exec (.relocation n) s = .next t ∧ t.slotAt n = { s.slotAt n with st := .ready, dreq := false } := by
  let ends (x : LSlot) : LSlot :=
    if x.st = .suspended ∧ x.dreq then
      let y := { x with dreq := false }
      if y.wanted then y else { y with st := .ready }
    else x
  have keep (x : LSlot) : (ends x).n = x.n := by
    change (ite _ _ _ : LSlot).n = _
    split
    · dsimp only
      split <;> rfl
    · rfl
  refine ⟨s.onSlot n ends, congrArg Host.Outcome.next ((if_pos suspended).trans ((if_neg (by rw [free]; decide)).trans rfl)), ?_⟩
  rw [slotAt_onSlot_self keep]
  refine (if_pos ⟨suspended, asked⟩).trans (if_neg ?_)
  simp [LSlot.wanted, host, guest]

/-! ### Overdue safe points (R50, R321) -/

theorem State.trapHere_left (s : State) (t : TrapRec) (rpc : Nat) : (s.trapHere t rpc).left = s.left := by
  unfold trapHere
  dsimp only
  split <;> rfl

theorem State.trapHere_of_sound {t : TrapRec} {rpc : Nat} (sound : s.core.spoilt 3 3072 32 = false) :
    s.trapHere t rpc = { s with core := s.core.takeTrap t rpc s.core.pc } := if_neg (by rw [sound]; decide)

section
variable (live : s.ctx.live = true) (left : s.left = []) (right : s.right = []) (others : s.others = []) (selected : s.selected = true)
  (requested : s.requested = true) (unsafe_ : s.atSafePoint = false)
include live left right others selected requested unsafe_

/-- What an overdue safe point of the only context does. -/
theorem State.exec_safepointOverdue : exec (.safepointOverdue s.ctx.rid) s = .next
    (if s.ctx.overdue ≠ 0 ∨ s.core.handler then s.doom s.ctx.slot 0x12 0
    else
      let v := s.onCtx fun c => { c with overdue := 1, sinceSafe := 0, reqAt := s.now }
      (v.onCore fun c => { c with early := none }).trapHere
        { cause := 0x12, addr := (v.free 0).toNat, info := 0, slot := 0, issued := false } v.core.pc) := by
  have alone : s.residents s.ctx.rid = [s.ctx] := by simp [residents, allCtx, live, others]
  have act : (s.region s.ctx.rid).bind (·.act) = some s.ctx.ctxid := by simpa [State.selected] using selected
  obtain ⟨r, region, act⟩ := Option.bind_eq_some_iff.1 act
  have found : ((s.region s.ctx.rid).bind fun r => (s.residents s.ctx.rid).find? fun c => some c.ctxid == r.act) = some s.ctx := by
    rw [region, Option.bind_some, alone, act, List.find?_singleton, if_pos (beq_self_eq_true _)]
  change execSafepointOverdue s.ctx.rid s = _
  unfold execSafepointOverdue
  rw [found]
  dsimp only
  rw [focusSlot_self live, if_neg (by rw [requested, unsafe_]; decide), focusIsle_alone left, withSlot_self live]
  by_cases again : s.ctx.overdue ≠ 0 ∨ s.core.handler = true
  · rw [if_pos again, if_pos again]
  · rw [if_neg again, if_neg again]
    have first : (s.onCtx fun c => { c with overdue := 1, sinceSafe := 0, reqAt := s.now }).isleIx = 0 := congrArg List.length left
    refine congrArg Host.Outcome.next ?_
    refine (eachIsle_alone (s := s.onCtx _) left right ?_).trans ?_
    · rw [if_pos first]
      exact (trapHere_left _ _ _).trans left
    · exact if_pos first

/-- The first overdue request raises its trap on the isle, TADDR a free value. -/
theorem State.exec_safepointOverdue_first (once : s.ctx.overdue = 0) (normal : s.core.handler = false) (sound : s.core.spoilt 3 3072 32 = false) :
    ∃ t, exec (.safepointOverdue s.ctx.rid) s = .next t ∧ t.core.handler = true ∧ t.core.pc = 0 ∧ t.core.tcause = 0x12 ∧ t.core.tinfo = 0 ∧
      t.core.tslot = tslotOf s.core.pc false 0 ∧ t.ctx.overdue = 1 := by
  have ran := exec_safepointOverdue live left right others selected requested unsafe_
  rw [if_neg (by simp [once, normal])] at ran
  dsimp only at ran
  rw [trapHere_of_sound (by exact sound)] at ran
  exact ⟨_, ran, rfl, rfl, rfl, rfl, rfl, rfl⟩

end

/-! ### Retirement and teardown (R52, R330, R336, R346) -/

section
variable (live : s.ctx.live = true)
include live

/-- A context that has ended leaves, and its slot retires. -/
theorem State.exec_retirement (runs : (s.slotAt s.ctx.slot).st = .running) (ended : s.allEnded = true) (drained : s.drained = true)
    (normal : ∀ c ∈ s.isles, c.handler = false) (going : s.ctx.cstate ≠ .suspending) (sound : s.ctx.faults = []) :
    ∃ t, exec (.retirement s.ctx.slot) s = .next t ∧ t.ctx.live = false ∧ t.slotAt s.ctx.slot = { s.slotAt s.ctx.slot with st := .retiring } := by
  let u := s.eachIsle tagIsle
  let ends (x : LSlot) : LSlot := { x with st := .retiring }
  have tags (t : State) : ∃ o, t.tagIsle = { t with overlays := o } := by
    unfold tagIsle
    split <;> exact ⟨_, rfl⟩
  obtain ⟨sameCtx, sameSlots⟩ : u.ctx = s.ctx ∧ u.slots = s.slots := by
    refine eachIsle_keeps (P := fun t => t.ctx = s.ctx ∧ t.slots = s.slots) ⟨rfl, rfl⟩ (fun t n h => ?_) fun t h => ?_
    · obtain ⟨_, _, _, ht⟩ := t.focusIsle_eq n
      rw [ht]
      exact h
    · obtain ⟨_, ht⟩ := tags t
      rw [ht]
      exact h
  have own : (u.ctx.live && u.ctx.slot == s.ctx.slot) = true := by simp [sameCtx, live]
  obtain ⟨_, _, _, _, _, _, _, _, hd⟩ := u.dropCtx_eq s.ctx.slot
  obtain ⟨_, hl⟩ := (u.dropCtx s.ctx.slot).onSlot_eq s.ctx.slot ends
  have none_in : s.isles.any (·.handler) = false := by simpa using normal
  have ran : exec (.retirement s.ctx.slot) s = .next (((u.dropCtx s.ctx.slot).onSlot s.ctx.slot ends).trimTags) := by
    refine congrArg Host.Outcome.next ((if_neg (by simp [runs, hasCtx_self live])).trans ?_)
    rw [focusSlot_self live]
    refine (if_neg (by simp [ended, drained, none_in, going])).trans ?_
    rw [sound, withSlot_self live]
    rfl
  refine ⟨_, ran, ?_, ?_⟩
  · change ((u.dropCtx s.ctx.slot).onSlot s.ctx.slot ends).ctx.live = false
    rw [hl]
    exact congrArg Ctx.live (dropCtx_ctx own)
  · change ((u.dropCtx s.ctx.slot).onSlot s.ctx.slot ends).slotAt s.ctx.slot = _
    rw [slotAt_onSlot_self (g := ends) fun _ => rfl, hd]
    change ends (u.slotAt s.ctx.slot) = ends _
    rw [slotAt, sameSlots]
    rfl

/-- A teardown that no kite keeps ends at once. -/
theorem State.exec_teardown {fcause freason : Nat} (alive : (s.slotAt s.ctx.slot).dying = none) (k0 : s.ctx.kctx0 = none) (k1 : s.ctx.kctx1 = none)
    (none : (s.slotAt s.ctx.slot).cbar = 0) : ∃ t, exec (.teardown s.ctx.slot fcause freason) s = .next t ∧ t.ctx.live = false ∧
      t.ops = s.ops.filter (fun o => o.slot != s.ctx.slot) ∧ (t.slotAt s.ctx.slot).st = .faulted ∧ (t.slotAt s.ctx.slot).fcause = fcause ∧
      (t.slotAt s.ctx.slot).freason = freason := by
  let leaves (r : Region) : Region :=
    { r with
      act := if (s.residents r.rid).any (fun c => c.slot == s.ctx.slot && some c.ctxid == r.act) then .none else r.act
      preempt := r.preempt.filter (· != s.ctx.slot)
      replay := r.replay && !(s.residents r.rid).any fun c => c.slot == s.ctx.slot && some c.ctxid == r.act }
  let c : Ctx := { s.ctx with cstate := .suspending, faults := [], releases := [], words := [] }
  let t : State := ({ s with ctx := c, ops := s.ops.filter (·.slot != s.ctx.slot) } : State).onRegion (s.slotAt s.ctx.slot).rid leaves
  have quiet : t.awaitsAbandon = false := by
    have k (n : Nat) : t.ctx.kctx n = .none := by
      change (if n = 0 then s.ctx.kctx0 else s.ctx.kctx1) = _
      rw [k0, k1, ite_self]
    simp [awaitsAbandon, k]
  have focus : t.focusSlot s.ctx.slot = t := focusSlot_self (s := t) live
  have ran : exec (.teardown s.ctx.slot fcause freason) s = .next ((t.dropCtx s.ctx.slot).endContext s.ctx.slot fcause freason) := by
    refine congrArg Host.Outcome.next ((if_neg (by simp [hasCtx_self live])).trans ?_)
    rw [alive, withSlot_self live, quiesceAll_of_none k0 k1]
    refine (if_neg ?_).trans rfl
    change ¬ (t.focusSlot s.ctx.slot).awaitsAbandon = true
    rw [focus, quiet]
    decide
  obtain ⟨_, _, _, _, _, _, _, _, hd⟩ := t.dropCtx_eq s.ctx.slot
  have same : (t.dropCtx s.ctx.slot).slotAt s.ctx.slot = s.slotAt s.ctx.slot := by
    rw [hd]
    rfl
  have gone : (t.dropCtx s.ctx.slot).ctx = {} := dropCtx_ctx (s := t) (inFocus (s := t) live)
  obtain ⟨ctx, -, ops, slot⟩ := (t.dropCtx s.ctx.slot).endContext_spec (fcause := fcause) (freason := freason) (n := s.ctx.slot) (by rw [same]; exact none)
  refine ⟨_, ran, ?_, ?_, ?_⟩
  · rw [ctx, gone]
  · have rest : (t.dropCtx s.ctx.slot).ops = s.ops.filter (·.slot != s.ctx.slot) := by
      rw [hd]
      rfl
    rw [ops, rest, List.filter_filter]
    simp only [Bool.and_self]
  · rw [slot]
    exact ⟨rfl, rfl, rfl⟩

end

theorem State.exec_retirementComplete {slot : Nat} (retiring : (s.slotAt slot).st = .retiring) (none : (s.slotAt slot).cbar = 0) :
    ∃ t, exec (.retirementComplete slot) s = .next t ∧ t.slotAt slot = { s.slotAt slot with st := .retired } := by
  refine ⟨_, congrArg Host.Outcome.next (if_pos retiring), ?_⟩
  rw [arriveCbar_of_zero none]
  obtain ⟨_, h⟩ := (s.onSlot slot fun x => { x with st := .retired }).signalSlot_onlyFns slot
  rw [h]
  exact slotAt_onSlot_self (g := fun x => { x with st := .retired }) fun _ => rfl

/-- A teardown of a slot that has no context, live or suspended. -/
theorem State.exec_teardown_of_none {slot fcause freason : Nat} (gone : s.hasCtx slot = false) (unsaved : (s.saved.any fun r => r.ctx.slot == slot) = false) :
    exec (.teardown slot fcause freason) s = .next s :=
  congrArg Host.Outcome.next ((if_pos (by rw [gone]; rfl)).trans (if_neg (by rw [unsaved]; decide)))

/-- A teardown of a suspended context. -/
theorem State.exec_teardown_of_saved {slot fcause freason : Nat} (gone : s.hasCtx slot = false) (saved : (s.saved.any fun r => r.ctx.slot == slot) = true)
    (none : (s.slotAt slot).cbar = 0) : ∃ t, exec (.teardown slot fcause freason) s = .next t ∧ (t.slotAt slot).st = .faulted ∧
      (t.slotAt slot).freason = freason ∧ (∀ r ∈ t.saved, r.ctx.slot ≠ slot) ∧ t.ops = s.ops.filter (·.slot != slot) := by
  obtain ⟨-, kept, ops, at_⟩ := endContext_spec (fcause := fcause) (freason := freason) none
  refine ⟨_, congrArg Host.Outcome.next ((if_pos (by rw [gone]; rfl)).trans (if_pos saved)), ?_, ?_, fun r hr => ?_, ops⟩
  · rw [at_]
  · rw [at_]
  · rw [kept] at hr
    simpa using (List.mem_filter.1 hr).2

end

/-- Settles O47. -/
theorem regionEvents : Obligations.RegionEvents := by
  refine ⟨fun s rid r there may awake => ⟨fun none => ?_, fun c chosen other => State.exec_contextSwitch_of_other there may awake chosen other,
      fun c chosen unnamed => ?_⟩, ?_, fun s slot => ⟨State.exec_retirementComplete, State.exec_relocation_of_suspended s slot, State.exec_teardown_of_none,
      State.exec_teardown_of_saved⟩⟩
  · rw [State.exec_contextSwitch there may awake, none]
  · obtain ⟨member, ready⟩ := State.mem_of_choose chosen
    exact ⟨member, ready, fun d => State.choose_least unnamed chosen⟩
  · rintro s slot fcause freason live rfl
    refine ⟨fun asked _ going selected early => State.exec_suspensionRequest_early live asked going selected early,
      fun asked own going free => State.exec_suspensionRequest_served live asked own going free, fun asked alive quiet => ⟨fun u failed => ?_, fun u written => ?_⟩,
      State.exec_relocation_of_placed s s.ctx.slot, fun left right others selected requested early => ⟨fun again => ?_, fun once normal sound => ?_⟩,
      fun runs ended drained normal going sound => State.exec_retirement live runs ended drained normal going sound,
      fun alive k0 k1 none => State.exec_teardown live alive k0 k1 none⟩
    · exact State.exec_suspensionComplete_failed live asked alive quiet failed
    · exact State.exec_suspensionComplete_written live asked alive quiet written
    · rw [State.exec_safepointOverdue live left right others selected requested early]
      exact congrArg Host.Outcome.next (if_pos again)
    · exact State.exec_safepointOverdue_first live left right others selected requested early once normal sound

end Sys2Proof.Machine
end

section
/-! PROOFS. The registers of a function and a host's requests -/

namespace Sys2Proof.Machine

/-! ## The register block of a function (R389-R394, R397) -/

section
variable {s : State} {fn : Nat} {x : W64}

/-! ### Messages (R393) -/

theorem State.dropped_of_drop (h : (s.fn fn).drop = true) : s.dropped fn = s := if_pos h

/-- A dropped write sets DROP, and with it the signal of vector 3. -/
theorem State.fn_dropped (h : (s.fn fn).drop = false) : (s.dropped fn).fn fn = { s.fn fn with drop := true }.signal 3 := by
  rw [dropped, if_neg (by rw [h]; decide), fn_message, if_pos rfl, fn_onFn_self]
  exact fun _ => rfl

theorem Fn.signal_of_sent {f : Fn} {v : Fin 4} (going : f.frozen = false) (unmasked : f.mask[v] = false) :
    f.signal v = { f with msix := f.msix.set v (f.msix[v] + 1), pend := f.pend.set v false } := if_neg (by rw [going, unmasked]; decide)

theorem Fn.signal_of_masked {f : Fn} {v : Fin 4} (masked : f.mask[v] = true) : f.signal v = { f with pend := f.pend.set v true } :=
  if_pos (by rw [masked, Bool.or_true])

theorem State.dropped_signals (h : (s.fn fn).drop = false) : ((s.dropped fn).fn fn).drop = true ∧
    ((s.fn fn).frozen = false → (s.fn fn).mask[3] = false → ((s.dropped fn).fn fn).msix[3] = (s.fn fn).msix[3] + 1) ∧
    ((s.fn fn).mask[3] = true → ((s.dropped fn).fn fn).pend[3] = true ∧ ((s.dropped fn).fn fn).msix[3] = (s.fn fn).msix[3]) := by
  rw [fn_dropped h]
  refine ⟨?_, fun going unmasked => ?_, fun masked => ?_⟩
  · obtain ⟨a, b, eq⟩ := { s.fn fn with drop := true }.signal_eq 3
    rw [eq]
  · rw [Fn.signal_of_sent (f := { s.fn fn with drop := true }) (v := 3) going unmasked]
    exact Vector.getElem_set_self ..
  · rw [Fn.signal_of_masked (f := { s.fn fn with drop := true }) (v := 3) masked]
    exact ⟨Vector.getElem_set_self .., rfl⟩

/-- What a function that is not frozen sends of what is pending. -/
theorem Fn.sendPending_spec {f : Fn} (going : f.frozen = false) (k : Fin 4) : f.sendPending.pend[k] = (f.pend[k] && f.mask[k]) ∧
    f.sendPending.msix[k] = f.msix[k] + (if f.pend[k] && !f.mask[k] then 1 else 0) := by
  have sends : f.sendable k = (f.pend[k] && !f.mask[k]) := by rw [sendable, going, Bool.not_false, Bool.and_true]
  have pend : f.sendPending.pend[k] = (f.pend[k] && !f.sendable k) := by
    unfold sendPending
    simp
  have msix : f.sendPending.msix[k] = f.msix[k] + (if f.sendable k then 1 else 0) := by
    unfold sendPending
    simp
  rw [pend, msix, sends]
  refine ⟨?_, rfl⟩
  cases f.pend[k] <;> cases f.mask[k] <;> rfl

/-- What a function keeps where it sends what may be sent. -/
def Fn.flush (f : Fn) : Fn := if [0, 1, 2, 3].any f.sendable then f.sendPending else f

theorem Fn.flush_of_unsendable {f : Fn} (none : ∀ k : Fin 4, f.sendable k = false) : f.flush = f := if_neg (by simp [none])

theorem Fn.flush_coalescing (f : Fn) : f.flush.coalescing = f.coalescing := by
  unfold flush
  split <;> rfl

theorem Fn.flush_spec {f : Fn} (going : f.frozen = false) (k : Fin 4) : f.flush.pend[k] = (f.pend[k] && f.mask[k]) ∧
    f.flush.msix[k] = f.msix[k] + (if f.pend[k] && !f.mask[k] then 1 else 0) := by
  by_cases any : [0, 1, 2, 3].any f.sendable = true
  · rw [flush, if_pos any]
    exact sendPending_spec going k
  · rw [flush, if_neg any]
    have unsent : (f.pend[k] && !f.mask[k]) = false := by
      have all : ∀ k ∈ ([0, 1, 2, 3] : List (Fin 4)), ¬ f.sendable k = true := by simpa using any
      have own := Bool.eq_false_iff.2 (all k (by fin_cases k <;> decide))
      rwa [Fn.sendable, going, Bool.not_false, Bool.and_true] at own
    rw [unsent]
    refine ⟨?_, rfl⟩
    revert unsent
    cases f.pend[k] <;> cases f.mask[k] <;> decide

/-- The state after the timer of a function has run out, or not. -/
def State.coalesced (s : State) (fn : Nat) : State :=
  if (s.fn fn).coalescing ∧ (s.fn fn).coalAt ≤ s.now then (s.onFn fn fun f => { f with coalescing := false }).message fn 0 else s

theorem State.exec_msixCoalesceTimer : ∃ t, exec (.msixCoalesceTimer fn) s = .next t ∧ t.fn fn = ((s.coalesced fn).fn fn).flush ∧
    ((∀ k : Fin 4, ((s.coalesced fn).fn fn).sendable k = false) → t = s.coalesced fn) := by
  by_cases any : [0, 1, 2, 3].any ((s.coalesced fn).fn fn).sendable = true
  · refine ⟨(s.coalesced fn).onFn fn Fn.sendPending, congrArg Host.Outcome.next (if_pos any), ?_, fun none => absurd any (by simp [none])⟩
    rw [Fn.flush, if_pos any]
    exact fn_onFn_self fun _ => rfl
  · refine ⟨s.coalesced fn, congrArg Host.Outcome.next (if_neg any), ?_, fun _ => rfl⟩
    rw [Fn.flush, if_neg any]

theorem State.exec_msixCoalesceTimer_due (asked : (s.fn fn).coalescing = true) (due : (s.fn fn).coalAt ≤ s.now) (going : (s.fn fn).frozen = false)
    (unmasked : (s.fn fn).mask[0] = false) : ∃ t, exec (.msixCoalesceTimer fn) s = .next t ∧ (t.fn fn).coalescing = false ∧
      (t.fn fn).msix[0] = (s.fn fn).msix[0] + 1 := by
  let sent : Fn :=
    { s.fn fn with coalescing := false, msix := (s.fn fn).msix.set 0 ((s.fn fn).msix[0] + 1), pend := (s.fn fn).pend.set 0 false }
  have after : (s.coalesced fn).fn fn = sent := by
    rw [coalesced, if_pos ⟨asked, due⟩, fn_message, if_pos rfl, fn_onFn_self]
    · exact Fn.signal_of_sent (f := { s.fn fn with coalescing := false }) (v := 0) going unmasked
    · exact fun _ => rfl
  obtain ⟨t, ran, kept, -⟩ := s.exec_msixCoalesceTimer (fn := fn)
  refine ⟨t, ran, ?_, ?_⟩ <;> rw [kept, after]
  · exact sent.flush_coalescing
  · refine (Fn.flush_spec (f := sent) going 0).2.trans ?_
    simp [sent]

section
variable (idle : (s.fn fn).coalescing = false ∨ s.now < (s.fn fn).coalAt)
include idle

theorem State.coalesced_of_idle : s.coalesced fn = s := by
  refine if_neg fun h => ?_
  rcases idle with c | late
  · rw [c] at h
    cases h.1
  · omega

theorem State.exec_msixCoalesceTimer_of_unsendable (none : ∀ k : Fin 4, (s.fn fn).sendable k = false) : exec (.msixCoalesceTimer fn) s = .next s := by
  obtain ⟨t, ran, -, same⟩ := s.exec_msixCoalesceTimer (fn := fn)
  rw [coalesced_of_idle idle] at same
  rw [ran, same none]

theorem State.exec_msixCoalesceTimer_idle (going : (s.fn fn).frozen = false) : ∃ t, exec (.msixCoalesceTimer fn) s = .next t ∧ ∀ k : Fin 4,
    (t.fn fn).pend[k] = ((s.fn fn).pend[k] && (s.fn fn).mask[k]) ∧
    (t.fn fn).msix[k] = (s.fn fn).msix[k] + (if (s.fn fn).pend[k] && !(s.fn fn).mask[k] then 1 else 0) := by
  obtain ⟨t, ran, kept, -⟩ := s.exec_msixCoalesceTimer (fn := fn)
  rw [coalesced_of_idle idle] at kept
  refine ⟨t, ran, fun k => ?_⟩
  rw [kept]
  exact Fn.flush_spec going k

end

/-- A function-level reset brings a frozen function back, with what was pending sent. -/
theorem State.exec_functionLevelReset : ∃ t, exec (.functionLevelReset fn) s = .next t ∧ (t.fn fn).frozen = false ∧ (t.fn fn).tdisp ≠ .error ∧
    ∀ k : Fin 4, (t.fn fn).pend[k] = ((s.fn fn).pend[k] && (s.fn fn).mask[k]) ∧
      (t.fn fn).msix[k] = (s.fn fn).msix[k] + (if (s.fn fn).pend[k] && !(s.fn fn).mask[k] then 1 else 0) := by
  let back (f : Fn) : Fn := { f with frozen := false, tdisp := if f.tdisp = .error then .unlocked else f.tdisp }
  have reset : (s.onFn fn fun f => (back f).sendPending).fn fn = (back (s.fn fn)).sendPending := fn_onFn_self (f := fun f => (back f).sendPending) fun _ => rfl
  have ran : exec (.functionLevelReset fn) s = .next (s.onFn fn fun f => (back f).sendPending) := rfl
  refine ⟨_, ran, ?_⟩
  rw [reset]
  refine ⟨rfl, ?_, Fn.sendPending_spec (f := back (s.fn fn)) rfl⟩
  change (if (s.fn fn).tdisp = .error then .unlocked else (s.fn fn).tdisp) ≠ .error
  split
  · decide
  · assumption

end

/-! ## Writes of a function's registers (R252, R261, R262, R353, R363, R389-R392) -/

section
variable {s : State} {fn : Nat} {x : W64}

/-- Nothing that a frozen function writes has an effect. -/
theorem State.exec_of_frozen {off idx : Nat} {b : Byte} (frozen : (s.fn fn).frozen = true) {i : Instr}
    (mem : i ∈ [Instr.featwr fn x, .asidcmdSet fn x, .asidcmdClear fn x, .dbgsel fn x, .rswin fn off b, .registerWrite fn 8 x, .invalidation fn x,
      .whtLoad fn idx, .whtUnload fn idx]) : exec i s = .next s := by
  simp only [List.mem_cons, List.not_mem_nil, or_false] at mem
  rcases mem with rfl | rfl | rfl | rfl | rfl | rfl | rfl | rfl | rfl <;> exact congrArg Host.Outcome.next (if_pos frozen)

theorem State.exec_of_virtual {idx : Nat} (hears : s.Hears fn) (virtual : isPf fn = false) {i : Instr}
    (mem : i ∈ [Instr.featwr fn x, .whtLoad fn idx, .whtUnload fn idx, .registerWrite fn 0x10 x]) : exec i s = .next (s.dropped fn) := by
  simp only [List.mem_cons, List.not_mem_nil, or_false] at mem
  rcases mem with rfl | rfl | rfl | rfl <;>
    exact congrArg Host.Outcome.next ((if_neg (by rw [hears.1]; decide)).trans (if_pos (by rw [virtual]; rfl)))

theorem bit_eq_getLsbD (x : W64) (k : Nat) : bit x.toNat k = x.getLsbD k := by
  rw [BitVec.getLsbD, Nat.testBit_eq_decide_div_mod_eq]
  rfl

theorem State.exec_registerWrite_status (hears : s.Hears fn) : exec (.registerWrite fn 8 x) s = .next (s.onFn fn fun f =>
    { f with drop := f.drop && !x.getLsbD 0, evlost := f.evlost && !x.getLsbD 1 }) := by
  have written : s.registerWrite fn 8 x =
      s.regWrite fn true fun s => s.onFn fn fun f => { f with drop := w1c x.toNat 0 f.drop, evlost := w1c x.toNat 1 f.evlost } := rfl
  refine congrArg Host.Outcome.next ((written.trans (regWrite_of_hears hears (.inr rfl))).trans ?_)
  simp only [w1c, bit_eq_getLsbD]

theorem State.exec_registerWrite_pfsel (hears : s.Hears fn) (physical : isPf fn = true) :
    exec (.registerWrite fn 0x10 x) s = .next (s.onFn fn fun f => { f with pfsel := x.toNat % 128 }) := by
  have written : s.registerWrite fn 0x10 x = s.regWrite fn false fun s => s.onFn fn fun f => { f with pfsel := fld x.toNat 0 7 } := rfl
  refine congrArg Host.Outcome.next ((written.trans (regWrite_of_hears hears (.inl physical))).trans ?_)
  simp only [fld, pow_zero, Nat.div_one]
  rfl

section
variable {p : Part} {idx off : Nat} {b : Byte} (hears : s.Hears fn) (acts : s.actsOn fn = some p)
include hears acts

/-- A write that the lock of its partition may forbid. -/
theorem State.partWrite_of_unlocked {vf : Bool} {f : Part → State → State} (may : isPf fn = true ∨ vf = true) (unlocked : s.isLocked p = false) :
    s.partWrite fn vf true f = f p s := by
  rw [partWrite, regWrite_of_hears hears may, acts]
  exact if_neg (by rw [unlocked]; decide)

section
variable (physical : isPf fn = true) (unlocked : s.isLocked p = false)
include physical unlocked

theorem State.exec_featwr : exec (.featwr fn x) s = .next
    (if p.featOpen then s.onPart p.pid fun p => { p with featAccept := x.toNat &&& p.featOffer, featOpen := false } else s.dropped fn) := by
  refine congrArg Host.Outcome.next ?_
  unfold featWrite
  exact partWrite_of_unlocked hears acts (.inl physical) unlocked

/-- LOAD or UNLOAD written. -/
theorem State.handleCommand_of_unlocked {op : Nat} (small : op < 2) : s.handleCommand fn op idx = s.onPart p.pid fun p =>
    if p.whtBusy.isSome then { p with whtErr := true, whtReason := 6 } else { p with whtBusy := some (BitVec.ofNat 64 (op * 2 ^ 62 + idx % 2 ^ 20)) } := by
  unfold handleCommand
  refine (partWrite_of_unlocked hears acts (.inl physical) unlocked).trans (congrArg (s.onPart p.pid) (funext fun p => ?_))
  simp only [show ¬ 2 ≤ op by omega, or_false]

end

/-! ### ASIDCMD (R392) -/

/-- Whether a slot of a partition that is not FREE names an ASID. -/
def State.named (s : State) (p : Part) (a : Nat) : Bool :=
  s.slots.any fun y => y.st != .free && y.asid == a && p.slotBase ≤ y.n && decide (y.n < p.slotBase + p.slotCnt)

omit hears acts in
theorem State.named_iff {a : Nat} : s.named p a = true ↔ ∃ y ∈ s.slots, y.st ≠ .free ∧ y.asid = a ∧ p.slotBase ≤ y.n ∧ y.n < p.slotBase + p.slotCnt := by
  simp [named, and_assoc]

theorem State.asidWrite_eq {set : Bool} : s.asidWrite fn set x.toNat =
    let a := (x.extractLsb' 0 16).toNat
    if !p.ownsAsid a || (x.extractLsb' 48 15).toNat != 0 || (!set && s.named p a) then s.dropped fn
    else { s with asids := if set then (a, p.pid, (x.extractLsb' 16 32).toNat) :: s.asids.filter (·.1 != a) else s.asids.filter (·.1 != a) } := by
  simp only [← fld_toNat]
  unfold asidWrite
  exact partWrite_of_hears hears (.inr rfl) acts

theorem State.asidWrite_of_good {set : Bool} (sound : x.extractLsb' 48 15 = 0) (low : p.asidBase ≤ (x.extractLsb' 0 16).toNat)
    (high : (x.extractLsb' 0 16).toNat < p.asidBase + p.asidCnt) (free : set = true ∨ s.named p (x.extractLsb' 0 16).toNat = false) :
    s.asidWrite fn set x.toNat =
      let rest := s.asids.filter (·.1 != (x.extractLsb' 0 16).toNat)
      { s with asids := if set then ((x.extractLsb' 0 16).toNat, p.pid, (x.extractLsb' 16 32).toNat) :: rest else rest } := by
  rw [asidWrite_eq hears acts]
  refine if_neg ?_
  have owns : p.ownsAsid (x.extractLsb' 0 16).toNat = true := by
    rw [Part.ownsAsid, decide_eq_true low, decide_eq_true high]
    rfl
  rw [owns, sound]
  rcases free with h | h <;> rw [h] <;> simp

theorem State.asidWrite_of_bad {set : Bool} (bad : p.ownsAsid (x.extractLsb' 0 16).toNat = false ∨ (set = false ∧ s.named p (x.extractLsb' 0 16).toNat = true)) :
    s.asidWrite fn set x.toNat = s.dropped fn := by
  rw [asidWrite_eq hears acts]
  refine if_pos ?_
  rcases bad with h | ⟨h, g⟩
  · rw [h, Bool.not_false, Bool.true_or, Bool.true_or]
  · rw [h, g, Bool.not_false, Bool.and_true, Bool.or_true]

/-! ### XINVCMD, DBGSEL and RSWIN (R261, R262, R389, R390) -/

theorem State.exec_invalidation : exec (.invalidation fn x) s = .next (s.onFn fn fun f =>
    if s.badInvalidation fn p x.toNat then { f with xinvErr := true } else { f with xinvBusy := true }) := by
  refine congrArg Host.Outcome.next ?_
  unfold invalidate
  exact partWrite_of_hears hears (.inr rfl) acts

omit acts in
theorem State.exec_dbgsel_of_virtual (virtual : isPf fn = false) {q : Part} (slot : s.partOfSlot (x.extractLsb' 0 12).toNat = some q)
    (own : (s.fn fn).pid = some q.pid) : exec (.dbgsel fn x) s = .next (s.onFn fn fun f => { f with
      dbgSlot := (x.extractLsb' 0 12).toNat, dbgPx := (x.extractLsb' 16 5).toNat, dbgPy := (x.extractLsb' 24 5).toNat, dbgRid := 0 }) := by
  refine congrArg Host.Outcome.next ((regWrite_of_hears hears (.inr rfl)).trans ?_)
  simp only [fld_toNat, virtual, slot, own]
  simp

omit acts in
theorem State.exec_rswin : exec (.rswin fn off b) s = .next
    (match s.window fn with
    | some (asid, pid, va) =>
      if off + 1 ≤ 10240 then
        (match s.writeVa asid pid (va + off) [b] with
        | (t, none) => t
        | (t, some f) => (t.blame f.unit).dropped fn)
      else s.dropped fn
    | none => s.dropped fn) := congrArg Host.Outcome.next (regWrite_of_hears hears (.inr rfl))

end

/-! ### Translation through an ASID that is not live (R252, R255) -/

theorem State.translate_of_dead {a pid : Nat} {q : Asked} (dead : ∀ e ∈ s.asids, e.1 = a → e.2.1 ≠ pid) : s.translate a pid q =
    .error (9, (if q.va < 2 ^ 52 then 0x63 else 0x64) + (if q.wr then 2 ^ 11 else 0) + (if q.kite then 2 ^ 12 else 0)) := by
  unfold translate lookup
  split
  · next beyond =>
    rw [if_neg (by omega)]
    rfl
  · next within =>
    rw [if_pos (by omega)]
    split
    · next e p found _ =>
      have own : e.1 = a := by simpa using List.find?_some found
      rw [if_neg (dead e (List.mem_of_find?_eq_some found) own)]
      rfl
    · rfl

end

/-! ## The weight-handle table (R353, R354) -/

section
variable {s : State} {p : Part} {w : W64} (found : s.part p.pid = some p) (busy : p.whtBusy = some w)
  (free : s.handleInUse p.pid (w.extractLsb' 0 20).toNat = false)
include found busy free

/-- A command takes effect, no routine holding its entry. -/
theorem State.exec_whtCommandComplete : exec (.whtCommandComplete p.pid) s = .next
    (let idx := (w.extractLsb' 0 20).toNat
    let fail (s : State) (r : Nat) : State := s.onPart p.pid fun p => { p with whtBusy := none, whtErr := true, whtReason := r }
    if (w.extractLsb' 62 2).toNat = 0 then
      match s.loadHandle p idx with
      | .error r => fail ((if p.handleCount ≤ idx then s else s.loadTouch p idx).blame r.2) r.1
      | .ok (h, body) => ((if p.handleCount ≤ idx then s else s.loadTouch p idx).healResident p.pid h body.length).onPart p.pid fun p =>
          { p.resident h body with whtBusy := none, handles := h :: p.handles.filter (·.idx != idx) }
    else if p.handleCount ≤ idx then fail s 0x01
    else s.onPart p.pid fun p =>
      { p with whtBusy := none, handles := p.handles.map fun h => if h.idx == idx then { h with res := false } else h }) := by
  have asked : ((s.part p.pid).bind fun p => p.whtBusy.map fun w => (p, w.toNat)) = some (p, w.toNat) := by
    rw [found, Option.bind_some, busy, Option.map_some]
  change execWhtCommandComplete p.pid s = _
  unfold execWhtCommandComplete
  rw [asked]
  simp only [← fld_toNat] at free ⊢
  exact congrArg Host.Outcome.next (if_neg (by rw [free]; decide))

theorem State.exec_whtCommandComplete_load {h : Handle} {body : List Byte} (op : w.extractLsb' 62 2 = 0)
    (loads : s.loadHandle p (w.extractLsb' 0 20).toNat = .ok (h, body)) : exec (.whtCommandComplete p.pid) s = .next
      (((s.loadTouch p (w.extractLsb' 0 20).toNat).healResident p.pid h body.length).onPart p.pid fun p =>
        { p with
          whM := if h.bclass then p.whM else p.whM.wrList (place h.rwb body)
          whB := if h.bclass then p.whB.wrList (place h.rwb body) else p.whB
          whtBusy := none, handles := h :: p.handles.filter (·.idx != (w.extractLsb' 0 20).toNat) }) := by
  have inside : ¬ p.handleCount ≤ (w.extractLsb' 0 20).toNat := by
    intro beyond
    rw [loadHandle, if_pos beyond] at loads
    cases loads
  rw [exec_whtCommandComplete found busy free, op]
  refine congrArg Host.Outcome.next ((if_pos rfl).trans ?_)
  rw [loads]
  dsimp only
  rw [if_neg inside]
  refine congrArg (State.onPart _ p.pid) (funext fun p => ?_)
  unfold Part.resident
  cases h.bclass <;> rfl

theorem State.exec_whtCommandComplete_failed {r : Nat} {u : Option ErrUnit} (op : w.extractLsb' 62 2 = 0)
    (fails : s.loadHandle p (w.extractLsb' 0 20).toNat = .error (r, u)) : exec (.whtCommandComplete p.pid) s = .next
      (((if p.handleCount ≤ (w.extractLsb' 0 20).toNat then s else s.loadTouch p (w.extractLsb' 0 20).toNat).blame u).onPart p.pid fun p =>
        { p with whtBusy := none, whtErr := true, whtReason := r }) := by
  rw [exec_whtCommandComplete found busy free, op]
  refine congrArg Host.Outcome.next ((if_pos rfl).trans ?_)
  rw [fails]

theorem State.exec_whtCommandComplete_unload (op : w.extractLsb' 62 2 ≠ 0) (inside : (w.extractLsb' 0 20).toNat < p.handleCount) :
    exec (.whtCommandComplete p.pid) s = .next (s.onPart p.pid fun p =>
      { p with whtBusy := none, handles := p.handles.map fun h => if h.idx == (w.extractLsb' 0 20).toNat then { h with res := false } else h }) := by
  have other : ¬ (w.extractLsb' 62 2).toNat = 0 := fun h => op (BitVec.eq_of_toNat_eq h)
  rw [exec_whtCommandComplete found busy free]
  exact congrArg Host.Outcome.next ((if_neg other).trans (if_neg (by omega)))

end

/-! ## A host's requests (R254, R256, R257, R385, R389) -/

section
variable {s : State} {r : HostReq}

/-- An answer to a request. -/
theorem State.reply_eq {fn : Nat} {l : List Byte} : s.reply fn l = s.onFn fn fun f => { f with answer := l } := rfl

/-! ### Reads of the register block (R389) -/

section
variable {off asid pid va : Nat}

/-- A read outside the window, or where the window is closed. -/
theorem State.regAnswer_of_plain (at_ : off = r.gpa / 8 * 8) (plain : off < 0x12000 ∨ 0x14800 ≤ off ∨ s.window r.fn = none) :
    s.regAnswer r = s.reply r.fn (0 :: ((toLe 8 (s.regAt r.fn off)).drop (r.gpa % 8)).take r.len) := by
  have closed : (if 0x12000 ≤ off ∧ off < 0x14800 then s.window r.fn else none) = none := by
    split
    · next inside => exact (plain.resolve_left (by omega)).resolve_left (by omega)
    · rfl
  unfold State.regAnswer
  rw [← at_]
  extract_lets
  rw [closed]

/-- The answer to a read inside the window, `plain` where the window's memory is whole. -/
def State.windowAnswer (u : State) (fn pid at_ : Nat) (read : Except VaFault (List Byte)) (plain : List Byte) : State :=
  match read with
  | .error (.ecc _ e) => u.hostAbort fn pid at_ e
  | _ => u.reply fn plain

section
variable (at_ : off = r.gpa / 8 * 8) (low : 0x12000 ≤ off) (high : off < 0x14800)
include at_ low high

/-- A read inside the window. -/
theorem State.regAnswer_of_window (opened : s.window r.fn = some (asid, pid, va)) : s.regAnswer r =
    (s.touchVa asid pid (va + (off - 0x12000)) 8).windowAnswer r.fn pid r.gpa
      ((s.touchVa asid pid (va + (off - 0x12000)) 8).readVa asid pid (va + (off - 0x12000)) 8)
      (0 :: ((toLe 8 ((s.touchVa asid pid (va + (off - 0x12000)) 8).regAt r.fn off)).drop (r.gpa % 8)).take r.len) := by
  have inside : (if 0x12000 ≤ off ∧ off < 0x14800 then s.window r.fn else none) = some (asid, pid, va) := by
    rw [if_pos ⟨low, high⟩, opened]
  unfold State.regAnswer
  rw [← at_]
  clear low high
  generalize (0x12000 : Nat) = m, (0x14800 : Nat) = m', @State.readVa = read at inside ⊢
  -- stated apart from the numbers and the read, which the kernel would otherwise evaluate
  as_aux_lemma =>
    dsimp only
    rw [inside]
    dsimp only
    rcases read (s.touchVa asid pid (va + (off - m)) 8) asid pid (va + (off - m)) 8 with (_ | _) | _ <;> rfl

/-- What a register in the window reads. -/
theorem State.regAt_window {l : List Byte} {u : State} {fn : Nat} (opened : u.window fn = some (asid, pid, va))
    (read : u.readVa asid pid (va + (off - 0x12000)) 8 = .ok l) : u.regAt fn off = ofLe l := by
  unfold regAt
  extract_lets
  split
  case h_15 =>
    rw [if_neg (by omega), if_neg (by omega), if_neg (by omega), if_neg (by omega), if_neg (by omega), if_pos ⟨low, high⟩, opened]
    clear low high
    generalize (0x12000 : Nat) = m, @State.readVa = reads at read ⊢
    -- as above
    as_aux_lemma =>
      dsimp only
      rw [read]
  all_goals omega

theorem State.regAnswer_of_read {l : List Byte} (opened : s.window r.fn = some (asid, pid, va))
    (read : (s.touchVa asid pid (va + (off - 0x12000)) 8).readVa asid pid (va + (off - 0x12000)) 8 = .ok l)
    (still : (s.touchVa asid pid (va + (off - 0x12000)) 8).window r.fn = s.window r.fn) :
    s.regAnswer r = (s.touchVa asid pid (va + (off - 0x12000)) 8).reply r.fn (0 :: ((toLe 8 (ofLe l)).drop (r.gpa % 8)).take r.len) := by
  rw [regAnswer_of_window at_ low high opened, read, regAt_window at_ low high (still.trans opened) read]
  rfl

theorem State.regAnswer_of_ecc {a : Nat} {e : ErrUnit} (opened : s.window r.fn = some (asid, pid, va))
    (read : (s.touchVa asid pid (va + (off - 0x12000)) 8).readVa asid pid (va + (off - 0x12000)) 8 = .error (.ecc a e)) :
    s.regAnswer r = (s.touchVa asid pid (va + (off - 0x12000)) 8).hostAbort r.fn pid r.gpa e := by
  rw [regAnswer_of_window at_ low high opened, read]
  rfl

end

end

/-- Completer Abort: the answer, and nothing of device memory. -/
theorem State.hostAbort_spec (s : State) (fn pid at_ : Nat) (u : ErrUnit) :
    ((s.hostAbort fn pid at_ u).fn fn).answer = [2] ∧ (s.hostAbort fn pid at_ u).dram = s.dram := by
  obtain ⟨k, hk⟩ := ((s.uncorrectable u).event_onlyFns pid 1 (toLe 8 at_ ++ toLe 1 fn)).trans (onFn_onlyFns _ fn fun f => { f with answer := [2] })
  constructor
  · exact congrArg Fn.answer (fn_onFn_self (f := fun f => { f with answer := [2] }) fun _ => rfl)
  · unfold hostAbort reply
    rw [hk]
    rfl

theorem State.exec_hostMemoryRequest_frozen (frozen : (s.fn r.fn).frozen = true) :
    exec (.hostMemoryRequest r) s = .next (s.onFn r.fn fun f => { f with answer := [1] }) := congrArg Host.Outcome.next (if_pos frozen)

section
variable (going : (s.fn r.fn).frozen = false)
include going

theorem State.exec_hostMemoryRequest_breach (wrong : s.wrongStream r = true) : exec (.hostMemoryRequest r) s =
    .next (({ s with agenda := .tdispBreach r.fn :: s.agenda } : State).onFn r.fn fun f => { f with answer := [1] }) :=
  congrArg Host.Outcome.next ((if_neg (by rw [going]; decide)).trans (if_pos wrong))

/-! ### Requests to the register block (R389) -/

section
variable (right : s.wrongStream r = false) (bar : r.bar = true)
include right bar

theorem State.exec_hostMemoryRequest_bar : exec (.hostMemoryRequest r) s = .next (match r.write with
    | some b => (s.registerWrite r.fn r.gpa (BitVec.ofNat 64 (ofLe b))).reply r.fn [0]
    | none => s.regAnswer r) :=
  congrArg Host.Outcome.next ((if_neg (by rw [going]; decide)).trans ((if_neg (by rw [right]; decide)).trans (if_pos bar)))

theorem State.exec_hostMemoryRequest_write {w : List Byte} {t : State} (writes : r.write = some w)
    (written : exec (.registerWrite r.fn r.gpa (BitVec.ofNat 64 (ofLe w))) s = .next t) :
    exec (.hostMemoryRequest r) s = .next (t.onFn r.fn fun f => { f with answer := [0] }) := by
  have eq : s.registerWrite r.fn r.gpa (BitVec.ofNat 64 (ofLe w)) = t := Host.Outcome.next.inj written
  rw [exec_hostMemoryRequest_bar going right bar, writes]
  dsimp only
  rw [eq, reply_eq]


theorem State.exec_hostMemoryRequest_reg (reads : r.write = none) : exec (.hostMemoryRequest r) s = .next (s.regAnswer r) := by
  rw [exec_hostMemoryRequest_bar going right bar, reads]

end

/-! ### Requests for device memory (R254, R256, R257, R385) -/

section
variable {n : Nat} {p : Part} (owner : (s.fn r.fn).pid = some n) (found : s.part n = some p) (bar : r.bar = false) (right : s.wrongStream r = false)
include owner found bar right

theorem State.exec_hostMemoryRequest_memory : exec (.hostMemoryRequest r) s =
    .next (if p.resetting && r.write.isSome then s.dropped r.fn else s.hostMemory r p) := by
  have acts : (s.fn r.fn).pid.bind s.part = some p := by rw [owner, Option.bind_some, found]
  refine congrArg Host.Outcome.next ((if_neg (by rw [going]; decide)).trans ((if_neg (by rw [right]; decide)).trans ((if_neg (by rw [bar]; decide)).trans ?_)))
  rw [acts]

theorem State.exec_hostMemoryRequest_resetting (resetting : p.resetting = true) (writes : r.write.isSome = true) :
    exec (.hostMemoryRequest r) s = .next (s.dropped r.fn) := by
  rw [exec_hostMemoryRequest_memory going owner found bar right, if_pos (by rw [resetting, writes]; rfl)]

section
variable (reads : r.write = none)
include reads

theorem State.exec_hostMemoryRequest_memory_read : exec (.hostMemoryRequest r) s = .next
    (match s.gpaPlaces p false r.gpa r.len with
    | none => s.reply r.fn [1]
    | some l =>
      match l.find? (s.poisoned ·) with
      | some pl => s.hostAbort r.fn p.pid r.gpa pl.unit
      | none =>
        if (s.hostPays r l).2.2 then ((s.hostPays r l).1.zeroFrames l).reply r.fn (0 :: l.flatMap fun pl => s.devRead pl 1) else (s.hostPays r l).1) := by
  rw [exec_hostMemoryRequest_memory going owner found bar right, if_neg (by rw [reads]; simp)]
  unfold hostMemory reqBytes
  rw [reads]
  rfl

theorem State.exec_hostMemoryRequest_refused (refused : s.gpaPlaces p false r.gpa r.len = none) :
    exec (.hostMemoryRequest r) s = .next (s.onFn r.fn fun f => { f with answer := [1] }) := by
  rw [exec_hostMemoryRequest_memory_read going owner found bar right reads, refused]
  rfl

variable {l : List Place} (placed : s.gpaPlaces p false r.gpa r.len = some l)
include placed

theorem State.exec_hostMemoryRequest_sound (sound : ∀ pl ∈ l, s.poisoned pl = false) : exec (.hostMemoryRequest r) s = .next
    (if (s.hostPays r l).2.2 then ((s.hostPays r l).1.zeroFrames l).onFn r.fn fun f => { f with answer := 0 :: l.flatMap fun pl => s.devRead pl 1 }
      else (s.hostPays r l).1) := by
  have none : l.find? (s.poisoned ·) = none := List.find?_eq_none.2 fun pl hpl => by rw [sound pl hpl]; decide
  rw [exec_hostMemoryRequest_memory_read going owner found bar right reads, placed]
  dsimp only
  rw [none]
  rfl

theorem State.exec_hostMemoryRequest_poisoned (bad : ∃ pl ∈ l, s.poisoned pl = true) : ∃ t, exec (.hostMemoryRequest r) s = .next t ∧
    (t.fn r.fn).answer = [2] ∧ t.dram = s.dram := by
  obtain ⟨pl, hpl⟩ := Option.isSome_iff_exists.1 (List.find?_isSome.2 bad)
  refine ⟨_, ?_, s.hostAbort_spec r.fn p.pid r.gpa pl.unit⟩
  rw [exec_hostMemoryRequest_memory_read going owner found bar right reads, placed]
  dsimp only
  rw [hpl]

end

theorem State.exec_hostMemoryRequest_memory_write {l : List Place} {w : List Byte} (still : p.resetting = false) (writes : r.write = some w)
    (placed : s.gpaPlaces p true r.gpa w.length = some l) : exec (.hostMemoryRequest r) s = .next
      (if (s.hostPays r l).2.2 then ((s.hostPays r l).1.writeSectors (s.hostPays r l).2.1 (l.zip w)).onFn r.fn fun f => { f with answer := [0] }
      else (s.hostPays r l).1.writeSectors (s.hostPays r l).2.1 (l.zip w)) := by
  rw [exec_hostMemoryRequest_memory going owner found bar right, if_neg (by rw [still]; simp)]
  unfold hostMemory reqBytes
  rw [writes]
  dsimp only [Option.isSome_some]
  rw [placed]
  rfl

end

end

end

theorem Fn.sendable_of_masked {f : Fn} {k : Fin 4} (masked : f.pend[k] = true → f.mask[k] = true) : f.sendable k = false := by
  unfold sendable
  cases h : f.pend[k] <;> simp [h] at masked ⊢
  simp [masked]

theorem Fn.sendable_of_frozen {f : Fn} {k : Fin 4} (frozen : f.frozen = true) : f.sendable k = false := by
  unfold sendable
  rw [frozen, Bool.not_true, Bool.and_false]

/-- Settles O48. -/
theorem functionRegisters : Obligations.FunctionRegisters := by
  refine ⟨fun s fn off x b idx => ⟨fun frozen i => State.exec_of_frozen frozen, fun hears virtual i => State.exec_of_virtual hears virtual,
      State.dropped_of_drop, State.dropped_signals, State.exec_registerWrite_status, State.exec_registerWrite_pfsel, fun none => ?_, fun waits => ?_,
      State.exec_msixCoalesceTimer_due, fun idle => ⟨fun masked => ?_, fun frozen => ?_, State.exec_msixCoalesceTimer_idle idle⟩, State.exec_functionLevelReset⟩,
    fun s fn idx off x b p hears acts => ⟨fun physical unlocked => ⟨fun opened => ?_, fun shut => ?_, ?_, ?_⟩, fun sound low high => ⟨?_, fun unnamed => ?_, fun named => ?_⟩,
      fun outside => ?_, fun good => ?_, fun bad => ?_, fun virtual q slot same own => ?_, fun shut => ?_, fun pid q => State.translate_of_dead,
      fun asid pid va t opened inside written => ?_⟩,
    fun s r => ⟨State.exec_hostMemoryRequest_frozen, fun going right bar => ⟨fun w t writes => State.exec_hostMemoryRequest_write going right bar writes,
      fun reads plain => ?_, fun asid pid va reads low high opened => ⟨fun l read still => ?_, fun a e read => ?_⟩⟩⟩,
    fun s r n p going owner found bar => ⟨State.exec_hostMemoryRequest_breach going, State.exec_hostMemoryRequest_resetting going owner found bar,
      fun l right reads placed sound => ⟨fun t now pays => ?_, fun t now pays => ?_⟩,
      fun l right reads placed bad => State.exec_hostMemoryRequest_poisoned going owner found bar right reads placed bad,
      fun l w right still writes placed => ⟨fun t now pays => ?_, fun t now pays => ?_⟩,
      fun right reads => State.exec_hostMemoryRequest_refused going owner found bar right reads⟩,
    fun s p w found busy free => ⟨fun h body => State.exec_whtCommandComplete_load found busy free,
      fun r u => State.exec_whtCommandComplete_failed found busy free, State.exec_whtCommandComplete_unload found busy free⟩⟩
  · exact congrArg Host.Outcome.next (if_neg (by rw [none]; decide))
  · exact congrArg Host.Outcome.next (if_pos waits)
  · exact State.exec_msixCoalesceTimer_of_unsendable idle fun k => Fn.sendable_of_masked (masked k)
  · exact State.exec_msixCoalesceTimer_of_unsendable idle fun k => Fn.sendable_of_frozen frozen
  · rw [State.exec_featwr hears acts physical unlocked, if_pos opened]
  · rw [State.exec_featwr hears acts physical unlocked, if_neg (by rw [shut]; decide)]
  · have loads := State.handleCommand_of_unlocked (idx := idx) hears acts physical unlocked (op := 0) (by omega)
    simp only [Nat.zero_mul, Nat.zero_add] at loads
    exact congrArg Host.Outcome.next loads
  · have unloads := State.handleCommand_of_unlocked (idx := idx) hears acts physical unlocked (op := 1) (by omega)
    simp only [Nat.one_mul] at unloads
    exact congrArg Host.Outcome.next unloads
  · exact congrArg Host.Outcome.next (State.asidWrite_of_good hears acts sound low high (set := true) (.inl rfl))
  · have free := (Bool.not_eq_true _).mp fun h => unnamed (State.named_iff.1 h)
    exact congrArg Host.Outcome.next (State.asidWrite_of_good hears acts sound low high (set := false) (.inr free))
  · exact congrArg Host.Outcome.next (State.asidWrite_of_bad hears acts (set := false) (.inr ⟨rfl, State.named_iff.2 named⟩))
  · have foreign : p.ownsAsid (x.extractLsb' 0 16).toNat = false := by
      unfold Part.ownsAsid
      simp only [Bool.and_eq_false_iff, decide_eq_false_iff_not]
      omega
    exact ⟨congrArg Host.Outcome.next (State.asidWrite_of_bad hears acts (set := true) (.inl foreign)),
      congrArg Host.Outcome.next (State.asidWrite_of_bad hears acts (set := false) (.inl foreign))⟩
  · rw [State.exec_invalidation hears acts, good]
    rfl
  · rw [State.exec_invalidation hears acts, bad]
    rfl
  · exact State.exec_dbgsel_of_virtual hears virtual slot (by rw [own, same])
  · rw [State.exec_rswin hears, shut]
  · rw [State.exec_rswin hears, opened]
    dsimp only
    rw [if_pos (by omega), written]
  · rw [State.exec_hostMemoryRequest_reg going right bar reads, State.regAnswer_of_plain rfl plain, State.reply_eq]
  · rw [State.exec_hostMemoryRequest_reg going right bar reads, State.regAnswer_of_read rfl low high opened read still, State.reply_eq]
  · rw [State.exec_hostMemoryRequest_reg going right bar reads, State.regAnswer_of_ecc rfl low high opened read]
    exact ⟨_, rfl, State.hostAbort_spec _ _ _ _ _⟩
  · rw [State.exec_hostMemoryRequest_sound going owner found bar right reads placed sound, pays]
    rfl
  · rw [State.exec_hostMemoryRequest_sound going owner found bar right reads placed sound, pays]
    rfl
  · rw [State.exec_hostMemoryRequest_memory_write going owner found bar right still writes placed, pays]
    rfl
  · rw [State.exec_hostMemoryRequest_memory_write going owner found bar right still writes placed, pays]
    rfl

end Sys2Proof.Machine
end

section
/-! PROOFS. Host commands on a launch slot, arming and placement -/

namespace Sys2Proof.Machine

/-! ## What a change of one launch slot leaves -/

/-- A launch slot stands as given; every other one, device memory and the isle in focus are as they were. -/
structure State.SlotTo (s : State) (n : Nat) (y : LSlot) (t : State) : Prop where
  self : t.slotAt n = y
  others : s.SlotsBut n t
  dram : t.dram = s.dram
  core : t.core = s.core

section
variable {s t u : State} {n : Nat} {x y : LSlot}

theorem State.SlotTo.trans (h : s.SlotTo n x t) (g : t.SlotTo n y u) : s.SlotTo n y u :=
  ⟨g.self, fun m hm => (g.others m hm).trans (h.others m hm), g.dram.trans h.dram, g.core.trans h.core⟩

theorem State.slotTo_of_slots (slots : t.slots = s.slots) (dram : t.dram = s.dram) (core : t.core = s.core) : s.SlotTo n (s.slotAt n) t := by
  have same (m : Nat) : t.slotAt m = s.slotAt m := by rw [slotAt, slots, slotAt]
  exact ⟨same n, fun m _ => same m, dram, core⟩

theorem State.SlotTo.still (h : s.SlotTo n y t) (slots : u.slots = t.slots) (dram : u.dram = t.dram) (core : u.core = t.core) : s.SlotTo n y u :=
  h.self ▸ h.trans (slotTo_of_slots slots dram core)

theorem State.onSlot_slotTo {f : LSlot → LSlot} (keep : ∀ x, x.n = n → (f x).n = n) (s : State) : s.SlotTo n (f (s.slotAt n)) (s.onSlot n f) := by
  obtain ⟨l, h⟩ := s.onSlot_eq n f
  exact ⟨s.slotAt_onSlot_same n f keep, fun m hm => s.slotAt_onSlot_other n m f keep hm, by rw [h], by rw [h]⟩

theorem State.SlotTo.onlyFns (h : s.SlotTo n y t) (g : t.OnlyFns u) : s.SlotTo n y u := by
  obtain ⟨l, rfl⟩ := g
  exact h.still rfl rfl rfl

theorem State.blame_slotTo (s : State) (n : Nat) (e : Option ErrUnit) : s.SlotTo n (s.slotAt n) (s.blame e) := by
  cases e <;> exact slotTo_of_slots rfl rfl rfl

/-- What an event that leaves a slot so answers. -/
theorem State.SlotTo.after {i : Instr} (h : s.SlotTo n y t) (ran : exec i s = .next t) :
    ∃ t, exec i s = .next t ∧ t.slotAt n = y ∧ s.SlotsBut n t ∧ t.dram = s.dram ∧ t.core = s.core := ⟨t, ran, h.self, h.others, h.dram, h.core⟩

theorem State.OnlyFrames.slots (h : s.OnlyFrames t) : t.slots = s.slots := by
  obtain ⟨_, _, _, rfl⟩ := h
  rfl

theorem State.OnlyFrames.slotAt (h : s.OnlyFrames t) : t.slotAt n = s.slotAt n := by rw [State.slotAt, h.slots, State.slotAt]

/-- The same where frames of device memory have been zeroed before (R258). -/
theorem State.SlotTo.from_frames {i : Instr} (h : u.SlotTo n y t) (frames : s.OnlyFrames u) (ran : exec i s = .next t) :
    ∃ t, exec i s = .next t ∧ t.slotAt n = y ∧ s.SlotsBut n t ∧ t.dram = u.dram ∧ t.core = s.core := by
  refine ⟨t, ran, h.self, fun m hm => (h.others m hm).trans frames.slotAt, h.dram, h.core.trans ?_⟩
  obtain ⟨_, _, _, rfl⟩ := frames
  rfl

/-- A slot without a context enters FAULTED. -/
theorem State.faultSlot_slotTo {fcause freason : Nat} (none : (s.slotAt n).cbar = 0) :
    s.SlotTo n { s.slotAt n with st := .faulted, fcause := fcause, freason := freason } (s.faultSlot n fcause freason) := by
  have first := onSlot_slotTo (n := n) (f := fun x => { x with st := .faulted, fcause := fcause, freason := freason }) (fun _ h => h) s
  unfold faultSlot
  rw [arriveCbar_of_zero (by rw [first.self]; exact none)]
  exact first.onlyFns (signalSlot_onlyFns _ n)

/-- The slot of a suspended context that ends. -/
theorem State.endContext_slotTo {fcause freason : Nat} (none : (s.slotAt n).cbar = 0) :
    s.SlotTo n { s.slotAt n with st := .faulted, fcause := fcause, freason := freason, dying := .none, savedMid := false }
      (s.endContext n fcause freason) := by
  let t : State :=
    { s with
      saved := s.saved.filter (·.ctx.slot != n)
      ops := s.ops.filter (·.slot != n)
      contribs := s.contribs.filter fun c => c.origin.isNone || c.who.1 != n
      socks := s.socks.map fun x => { x with parked := x.parked.filter fun q => q.slot != n } }
  have first := onSlot_slotTo (n := n)
    (f := fun x => { x with st := .faulted, fcause := fcause, freason := freason, dying := .none, savedMid := false }) (fun _ h => h) t
  have there := (slotTo_of_slots (s := s) (t := t) (n := n) rfl rfl rfl).trans first
  unfold endContext
  dsimp only
  rw [arriveCbar_of_zero (by rw [there.self]; exact none)]
  obtain ⟨a, h⟩ := clearAsid_eq (t.onSlot n fun x => { x with st := .faulted, fcause := fcause, freason := freason, dying := .none, savedMid := false }) n
  refine State.SlotTo.onlyFns ?_ (signalSlot_onlyFns _ n)
  rw [h]
  exact there.still rfl rfl rfl

end

/-! ## Host commands (R264, R336, R337, R397) -/

section
variable {s : State} {fn slot : Nat} {i : Instr} {k : State → State}

theorem State.inOrder_of_free (free : s.hostWrites (fun r => portOf r.fn == portOf fn) = false) : s.inOrder fn i k = k s :=
  if_neg (by rw [free, Bool.and_false]; decide)

theorem State.inOrder_of_frozen (frozen : (s.fn fn).frozen = true) : s.inOrder fn i k = k s := if_neg (by rw [frozen]; simp)

/-- A command behind a host write that waits waits with it. -/
theorem State.inOrder_of_waiting (going : (s.fn fn).frozen = false) (waits : s.hostWrites (fun r => portOf r.fn == portOf fn) = true) :
    s.inOrder fn i k = { s with waits := s.waits ++ [i] } := if_pos (by rw [going, waits]; rfl)

theorem State.command_of_frozen {ok : LSlot → Bool} (frozen : (s.fn fn).frozen = true) : s.command fn slot ok k = s := if_pos frozen

section
variable (reaches : s.Reaches fn slot)
include reaches

theorem State.inOrder_of_reaches : s.inOrder fn i k = k s := inOrder_of_free reaches.2.2

theorem State.command_of_reaches {ok : LSlot → Bool} : s.command fn slot ok k = if ok (s.slotAt slot) then k s else s.dropped fn := by
  obtain ⟨going, commands, -⟩ := reaches
  rw [command, if_neg (by rw [going]; decide), commands, Bool.true_and]

theorem State.command_of_ok {ok : LSlot → Bool} (fits : ok (s.slotAt slot) = true) : s.command fn slot ok k = k s := by
  rw [command_of_reaches reaches, if_pos fits]

theorem State.command_of_not {ok : LSlot → Bool} (unfit : ok (s.slotAt slot) = false) : s.command fn slot ok k = s.dropped fn := by
  rw [command_of_reaches reaches, if_neg (by rw [unfit]; decide)]

end

theorem State.closeFeatures_slotTo (s : State) (n : Nat) : s.SlotTo n (s.slotAt n) (s.closeFeatures n) := by
  unfold closeFeatures
  split <;> exact slotTo_of_slots rfl rfl rfl

/-- A slot armed. -/
def LSlot.arms (x : LSlot) : LSlot := { x with st := .armed, checked := false, found := none, dep0 := false, dep1 := false, savedMid := false }

theorem State.arm_slotTo {f : LSlot → LSlot} (keep : ∀ x, (f x).n = x.n) (s : State) (n : Nat) : s.SlotTo n (f (s.slotAt n)).arms (s.arm n f) := by
  have first := s.closeFeatures_slotTo n
  have armed := onSlot_slotTo (n := n) (f := fun x => (f x).arms) (fun x h => (keep x).trans h) (s.closeFeatures n)
  rw [first.self] at armed
  exact (first.trans armed).still rfl rfl rfl

section
variable (reaches : s.Reaches fn slot)
include reaches

/-- SET to ARMED. -/
theorem State.exec_arm (fits : (s.slotAt slot).st = .free ∨ (s.slotAt slot).st = .writing ∧ (s.slotAt slot).wfn = fn) :
    ∃ t, exec (.slotSet fn slot 2) s = .next t ∧ s.SlotTo slot (if (s.slotAt slot).st = .free then { s.slotAt slot with wfn := fn } else s.slotAt slot).arms t := by
  refine ⟨_, congrArg Host.Outcome.next ((inOrder_of_reaches reaches).trans (command_of_ok reaches ?_)),
    arm_slotTo (f := fun x => if x.st = .free then { x with wfn := fn } else x) (fun x => ?_) s slot⟩
  · rcases fits with h | ⟨h, g⟩
    · simp [h]
    · simp [h, g]
  · split <;> rfl

/-- SET to FREE. -/
theorem State.exec_free (fits : (s.slotAt slot).st = .retired ∨ (s.slotAt slot).st = .faulted ∨ (s.slotAt slot).st = .writing ∧ (s.slotAt slot).wfn = fn) :
    ∃ t, exec (.slotSet fn slot 0) s = .next t ∧ s.SlotTo slot { n := slot } t := by
  refine ⟨_, congrArg Host.Outcome.next ((inOrder_of_reaches reaches).trans (command_of_ok reaches ?_)),
    (onSlot_slotTo (n := slot) (f := fun _ => { n := slot }) (fun _ _ => rfl) s).still rfl rfl rfl⟩
  rcases fits with h | h | ⟨h, g⟩
  · simp [h]
  · simp [h]
  · simp [h, g]

/-- One byte of a record. -/
theorem State.exec_hostRecordWrite {off : Nat} {b : Byte} (low : 8 ≤ off) (high : off < 128)
    (fits : (s.slotAt slot).st = .free ∨ (s.slotAt slot).st = .writing ∧ (s.slotAt slot).wfn = fn) :
    ∃ t, exec (.hostRecordWrite fn slot off b) s = .next t ∧ s.SlotTo slot { s.slotAt slot with
      st := .writing, wfn := if (s.slotAt slot).st = .free then fn else (s.slotAt slot).wfn, record := (s.slotAt slot).record.wr off b } t := by
  have first := s.closeFeatures_slotTo slot
  have written := onSlot_slotTo (n := slot)
    (f := fun y => { y with st := .writing, wfn := if y.st = .free then fn else y.wfn, record := y.record.wr off b }) (fun _ h => h) (s.closeFeatures slot)
  rw [first.self] at written
  refine ⟨_, congrArg Host.Outcome.next ((inOrder_of_reaches reaches).trans (command_of_ok reaches ?_)), first.trans written⟩
  rcases fits with h | ⟨h, g⟩
  · simp [h, low, high]
  · simp [h, g, low, high]

end

/-! ### SUSPEND, RESUME and KILL -/

/-- States in which a slot takes SUSPEND, RESUME and KILL (R337). -/
def SlotSt.held (t : SlotSt) : Bool := [SlotSt.armed, .ready, .placed, .running, .suspending, .suspended].contains t

theorem SlotSt.held_iff (t : SlotSt) : t.held = true ↔ t = .armed ∨ t = .ready ∨ t = .placed ∨ t = .running ∨ t = .suspending ∨ t = .suspended := by
  cases t <;> simp [held]

@[simp] theorem LSlot.request_st (x : LSlot) (on : Bool) : (x.request fn on).st = x.st := by
  unfold request
  split <;> rfl

@[simp] theorem LSlot.request_n (x : LSlot) (on : Bool) : (x.request fn on).n = x.n := by
  unfold request
  split <;> rfl

@[simp] theorem LSlot.request_rid (x : LSlot) (on : Bool) : (x.request fn on).rid = x.rid := by
  unfold request
  split <;> rfl

@[simp] theorem LSlot.request_prio (x : LSlot) (on : Bool) : (x.request fn on).prio = x.prio := by
  unfold request
  split <;> rfl

section
variable (reaches : s.Reaches fn slot)
include reaches

theorem State.exec_of_unheld (unheld : (s.slotAt slot).st.held = false) : exec (.kill fn slot) s = .next (s.dropped fn) ∧
    exec (.suspend fn slot) s = .next (s.dropped fn) ∧ exec (.resume fn slot) s = .next (s.dropped fn) :=
  ⟨congrArg Host.Outcome.next ((inOrder_of_reaches reaches).trans (command_of_not reaches unheld)),
    congrArg Host.Outcome.next ((inOrder_of_reaches reaches).trans (command_of_not reaches unheld)),
    congrArg Host.Outcome.next ((inOrder_of_reaches reaches).trans (command_of_not reaches unheld))⟩

variable (held : (s.slotAt slot).st.held = true)
include held

theorem State.exec_suspend : exec (.suspend fn slot) s = .next
    (let t := s.onSlot slot (·.request fn true)
    match (s.slotAt slot).st with
    | .ready => t.onSlot slot fun x => { x with st := .suspended }
    | .placed => t.beginSuspend slot
    | .running => t.beginSuspend slot
    | .suspended => s
    | _ => t) := congrArg Host.Outcome.next ((inOrder_of_reaches reaches).trans (command_of_ok reaches held))

theorem State.exec_resume : exec (.resume fn slot) s = .next ((s.onSlot slot (·.request fn false)).unsuspend slot) :=
  congrArg Host.Outcome.next ((inOrder_of_reaches reaches).trans (command_of_ok reaches held))

theorem State.exec_kill : exec (.kill fn slot) s = .next (s.killSlot slot) :=
  congrArg Host.Outcome.next ((inOrder_of_reaches reaches).trans (command_of_ok reaches held))

end

theorem State.request_slotTo (s : State) (on : Bool) : s.SlotTo slot ((s.slotAt slot).request fn on) (s.onSlot slot (·.request fn on)) :=
  onSlot_slotTo (f := (·.request fn on)) (fun x h => (x.request_n on).trans h) s

/-- What leaves a slot SUSPENDED where no requester holds it. -/
def LSlot.unheld (x : LSlot) (now : Nat) : LSlot := if x.st = .suspended ∧ !x.wanted then x.enterReady now else x

@[simp] theorem LSlot.unheld_n (x : LSlot) (now : Nat) : (x.unheld now).n = x.n := by
  unfold unheld
  split <;> rfl

theorem State.resume_slotTo (s : State) : s.SlotTo slot (((s.slotAt slot).request fn false).unheld s.now) ((s.onSlot slot (·.request fn false)).unsuspend slot) := by
  have first := request_slotTo (fn := fn) (slot := slot) s false
  have time : (s.onSlot slot (·.request fn false)).now = s.now := by
    obtain ⟨l, h⟩ := s.onSlot_eq slot (·.request fn false)
    rw [h]
  have left := onSlot_slotTo (n := slot) (f := (·.unheld s.now)) (fun x h => (x.unheld_n s.now).trans h) (s.onSlot slot (·.request fn false))
  rw [first.self] at left
  unfold unsuspend
  rw [time]
  exact first.trans left

/-! ### A suspension begins (R344) -/

section
variable {n : Nat}

/-- What the beginning of a suspension does to the launch table and the region. -/
def State.asked (s : State) (n : Nat) : State :=
  (s.onSlot n fun x => { x with st := .suspending }).onRegion (s.slotAt n).rid fun r =>
    { r with preempt := if r.preempt.contains n then r.preempt else r.preempt ++ [n] }

/-- The bounds of R50 run anew. -/
def State.timed (s : State) : State := s.onCtx fun c => { c with sinceSafe := 0, overdue := 0, reqAt := s.now }

theorem State.beginSuspend_eq (s : State) (n : Nat) : s.beginSuspend n =
    { (if s.pressed n then s.asked n else (s.asked n).withSlot n timed) with agenda := (s.asked n).agenda ++ [.suspensionRequest n] } := rfl

theorem State.asked_slotTo (s : State) (n : Nat) : s.SlotTo n { s.slotAt n with st := .suspending } (s.asked n) :=
  (onSlot_slotTo (n := n) (f := fun x => { x with st := .suspending }) (fun _ h => h) s).still rfl rfl rfl

theorem State.timed_onlyContexts (t : State) : t.OnlyContexts t.timed := t.onCtx_onlyContexts _

theorem State.asked_onlyContexts (s : State) (n : Nat) : (s.asked n).OnlyContexts (if s.pressed n then s.asked n else (s.asked n).withSlot n timed) :=
  .ite .refl (withSlot_onlyContexts n timed_onlyContexts _)

/-- Nothing but the launch table and the regions differs. -/
theorem State.asked_eq (s : State) (n : Nat) : ∃ l r, s.asked n = { s with slots := l, regions := r } := by
  obtain ⟨l, h⟩ := s.onSlot_eq n fun x => { x with st := .suspending }
  exact ⟨l, _, by rw [asked, h]; rfl⟩

theorem State.beginSuspend_dram (s : State) (n : Nat) : (s.beginSuspend n).dram = s.dram := (asked_onlyContexts s n).dram.trans (asked_slotTo s n).dram

theorem State.beginSuspend_others (s : State) (n : Nat) : s.SlotsBut n (s.beginSuspend n) := fun m hm =>
  (asked_onlyContexts s n).slotAt.trans ((asked_slotTo s n).others m hm)

theorem State.beginSuspend_slotTo_of_gone (gone : s.hasCtx n = false) : s.SlotTo n { s.slotAt n with st := .suspending } (s.beginSuspend n) := by
  have still : (if s.pressed n then s.asked n else (s.asked n).withSlot n timed) = s.asked n := by
    obtain ⟨l, r, h⟩ := s.asked_eq n
    have gone : ¬ (s.asked n).hasCtx n = true := by
      rw [h]
      change ¬ s.hasCtx n = true
      rw [gone]
      decide
    split
    · rfl
    · exact if_neg gone
  rw [beginSuspend_eq, still]
  exact (asked_slotTo s n).still rfl rfl rfl

theorem State.region_beginSuspend {g : Region} (there : s.region (s.slotAt n).rid = some g) :
    ∃ h, (s.beginSuspend n).region (s.slotAt n).rid = some h ∧ n ∈ h.preempt ∧ h.act = g.act := by
  have asks : (s.asked n).region (s.slotAt n).rid = some { g with preempt := if g.preempt.contains n then g.preempt else g.preempt ++ [n] } := by
    unfold asked
    refine (region_onRegion_self (f := fun r => { r with preempt := if r.preempt.contains n then r.preempt else r.preempt ++ [n] }) fun _ => rfl).trans ?_
    obtain ⟨l, h⟩ := s.onSlot_eq n fun x => { x with st := .suspending }
    rw [h]
    change (s.region _).map _ = _
    rw [there]
    rfl
  refine ⟨_, (asked_onlyContexts s n).region.trans asks, ?_, rfl⟩
  dsimp only
  split
  · next h => simpa using h
  · simp

theorem State.beginSuspend_of_focus (live : s.ctx.live = true) (own : s.ctx.slot = n) : (s.beginSuspend n).core = s.core ∧
    (s.pressed n = false → (s.beginSuspend n).ctx = { s.ctx with sinceSafe := 0, overdue := 0, reqAt := s.now }) := by
  obtain ⟨l, r, h⟩ := s.asked_eq n
  have fresh : (s.asked n).withSlot n timed = (s.asked n).timed := by
    subst own
    rw [h]
    exact withSlot_self (s := { s with slots := l, regions := r }) live
  rw [beginSuspend_eq, fresh]
  constructor
  · rw [h]
    split <;> rfl
  · intro unpressed
    rw [if_neg (by rw [unpressed]; decide), h]
    rfl

end

/-- SUSPEND of a slot that is PLACED or RUNNING. -/
theorem State.exec_suspend_of_placed (reaches : s.Reaches fn slot) (placed : (s.slotAt slot).st = .placed ∨ (s.slotAt slot).st = .running) :
    exec (.suspend fn slot) s = .next ((s.onSlot slot (·.request fn true)).beginSuspend slot) := by
  rw [exec_suspend reaches ((SlotSt.held_iff _).2 (by rcases placed with h | h <;> simp [h]))]
  rcases placed with h | h <;> rw [h]

theorem State.exec_suspend_of_gone (reaches : s.Reaches fn slot) (placed : (s.slotAt slot).st = .placed ∨ (s.slotAt slot).st = .running)
    (gone : s.hasCtx slot = false) :
    ∃ t, exec (.suspend fn slot) s = .next t ∧ s.SlotTo slot { (s.slotAt slot).request fn true with st := .suspending } t := by
  have first := request_slotTo (fn := fn) (slot := slot) s true
  have gone' : (s.onSlot slot (·.request fn true)).hasCtx slot = false := by
    obtain ⟨l, h⟩ := s.onSlot_eq slot (·.request fn true)
    rw [h]
    exact gone
  have last := beginSuspend_slotTo_of_gone gone'
  rw [first.self] at last
  exact ⟨_, exec_suspend_of_placed reaches placed, first.trans last⟩

theorem State.exec_suspend_of_there (reaches : s.Reaches fn slot) (placed : (s.slotAt slot).st = .placed ∨ (s.slotAt slot).st = .running) :
    ∃ t, exec (.suspend fn slot) s = .next t ∧ t.slotAt slot = { (s.slotAt slot).request fn true with st := .suspending } ∧ s.SlotsBut slot t ∧
      t.dram = s.dram ∧ (s.ctx.live = true → s.ctx.slot = slot → t.core = s.core) ∧ .suspensionRequest slot ∈ t.agenda ∧
      (∀ g, s.region (s.slotAt slot).rid = some g → ∃ h, t.region (s.slotAt slot).rid = some h ∧ slot ∈ h.preempt ∧ h.act = g.act) ∧
      (s.pressed slot = false → s.ctx.live = true → s.ctx.slot = slot → t.ctx = { s.ctx with sinceSafe := 0, overdue := 0, reqAt := s.now }) := by
  let u := s.onSlot slot (·.request fn true)
  have first : s.SlotTo slot ((s.slotAt slot).request fn true) u := request_slotTo s true
  obtain ⟨l, h⟩ : ∃ l, u = { s with slots := l } := s.onSlot_eq slot (·.request fn true)
  have rid : (u.slotAt slot).rid = (s.slotAt slot).rid := by rw [first.self, LSlot.request_rid]
  have focus (live : s.ctx.live = true) (own : s.ctx.slot = slot) := beginSuspend_of_focus (s := u) (n := slot) (by rw [h]; exact live) (by rw [h]; exact own)
  refine ⟨_, exec_suspend_of_placed reaches placed, ?_, fun m hm => (u.beginSuspend_others slot m hm).trans (first.others m hm),
    (u.beginSuspend_dram slot).trans first.dram, fun live own => (focus live own).1.trans first.core, ?_, fun g there => ?_, fun unpressed live own => ?_⟩
  · rw [slotAt_beginSuspend, first.self]
  · rw [beginSuspend_eq]
    exact List.mem_append_right _ List.mem_cons_self
  · have asks := region_beginSuspend (s := u) (n := slot) (g := g) (by rw [rid, h]; exact there)
    rw [rid] at asks
    exact asks
  · have same : u.ctx = s.ctx ∧ u.now = s.now ∧ u.pressed slot = s.pressed slot := by
      rw [h]
      exact ⟨rfl, rfl, rfl⟩
    obtain ⟨ctx, now, pressed⟩ := same
    rw [(focus live own).2 (pressed.trans unpressed), ctx, now]

end

/-! ## Arming and placement (R336, R338, R339, R342) -/

theorem State.touchVa_onlyFrames (s : State) (asid pid va n : Nat) : s.OnlyFrames (s.touchVa asid pid va n) := s.touchAll_onlyFrames asid pid _ n

/-- Ranges read one after the other. -/
theorem State.foldl_touchVa_onlyFrames {α : Type} (asid pid : Nat) (va n : α → Nat) (l : List α) (s : State) :
    s.OnlyFrames (l.foldl (fun s r => s.touchVa asid pid (va r) (n r)) s) := by
  induction l generalizing s with
  | nil => exact .refl
  | cons r l ih => exact (s.touchVa_onlyFrames _ _ _ _).trans (ih _)

section
variable {s : State} {p : Part} {x : LSlot} {slot : Nat}

theorem State.armTouch_onlyFrames (s : State) (p : Part) (x : LSlot) : s.OnlyFrames (s.armTouch p x) :=
  foldl_touchVa_onlyFrames x.asid p.pid Prod.fst Prod.snd _ s

theorem State.imageTouch_onlyFrames (s : State) (x : LSlot) (p : Part) : s.OnlyFrames (s.imageTouch x p) :=
  foldl_touchVa_onlyFrames x.asid p.pid (fun r : Nat × Nat => (x.chosen + r.1) % 2 ^ 64) Prod.snd _ s

theorem State.depTouch_onlyFrames (s : State) (p : Part) (x : LSlot) : s.OnlyFrames (s.depTouch p x) :=
  foldl_touchVa_onlyFrames x.asid p.pid id (fun _ => 1) _ s

theorem State.OnlyFrames.now {s t : State} (h : s.OnlyFrames t) : t.now = s.now := by
  obtain ⟨_, _, _, rfl⟩ := h
  rfl

theorem State.n_slotAt (s : State) (n : Nat) : (s.slotAt n).n = n := by
  unfold slotAt
  cases found : s.slots.find? (·.n == n) with
  | none => rfl
  | some y => simpa using List.find?_some found

/-- A read that fails blames its unit, and the slot enters FAULTED. -/
theorem State.blame_faultSlot_slotTo {freason : Nat} {e : Option ErrUnit} (none : (s.slotAt slot).cbar = 0) :
    s.SlotTo slot { s.slotAt slot with st := .faulted, fcause := 0, freason := freason } ((s.blame e).faultSlot slot 0 freason) := by
  have first := s.blame_slotTo slot e
  have last := faultSlot_slotTo (s := s.blame e) (n := slot) (fcause := 0) (freason := freason) (by rw [first.self]; exact none)
  rw [first.self] at last
  exact first.trans last

/-! ### DEPENDENCE_SATISFIED -/

/-- A slot whose dependences have been looked at. -/
def LSlot.depends (x : LSlot) (now : Nat) (d0 d1 : Bool) : LSlot :=
  let x := { x with dep0 := d0, dep1 := d1 }
  if d0 && d1 then (if x.wanted then { x with st := .suspended } else x.enterReady now) else x

@[simp] theorem LSlot.depends_n (x : LSlot) (now : Nat) (d0 d1 : Bool) : (x.depends now d0 d1).n = x.n := by
  unfold depends
  dsimp only
  split
  · split <;> rfl
  · rfl

theorem State.depends_slotTo (s : State) (n now : Nat) (d0 d1 : Bool) :
    s.SlotTo n ((s.slotAt n).depends now d0 d1) (s.onSlot n fun x => x.depends now d0 d1) :=
  onSlot_slotTo (fun x h => (x.depends_n now d0 d1).trans h) s

/-- The dependences of a slot `x` looked at, its image found as `y` says. -/
def State.looked (s : State) (slot : Nat) (x y : LSlot) : State :=
  match s.lookDep x 0, s.lookDep x 1 with
  | .ok a, .ok b => (s.onSlot slot fun _ => y).onSlot slot fun x => x.depends (s.onSlot slot fun _ => y).now a b
  | .error r, _ => (s.blame r.2).faultSlot slot 0 r.1
  | _, .error r => (s.blame r.2).faultSlot slot 0 r.1

/-- The image of a slot read, then its dependences. -/
def State.imaged (s : State) (p : Part) (slot : Nat) (x y : LSlot) : State :=
  match s.armLoad p y with
  | .error r => (s.blame r.2).faultSlot slot 0 r.1
  | .ok z => (s.depTouch p x).looked slot x z

/-- The checks of arming made, then the image read. -/
def State.armChecked (s : State) (p : Part) (slot : Nat) (x : LSlot) : State :=
  match s.armCheck p x with
  | .error r => (s.blame r.2).faultSlot slot 0 r.1
  | .ok va => (s.imageTouch { x with checked := true, chosen := va } p).imaged p slot x { x with checked := true, chosen := va }

section
variable (found : s.partOfSlot slot = some p) (armed : (s.slotAt slot).st = .armed)
include found armed

/-- A slot that has been checked before. -/
theorem State.exec_dependenceSatisfied_checked (checked : (s.slotAt slot).checked = true) (dep0 : (s.slotAt slot).dep0 = true)
    (dep1 : (s.slotAt slot).dep1 = true) : exec (.dependenceSatisfied slot) s = .next (s.onSlot slot fun x => x.depends s.now true true) := by
  change Host.Outcome.next (s.tryReady slot) = _
  unfold tryReady
  dsimp only
  rw [found]
  dsimp only
  rw [if_neg (by simp [armed]), if_pos checked, dep0, dep1]
  rfl

theorem State.exec_dependenceSatisfied_first (unchecked : (s.slotAt slot).checked = false) :
    exec (.dependenceSatisfied slot) s = .next ((s.armTouch p (s.slotAt slot)).armChecked p slot (s.slotAt slot)) := by
  change Host.Outcome.next (s.tryReady slot) = _
  unfold tryReady
  extract_lets x
  rw [found]
  change Host.Outcome.next (if x.st ≠ .armed then s else _) = _
  rw [if_neg (by simpa using armed)]
  refine congrArg Host.Outcome.next ((if_neg (by simpa using unchecked)).trans ?_)
  extract_lets u
  change _ = u.armChecked p slot x
  clear_value u x
  unfold armChecked
  cases u.armCheck p x with
  | error r => rfl
  | ok va =>
    dsimp only
    generalize ({ x with checked := true, chosen := va } : LSlot) = y
    generalize u.imageTouch y p = v
    unfold imaged
    cases v.armLoad p y with
    | error r => rfl
    | ok z =>
      dsimp only
      generalize v.depTouch p x = w
      unfold looked
      cases w.lookDep x 0 <;> cases w.lookDep x 1 <;> rfl

end

theorem State.armChecked_of_error {r : Turned} (h : s.armCheck p x = .error r) : s.armChecked p slot x = (s.blame r.2).faultSlot slot 0 r.1 := by
  rw [armChecked, h]

theorem State.armChecked_of_ok {va : Nat} (h : s.armCheck p x = .ok va) : s.armChecked p slot x =
    (s.imageTouch { x with checked := true, chosen := va } p).imaged p slot x { x with checked := true, chosen := va } := by rw [armChecked, h]

theorem State.imaged_of_error {r : Turned} {y : LSlot} (h : s.armLoad p y = .error r) : s.imaged p slot x y = (s.blame r.2).faultSlot slot 0 r.1 := by
  rw [imaged, h]

theorem State.imaged_of_ok {y z : LSlot} (h : s.armLoad p y = .ok z) : s.imaged p slot x y = (s.depTouch p x).looked slot x z := by rw [imaged, h]

theorem State.looked_of_error {r : Turned} {y : LSlot}
    (h : s.lookDep x 0 = .error r ∨ (∃ a, s.lookDep x 0 = .ok a) ∧ s.lookDep x 1 = .error r) :
    s.looked slot x y = (s.blame r.2).faultSlot slot 0 r.1 := by
  rcases h with h | ⟨⟨a, h⟩, g⟩
  · rw [looked, h]
  · rw [looked, h, g]

/-- Both dependences have been looked at. -/
theorem State.looked_slotTo {y : LSlot} {a b : Bool} (h0 : s.lookDep x 0 = .ok a) (h1 : s.lookDep x 1 = .ok b) (own : y.n = slot) :
    s.SlotTo slot (y.depends s.now a b) (s.looked slot x y) := by
  have first := onSlot_slotTo (n := slot) (f := fun _ => y) (fun _ _ => own) s
  have last := depends_slotTo (s.onSlot slot fun _ => y) slot (s.onSlot slot fun _ => y).now a b
  have time : (s.onSlot slot fun _ => y).now = s.now := by
    obtain ⟨l, h⟩ := s.onSlot_eq slot fun _ => y
    rw [h]
  rw [first.self, time] at last
  rw [looked, h0, h1]
  dsimp only
  rw [time]
  exact first.trans last

/-- What the loader's reads keep of a slot. -/
theorem State.armLoad_eq {y : LSlot} (h : s.armLoad p x = .ok y) : y = { x with found := some (s.loadImage x p).toOption } := by
  unfold armLoad at h
  split at h
  · cases h
  · exact (Except.ok.inj h).symm

/-! ### PLACEMENT -/

theorem State.takeWhile_of_head {l : List LSlot} (first : l.head? = some x) (own : x.n = slot) : l.takeWhile (·.n != slot) = [] := by
  obtain ⟨l', rfl⟩ := List.head?_eq_some_iff.1 first
  rw [List.takeWhile_cons, if_neg (by simp [own])]

/-- A slot that is not to be placed. -/
theorem State.exec_placement_of_not (found : s.partOfSlot slot = some p) (idle : p.placing (s.slotAt slot) = false) :
    exec (.placement slot) s = .next s := by
  change execPlacement slot s = _
  unfold execPlacement
  rw [found]
  exact congrArg Host.Outcome.next (if_pos (.inl (by rw [idle]; rfl)))

section
variable (found : s.partOfSlot slot = some p) (placing : p.placing (s.slotAt slot) = true) (first : (s.passOrder p).head? = some (s.slotAt slot))
include found placing first

/-- The image of a slot read before the first attempt. -/
def State.attempted (s : State) (p : Part) (x : LSlot) : State := if x.image.isNone && x.found.isNone then s.imageTouch x p else s

omit found placing first in
theorem State.attempted_onlyFrames (s : State) (p : Part) (x : LSlot) : s.OnlyFrames (s.attempted p x) := by
  unfold attempted
  split
  · exact s.imageTouch_onlyFrames x p
  · exact .refl

theorem State.exec_placement {u : State} (touched : s.attempted p (s.slotAt slot) = u) : exec (.placement slot) s = .next
    (match u.attempt p (s.slotAt slot) with
    | .reject r => if (u.blame r.2).saved.any (·.ctx.slot == slot) then (u.blame r.2).endContext slot 0 r.1 else (u.blame r.2).faultSlot slot 0 r.1
    | .pass i => u.onSlot slot fun x => { x with image := some i }
    | .plan i q => (u.placeAt (s.slotAt slot) p i q).requestSwitch q.region.rid) := by
  subst touched
  change execPlacement slot s = _
  unfold execPlacement
  rw [found]
  refine congrArg Host.Outcome.next ((if_neg ?_).trans rfl)
  rw [takeWhile_of_head first (s.n_slotAt slot), placing]
  simp

end

/-- A switch requested of a region changes contexts and regions alone. -/
theorem State.slotAt_requestSwitch (s : State) (rid n : Nat) : (s.requestSwitch rid).slotAt n = s.slotAt n := by
  unfold requestSwitch
  split
  · rfl
  · split
    · rfl
    · dsimp only
      split
      · exact (withSlot_onlyContexts (f := fun s => s.onCtx fun c => { c with sinceSafe := 0, overdue := 0, reqAt := s.now }) _
          (fun t => t.onCtx_onlyContexts _) _).slotAt
      · rfl

/-- What a placement leaves of its slot. -/
theorem State.slotAt_placeAt {i : Image} {q : Plan} {v : State} (brought : s.bringIn x p i q = .ok v) (own : x.n = slot) :
    ∃ e, (s.placeAt x p i q).slotAt slot = { v.slotAt slot with
      st := .placed, rid := q.region.rid, die := q.region.die, ctx := q.ctxid.val, eprio := e, image := some i, savedMid := false } := by
  unfold placeAt
  rw [brought, own]
  exact ⟨_, slotAt_onSlot_self (g := fun x => { x with
    st := .placed, rid := q.region.rid, die := q.region.die, ctx := q.ctxid.val, eprio := x.effective v.now, image := some i, savedMid := false }) fun _ => rfl⟩

end

/-- A slot that has been READY shows its level (R341). -/
theorem State.exec_eprioAging {s : State} {slot : Nat} (ready : (s.slotAt slot).st = .ready) :
    exec (.eprioAging slot) s = .next (s.onSlot slot fun x => { x with eprio := x.effective s.now }) := congrArg Host.Outcome.next (if_pos ready)

/-! ### The commands by state -/

section
variable {s : State} {n fn slot : Nat} {i : Instr} {y z : LSlot}

/-- An event that leaves a slot as given. -/
theorem State.after_of (h : ∃ t, exec i s = .next t ∧ s.SlotTo n y t) (eq : y = z) :
    ∃ t, exec i s = .next t ∧ t.slotAt n = z ∧ s.SlotsBut n t ∧ t.dram = s.dram ∧ t.core = s.core := by
  obtain ⟨t, ran, leaves⟩ := h
  exact eq ▸ leaves.after ran

/-- The same where frames of device memory have been zeroed before (R258). -/
theorem State.from_of {t u : State} (frames : s.OnlyFrames u) (ran : exec i s = .next t) (h : u.SlotTo n y t) (eq : y = z) :
    ∃ t, exec i s = .next t ∧ t.slotAt n = z ∧ s.SlotsBut n t ∧ t.dram = u.dram ∧ t.core = s.core := eq ▸ h.from_frames frames ran

theorem State.OnlyFrames.saved {t : State} (h : s.OnlyFrames t) : t.saved = s.saved := by
  obtain ⟨_, _, _, rfl⟩ := h
  rfl

theorem State.saved_blame (s : State) (e : Option ErrUnit) : (s.blame e).saved = s.saved := by
  cases e <;> rfl

theorem LSlot.depends_self {now : Nat} (dep0 : y.dep0 = true) (dep1 : y.dep1 = true) :
    y.depends now true true = if y.wanted then { y with st := .suspended } else y.enterReady now := by
  cases y
  dsimp only at dep0 dep1
  subst dep0 dep1
  rfl

theorem LSlot.unheld_of_other {now : Nat} (other : y.st ≠ .suspended) : y.unheld now = y := if_neg fun h => other h.1

theorem LSlot.unheld_of_wanted {now : Nat} (wanted : y.wanted = true) : y.unheld now = y := if_neg fun h => by simp [wanted] at h

theorem LSlot.unheld_of_free {now : Nat} (suspended : y.st = .suspended) (free : y.wanted = false) : y.unheld now = y.enterReady now :=
  if_pos ⟨suspended, by rw [free]; rfl⟩

theorem State.exec_of_frozen_fn (frozen : (s.fn fn).frozen = true) (k off : Nat) (b : Byte) : exec (.slotSet fn slot 0) s = .next s ∧
    exec (.slotSet fn slot 2) s = .next s ∧ exec (.suspend fn slot) s = .next s ∧ exec (.resume fn slot) s = .next s ∧
    exec (.kill fn slot) s = .next s ∧ exec (.hostRecordWrite fn (slot + k) off b) s = .next s := by
  refine ⟨?_, ?_, ?_, ?_, ?_, ?_⟩ <;> exact congrArg Host.Outcome.next ((inOrder_of_frozen frozen).trans (command_of_frozen frozen))

theorem State.exec_of_waiting (going : (s.fn fn).frozen = false) (waits : s.hostWrites (fun r => portOf r.fn == portOf fn) = true) {st off : Nat} {b : Byte}
    (mem : i ∈ [Instr.slotSet fn slot st, .suspend fn slot, .resume fn slot, .kill fn slot, .hostRecordWrite fn slot off b]) :
    exec i s = .next { s with waits := s.waits ++ [i] } := by
  simp only [List.mem_cons, List.not_mem_nil, or_false] at mem
  rcases mem with rfl | rfl | rfl | rfl | rfl <;> exact congrArg Host.Outcome.next (inOrder_of_waiting going waits)

section
variable (reaches : s.Reaches fn slot)
include reaches

theorem State.exec_suspend_still (still : (s.slotAt slot).st = .armed ∨ (s.slotAt slot).st = .suspending) :
    ∃ t, exec (.suspend fn slot) s = .next t ∧ s.SlotTo slot ((s.slotAt slot).request fn true) t := by
  refine ⟨_, (exec_suspend reaches ((SlotSt.held_iff _).2 (by rcases still with h | h <;> simp [h]))).trans ?_, request_slotTo s true⟩
  rcases still with h | h <;> rw [h]

theorem State.exec_suspend_ready (ready : (s.slotAt slot).st = .ready) :
    ∃ t, exec (.suspend fn slot) s = .next t ∧ s.SlotTo slot { (s.slotAt slot).request fn true with st := .suspended } t := by
  have first := request_slotTo (fn := fn) (slot := slot) s true
  have last := onSlot_slotTo (n := slot) (f := fun x => { x with st := .suspended }) (fun _ h => h) (s.onSlot slot (·.request fn true))
  rw [first.self] at last
  refine ⟨_, (exec_suspend reaches ((SlotSt.held_iff _).2 (by simp [ready]))).trans ?_, first.trans last⟩
  rw [ready]

theorem State.exec_suspend_suspended (suspended : (s.slotAt slot).st = .suspended) : exec (.suspend fn slot) s = .next s := by
  rw [exec_suspend reaches ((SlotSt.held_iff _).2 (by simp [suspended])), suspended]

theorem State.exec_resume_slotTo (held : (s.slotAt slot).st.held = true) :
    ∃ t, exec (.resume fn slot) s = .next t ∧ s.SlotTo slot (((s.slotAt slot).request fn false).unheld s.now) t :=
  ⟨_, exec_resume reaches held, resume_slotTo s⟩

theorem State.exec_kill_of_gone (held : (s.slotAt slot).st.held = true) (gone : s.hasCtx slot = false) (none : (s.slotAt slot).cbar = 0)
    (unsaved : (s.saved.any fun r => r.ctx.slot == slot) = false) :
    ∃ t, exec (.kill fn slot) s = .next t ∧ s.SlotTo slot { s.slotAt slot with st := .faulted, fcause := 0, freason := 1 } t := by
  refine ⟨_, exec_kill reaches held, ?_⟩
  rw [killSlot, if_neg (by rw [gone]; decide), if_neg (by rw [unsaved]; decide)]
  exact faultSlot_slotTo none

theorem State.exec_kill_of_saved (held : (s.slotAt slot).st.held = true) (gone : s.hasCtx slot = false) (none : (s.slotAt slot).cbar = 0)
    (saved : (s.saved.any fun r => r.ctx.slot == slot) = true) : ∃ t, exec (.kill fn slot) s = .next t ∧
      s.SlotTo slot { s.slotAt slot with st := .faulted, fcause := 0, freason := 1, dying := .none, savedMid := false } t := by
  refine ⟨_, exec_kill reaches held, ?_⟩
  rw [killSlot, if_neg (by rw [gone]; decide), if_pos saved]
  exact endContext_slotTo none

theorem State.exec_kill_of_there (held : (s.slotAt slot).st.held = true) (there : s.hasCtx slot = true) :
    exec (.kill fn slot) s = .next { s with agenda := .teardown slot 0 1 :: s.agenda } := by
  rw [exec_kill reaches held, killSlot, if_pos there]
  rfl

end

end

/-- Settles O46. -/
theorem slotCommands : Obligations.SlotCommands := by
  intro s fn slot
  refine ⟨fun frozen k off b => State.exec_of_frozen_fn frozen k off b, fun going waits st off b i mem => State.exec_of_waiting going waits mem,
    fun reaches => ?_, fun p found armed checked dep0 dep1 => ?_,
    fun p found armed unchecked => ?_, fun p found idle => State.exec_placement_of_not found idle, fun p found placing first => ?_, fun ready => ?_,
    fun other => congrArg Host.Outcome.next (if_neg other)⟩
  · refine ⟨fun free => ?_, fun writing own => ⟨?_, ?_⟩, fun ended => ?_, fun off b low high free => ?_, fun off b low high writing own => ?_,
      fun still => ?_, State.exec_suspend_suspended reaches, fun ready => ?_, fun placed gone => ?_, fun placed _ => ?_, fun going => ?_,
      fun suspended wanted => ?_, fun suspended unwanted => ?_, fun held there => ?_, fun held gone none unsaved => ?_, fun held gone none saved => ?_,
      fun unheld => ?_⟩
    · exact State.after_of (State.exec_arm reaches (.inl free)) (by rw [if_pos free]; rfl)
    · exact State.after_of (State.exec_arm reaches (.inr ⟨writing, own⟩)) (by rw [if_neg (by simp [writing])]; rfl)
    · exact State.after_of (State.exec_free reaches (.inr (.inr ⟨writing, own⟩))) rfl
    · exact State.after_of (State.exec_free reaches (ended.imp_right .inl)) rfl
    · exact State.after_of (State.exec_hostRecordWrite reaches low high (.inl free)) (by rw [if_pos free])
    · refine State.after_of (State.exec_hostRecordWrite reaches low high (.inr ⟨writing, own⟩)) ?_
      rw [if_neg (by simp [writing]), ← writing]
    · exact State.after_of (State.exec_suspend_still reaches still) rfl
    · exact State.after_of (State.exec_suspend_ready reaches ready) rfl
    · exact State.after_of (State.exec_suspend_of_gone reaches placed gone) rfl
    · exact State.exec_suspend_of_there reaches placed
    · refine State.after_of (State.exec_resume_slotTo reaches ((SlotSt.held_iff _).2 (by rcases going with h | h | h | h | h <;> simp [h]))) ?_
      exact LSlot.unheld_of_other (by rw [LSlot.request_st]; rcases going with h | h | h | h | h <;> simp [h])
    · exact State.after_of (State.exec_resume_slotTo reaches ((SlotSt.held_iff _).2 (by simp [suspended]))) (LSlot.unheld_of_wanted wanted)
    · refine State.after_of (State.exec_resume_slotTo reaches ((SlotSt.held_iff _).2 (by simp [suspended]))) ?_
      refine (LSlot.unheld_of_free ((LSlot.request_st _ _).trans suspended) unwanted).trans ?_
      rw [LSlot.enterReady, LSlot.request_prio]
      rfl
    · exact State.exec_kill_of_there reaches ((SlotSt.held_iff _).2 held) there
    · exact State.after_of (State.exec_kill_of_gone reaches ((SlotSt.held_iff _).2 held) gone none unsaved) rfl
    · exact State.after_of (State.exec_kill_of_saved reaches ((SlotSt.held_iff _).2 held) gone none saved) rfl
    · exact State.exec_of_unheld reaches ((Bool.not_eq_true _).mp fun h => unheld ((SlotSt.held_iff _).1 h))
  · have checks := State.exec_dependenceSatisfied_checked found armed checked dep0 dep1
    have leaves := s.depends_slotTo slot s.now true true
    rw [LSlot.depends_self dep0 dep1] at leaves
    exact ⟨fun unwanted => State.after_of ⟨_, checks, leaves⟩ (if_neg (by rw [unwanted]; decide)),
      fun wanted => State.after_of ⟨_, checks, leaves⟩ (if_pos wanted)⟩
  · have first := State.exec_dependenceSatisfied_first found armed unchecked
    have frames := s.armTouch_onlyFrames p (s.slotAt slot)
    refine ⟨fun r refused none => ?_, fun va passed => ?_⟩
    · rw [State.armChecked_of_error refused] at first
      exact State.from_of frames first (State.blame_faultSlot_slotTo (by rw [frames.slotAt]; exact none)) (by rw [frames.slotAt])
    · rw [State.armChecked_of_ok passed] at first
      have frames := frames.trans (State.imageTouch_onlyFrames _ { s.slotAt slot with checked := true, chosen := va } p)
      refine ⟨fun r unread none => ?_, fun z read => ?_⟩
      · rw [State.imaged_of_error unread] at first
        exact State.from_of frames first (State.blame_faultSlot_slotTo (by rw [frames.slotAt]; exact none)) (by rw [frames.slotAt])
      · rw [State.imaged_of_ok read] at first
        have frames := frames.trans (State.depTouch_onlyFrames _ p (s.slotAt slot))
        refine ⟨fun a b h0 h1 => ?_, fun r failed none => ?_⟩
        · have eq := State.armLoad_eq read
          refine State.from_of frames first (State.looked_slotTo h0 h1 (by rw [eq]; exact s.n_slotAt slot)) ?_
          rw [frames.now, eq]
          rfl
        · rw [State.looked_of_error failed] at first
          exact State.from_of frames first (State.blame_faultSlot_slotTo (by rw [frames.slotAt]; exact none)) (by rw [frames.slotAt])
  · have frames := s.attempted_onlyFrames p (s.slotAt slot)
    have places := State.exec_placement found placing first rfl
    refine ⟨fun r none unsaved rejected => ?_, fun i passed => ?_, fun i q v planned brought => ?_⟩
    · have attempt : (s.attempted p (s.slotAt slot)).attempt p (s.slotAt slot) = .reject r := rejected
      have unsaved : ((s.attempted p (s.slotAt slot)).blame r.2).saved.any (·.ctx.slot == slot) = false := by
        rw [State.saved_blame, frames.saved]
        exact unsaved
      rw [attempt] at places
      dsimp only at places
      rw [if_neg (by rw [unsaved]; decide)] at places
      exact State.from_of (u := s.attempted p (s.slotAt slot)) frames places (State.blame_faultSlot_slotTo (by rw [frames.slotAt]; exact none)) (by rw [frames.slotAt])
    · have attempt : (s.attempted p (s.slotAt slot)).attempt p (s.slotAt slot) = .pass i := passed
      rw [attempt] at places
      exact State.from_of (u := s.attempted p (s.slotAt slot)) frames places (State.onSlot_slotTo (f := fun x => { x with image := some i }) (fun _ h => h) _) (by rw [frames.slotAt])
    · have attempt : (s.attempted p (s.slotAt slot)).attempt p (s.slotAt slot) = .plan i q := planned
      rw [attempt] at places
      obtain ⟨e, at_⟩ := State.slotAt_placeAt (s := s.attempted p (s.slotAt slot)) brought (s.n_slotAt slot)
      refine ⟨_, places, ?_⟩
      rw [State.slotAt_requestSwitch, at_]
      exact ⟨rfl, rfl, rfl, rfl⟩
  · exact State.after_of ⟨_, State.exec_eprioAging ready, State.onSlot_slotTo (f := fun x => { x with eprio := x.effective s.now }) (fun _ h => h) s⟩ rfl

end Sys2Proof.Machine
end

section
/-! PROOFS. The events of operations and collectives -/

namespace Sys2Proof.Machine

/-! ## Accesses of device memory and budgets -/

/-- Nothing but device memory, its sectors' errors, partitions (whose tables the zeroing of a frame writes), budgets, and what armed slots have
seen of their dependences differs. -/
def State.OnlyMemory (s t : State) : Prop := ∃ d q l b x, t = { s with dram := d, dpoison := q, parts := l, budgetUse := b, slots := x }

section
variable {s t u : State}

theorem State.OnlyMemory.refl : s.OnlyMemory s := ⟨s.dram, s.dpoison, s.parts, s.budgetUse, s.slots, rfl⟩

theorem State.OnlyMemory.trans (h : s.OnlyMemory t) (g : t.OnlyMemory u) : s.OnlyMemory u := by
  obtain ⟨d, q, l, b, x, rfl⟩ := h
  obtain ⟨d', q', l', b', x', rfl⟩ := g
  exact ⟨d', q', l', b', x', rfl⟩

theorem State.OnlyFrames.onlyMemory (h : s.OnlyFrames t) : s.OnlyMemory t := by
  obtain ⟨d, q, l, rfl⟩ := h
  exact ⟨d, q, l, s.budgetUse, s.slots, rfl⟩

theorem State.OnlyMemory.core (h : s.OnlyMemory t) : t.core = s.core := by
  obtain ⟨_, _, _, _, _, rfl⟩ := h
  rfl

theorem State.OnlyMemory.ctx (h : s.OnlyMemory t) : t.ctx = s.ctx := by
  obtain ⟨_, _, _, _, _, rfl⟩ := h
  rfl

theorem State.OnlyMemory.ops (h : s.OnlyMemory t) : t.ops = s.ops := by
  obtain ⟨_, _, _, _, _, rfl⟩ := h
  rfl

theorem State.spend_onlyMemory (s : State) (k : Nat) : s.OnlyMemory (s.spend k) := ⟨_, _, _, _, _, rfl⟩

theorem State.letIn_onlyMemory {pl : Place} (h : s.letIn pl = some t) : s.OnlyMemory t := by
  have channel (u : State) (h : u.channelIn pl = some t) : u.OnlyMemory t := by
    unfold channelIn at h
    split at h
    · rw [Option.ite_none_right_eq_some] at h
      exact Option.some.inj h.2 ▸ u.spend_onlyMemory _
    · exact Option.some.inj h ▸ .refl
  unfold letIn at h
  dsimp only at h
  rw [Option.ite_none_right_eq_some] at h
  exact (s.spend_onlyMemory _).trans (channel _ h.2)

theorem State.pass_onlyMemory (l : List Place) (s : State) : s.OnlyMemory (s.pass l).1 := by
  unfold pass
  induction l generalizing s with
  | nil => exact .refl
  | cons pl l ih =>
    rw [admitBy]
    split
    · exact .refl
    · next u h => exact (letIn_onlyMemory h).trans (ih u)

theorem State.ctxTouch_onlyFrames (s : State) (va : Nat) (rd wr : Bool) : s.OnlyFrames (s.ctxTouch va rd wr) := s.touch_onlyFrames _ _ _

theorem State.devWrite_onlyFrames (s : State) (pl : Place) (l : List Byte) : s.OnlyFrames (s.devWrite pl l) :=
  (s.zeroFrame_onlyFrames pl).trans ⟨_, _, _, rfl⟩

theorem State.writeVa_onlyFrames (asid pid va : Nat) (l : List Byte) (s : State) : s.OnlyFrames (s.writeVa asid pid va l).1 := by
  induction l generalizing s va with
  | nil => exact .refl
  | cons x l ih =>
    have touched := zeroFrames_onlyFrames (s.lookup asid pid (.ctx va false true)).1 s
    rw [writeVa]
    split
    · exact touched
    · split
      · exact touched
      · exact (touched.trans (devWrite_onlyFrames _ _ _)).trans (ih _ _)

theorem State.barWrite_onlyMemory (s : State) (pl : Place) (old new : BarW) : s.OnlyMemory (s.barWrite pl old new) := by
  have written := (s.devWrite_onlyFrames pl (toLe 16 new.toNat)).onlyMemory
  unfold barWrite
  dsimp only
  split
  · exact written
  · exact written.trans ⟨_, _, _, _, _, rfl⟩

theorem State.barAt_onlyMemory {asid pid va : Nat} {kite : Bool} {x : BarUpd} (h : s.barAt asid pid va kite x = .ok t) : s.OnlyMemory t := by
  unfold barAt at h
  dsimp only at h
  split at h
  · cases h
  · split at h
    · cases h
    · split at h
      · cases h
      · exact BarDone.ok.inj h ▸ s.barWrite_onlyMemory _ _ _

theorem State.barLetIn_onlyMemory {asid pid va : Nat} {kite : Bool} {x : BarUpd} (h : s.barLetIn asid pid va kite x = some t) : s.OnlyMemory t := by
  unfold barLetIn at h
  split at h
  · exact letIn_onlyMemory h
  · exact Option.some.inj h ▸ .refl

/-! ## The focus stands -/

/-- The focus is on the same isle, of as many. -/
structure State.Stays (s t : State) : Prop where
  ix : t.isleIx = s.isleIx
  count : t.isleCount = s.isleCount

theorem State.Stays.refl : s.Stays s := ⟨rfl, rfl⟩

theorem State.Stays.trans (h : s.Stays t) (g : t.Stays u) : s.Stays u := ⟨g.ix.trans h.ix, g.count.trans h.count⟩

theorem State.Stays.ite {p : Prop} [Decidable p] (h : s.Stays t) (g : s.Stays u) : s.Stays (if p then t else u) := by
  split
  · exact h
  · exact g

theorem State.stays_of_isles (left : t.left = s.left) (right : t.right = s.right) : s.Stays t := by
  constructor
  · rw [isleIx, left, isleIx]
  · rw [isleCount, left, right, isleCount]

theorem State.OnlyMemory.stays (h : s.OnlyMemory t) : s.Stays t := by
  obtain ⟨_, _, _, _, _, rfl⟩ := h
  exact stays_of_isles rfl rfl

theorem State.setOp_stays (s : State) (o : Op) : s.Stays (s.setOp o) := stays_of_isles rfl rfl

theorem State.dropOp_stays (s : State) (o : Op) : s.Stays (s.dropOp o) := stays_of_isles rfl rfl

theorem State.fill_stays (s : State) (b : Buf) (a : Nat) (l : List Byte) : s.Stays (s.fill b a l) := stays_of_isles rfl rfl

theorem State.loseVa_stays (s : State) (va : Nat) (e : ErrUnit) : s.Stays (s.loseVa va e) := stays_of_isles rfl rfl

theorem State.recordOp_stays (s : State) (o : Op) (cause info addr : Nat) : s.Stays (s.recordOp o cause info addr) :=
  .ite .refl (stays_of_isles rfl rfl)

theorem State.stopOp_stays (s : State) (o : Op) (cause info addr : Nat) : s.Stays (s.stopOp o cause info addr) :=
  (s.recordOp_stays o cause info addr).trans (dropOp_stays _ o)

theorem State.holdSector_stays (s : State) (o : Op) : s.Stays (s.holdSector o) := by
  have counted : s.Stays (if s.ops.any fun x => x.seq == o.seq && x.held then s else { s with core := s.core.count 0x14 1 }) :=
    .ite .refl (stays_of_isles rfl rfl)
  exact (counted.trans (setOp_stays _ _)).trans (.ite .refl (stays_of_isles rfl rfl))

theorem State.atIsle_stays {f : State → State} (h : ∀ u : State, u.Stays (f u)) (s : State) (x y : Nat) : s.Stays (s.atIsle x y f) := by
  have count : (f (s.focusIsle (s.ixOf x y))).isleCount = s.isleCount := (h _).count.trans (s.focusIsle_isleCount _)
  exact ⟨(focusIsle_of_lt (by rw [count]; exact s.isleIx_lt)).1, (focusIsle_isleCount _ _).trans count⟩

theorem State.opPost_stays (s : State) (o : Op) : s.Stays (s.opPost o) := by
  unfold opPost
  split
  · exact .refl
  · refine atIsle_stays (fun u => ?_) s _ _
    split
    · exact stays_of_isles rfl rfl
    · exact u.recordOp_stays _ _ _ _

theorem State.barHere_stays {a : Nat} {x : BarUpd} (h : s.barHere a x = .ok t) : s.Stays t := by
  unfold barHere at h
  split at h
  · cases h
  · exact Except.ok.inj h ▸ stays_of_isles rfl rfl

theorem State.opBar_stays (s : State) (o : Op) (ref : W64) (x : BarUpd) : s.Stays (s.opBar o ref x).1 := by
  unfold opBar
  split
  · exact .refl
  · split
    · next h => exact barHere_stays h
    · exact s.recordOp_stays _ _ _ _
  · next va _ =>
    have touched := (s.touch_onlyFrames s.ctx.asid s.ctx.pid (x.asked va false)).onlyMemory
    dsimp only
    generalize s.touch s.ctx.asid s.ctx.pid (x.asked va false) = v at touched
    have paid : v.Stays ((v.barLetIn v.ctx.asid v.ctx.pid va false x).getD v) := by
      cases h : v.barLetIn v.ctx.asid v.ctx.pid va false x with
      | none => exact .refl
      | some w => exact (barLetIn_onlyMemory h).stays
    split
    · next h => exact touched.stays.trans (paid.trans (barAt_onlyMemory h).stays)
    · exact touched.stays.trans (v.recordOp_stays _ _ _ _)
    · exact touched.stays.trans (v.recordOp_stays _ _ _ _)
    · exact touched.stays.trans (v.loseVa_stays _ _)

theorem State.moved_stays (s : State) (o : Op) (n : Nat) : s.Stays (s.moved o n) := by
  unfold moved
  split
  · exact s.setOp_stays o
  · next ref _ =>
    dsimp only
    refine .ite (.ite ?_ ?_) (s.setOp_stays _)
    · exact (s.opBar_stays o ref (.bytes (o.owed + n))).trans (setOp_stays _ _)
    · exact (s.opBar_stays o ref (.bytes (o.owed + n))).trans (dropOp_stays _ _)

/-! ## The sides of a transfer (R290, R301) -/

/-- What a side of a transfer gives changes device memory and budgets alone. -/
theorem State.take_onlyMemory {side a n : Nat} {l : List Byte} (h : s.take side a n = .bytes t l) : s.OnlyMemory t := by
  unfold take at h
  split at h
  · split at h
    · cases h
    · split at h
      · cases h
      · split at h
        · cases h
        · next u let_ =>
          injection h with h _
          exact h ▸ (letIn_onlyMemory let_).trans (u.ctxTouch_onlyFrames _ _ _).onlyMemory
  · split at h
    · cases h
    · injection h with h _
      exact h ▸ .refl

/-- A sector's errors are cleared where it is written whole. -/
def State.healed (s : State) (pl : Place) (n : Nat) : State := if n = 32 then { s with dpoison := s.dpoison.filter (· != pl.key / 32) } else s

theorem State.healed_onlyFrames (s : State) (pl : Place) (n : Nat) : s.OnlyFrames (s.healed pl n) := by
  unfold healed
  split
  · exact ⟨_, _, _, rfl⟩
  · exact .refl

@[simp] theorem State.healed_dram (s : State) (pl : Place) (n : Nat) : (s.healed pl n).dram = s.dram := by
  unfold healed
  split <;> rfl

theorem State.put_stays {side a : Nat} {l x : List Byte} (h : s.put side a l = .bytes t x) : s.Stays t := by
  unfold put at h
  split at h
  · split at h
    · cases h
    · split at h
      · cases h
      · split at h
        · cases h
        · next pl _ _ _ u let_ =>
          injection h with h _
          exact h ▸ (((letIn_onlyMemory let_).trans (u.ctxTouch_onlyFrames _ _ _).onlyMemory).trans
            ((devWrite_onlyFrames _ pl l).trans (healed_onlyFrames _ pl l.length)).onlyMemory).stays
  · injection h with h _
    exact h ▸ s.fill_stays _ _ _

section
variable {side a n : Nat} {l : List Byte} {pl : Place}

theorem State.take_of_buf {b : Buf} (buf : sideBuf side = some b) (sound : s.core.spoiled b a n = false) :
    s.take side a n = .bytes s ((s.core.buf b).bytes a n) := by
  unfold take
  rw [buf]
  exact if_neg (by rw [sound]; decide)

theorem State.put_of_buf {b : Buf} (buf : sideBuf side = some b) : s.put side a l = .bytes (s.fill b a l) [] := by
  unfold put
  rw [buf]

variable (memory : sideBuf side = none) (let_ : s.letIn pl = some t)
include memory let_

theorem State.take_of_memory (placed : s.ctxRead s.ctx a = .ok pl) (sound : s.poisoned pl = false) :
    s.take side a n = .bytes (t.ctxTouch a true false) (s.devRead pl n) := by
  unfold take
  rw [memory, placed]
  dsimp only
  rw [if_neg (by rw [sound]; decide), let_]

theorem State.put_of_memory (placed : s.ctxWrite s.ctx a = .ok pl) (sound : pl.bad = false) :
    s.put side a l = .bytes (((t.ctxTouch a false true).devWrite pl l).healed pl l.length) [] := by
  unfold put
  rw [memory, placed]
  dsimp only
  rw [if_neg (by rw [sound]; decide), let_]
  rfl

end

end

/-! ## Reads and writes of a frame that awaits zeroing (R258) -/

section
variable {z : State} {pl : Place} {n : Nat} {l : List Byte}

theorem State.devRead_of_written (written : z.awaitsZero pl = false) : z.devRead pl n = z.dram.bytes pl.key n := if_neg (by rw [written]; decide)

theorem State.devRead_of_due (due : z.awaitsZero pl = true) : z.devRead pl n = List.replicate n 0 := if_pos due

theorem State.dram_devWrite_of_written (written : z.awaitsZero pl = false) : (z.devWrite pl l).dram = z.dram.wrList (place pl.key l) := by
  unfold devWrite zeroFrame
  rw [written]
  rfl

theorem State.dram_devWrite_of_due (due : z.awaitsZero pl = true) :
    (z.devWrite pl l).dram = (z.dram.clearRange pl.frame pl.size).wrList (place pl.key l) := by
  unfold devWrite zeroFrame
  rw [due]
  rfl

/-- What memory reads after bytes are written. -/
theorem Mem.rd_wrList_place_eq {m : Mem} (wf : m.wf = true) (a b : Nat) :
    (m.wrList (place a l)).rd b = if a ≤ b ∧ b < a + l.length then l.getD (b - a) 0 else m.rd b := by
  split
  · next inside =>
    have at_ := rd_wrList_place (m := m) (a := a) (k := b - a) (l := l) wf (by omega)
    rwa [Nat.add_sub_cancel' inside.1] at at_
  · next outside =>
    refine rd_wrList_other m _ fun c hc => ?_
    have there := mem_place hc
    omega

/-- Reads and writes at a place, its frame zeroed first where that is due. -/
theorem State.dev_spec (wf : z.dram.wf = true) (n : Nat) (l : List Byte) :
    (z.awaitsZero pl = false → z.devRead pl n = z.dram.bytes pl.key n ∧ ∀ b, (z.devWrite pl l).dram.rd b =
      if pl.key ≤ b ∧ b < pl.key + l.length then l.getD (b - pl.key) 0 else z.dram.rd b) ∧
    (z.awaitsZero pl = true → z.devRead pl n = List.replicate n 0 ∧ ∀ b, (z.devWrite pl l).dram.rd b =
      if pl.key ≤ b ∧ b < pl.key + l.length then l.getD (b - pl.key) 0
      else if pl.frame ≤ b ∧ b < pl.frame + pl.size then 0 else z.dram.rd b) := by
  refine ⟨fun written => ⟨devRead_of_written written, fun b => ?_⟩, fun due => ⟨devRead_of_due due, fun b => ?_⟩⟩
  · rw [dram_devWrite_of_written written, Mem.rd_wrList_place_eq wf]
  · rw [dram_devWrite_of_due due, Mem.rd_wrList_place_eq (Mem.wf_clearRange _ _ wf)]
    congr 1
    split
    · next inside => exact Mem.rd_clearRange_in _ inside
    · next outside => exact Mem.rd_clearRange_out _ (by omega)

end

/-! ## Sectors of operations (R289, R291, R298-R301) -/

section
variable {s t u : State} {o q : Op}

/-! ### An operation whose context and isle are in focus -/

theorem State.withOp_of_at (at_ : s.AtOp o) {f : Op → State → State} (stays : s.Stays (f o s)) : s.withOp o.seq f = f o s := by
  have own : s.hasCtx o.slot = true := by rw [← at_.mine]; exact hasCtx_self at_.live
  have focus : s.atIsle o.px o.py (f o) = f o s := by
    rw [atIsle, ← at_.here, focusIsle_self, ← stays.ix, isleIx, focusIsle_self]
  rw [withOp, at_.found]
  dsimp only
  rw [withKept, if_pos own, ← at_.mine, withSlot_self at_.live, focus]

/-- A turn of an operation that may access device memory. -/
theorem State.exec_transfer (at_ : s.AtOp o) (allowed : o.usesDm = true → s.mayReport o = true) (step : s.sectorStep { o with held := false } = t)
    (stays : s.Stays t) : exec (.asyncSectorTransfer o.seq) s = .next t := by
  have now : (if o.usesDm && !s.mayReport o then s else s.sectorStep { o with held := false }) = t := by
    rw [if_neg, step]
    intro h
    rw [Bool.and_eq_true] at h
    rw [allowed h.1] at h
    exact absurd h.2 (by decide)
  refine congrArg Host.Outcome.next (Eq.trans (withOp_of_at at_ ?_) now)
  rw [now]
  exact stays

/-- A turn that a release keeps back. -/
theorem State.exec_transfer_of_early (at_ : s.AtOp o) (uses : o.usesDm = true) (early : s.mayReport o = false) :
    exec (.asyncSectorTransfer o.seq) s = .next s := by
  have now : (if o.usesDm && !s.mayReport o then s else s.sectorStep { o with held := false }) = s := if_pos (by rw [uses, early]; rfl)
  refine congrArg Host.Outcome.next (Eq.trans (withOp_of_at at_ ?_) now)
  rw [now]
  exact .refl

/-! ### The sectors of XLD, XST and XATOM -/

section
variable (going : q.finished = false)
include going

theorem State.sectorStep_eq : s.sectorStep q =
    match q.kind with
    | .xld u a va n k =>
      s.onGot q (s.take 0 (va + k) (min 32 (n - k))) fun s l =>
        (s.fill u (a + k) l).setOp { q with kind := .xld u a va n (k + 32), finished := decide (n ≤ k + 32) }
    | .xst u a va n k =>
      s.onGot q (s.take (bufCode u + 1) (a + k) (min 32 (n - k))) fun s l => s.onGot q (s.put 0 (va + k) l) fun s _ =>
        s.setOp { q with kind := .xst u a va n (k + 32), finished := decide (n ≤ k + 32) }
    | .xatom op va y res _ =>
      (match s.ctxModify s.ctx va with
      | .error f => (s.ctxTouch va true true).stopOp q f.1 f.2 va
      | .ok pl =>
        if s.poisoned pl then s.loseVa va pl.unit
        else match s.letIn pl with
          | none => s.holdSector q
          | some t =>
            let old := BitVec.ofNat 64 (ofLe (s.devRead pl 8))
            (((t.ctxTouch va true true).devWrite pl (toLe 8 (atomic op old y).toNat)).fill .ab res (toLe 8 old.toNat)).setOp
              { q with kind := .xatom op va y res true, finished := true })
    | .xcopy src dst t row col sd hdr d => s.copyStep q src dst t row col sd hdr d
    | .coll t base joined _ _ n => if joined then s else s.collRead q t base n
    | .launch _ _ => s
    | .ovl _ _ => s
    | .bar _ _ => s
    | .kpost _ _ => s := if_neg (by rw [going]; decide)

theorem State.sectorStep_xld {b : Buf} {a va n k : Nat} {l : List Byte} (kind : q.kind = .xld b a va n k)
    (got : s.take 0 (va + k) (min 32 (n - k)) = .bytes t l) :
    s.sectorStep q = (t.fill b (a + k) l).setOp { q with kind := .xld b a va n (k + 32), finished := decide (n ≤ k + 32) } := by
  rw [sectorStep_eq going, kind]
  dsimp only
  rw [got]
  rfl

theorem State.sectorStep_xst {b : Buf} {a va n k : Nat} {l x : List Byte} (kind : q.kind = .xst b a va n k)
    (got : s.take (bufCode b + 1) (a + k) (min 32 (n - k)) = .bytes t l) (puts : t.put 0 (va + k) l = .bytes u x) :
    s.sectorStep q = u.setOp { q with kind := .xst b a va n (k + 32), finished := decide (n ≤ k + 32) } := by
  rw [sectorStep_eq going, kind]
  dsimp only
  rw [got]
  dsimp only [onGot]
  rw [puts]

theorem State.sectorStep_xatom {op : AtomOp} {va res : Nat} {y : W64} {d : Bool} {pl : Place} (kind : q.kind = .xatom op va y res d)
    (placed : s.ctxModify s.ctx va = .ok pl) (sound : s.poisoned pl = false) (let_ : s.letIn pl = some t) :
    s.sectorStep q =
      (((t.ctxTouch va true true).devWrite pl (toLe 8 (atomic op (BitVec.ofNat 64 (ofLe (s.devRead pl 8))) y).toNat)).fill .ab res
        (toLe 8 (BitVec.ofNat 64 (ofLe (s.devRead pl 8))).toNat)).setOp { q with kind := .xatom op va y res true, finished := true } := by
  rw [sectorStep_eq going, kind]
  dsimp only
  rw [placed]
  dsimp only
  rw [if_neg (by rw [sound]; decide), let_]

theorem State.sectorStep_xcopy {src dst row col : Nat} {tm : BitVec 512} {sd : Option Nat} {hdr : Option (BitVec 256)} {d : Bool}
    (kind : q.kind = .xcopy src dst tm row col sd hdr d) : s.sectorStep q = s.copyStep q src dst tm row col sd hdr d := by
  rw [sectorStep_eq going, kind]

theorem State.sectorStep_coll {base n : Nat} {tm : BitVec 512} {f : Bool} {dst : BitVec 256} (kind : q.kind = .coll tm base false f dst n)
    (all : s.collSector tm base n = none) : s.sectorStep q = s.joinColl q tm base := by
  rw [sectorStep_eq going, kind]
  dsimp only
  rw [if_neg (by decide), collRead, all]

end

/-! ### The sectors of a copy (R301, R356) -/

section
variable {src dst row col : Nat} {tm : BitVec 512} {sd : Option Nat} {hdr : Option (BitVec 256)} {d : Bool}

/-- The source header's sector. -/
theorem State.copyStep_header {l : List Byte} (wants : tmplHmode tm ≠ 0) (none : hdr = none) (got : s.take (tmplFld tm 4 2) src 32 = .bytes t l) :
    s.copyStep q src dst tm row col sd hdr d =
      match copyHdrFault tm l with
      | some f => t.stopOp q f.1 f.info (if f.2.1 = 3 then dst else src)
      | .none => t.setOp { q with kind := .xcopy src dst tm row col sd (some (BitVec.ofNat 256 (ofLe l))) d } := by
  unfold copyStep
  dsimp only
  rw [if_pos ⟨wants, none⟩, got]
  rfl

/-- The offset of the data behind the source address. -/
def copyOff (tm : BitVec 512) (sd : Option Nat) (hdr : Option (BitVec 256)) : Nat :=
  match sd with
  | some d => d
  | none => if tmplHmode tm = 0 then 0 else (Hdr.ofNat ((hdr.getD 0).toNat)).doff

/-- The place after the sector at a place of a copy. -/
def copyNext (tm : BitVec 512) (row col : Nat) : Nat × Nat := if col + 32 < tmplRowBytes tm then (row, col + 32) else (row + 1, 0)

/-- The address that a copy's sector goes to. -/
def copyTo (tm : BitVec 512) (dst row col : Nat) : Nat := (dst + (if tmplHmode tm = 2 then 32 else 0) + row * tmplDstride tm + col) % 2 ^ 64

/-- The address that it comes from. -/
def copyFrom (tm : BitVec 512) (sd : Option Nat) (hdr : Option (BitVec 256)) (src row col : Nat) : Nat :=
  (src + copyOff tm sd hdr + row * tmplSstride tm + col) % 2 ^ 64

section
variable (checked : tmplHmode tm = 0 ∨ hdr ≠ none)
include checked

/-- A sector of the data. -/
theorem State.copyStep_data (more : row < tmplRows tm) : s.copyStep q src dst tm row col sd hdr d =
    s.onGot q (match q.got with
      | some l => .bytes s l
      | none => s.take (tmplFld tm 4 2) (copyFrom tm sd hdr src row col) 32) fun t1 l =>
      t1.onGot { q with got := some l } (t1.put (tmplFld tm 6 2) (copyTo tm dst row col) l) fun t2 _ =>
        t2.moved { q with
          kind := .xcopy src dst tm (copyNext tm row col).1 (copyNext tm row col).2 sd hdr d
          finished := decide ((copyNext tm row col).1 = tmplRows tm ∧ tmplHmode tm ≠ 2), got := none } 32 := by
  unfold copyStep
  extract_lets h ss ds
  rw [if_neg fun both => checked.elim both.1 fun some => some both.2, if_pos more]
  rfl

theorem State.copyStep_read (more : row < tmplRows tm) {l : List Byte}
    (read : (q.got = none ∧ s.take (tmplFld tm 4 2) (copyFrom tm sd hdr src row col) 32 = .bytes t l) ∨ (q.got = some l ∧ t = s)) :
    s.copyStep q src dst tm row col sd hdr d =
      t.onGot { q with got := some l } (t.put (tmplFld tm 6 2) (copyTo tm dst row col) l) fun t2 _ =>
        t2.moved { q with
          kind := .xcopy src dst tm (copyNext tm row col).1 (copyNext tm row col).2 sd hdr d
          finished := decide ((copyNext tm row col).1 = tmplRows tm ∧ tmplHmode tm ≠ 2), got := none } 32 := by
  rw [copyStep_data checked more]
  rcases read with ⟨none, got⟩ | ⟨kept, rfl⟩
  · rw [none]
    dsimp only
    rw [got]
    rfl
  · rw [kept]
    rfl

/-- The header rewritten behind the data. -/
theorem State.copyStep_last (all : tmplRows tm ≤ row) {x : List Byte}
    (puts : s.put (tmplFld tm 6 2) dst (rewrittenHdr tm (Hdr.ofNat ((hdr.getD 0).toNat))).image = .bytes t x) :
    s.copyStep q src dst tm row col sd hdr d = t.moved { q with kind := .xcopy src dst tm row col sd hdr true, finished := true } 32 := by
  unfold copyStep
  extract_lets h ss ds
  rw [if_neg fun both => checked.elim both.1 fun some => some both.2, if_neg (by omega), puts]
  rfl

end

end

end

/-! ## How an operation ends (R291, R303, R306, R309, R310) -/

section
variable {s t u : State} {o q : Op}

theorem State.withOp_run (at_ : s.AtOp o) {f : Op → State → State} (run : f o s = t) (stays : s.Stays t) : s.withOp o.seq f = t :=
  (withOp_of_at at_ (run ▸ stays)).trans run

theorem State.mayReport_of_nil (none : o.waitRel = []) : s.mayReport o = true := by rw [mayReport, none]; rfl

/-- Whether an operation's end is the end of its transfer. -/
def OpKind.transfers : OpKind → Bool
  | .xld _ _ _ _ _ => true
  | .xst _ _ _ _ _ => true
  | .xatom _ _ _ _ _ => true
  | .xcopy _ _ _ _ _ _ _ _ => true
  | .bar _ _ => false
  | .coll _ _ _ _ _ _ => false
  | .launch _ _ => false
  | .ovl _ _ => false
  | .kpost _ _ => false

theorem State.exec_asyncOperationComplete (at_ : s.AtOp o) (mine : o.kind.transfers = true ∨ ∃ ref x, o.kind = .bar ref x) (ends : s.finishOp o = t)
    (stays : s.Stays t) : exec (.asyncOperationComplete o.seq) s = .next t := by
  have now : (match o.kind with
      | .kpost _ _ => s.postStep o
      | _ => s.finishOp o) = t := by
    split
    · next h =>
      rw [h] at mine
      rcases mine with h | ⟨_, _, h⟩ <;> cases h
    · exact ends
  exact congrArg Host.Outcome.next (withOp_run at_ now stays)

/-- A transfer that has nothing to tell its barrier. -/
theorem State.finishOp_of_transfer (transfers : o.kind.transfers = true) (finished : o.finished = true) (may : s.mayReport o = true)
    (paid : o.bar = none ∨ o.owed = 0) : s.finishOp o = (s.opPost o).dropOp o := by
  have due : ¬ (!s.mayReport o || !o.finished) = true := by rw [may, finished]; decide
  unfold finishOp
  split
  case h_6 =>
    rw [if_neg due]
    cases bar : o.bar with
    | none => rfl
    | some ref =>
      have owed := paid.resolve_left (by simp [bar])
      dsimp only
      rw [owed, if_neg (by simp), if_pos rfl, if_pos rfl]
  all_goals
    next h =>
    rw [h] at transfers
    cases transfers

theorem State.exec_complete_transfer (at_ : s.AtOp o) (transfers : o.kind.transfers = true) (finished : o.finished = true)
    (may : s.mayReport o = true) (paid : o.bar = none ∨ o.owed = 0) :
    exec (.asyncOperationComplete o.seq) s = .next ((s.opPost o).dropOp o) :=
  exec_asyncOperationComplete at_ (.inl transfers) (finishOp_of_transfer transfers finished may paid) ((s.opPost_stays o).trans (dropOp_stays _ o))

/-- The post to a flag of the isle in focus. -/
theorem State.opPost_of_here (at_ : s.AtOp o) {f : Nat} {c : Isle} (flag : o.flag = some (f, o.px, o.py)) (room : s.core.addFlag (Fin.ofNat 32 f) 1 = some c) :
    s.opPost o = { s with core := c } := by
  unfold opPost
  rw [flag]
  refine atIsle_eq at_.here ?_ rfl
  rw [room]

theorem State.exec_complete_barrier (at_ : s.AtOp o) {ref : W64} {x : BarUpd} {ok : Bool} (kind : o.kind = .bar ref x) (may : s.mayReport o = true)
    (free : s.barHeld ref x = false) (updates : s.opBar o ref x = (t, ok)) : exec (.asyncOperationComplete o.seq) s = .next (t.dropOp o) := by
  refine exec_asyncOperationComplete at_ (.inr ⟨ref, x, kind⟩) ?_ ?_
  · unfold finishOp
    rw [kind]
    dsimp only
    rw [may, if_neg (by simp), if_neg (by rw [free]; decide), updates]
  · have stays := s.opBar_stays o ref x
    rw [updates] at stays
    exact stays.trans (t.dropOp_stays o)

/-! ### OVL and LAUNCH -/

section
variable {id k n : Nat} {e : OvlEnt} {code : List (Nat × BitVec 256)} (at_ : s.AtOp o) (kind : o.kind = .ovl id k) (may : s.mayReport o = true)
  (entry : s.ctx.image.ovls.find? (fun e => e.ovl == id && (e.isle.getD s.isleIx == s.isleIx)) = some e) (read : s.overlayCode e = .ok code)
  (pays : s.pass ((s.overlaySectors e).drop k) = (t, n))
include kind may entry read pays

theorem State.ovlEnd_of_code : s.ovlEnd o =
    if n = (s.overlaySectors e).length - k then ((({ t with core := t.core.mapOverlay e code } : State).overlayTouch e).opPost o).dropOp o
    else (t.setOp { o with kind := .ovl id (k + n), held := o.held && n = 0 }).holdSector { o with kind := .ovl id (k + n), held := o.held && n = 0 } := by
  unfold ovlEnd
  rw [kind]
  dsimp only
  rw [may, if_neg (by decide), entry]
  dsimp only
  rw [read]
  dsimp only
  rw [pays, List.length_drop]

include at_

theorem State.exec_ovlComplete_mapped (all : n = (s.overlaySectors e).length - k) : exec (.ovlComplete o.seq) s =
    .next (((({ t with core := t.core.mapOverlay e code } : State).overlayTouch e).opPost o).dropOp o) := by
  have ends := ovlEnd_of_code kind may entry read pays
  rw [if_pos all] at ends
  refine congrArg Host.Outcome.next (Eq.trans (withOp_of_at at_ (f := ovlEnd) ?_) ends)
  rw [ends]
  have paid := (s.pass_onlyMemory ((s.overlaySectors e).drop k)).stays
  rw [pays] at paid
  have mapped : t.Stays { t with core := t.core.mapOverlay e code } := stays_of_isles rfl rfl
  exact ((paid.trans mapped).trans (touchVa_onlyFrames _ _ _ _ _).onlyMemory.stays).trans ((opPost_stays _ o).trans (dropOp_stays _ o))

theorem State.exec_ovlComplete_held (some_ : n < (s.overlaySectors e).length - k) : ∃ b, exec (.ovlComplete o.seq) s =
    .next ((t.setOp { o with kind := .ovl id (k + n), held := b }).holdSector { o with kind := .ovl id (k + n), held := b }) := by
  have ends := ovlEnd_of_code kind may entry read pays
  rw [if_neg (by omega)] at ends
  refine ⟨_, congrArg Host.Outcome.next (Eq.trans (withOp_of_at at_ (f := ovlEnd) ?_) ends)⟩
  rw [ends]
  have paid := (s.pass_onlyMemory ((s.overlaySectors e).drop k)).stays
  rw [pays] at paid
  exact (paid.trans (setOp_stays _ _)).trans (holdSector_stays _ _)

end

/-- Arming changes nothing but the launch table, a partition's features and the agenda. -/
theorem State.arm_eq (s : State) (n : Nat) (f : LSlot → LSlot) : ∃ x p a, s.arm n f = { s with slots := x, parts := p, agenda := a } := by
  have closed : ∃ p, s.closeFeatures n = { s with parts := p } := by
    unfold closeFeatures
    split
    · exact ⟨_, rfl⟩
    · exact ⟨_, rfl⟩
  obtain ⟨p, hp⟩ := closed
  obtain ⟨l, hl⟩ := onSlot_eq (s.closeFeatures n) n fun x => { f x with st := .armed, checked := false, found := none, dep0 := false, dep1 := false, savedMid := false }
  refine ⟨l, p, s.agenda ++ [.dependenceSatisfied n], ?_⟩
  unfold arm
  dsimp only
  rw [hl, hp]

theorem State.exec_launchReachesTable {n : Nat} {l : List Byte} (at_ : s.AtOp o) (kind : o.kind = .launch n l) (whole : l.length = 128)
    (may : s.mayReport o = true) (free : (s.slotAt n).st = .free) : exec (.launchReachesTable o.seq) s =
      .next ((s.arm n fun x => { x with wfn := 0xFF, record := Mem.wrList [] (place 8 (l.drop 8)) }).dropOp o) := by
  have now : (match o.kind with
      | .launch n l =>
        if l.length ≠ 128 ∨ !s.mayReport o then s
        else if (s.slotAt n).st ≠ .free then s.stopOp o causeBarrier 0x85 n
        else ((s.arm n fun x => { x with wfn := 0xFF, record := Mem.wrList [] (place 8 (l.drop 8)) }).dropOp o)
      | _ => s) = (s.arm n fun x => { x with wfn := 0xFF, record := Mem.wrList [] (place 8 (l.drop 8)) }).dropOp o := by
    rw [kind]
    dsimp only
    rw [if_neg (by simp [whole, may]), if_neg (by simpa using free)]
  refine congrArg Host.Outcome.next (withOp_run at_ now ?_)
  obtain ⟨x, p, a, h⟩ := s.arm_eq n fun x => { x with wfn := 0xFF, record := Mem.wrList [] (place 8 (l.drop 8)) }
  rw [h]
  exact stays_of_isles rfl rfl

theorem State.ops_arm_dropOp {n : Nat} {f : LSlot → LSlot} (alone : s.ops = [o]) : ((s.arm n f).dropOp o).ops = [] := by
  obtain ⟨x, p, a, h⟩ := s.arm_eq n f
  rw [h]
  change s.ops.filter (fun y => y.seq != o.seq) = []
  rw [alone]
  simp

/-! ### Collectives (R306-R308) -/

section
variable {tm : BitVec 512} {base n : Nat} {f : Bool} {dst : BitVec 256}

theorem State.collArrive_of_none (may : s.mayReport o = true) (none : o.bar = none) : collArrive o s = s.dropOp o := by
  unfold collArrive
  rw [may, if_neg (by decide), none]

theorem State.collArrive_stays (s : State) (o : Op) : s.Stays (collArrive o s) := by
  unfold collArrive
  refine .ite .refl ?_
  split
  · exact s.dropOp_stays o
  · dsimp only
    refine .ite (s.holdSector_stays o) ?_
    exact ((s.opBar_stays o _ _).trans (dropOp_stays _ o)).trans (stays_of_isles rfl rfl)

theorem State.vaTrouble_stays (s : State) (o : Op) (e : VaFault) : s.Stays (s.vaTrouble o e) := by
  cases e with
  | xlate e va => exact s.recordOp_stays o _ _ _
  | ecc va u => exact s.loseVa_stays va u

theorem State.joinColl_stays (s : State) (o : Op) (tm : BitVec 512) (base : Nat) : s.Stays (s.joinColl o tm base) := by
  have joins (u : State) (q : Op) (l : List Contribution) : u.Stays (({ u with contribs := l } : State).setOp q) := stays_of_isles rfl rfl
  unfold joinColl
  extract_lets src dst rd c join
  split
  · exact (s.vaTrouble_stays o _).trans (joins _ _ _)
  · exact (s.vaTrouble_stays o _).trans (joins _ _ _)
  · split
    · exact (s.recordOp_stays o _ _ _).trans (joins _ _ _)
    · split
      · exact (s.vaTrouble_stays o _).trans (joins _ _ _)
      · exact joins _ _ _

theorem State.exec_collComplete_arrives (at_ : s.AtOp o) (kind : o.kind = .coll tm base true f dst n) (finished : o.finished = true)
    (may : s.mayReport o = true) (none : o.bar = none) : exec (.collComplete o.seq) s = .next (s.dropOp o) := by
  have arrives := withOp_of_at at_ (f := collArrive) (s.collArrive_stays o)
  refine congrArg Host.Outcome.next ?_
  unfold collEnd
  rw [at_.found]
  dsimp only
  rw [kind]
  dsimp only
  rw [if_pos finished, arrives, collArrive_of_none may none]

theorem State.members_cons (g : List Contribution) (d : Contribution) (k : Contribution → Op → State → State) (s : State) :
    State.members k (d :: g) s = State.members k g (s.onMember d (k d)) := rfl

theorem State.onMember_of_none {d : Contribution} {k : Op → State → State} (abroad : d.origin = none) : s.onMember d k = s := by
  rw [onMember, abroad]

/-- Participants of other devices. -/
theorem State.members_of_none {g : List Contribution} {k : Contribution → Op → State → State} (abroad : ∀ d ∈ g, d.origin = none) :
    State.members k g s = s := by
  induction g with
  | nil => rfl
  | cons d g ih =>
    rw [members_cons, onMember_of_none (abroad d List.mem_cons_self)]
    exact ih fun e he => abroad e (List.mem_cons_of_mem _ he)

/-- The participants, where one alone is of this device. -/
theorem State.members_of_one {g : List Contribution} {c : Contribution} {op : Nat} {k : Contribution → Op → State → State}
    (one : g.filter (fun c => c.origin.isSome) = [c]) (own : c.origin = some op) : State.members k g s = s.withOp op (k c) := by
  induction g with
  | nil => cases one
  | cons d g ih =>
    rw [members_cons]
    rw [List.filter_cons] at one
    split at one
    · obtain ⟨rfl, rest⟩ := List.cons.inj one
      have abroad : ∀ e ∈ g, e.origin = none := fun e he => by simpa using List.filter_eq_nil_iff.1 rest e he
      rw [members_of_none abroad, onMember, own]
    · next abroad =>
      rw [onMember_of_none (by simpa using abroad), ih one]

end

end

/-! ## A collective whose participants have all joined (R306) -/

section
variable {s t u : State} {o : Op} {g : List Contribution} {c : Contribution} {tm : BitVec 512} {base n : Nat} {f : Bool} {dst : BitVec 256}

theorem State.writeResult_onlyFrames (s : State) (g : List Contribution) (o : Op) : s.OnlyFrames (s.writeResult g o).1 := by
  have writes (asid base : Nat) (l : List (Nat × List Byte)) (acc : State × Option VaFault) (h : s.OnlyFrames acc.1) :
      s.OnlyFrames (l.foldl (fun acc x =>
        match acc.2 with
        | some _ => acc
        | none => acc.1.writeVa asid s.ctx.pid ((base + x.1) % 2 ^ 64) x.2) acc).1 := by
    induction l generalizing acc with
    | nil => exact h
    | cons x l ih =>
      refine ih _ ?_
      dsimp only
      split
      · exact h
      · exact h.trans (writeVa_onlyFrames _ _ _ _ _)
  unfold writeResult
  split
  · exact writes _ _ _ _ .refl
  · exact .refl

/-- What a participant's result leaves. -/
theorem State.giveResult_eq (kind : o.kind = .coll tm base true f dst n) :
    ∃ v r, s.OnlyFrames v ∧ giveResult g o s = (v.onCore r).setOp { o with finished := true, held := false } := by
  unfold giveResult
  rw [kind]
  exact ⟨_, _, s.writeResult_onlyFrames g o, rfl⟩

/-- The operation stands finished behind its result. -/
theorem State.atOp_giveResult (at_ : s.AtOp o) (alone : s.ops = [o]) (kind : o.kind = .coll tm base true f dst n) :
    (giveResult g o s).AtOp { o with finished := true, held := false } ∧ s.Stays (giveResult g o s) := by
  obtain ⟨v, r, ⟨_, _, _, rfl⟩, h⟩ := giveResult_eq (s := s) (g := g) kind
  rw [h]
  refine ⟨⟨?_, at_.live, at_.mine, at_.here⟩, stays_of_isles rfl rfl⟩
  simp [setOp, onCore, alone]

section
variable (one : g.filter (fun c => c.origin.isSome) = [c])
include one

theorem mem_of_one : c ∈ g := (List.mem_filter.1 (one ▸ List.mem_cons_self)).1

theorem origin_of_other {d : Contribution} (there : d ∈ g) : d.origin = none ∨ d = c := by
  cases h : d.origin with
  | none => exact .inl rfl
  | some q =>
    have kept : d ∈ g.filter fun c => c.origin.isSome := List.mem_filter.2 ⟨there, by rw [h]; rfl⟩
    rw [one, List.mem_singleton] at kept
    exact .inr kept

variable (at_ : s.AtOp o) (own : c.origin = some o.seq)
include at_ own

omit one own in
theorem State.focusKept_self : s.focusKept o.slot = s := by
  rw [focusKept, ← at_.mine, if_pos (hasCtx_self at_.live), focusSlot_self at_.live]

theorem State.unpaid_of_one (placed : s.resultPlace o = none) : s.unpaid g = none := by
  refine List.find?_eq_none.2 fun d there => ?_
  rcases origin_of_other one there with abroad | rfl
  · rw [abroad]
    exact Bool.false_ne_true
  · rw [own, Option.bind_some, at_.found]
    dsimp only
    rw [focusKept_self at_, placed]
    exact Bool.false_ne_true

theorem State.writable_of_one (writes : (s.writeResult g o).2 = none) : s.writable g = true := by
  refine List.all_eq_true.2 fun d there => ?_
  rcases origin_of_other one there with abroad | rfl
  · rw [abroad]
    rfl
  · rw [own, Option.bind_some, at_.found]
    dsimp only
    rw [focusKept_self at_, writes]
    rfl

theorem State.exec_collComplete_gives (alone : s.ops = [o]) (kind : o.kind = .coll tm base true f dst n) (going : o.finished = false)
    (next : nextColl (collGid tm) s.contribs = some g) (sound : ∀ c ∈ g, c.failed = false) (agrees : collAgrees g = true)
    (placed : s.resultPlace o = none) (writes : (s.writeResult g o).2 = none) : exec (.collComplete o.seq) s = .next
      (collArrive { o with finished := true, held := false } (giveResult g o { s with contribs := s.contribs.filter fun c => !g.contains c })) := by
  let t : State := { s with contribs := s.contribs.filter fun c => !g.contains c }
  have at_t : t.AtOp o := ⟨at_.found, at_.live, at_.mine, at_.here⟩
  obtain ⟨after, stays⟩ := atOp_giveResult (g := g) at_t alone kind
  have gives : State.members (fun _ => giveResult g) g t = giveResult g o t := by
    rw [members_of_one one own]
    exact withOp_run at_t rfl stays
  have arrives := withOp_run (f := fun o s => if o.finished then collArrive o s else s) after (if_pos rfl) (collArrive_stays _ _)
  have mine : g.any (·.origin == some o.seq) = true := List.any_eq_true.2 ⟨c, mem_of_one one, by simp [own]⟩
  have whole : (g.any (·.failed) || !collAgrees g) = false := by
    rw [agrees, Bool.not_true, Bool.or_false, List.any_eq_false]
    exact fun d hd => by simp [sound d hd]
  rw [kind] at arrives
  refine congrArg Host.Outcome.next ?_
  unfold collEnd
  rw [at_.found]
  dsimp only
  rw [kind]
  dsimp only
  rw [if_neg (by rw [going]; decide), next]
  dsimp only
  rw [mine, if_neg (by decide), whole, if_neg (by decide), unpaid_of_one one at_ own placed]
  dsimp only
  rw [writable_of_one one at_ own writes, if_neg (by decide)]
  exact (congrArg (fun u : State => u.withOp o.seq fun o s => if o.finished then collArrive o s else s) gives).trans arrives

end

/-! ### A participant joins -/

section
variable {a b l : List Byte} (source : s.readVa s.ctx.asid s.ctx.pid (collSrc tm base) 32 = .ok a)
  (result : s.readVa s.ctx.asid s.ctx.pid (collDst tm base) 32 = .ok b)
include source result

theorem State.joinColl_of_fit (fits : collHdrFault (collOp tm) a b = none)
    (rows : s.readVa s.ctx.asid s.ctx.pid (collSrc tm base) (Hdr.ofNat (ofLe a)).dataEnd = .ok l) : s.joinColl o tm base =
      ({ s with contribs := s.contribs ++ [{
        gid := collGid tm, rank := collRank tm, npart := collParts tm, op := collOp tm, failed := false, header := BitVec.ofNat 256 (ofLe a), bytes := l
        who := (o.slot, o.px, o.py), origin := some o.seq }] } : State).setOp
        { o with kind := .coll tm base true false (BitVec.ofNat 256 (ofLe (if collOp tm = 3 then b else a))) 0 } := by
  unfold joinColl
  extract_lets src dst rd c join
  have r1 : rd src 32 = .ok a := source
  have r2 : rd dst 32 = .ok b := result
  have r3 : rd src (Hdr.ofNat (ofLe a)).dataEnd = .ok l := rows
  rw [r1, r2]
  dsimp only
  rw [fits]
  dsimp only
  rw [r3]

theorem State.joinColl_of_unfit {e : Fail} (unfit : collHdrFault (collOp tm) a b = some e) : (s.joinColl o tm base).contribs =
    s.contribs ++ [{
      gid := collGid tm, rank := collRank tm, npart := collParts tm, op := collOp tm, failed := true, header := 0, bytes := []
      who := (o.slot, o.px, o.py), origin := some o.seq }] := by
  have recorded (cause info addr : Nat) : (s.recordOp o cause info addr).contribs = s.contribs := by
    unfold recordOp
    split <;> rfl
  unfold joinColl
  extract_lets src dst rd c join
  have r1 : rd src 32 = .ok a := source
  have r2 : rd dst 32 = .ok b := result
  rw [r1, r2]
  dsimp only
  rw [unfit]
  exact congrArg (· ++ [c]) (recorded _ _ _)

end

end

/-! ## Reductions (R138, R307, R308) -/

/-- The rows of operations 0 to 2. -/
theorem reduction_rows {op : Nat} (dst : Hdr) (parts : List (Hdr × Mem)) (other : op ≠ 3) :
    (reduction op dst parts).1 = (List.range dst.rows).map fun r =>
      (dst.doff + r * dst.stride, (List.range dst.cols).flatMap fun c =>
        toLe ((tagFmt (BitVec.ofNat 32 (dst.efd % 2 ^ 24))).width / 8)
          (reduceElem op (tagFmt (BitVec.ofNat 32 (dst.efd % 2 ^ 24))) (parts.map fun p => p.1.elem (tagFmt (BitVec.ofNat 32 (dst.efd % 2 ^ 24))) p.2 0 r c)).1) := by
  unfold reduction
  rw [if_neg other]
  dsimp only
  rw [List.map_map]
  refine List.map_congr_left fun r _ => ?_
  dsimp only [Function.comp_apply]
  rw [List.flatMap_map]

/-- A group of the exact sum. -/
theorem mem_reduction_groups (dst : Hdr) (parts : List (Hdr × Mem)) {r g : Nat} (hr : r < dst.rows) (hg : g < ceilDiv dst.cols 128) :
    (accAddr 0 dst r g, toLe 2 (wrap (exactGroup (parts.map fun p => readGroup p.2 (accAddr 0 p.1 r g))).1.e 16) ++ List.replicate 30 0 ++
      (List.range 128).flatMap fun j => toLe 8 (if 128 * g + j < dst.cols then
        ((exactGroup (parts.map fun p => readGroup p.2 (accAddr 0 p.1 r g))).1.s.getD j 0).toNat else 0)) ∈ (reduction 3 dst parts).1 := by
  unfold reduction
  rw [if_pos rfl]
  dsimp only
  refine List.mem_map.2 ⟨(r, g, exactGroup (parts.map fun p => readGroup p.2 (accAddr 0 p.1 r g))), List.mem_flatMap.2 ⟨r, List.mem_range.2 hr, ?_⟩, ?_⟩
  rotate_left
  · dsimp only
  simp only [List.mem_map, List.mem_range]
  exact ⟨g, hg, by simp only⟩

theorem reduceElem_int {f : Fmt} {l : List Nat} (int : f.isInt = true) : reduceElem 0 f l = clampInt f (l.map (intOf f)).sum := by
  have folds (a : Int) : l.foldl (fun a x => a + intOf f x) a = a + (l.map (intOf f)).sum := by
    induction l generalizing a with
    | nil => simp
    | cons x l ih => rw [List.foldl_cons, ih, List.map_cons, List.sum_cons, add_assoc]
  unfold reduceElem
  rw [if_pos int, folds, zero_add]
  rfl

theorem reduceElem_float {f : Fmt} {x : Nat} {l : List Nat} (float : f.isInt = false) : reduceElem 0 f (x :: l) =
    floatResult f ((x :: l).any fun y => (valueOf f y).isNan) (l.foldl (fun a y => a.add (valueOf f y)) (valueOf f x)) { rm := .rne, sat := false, r := 0 } := by
  unfold reduceElem
  rw [if_neg (by rw [float]; decide), List.map_cons]
  dsimp only
  rw [List.foldl_map, ← List.map_cons, List.any_map]
  rfl

/-! ### The exact sum of groups of one exponent (R74, R307) -/

section
variable {parts : List AccRow} {e : Int}

/-- A row whose significands count. -/
def AccRow.counts (r : AccRow) : Bool := r.s.any fun x => x != 0 && x != accNan

theorem maxOf_of_all {l : List Int} (ne : l ≠ []) (all : ∀ x ∈ l, x = e) : maxOf l = some e := by
  induction l with
  | nil => exact absurd rfl ne
  | cons x l ih =>
    obtain rfl := all x List.mem_cons_self
    rw [maxOf]
    cases l with
    | nil => rfl
    | cons y l =>
      rw [ih (by simp) fun z hz => all z (List.mem_cons_of_mem _ hz)]
      simp

theorem sum_map_filter_of_zero {α : Type} {l : List α} {p : α → Bool} {f : α → Int} (zero : ∀ x ∈ l, p x = false → f x = 0) :
    ((l.filter p).map f).sum = (l.map f).sum := by
  induction l with
  | nil => rfl
  | cons x l ih =>
    have rest := ih fun y hy => zero y (List.mem_cons_of_mem _ hy)
    rw [List.filter_cons, List.map_cons, List.sum_cons, ← rest]
    cases h : p x with
    | true => rw [if_pos rfl, List.map_cons, List.sum_cons]
    | false => rw [if_neg (by decide), zero x List.mem_cons_self h, zero_add]

theorem getD_mem_or {l : List W64} (j : Nat) : l.getD j 0 ∈ l ∨ l.getD j 0 = 0 := by
  rw [List.getD_eq_getElem?_getD]
  cases h : l[j]? with
  | none => exact .inr rfl
  | some x => exact .inl (List.mem_of_getElem? h)

section
variable (all : ∀ p ∈ parts, p.e = e ∧ ∀ x ∈ p.s, x ≠ accNan) (some_ : ∃ p ∈ parts, ∃ x ∈ p.s, x ≠ 0)
include all

theorem getD_ne_accNan {p : AccRow} (there : p ∈ parts) (j : Nat) : p.s.getD j 0 ≠ accNan := by
  rcases getD_mem_or (l := p.s) j with h | h
  · exact (all p there).2 _ h
  · rw [h]
    decide

theorem getD_of_uncounted {p : AccRow} (there : p ∈ parts) (zero : p.counts = false) (j : Nat) : p.s.getD j 0 = 0 := by
  rcases getD_mem_or (l := p.s) j with h | h
  · have out := List.any_eq_false.1 zero _ h
    have sound := (all p there).2 _ h
    by_contra ne
    exact out (by rw [bne_iff_ne.2 ne, bne_iff_ne.2 sound]; rfl)
  · exact h

include some_

/-- The exponent of the rows that count. -/
theorem maxOf_counted : maxOf ((parts.filter AccRow.counts).map (·.e)) = some e := by
  obtain ⟨p, there, x, hx, ne⟩ := some_
  have counted : p ∈ parts.filter AccRow.counts :=
    List.mem_filter.2 ⟨there, List.any_eq_true.2 ⟨x, hx, by rw [bne_iff_ne.2 ne, bne_iff_ne.2 ((all p there).2 x hx)]; rfl⟩⟩
  refine maxOf_of_all (fun h => ?_) fun y hy => ?_
  · rw [List.map_eq_nil_iff] at h
    rw [h] at counted
    cases counted
  · obtain ⟨q, hq, rfl⟩ := List.mem_map.1 hy
    exact (all q (List.mem_filter.1 hq).1).1

/-- The aligned sum of rows of one exponent is the sum of their significands, and discards nothing. -/
theorem alignedSum_of_one_exponent :
    alignedSum parts = ((List.range 128).map fun j => .ofInt ((parts.map fun p => (p.s.getD j 0).toInt).sum) e, false) := by
  unfold alignedSum
  extract_lets live top shifted col l
  have htop : top = e := by rw [show top = (maxOf ((parts.filter AccRow.counts).map (·.e))).getD 0 from rfl, maxOf_counted all some_]; rfl
  have aligned (r : AccRow) (hr : r ∈ live) (j : Nat) : shifted r j = ((r.s.getD j 0).toInt, false) := by
    have exponent : r.e = e := (all r (List.mem_filter.1 hr).1).1
    simp only [shifted, htop, exponent, sub_self, Int.toNat_zero, pow_zero, Nat.cast_one, Int.ediv_one, Int.emod_one]
    rfl
  have column (j : Nat) : col j = (.ofInt ((parts.map fun p => (p.s.getD j 0).toInt).sum) e, false) := by
    have sound : (parts.any fun r => r.s.getD j 0 == accNan) = false :=
      List.any_eq_false.2 fun r hr => by simpa using getD_ne_accNan all hr j
    have shifts : (live.map fun r => shifted r j) = live.map fun r => ((r.s.getD j 0).toInt, false) := List.map_congr_left fun r hr => aligned r hr j
    have counted : (live.map fun r => (r.s.getD j 0).toInt).sum = (parts.map fun r => (r.s.getD j 0).toInt).sum :=
      sum_map_filter_of_zero fun r hr zero => by
        rw [getD_of_uncounted all hr zero]
        rfl
    have folds (l : List AccRow) (a : Int) :
        (l.map fun r => ((r.s.getD j 0).toInt, false)).foldl (fun a x => a + x.1) a = a + (l.map fun r => (r.s.getD j 0).toInt).sum := by
      induction l generalizing a with
      | nil => simp
      | cons r l ih => rw [List.map_cons, List.foldl_cons, ih, List.map_cons, List.sum_cons, add_assoc]
    have exact_ : ((live.map fun r => ((r.s.getD j 0).toInt, false)).any (·.2)) = false := by
      rw [List.any_map]
      exact List.any_eq_false.2 fun r _ => Bool.false_ne_true
    simp only [col]
    rw [sound, if_neg (by decide), shifts, folds, counted, exact_, htop, zero_add]
  have whole : l = (List.range 128).map fun j => (XVal.ofInt ((parts.map fun p => (p.s.getD j 0).toInt).sum) e, false) :=
    List.map_congr_left fun j _ => column j
  clear_value l
  subst whole
  generalize List.range 128 = js
  rw [List.map_map, List.any_map]
  refine Prod.ext rfl ?_
  exact List.any_eq_false.2 fun j _ => Bool.false_ne_true

end

end

section
variable {s t u : State} {o q : Op}

theorem State.ops_setOp_of_one (alone : u.ops = [o]) (same : q.seq = o.seq) : (u.setOp q).ops = [q] := by
  rw [setOp, alone]
  simp [same]

theorem sideBuf_code (b : Buf) : sideBuf (bufCode b + 1) = some b := by cases b <;> rfl

/-- Eight bytes filled into AB. -/
theorem State.core_fill_word (s : State) (a n : Nat) : (s.fill .ab a (toLe 8 n)).core = { s.core with ab := s.core.ab.wrList (place a (toLe 8 n)) } := by
  have short : ¬ (toLe 8 n).length = 32 := by
    rw [length_toLe]
    decide
  unfold fill onCore
  dsimp only
  rw [if_neg short]
  rfl

end

/-! ### The turns of operations whose context and isle are in focus -/

section
variable {s t u : State} {o : Op} {pl : Place} {b : Buf} {a va n k : Nat}

/-- An operation after a turn of it. -/
def Op.turned (o : Op) (k : OpKind) (fin : Bool) : Op := { o with kind := k, finished := fin, held := false }

/-- An operation as its turn begins. -/
def Op.woken (o : Op) : Op := { o with held := false }

theorem Op.woken_eq (going : o.finished = false) : o.woken = o.turned o.kind false := by
  cases o
  dsimp only at going
  subst going
  rfl

section
variable (here : s.AtOp o) (going : o.finished = false) (allowed : o.usesDm = true → s.mayReport o = true) (let_ : s.letIn pl = some t)
include here going allowed let_

theorem State.exec_transfer_xld (kind : o.kind = .xld b a va n k) (placed : s.ctxRead s.ctx (va + k) = .ok pl) (sound : s.poisoned pl = false) :
    exec (.asyncSectorTransfer o.seq) s = .next (((t.ctxTouch (va + k) true false).fill b (a + k) (s.devRead pl (min 32 (n - k)))).setOp
      (o.turned (.xld b a va n (k + 32)) (decide (n ≤ k + 32)))) := by
  refine exec_transfer here allowed (sectorStep_xld (q := o.woken) going kind (take_of_memory rfl let_ placed sound)) ?_
  exact ((letIn_onlyMemory let_).trans (t.ctxTouch_onlyFrames _ _ _).onlyMemory).stays.trans ((fill_stays _ b _ _).trans (setOp_stays _ _))

variable (alone : s.ops = [o])
include alone

theorem State.exec_transfer_xst (kind : o.kind = .xst b a va n k) (sound : s.core.spoiled b (a + k) (min 32 (n - k)) = false)
    (placed : s.ctxWrite s.ctx (va + k) = .ok pl) (good : pl.bad = false) :
    ∃ t', exec (.asyncSectorTransfer o.seq) s = .next t' ∧ t'.ops = [o.turned (.xst b a va n (k + 32)) (decide (n ≤ k + 32))] ∧ t'.core = s.core ∧
      t'.dram = ((t.ctxTouch (va + k) false true).devWrite pl ((s.core.buf b).bytes (a + k) (min 32 (n - k)))).dram := by
  have written : s.OnlyMemory (((t.ctxTouch (va + k) false true).devWrite pl ((s.core.buf b).bytes (a + k) (min 32 (n - k)))).healed pl
      ((s.core.buf b).bytes (a + k) (min 32 (n - k))).length) :=
    ((letIn_onlyMemory let_).trans (t.ctxTouch_onlyFrames _ _ _).onlyMemory).trans
      ((devWrite_onlyFrames _ pl _).trans (healed_onlyFrames _ pl _)).onlyMemory
  refine ⟨_, exec_transfer here allowed (sectorStep_xst (q := o.woken) going kind (take_of_buf (sideBuf_code b) sound)
    (put_of_memory rfl let_ placed good)) (written.stays.trans (setOp_stays _ _)), ?_, written.core, healed_dram _ _ _⟩
  exact ops_setOp_of_one (written.ops.trans alone) rfl

theorem State.exec_transfer_xatom {op : AtomOp} {y : W64} {res : Nat} {d : Bool} {old : W64} (kind : o.kind = .xatom op va y res d)
    (placed : s.ctxModify s.ctx va = .ok pl) (sound : s.poisoned pl = false) (was : BitVec.ofNat 64 (ofLe (s.devRead pl 8)) = old) :
    ∃ t', exec (.asyncSectorTransfer o.seq) s = .next t' ∧ t'.ops = [o.turned (.xatom op va y res true) true] ∧
      t'.core = { s.core with ab := s.core.ab.wrList (place res (toLe 8 old.toNat)) } ∧
      t'.dram = ((t.ctxTouch va true true).devWrite pl (toLe 8 (atomic op old y).toNat)).dram := by
  have step := sectorStep_xatom (q := o.woken) going kind placed sound let_
  rw [was] at step
  have written : s.OnlyMemory ((t.ctxTouch va true true).devWrite pl (toLe 8 (atomic op old y).toNat)) :=
    ((letIn_onlyMemory let_).trans (t.ctxTouch_onlyFrames _ _ _).onlyMemory).trans (devWrite_onlyFrames _ pl _).onlyMemory
  generalize (t.ctxTouch va true true).devWrite pl (toLe 8 (atomic op old y).toNat) = v at step written
  refine ⟨_, exec_transfer here allowed step (written.stays.trans ((fill_stays _ _ _ _).trans (setOp_stays _ _))), ?_, ?_, rfl⟩
  · exact ops_setOp_of_one (u := v.fill .ab res (toLe 8 old.toNat)) (written.ops.trans alone) rfl
  · rw [← written.core]
    exact v.core_fill_word res _

end

/-! ### The turns of a copy -/

section
variable {src dst row col : Nat} {tm : BitVec 512} {sd : Option Nat} {hdr : Option (BitVec 256)} {d : Bool} {t1 t2 : State} {l x : List Byte}
  (here : s.AtOp o) (going : o.finished = false) (allowed : o.usesDm = true → s.mayReport o = true) (kind : o.kind = .xcopy src dst tm row col sd hdr d)
include here going allowed kind

theorem State.exec_transfer_xcopy (step : s.copyStep o.woken src dst tm row col sd hdr d = t) (stays : s.Stays t) :
    exec (.asyncSectorTransfer o.seq) s = .next t :=
  exec_transfer here allowed ((sectorStep_xcopy (q := o.woken) going kind).trans step) stays

theorem State.exec_transfer_header (wants : tmplHmode tm ≠ 0) (none : hdr = none) (got : s.take (tmplFld tm 4 2) src 32 = .bytes t1 l) :
    (copyHdrFault tm l = .none → exec (.asyncSectorTransfer o.seq) s =
      .next (t1.setOp (o.turned (.xcopy src dst tm row col sd (some (BitVec.ofNat 256 (ofLe l))) d) false))) ∧
    (∀ f, copyHdrFault tm l = some f → exec (.asyncSectorTransfer o.seq) s =
      .next (t1.stopOp (o.turned o.kind false) f.1 f.info (if f.2.1 = 3 then dst else src))) := by
  have step := copyStep_header (q := o.woken) (dst := dst) (row := row) (col := col) (sd := sd) (d := d) wants none got
  have read := (take_onlyMemory got).stays
  rw [Op.woken_eq going] at step
  refine ⟨fun fits => ?_, fun f unfit => ?_⟩
  · rw [fits] at step
    exact exec_transfer_xcopy here going allowed kind (by rw [Op.woken_eq going]; exact step) (read.trans (setOp_stays _ _))
  · rw [unfit] at step
    exact exec_transfer_xcopy here going allowed kind (by rw [Op.woken_eq going]; exact step) (read.trans (stopOp_stays _ _ _ _ _))

section
variable (checked : tmplHmode tm = 0 ∨ hdr ≠ none)
include checked

theorem State.exec_transfer_data (more : row < tmplRows tm)
    (read : (o.got = none ∧ s.take (tmplFld tm 4 2) (copyFrom tm sd hdr src row col) 32 = .bytes t1 l) ∨ (o.got = some l ∧ t1 = s)) :
    (∀ t2 x, t1.put (tmplFld tm 6 2) (copyTo tm dst row col) l = .bytes t2 x → exec (.asyncSectorTransfer o.seq) s =
      .next (t2.moved { o.turned (.xcopy src dst tm (copyNext tm row col).1 (copyNext tm row col).2 sd hdr d)
        (decide ((copyNext tm row col).1 = tmplRows tm ∧ tmplHmode tm ≠ 2)) with got := none } 32)) ∧
    (t1.put (tmplFld tm 6 2) (copyTo tm dst row col) l = .held → exec (.asyncSectorTransfer o.seq) s =
      .next (t1.holdSector { o.turned o.kind false with got := some l })) := by
  have step := copyStep_read (q := o.woken) (src := src) (dst := dst) (d := d) checked more read
  have stays : s.Stays t1 := by
    rcases read with ⟨_, got⟩ | ⟨_, rfl⟩
    · exact (take_onlyMemory got).stays
    · exact .refl
  refine ⟨fun t2 x puts => ?_, fun held => ?_⟩
  · rw [puts] at step
    exact exec_transfer_xcopy here going allowed kind step ((stays.trans (put_stays puts)).trans (moved_stays _ _ _))
  · rw [held] at step
    rw [← Op.woken_eq going]
    exact exec_transfer_xcopy here going allowed kind step (stays.trans (holdSector_stays _ _))

theorem State.exec_transfer_last (all : tmplRows tm ≤ row)
    (puts : s.put (tmplFld tm 6 2) dst (rewrittenHdr tm (Hdr.ofNat ((hdr.getD 0).toNat))).image = .bytes t2 x) :
    exec (.asyncSectorTransfer o.seq) s = .next (t2.moved (o.turned (.xcopy src dst tm row col sd hdr true) true) 32) :=
  exec_transfer_xcopy here going allowed kind (copyStep_last (q := o.woken) (src := src) (d := d) checked all puts) ((put_stays puts).trans (moved_stays _ _ _))

end

end

end

/-- Settles O43. -/
theorem operationEvents : Obligations.OperationEvents := by
  refine ⟨fun s o here alone => ⟨State.exec_transfer_of_early here, fun b a va n k pl t kind open_ placed sound let_ => ?_,
      fun b a va n k pl t kind open_ sound placed good let_ => ?_, fun op va y res d pl t kind open_ placed sound let_ => ?_,
      fun src dst tm row col sd hdr d kind open_ => ⟨fun t1 l wants none got => ⟨fun fits => ?_, fun f unfit => ?_⟩,
        fun t1 l checked more read => ⟨fun t2 x puts => ?_, fun held => ?_⟩, fun t2 x rewrites some_ all puts => ?_⟩,
      fun b a va n k f c kind finished may bar flag low room => ?_, fun kinds finished may paid => ?_, fun ref x t ok kind may free updates => ?_,
      fun id k e code t n kind may entry read pays => ⟨fun all => ?_, fun some_ => ?_⟩, fun n l kind whole may free => ?_,
      fun tm base failed dst n kind finished may bar => ?_, fun tm base f dst n kind open_ all => ?_,
      fun tm base f dst n g c kind going next one own sound agrees placed writes => ?_⟩,
    fun s o tm base a b l source result => ⟨fun fits rows => State.joinColl_of_fit source result fits rows,
      fun f unfit => State.joinColl_of_unfit source result unfit⟩,
    fun dst parts op => ⟨fun other => reduction_rows dst parts other, fun r g hr hg => mem_reduction_groups dst parts hr hg⟩,
    fun f x l => ⟨fun int => reduceElem_int int, fun float => reduceElem_float float, rfl, rfl⟩,
    fun parts e j all some_ low => ?_, fun z pl n l wf => State.dev_spec wf n l, fun s side a n l => ⟨fun b buf => ⟨State.put_of_buf buf, State.take_of_buf buf⟩,
      fun pl t memory let_ => ⟨State.take_of_memory memory let_, fun placed good => ?_⟩⟩, fun s left right => ?_⟩
  · exact State.exec_transfer_xld here open_.1 open_.2 let_ kind placed sound
  · exact State.exec_transfer_xst here open_.1 open_.2 let_ alone kind sound placed good
  · exact State.exec_transfer_xatom here open_.1 open_.2 let_ alone kind placed sound rfl
  · exact (State.exec_transfer_header here open_.1 open_.2 kind wants none got).1 fits
  · exact (State.exec_transfer_header here open_.1 open_.2 kind wants none got).2 f unfit
  · exact (State.exec_transfer_data here open_.1 open_.2 kind checked more read).1 t2 x puts
  · exact (State.exec_transfer_data here open_.1 open_.2 kind checked more read).2 held
  · exact State.exec_transfer_last here open_.1 open_.2 kind (.inr some_) all puts
  · refine (State.exec_complete_transfer here (by rw [kind]; rfl) finished (State.mayReport_of_nil may) (.inl bar)).trans ?_
    rw [State.opPost_of_here here flag room]
    rfl
  · refine State.exec_complete_transfer here ?_ finished may paid
    rcases kinds with ⟨_, _, _, _, _, h⟩ | ⟨_, _, _, _, _, h⟩ | ⟨_, _, _, _, _, h⟩ | ⟨_, _, _, _, _, _, _, _, h⟩ <;> rw [h] <;> rfl
  · exact State.exec_complete_barrier here kind may free updates
  · exact State.exec_ovlComplete_mapped here kind (State.mayReport_of_nil may) entry read pays all
  · exact State.exec_ovlComplete_held here kind (State.mayReport_of_nil may) entry read pays some_
  · exact ⟨_, State.exec_launchReachesTable here kind whole (State.mayReport_of_nil may) free, State.ops_arm_dropOp alone, rfl⟩
  · exact State.exec_collComplete_arrives here kind finished (State.mayReport_of_nil may) bar
  · have step := State.sectorStep_coll (q := o.woken) open_.1 kind all
    have ran := State.exec_transfer here open_.2 step (State.joinColl_stays _ _ _ _)
    rw [Op.woken_eq open_.1] at ran
    exact ran
  · exact State.exec_collComplete_gives one here own alone kind going next sound agrees placed writes
  · have eq := alignedSum_of_one_exponent all some_
    refine ⟨rfl, ?_, ?_⟩
    · rw [eq, List.getElem?_map, List.getElem?_range low]
      rfl
    · rw [show (exactGroup parts).2.1 = (alignedSum parts).2 from rfl, eq]
  · have written := ((State.letIn_onlyMemory let_).trans (t.ctxTouch_onlyFrames a false true).onlyMemory).trans
      ((State.devWrite_onlyFrames _ pl l).trans (State.healed_onlyFrames _ pl l.length)).onlyMemory
    exact ⟨_, State.put_of_memory memory let_ placed good, State.healed_dram _ _ _, written.core⟩
  · let frees (s : State) : State := if s.holdOver then { s with core := { s.core with hold := none } } else s
    have kept : (frees s).left = [] := by
      dsimp only [frees]
      split <;> exact left
    exact congrArg Host.Outcome.next (State.eachIsle_alone (f := frees) left right kept)

end Sys2Proof.Machine
end

section
/-! PROOFS. Memories stay canonical: the relation, and what instructions and events share -/

namespace Sys2Proof.Machine

/-! ## Memories stay canonical

What a function of the model leaves is compared with an earlier state `u`. In the inner mode (`i = true`) the function stays with the context in
focus, which need not be a live one, and says of that context's isles and of the others' apart that they stay canonical; otherwise it may bring
other contexts into focus, and keeps those of every live context so. -/

/-- The memories that must be canonical for those of the context in focus to be so afterwards. -/
def State.Canonical (i : Bool) (u : State) : Prop := if i then ∀ c ∈ u.isles, c.MemCanonical else u.IslesCanonical

/-- The memories that must be canonical for those of the other contexts to be so afterwards. -/
def State.RestCanonical (i : Bool) (u : State) : Prop := if i then ∀ r ∈ u.others, ∀ c ∈ r.isles, c.MemCanonical else u.IslesCanonical

/-- What finds a context's record again: its slot, and how many isles it has. -/
def CtxRec.shape (r : CtxRec) : Nat × Nat := (r.ctx.slot, r.isles.length)

/-- Memories after a function, compared with the state `u` before it. -/
structure State.KeepsParts (i : Bool) (u : State) (wb ab acb ballast : Mem) (left right : List Isle) (others : List CtxRec) (dram : Mem) : Prop where
  dram : u.dram.wf = true → dram.wf = true
  shapes : i = true → others.map CtxRec.shape = u.others.map CtxRec.shape
  core : u.Canonical i → wb.wf = true ∧ ab.wf = true ∧ acb.wf = true ∧ ballast.wf = true
  left : u.Canonical i → ∀ c ∈ left, c.MemCanonical
  right : u.Canonical i → ∀ c ∈ right, c.MemCanonical
  others : u.RestCanonical i → ∀ r ∈ others, ∀ c ∈ r.isles, c.MemCanonical

/-- Memories after a function, those of the isle in focus by that isle. -/
abbrev State.KeepsIsle (i : Bool) (u : State) (c : Isle) (left right : List Isle) (others : List CtxRec) (dram : Mem) : Prop :=
  u.KeepsParts i c.wb c.ab c.acb c.ballast left right others dram

/-- The memories of `s`, compared with those of `u`. -/
abbrev State.Keeps (i : Bool) (u s : State) : Prop := u.KeepsIsle i s.core s.left s.right s.others s.dram

section
variable {i : Bool} {u s t : State} {wb ab acb ballast dram m : Mem} {left right : List Isle} {others : List CtxRec}

theorem State.canonical_inner_iff : s.Canonical true ↔ s.core.MemCanonical ∧ (∀ c ∈ s.left, c.MemCanonical) ∧ (∀ c ∈ s.right, c.MemCanonical) := by
  rw [Canonical, if_pos rfl]
  simp only [isles, List.mem_append, List.mem_reverse, List.mem_cons]
  constructor
  · exact fun h => ⟨h _ (.inr (.inl rfl)), fun c hc => h c (.inl hc), fun c hc => h c (.inr (.inr hc))⟩
  · rintro ⟨hcore, hleft, hright⟩ d (hd | rfl | hd)
    · exact hleft d hd
    · exact hcore
    · exact hright d hd

theorem State.canonical_outer_iff : s.Canonical false ↔ s.IslesCanonical := by rw [Canonical, if_neg (by decide)]

theorem State.restCanonical_inner_iff : s.RestCanonical true ↔ ∀ r ∈ s.others, ∀ c ∈ r.isles, c.MemCanonical := by rw [RestCanonical, if_pos rfl]

theorem State.restCanonical_outer_iff : s.RestCanonical false ↔ s.IslesCanonical := by rw [RestCanonical, if_neg (by decide)]

theorem State.canonical_outer_iff_inner : s.Canonical false ↔ s.Canonical true ∧ s.RestCanonical true := by
  rw [canonical_outer_iff, canonical_inner_iff, restCanonical_inner_iff, and_assoc, and_assoc]
  rfl

@[simp] theorem State.keeps_refl (i : Bool) (s : State) : s.Keeps i s := by
  cases i with
  | true =>
    refine ⟨id, fun _ => rfl, fun h => ?_, fun h => ?_, fun h => ?_, fun h => restCanonical_inner_iff.mp h⟩
    · exact (canonical_inner_iff.mp h).1
    · exact (canonical_inner_iff.mp h).2.1
    · exact (canonical_inner_iff.mp h).2.2
  | false =>
    exact ⟨id, fun _ => rfl, fun h => (canonical_outer_iff.mp h).1, fun h => (canonical_outer_iff.mp h).2.1, fun h => (canonical_outer_iff.mp h).2.2.1,
      fun h => (restCanonical_outer_iff.mp h).2.2.2⟩

theorem State.Keeps.islesCanonical (h : u.Keeps false s) (c : u.IslesCanonical) : s.IslesCanonical :=
  have k := canonical_outer_iff.mpr c
  ⟨h.core k, h.left k, h.right k, h.others (restCanonical_outer_iff.mpr c)⟩

theorem State.Keeps.canonical (h : u.Keeps i s) (c : u.Canonical i) : s.Canonical i := by
  cases i with
  | true => exact canonical_inner_iff.mpr ⟨h.core c, h.left c, h.right c⟩
  | false => exact canonical_outer_iff.mpr (Keeps.islesCanonical h (canonical_outer_iff.mp c))

theorem State.Keeps.restCanonical (h : u.Keeps i s) (c : u.RestCanonical i) : s.RestCanonical i := by
  cases i with
  | true => exact restCanonical_inner_iff.mpr (h.others c)
  | false => exact restCanonical_outer_iff.mpr (Keeps.islesCanonical h (restCanonical_outer_iff.mp c))

theorem State.Keeps.trans (h : u.Keeps i s) (g : s.Keeps i t) : u.Keeps i t :=
  ⟨g.dram ∘ h.dram, fun inner => (g.shapes inner).trans (h.shapes inner), fun c => g.core (Keeps.canonical h c), fun c => g.left (Keeps.canonical h c),
    fun c => g.right (Keeps.canonical h c), fun c => g.others (Keeps.restCanonical h c)⟩

/-- What keeps the inner form keeps the outer one. -/
theorem State.Keeps.outer (g : s.Keeps true t) : s.Keeps false t :=
  ⟨g.dram, fun h => absurd h (by decide), fun c => g.core (canonical_outer_iff_inner.mp c).1, fun c => g.left (canonical_outer_iff_inner.mp c).1,
    fun c => g.right (canonical_outer_iff_inner.mp c).1,
    fun c => g.others (canonical_outer_iff_inner.mp (canonical_outer_iff.mpr (restCanonical_outer_iff.mp c))).2⟩

/-! ### One memory changed -/

/-- Device memory changed. -/
theorem State.KeepsParts.with_dram (h : u.KeepsParts i wb ab acb ballast left right others dram) (g : dram.wf = true → m.wf = true) :
    u.KeepsParts i wb ab acb ballast left right others m := { h with dram := g ∘ h.dram }

section
variable (l : List (Nat × Byte)) (a n x : Nat)

@[simp] theorem State.keeps_dram_wrList (h : u.KeepsParts i wb ab acb ballast left right others dram) :
    u.KeepsParts i wb ab acb ballast left right others (dram.wrList l) := h.with_dram (Mem.wf_wrList l)

@[simp] theorem State.keeps_dram_clearRange (h : u.KeepsParts i wb ab acb ballast left right others dram) :
    u.KeepsParts i wb ab acb ballast left right others (dram.clearRange a n) := h.with_dram (Mem.wf_clearRange a n)

@[simp] theorem State.keeps_wb_wrList (h : u.KeepsParts i wb ab acb ballast left right others dram) :
    u.KeepsParts i (wb.wrList l) ab acb ballast left right others dram :=
  { h with core := fun c => ⟨Mem.wf_wrList l (h.core c).1, (h.core c).2⟩ }

@[simp] theorem State.keeps_ab_wrList (h : u.KeepsParts i wb ab acb ballast left right others dram) :
    u.KeepsParts i wb (ab.wrList l) acb ballast left right others dram :=
  { h with core := fun c => ⟨(h.core c).1, Mem.wf_wrList l (h.core c).2.1, (h.core c).2.2⟩ }

@[simp] theorem State.keeps_acb_wrList (h : u.KeepsParts i wb ab acb ballast left right others dram) :
    u.KeepsParts i wb ab (acb.wrList l) ballast left right others dram :=
  { h with core := fun c => ⟨(h.core c).1, (h.core c).2.1, Mem.wf_wrList l (h.core c).2.2.1, (h.core c).2.2.2⟩ }

@[simp] theorem State.keeps_ballast_wrList (h : u.KeepsParts i wb ab acb ballast left right others dram) :
    u.KeepsParts i wb ab acb (ballast.wrList l) left right others dram :=
  { h with core := fun c => ⟨(h.core c).1, (h.core c).2.1, (h.core c).2.2.1, Mem.wf_wrList l (h.core c).2.2.2⟩ }

@[simp] theorem State.keeps_ab_wrN (h : u.KeepsParts i wb ab acb ballast left right others dram) :
    u.KeepsParts i wb (ab.wrN a n x) acb ballast left right others dram := keeps_ab_wrList _ h

@[simp] theorem State.keeps_ballast_wrN (h : u.KeepsParts i wb ab acb ballast left right others dram) :
    u.KeepsParts i wb ab acb (ballast.wrN a n x) left right others dram := keeps_ballast_wrList _ h

end

/-- The isle in focus changed, its memories still canonical. -/
theorem State.KeepsParts.with_core {c : Isle} (h : u.Keeps i s) (g : s.core.MemCanonical → c.MemCanonical) :
    u.KeepsParts i c.wb c.ab c.acb c.ballast s.left s.right s.others s.dram := { h with core := fun k => g (h.core k) }

/-! ## Device memory (R252, R258) -/

@[simp] theorem State.keeps_zeroFrame (h : u.Keeps i s) (pl : Place) : u.Keeps i (s.zeroFrame pl) := by
  unfold zeroFrame onPart
  split <;> simp [Keeps, h]

@[simp] theorem State.keeps_zeroFrames (h : u.Keeps i s) (l : List Place) : u.Keeps i (s.zeroFrames l) := by
  induction l generalizing s with
  | nil => exact h
  | cons pl l ih => exact ih (keeps_zeroFrame h pl)

@[simp] theorem State.keeps_touch (h : u.Keeps i s) (asid pid : Nat) (q : Asked) : u.Keeps i (s.touch asid pid q) := keeps_zeroFrames h _

@[simp] theorem State.keeps_ctxTouch (h : u.Keeps i s) (va : Nat) (rd wr : Bool) : u.Keeps i (s.ctxTouch va rd wr) := keeps_touch h _ _ _

end

open State

section
variable {i : Bool} {u s t : State} {c : Isle} {dram m : Mem} {left right : List Isle} {others : List CtxRec}

/-! ## What slot words and events share (R187, R207, R257) -/

theorem Isle.keeps_raiseLate (h : u.KeepsIsle i c left right others dram) (x : TrapRec) : u.KeepsIsle i (c.raiseLate x) left right others dram := by
  unfold raiseLate
  split
  · exact h
  · split <;> exact h

theorem Isle.keeps_startX (h : u.KeepsIsle i c left right others dram) (x : XRun) : u.KeepsIsle i (c.startX x) left right others dram := by
  unfold startX
  dsimp only
  split <;> exact h

theorem Isle.keeps_setLoops (h : u.KeepsIsle i c left right others dram) (l : List LoopEnt) : u.KeepsIsle i (c.setLoops l) left right others dram := by
  unfold setLoops
  split <;> exact h

theorem State.keeps_refTouch (h : u.Keeps i s) (x : W64) : u.Keeps i (s.refTouch x) := by
  unfold refTouch
  split
  · exact keeps_ctxTouch h _ _ _
  · exact h

theorem State.keeps_doom (h : u.Keeps i s) (a b d : Nat) : u.Keeps i (s.doom a b d) := h

theorem State.keeps_uncorrectable (h : u.Keeps i s) (x : ErrUnit) : u.Keeps i (s.uncorrectable x) := h

theorem State.keeps_loseVa (h : u.Keeps i s) (a : Nat) (x : ErrUnit) : u.Keeps i (s.loseVa a x) := h

theorem State.keeps_loseAt (h : u.Keeps i s) (k : SlotId) (a : Nat) : u.Keeps i (s.loseAt k a) := h

theorem State.keeps_stageMuwr (h : u.Keeps i s) (rc : Nat) : u.Keeps i (s.stageMuwr rc) := by
  unfold stageMuwr
  split
  · exact h
  · split <;> exact h

end

open State

section
variable {i : Bool} {u s t : State} {c : Isle} {dram m : Mem} {left right : List Isle} {others : List CtxRec}

/-! ## Micro-words (R231) -/

theorem State.keeps_muFault (h : u.Keeps i s) (r : Routine) (f : MuFault) : u.Keeps i (s.muFault r f) := by
  unfold muFault
  dsimp only
  split
  · exact keeps_loseAt h _ _
  · exact Isle.keeps_raiseLate (by exact h) _

theorem State.keeps_micro (h : u.Keeps i s) (k : MuUnit) (ready : Routine → Bool) (body : Routine → Except MuFault (Nat × Routine)) :
    u.Keeps i (s.micro k ready body) := by
  unfold micro
  split
  · exact h
  · split
    · exact h
    · split
      · exact keeps_muFault h _ _
      · exact h

theorem State.keeps_commitWord (h : u.Keeps i s) (ret : Bool) : u.Keeps i (s.commitWord ret) := by
  have micro := keeps_micro h .fold (·.idle) fun r => r.commitWord s.core.mat.actset s.core.engineView ret
  unfold commitWord
  dsimp only
  split
  · exact micro
  · split <;> exact micro

/-! ## Landings (R221, R302, R367) -/

theorem Isle.keeps_stores (h : u.KeepsIsle i c left right others dram) (b : Buf) (l : List (Nat × Byte)) :
    u.KeepsIsle i (c.stores b l) left right others dram := by
  unfold stores healed setBuf buf
  cases b <;> simp [KeepsIsle, h]

theorem Isle.keeps_writesLand (h : u.KeepsIsle i c left right others dram) (l : List Eff) :
    u.KeepsIsle i (c.writesLand l) left right others dram := by
  refine List.foldlRecOn l _ (motive := fun c => u.KeepsIsle i c left right others dram) h fun c h e _ => ?_
  cases e with
  | store | storeBits => exact keeps_stores h _ _
  | _ => exact h

theorem Isle.keeps_sysWrite (h : u.KeepsIsle i c left right others dram) (r : SysReg) (x : W64) :
    u.KeepsIsle i (c.sysWrite r x) left right others dram := by
  unfold sysWrite
  split
  · split <;> exact h
  · split <;> exact h
  all_goals exact h

theorem Isle.keeps_record (h : u.KeepsIsle i c left right others dram) (x : W64) : u.KeepsIsle i (c.record x) left right others dram := by
  unfold record
  dsimp only
  split <;> exact h

/-- The records that a vector's landing puts into the queue. -/
theorem Isle.keeps_records {α : Type} (h : u.KeepsIsle i c left right others dram) (l : List α) (g : α → W64) :
    u.KeepsIsle i (l.foldl (fun c e => c.record (g e)) c) left right others dram :=
  List.foldlRecOn l _ (motive := fun c => u.KeepsIsle i c left right others dram) h fun _ h _ _ => keeps_record h _

theorem Isle.keeps_onFlights (h : u.KeepsIsle i c left right others dram) (g : List Flight → List Flight) :
    u.KeepsIsle i (c.onFlights g) left right others dram := by simp [KeepsIsle, h]

/-- The isle that a landing leaves. -/
theorem Isle.keeps_landed (h : u.KeepsIsle i c left right others dram) (f : Flight) : u.KeepsIsle i (c.landed f) left right others dram := by
  unfold landed
  split
  case h_1 => simp [KeepsIsle, h]
  case h_2 => split <;> exact h
  case h_3 => exact keeps_records (by exact h) _ _
  case h_4 => split <;> exact h
  case h_9 => exact keeps_stores h _ _
  case h_10 => exact keeps_stores h _ _
  case h_11 =>
    dsimp only
    split
    · exact keeps_onFlights (keeps_stores h _ _) _
    · exact keeps_stores h _ _
  case h_12 =>
    dsimp only
    split <;> simp [KeepsIsle, h, healed]
  case h_13 => exact keeps_sysWrite h _ _
  all_goals exact h

end

open State

section
variable {i : Bool} {u s t : State} {c : Isle} {wb ab acb ballast dram m : Mem} {left right : List Isle} {others : List CtxRec}

/-! ## Landings and the network (R278, R302, R367) -/

/-- Every other context changed by a function of its record. -/
theorem State.KeepsParts.map_others (h : u.KeepsParts i wb ab acb ballast left right others dram) {f : CtxRec → CtxRec}
    (shape : ∀ r, (f r).shape = r.shape) (mems : ∀ r, (∀ c ∈ r.isles, c.MemCanonical) → ∀ c ∈ (f r).isles, c.MemCanonical) :
    u.KeepsParts i wb ab acb ballast left right (others.map f) dram where
  dram := h.dram
  shapes inner := by rw [← h.shapes inner, List.map_map]; exact List.map_congr_left fun r _ => shape r
  core := h.core
  left := h.left
  right := h.right
  others k r hr := by
    obtain ⟨q, hq, rfl⟩ := List.mem_map.mp hr
    exact mems q (h.others k q hq)

theorem Isle.memCanonical_getD_addFlag {f : Fin 32} {n : Nat} (h : c.MemCanonical) : ((c.addFlag f n).getD c).MemCanonical := by
  unfold addFlag
  dsimp only
  split <;> exact h

theorem forall_mem_modify {α : Type*} {p : α → Prop} {l : List α} {k : Nat} {f : α → α} (hf : ∀ x, p x → p (f x)) (h : ∀ x ∈ l, p x) :
    ∀ x ∈ l.modify k f, p x := by
  intro x hx
  obtain ⟨j, hj, rfl⟩ := List.mem_iff_getElem.mp hx
  rw [List.getElem_modify]
  split
  · exact hf _ (h _ (List.getElem_mem _))
  · exact h _ (List.getElem_mem _)

theorem State.keeps_postTo (h : u.Keeps i s) (c : Nat) (f : Fin 32) (n : Nat) : u.Keeps i (s.postTo c f n) := by
  unfold postTo
  split
  · split
    · next d hd =>
      refine h.with_core fun k => ?_
      have := Isle.memCanonical_getD_addFlag (f := f) (n := n) k
      rwa [hd] at this
    · exact h
  · refine h.map_others (fun r => ?_) fun r hr => ?_
    · split <;> simp [CtxRec.shape]
    · split
      · exact forall_mem_modify (fun _ => Isle.memCanonical_getD_addFlag) hr
      · exact hr

theorem State.Keeps.barHere (h : u.Keeps i s) {a : Nat} {b : BarUpd} (ht : s.barHere a b = .ok t) : u.Keeps i t := by
  unfold State.barHere at ht
  split at ht
  · cases ht
  · cases ht
    simp [Keeps, KeepsIsle, h]

theorem State.keeps_barLands (h : u.Keeps i s) (a : Nat) (b : BarUpd) (q : Nat) : u.Keeps i (s.barLands a b q) := by
  unfold barLands
  extract_lets init
  clear_value init
  split
  · exact keeps_loseAt h _ _
  · split
    · next ht => exact Keeps.barHere h ht
    · exact h

theorem State.keeps_lands (h : u.Keeps i s) (f : Flight) : u.Keeps i (s.lands f) := by
  have flights : u.Keeps i (s.onCore fun c => c.onFlights fun l => l.filter (· != f)) := by simp [Keeps, KeepsIsle, h]
  unfold lands
  dsimp only
  split
  · exact h
  · exact h
  · exact keeps_postTo flights _ _ _
  · exact keeps_barLands flights _ _ _
  · exact Isle.keeps_landed flights _

theorem Isle.keeps_chain (h : u.KeepsIsle i c left right others dram) (b : Buf) (a : Nat) (f : Flight) :
    u.KeepsIsle i (c.chain b a f) left right others dram := keeps_onFlights h _

theorem State.keeps_perform (h : u.Keeps i s) (f : Flight) (x : Access) (d : Due) : u.Keeps i (s.perform f x d) := by
  have rest (g : List Flight → List Flight) : u.Keeps i (s.onCore fun c => c.onFlights g) := Isle.keeps_onFlights h g
  unfold perform
  extract_lets gone t
  split
  · exact keeps_loseAt (rest _) _ _
  · have ht : u.Keeps i t := by
      cases hx : s.sampled x <;> simp only [t, hx] <;> exact rest _
    clear_value t
    split
    · exact Isle.keeps_chain ht _ _ _
    · exact ht
    · exact ht
    · exact ht

/-! ### The isles of a context -/

/-- The isles of a state, those of its context in focus in another order. -/
theorem State.Keeps.isles (h : u.Keeps i s) (k : u.Canonical i) : ∀ c ∈ s.isles, c.MemCanonical := by
  have inner : s.Canonical true := canonical_inner_iff.mpr ⟨h.core k, h.left k, h.right k⟩
  rwa [Canonical, if_pos rfl] at inner

/-- Other isles in focus, all of them canonical, before the same other contexts and device memory. -/
theorem State.Keeps.with_isles (h : u.Keeps i s) (g : (∀ c ∈ s.isles, c.MemCanonical) → ∀ c ∈ t.isles, c.MemCanonical)
    (others : t.others = s.others) (dram : t.dram = s.dram) : u.Keeps i t := by
  have inner (k : u.Canonical i) : t.Canonical true := by
    rw [Canonical, if_pos rfl]
    exact g (Keeps.isles h k)
  refine ⟨?_, ?_, fun k => (canonical_inner_iff.mp (inner k)).1, fun k => (canonical_inner_iff.mp (inner k)).2.1,
    fun k => (canonical_inner_iff.mp (inner k)).2.2, ?_⟩
  · rw [dram]
    exact h.dram
  · rw [others]
    exact h.shapes
  · rw [others]
    exact h.others

theorem State.keeps_focusIsle (h : u.Keeps i s) (n : Nat) : u.Keeps i (s.focusIsle n) :=
  Keeps.with_isles h (by rw [focusIsle_isles]; exact id) (focusIsle_others s n) (focusIsle_dram s n)

theorem State.keeps_atIsle {f : State → State} (h : u.Keeps i s) (hf : ∀ s, u.Keeps i s → u.Keeps i (f s)) (x y : Nat) :
    u.Keeps i (s.atIsle x y f) := keeps_focusIsle (hf _ (keeps_focusIsle h _)) _

theorem State.keeps_overIsles {f : State → State} (h : u.Keeps i s) (hf : ∀ s, u.Keeps i s → u.Keeps i (f s)) (l : List Nat) :
    u.Keeps i (s.overIsles f l) := by
  induction l generalizing s with
  | nil => exact h
  | cons n l ih => exact ih (hf _ (keeps_focusIsle h n))

theorem State.keeps_eachIsle {f : State → State} (h : u.Keeps i s) (hf : ∀ s, u.Keeps i s → u.Keeps i (f s)) : u.Keeps i (s.eachIsle f) :=
  keeps_focusIsle (keeps_overIsles h hf _) _

end

open State

section
variable {i : Bool} {u s t : State} {c : Isle} {wb ab acb ballast dram m : Mem} {left right : List Isle} {others : List CtxRec}

/-! ## Writes of device memory (R258) -/

theorem State.keeps_devWrite (h : u.Keeps i s) (pl : Place) (l : List Byte) : u.Keeps i (s.devWrite pl l) := by
  unfold devWrite
  simp [Keeps, KeepsIsle, h]

theorem State.keeps_writeVa (h : u.Keeps i s) (asid pid va : Nat) (l : List Byte) : u.Keeps i (s.writeVa asid pid va l).1 := by
  induction l generalizing s va with
  | nil => exact h
  | cons x l ih =>
    unfold writeVa
    dsimp only
    split
    · exact keeps_zeroFrames h _
    · split
      · exact keeps_zeroFrames h _
      · exact ih (keeps_devWrite (keeps_zeroFrames h _) _ _) _

theorem State.keeps_blame (h : u.Keeps i s) (x : Option ErrUnit) : u.Keeps i (s.blame x) := by
  cases x <;> exact h

theorem State.keeps_writeChunks (base : Nat) (l : List Chunk) (h : u.Keeps i s) : u.Keeps i (writeChunks base l s).1 := by
  induction l generalizing s with
  | nil => exact h
  | cons x l ih =>
    have written := keeps_writeVa h s.ctx.asid s.ctx.pid (base + x.1) x.2
    unfold writeChunks
    split
    · next eq => exact ih (by rwa [eq] at written)
    · next eq => exact keeps_blame (by rwa [eq] at written) _

theorem State.keeps_patchBlocks (l : Live) (save : Nat) (old : State) (ns : List Nat) (h : u.Keeps i s) : u.Keeps i (patchBlocks l save old ns s).1 := by
  induction ns generalizing s with
  | nil => exact h
  | cons n ns ih =>
    have written := keeps_writeChunks (save + n * s.ctx.image.blockSize) (changedBytes ((old.focusIsle n).saveBlock l) ((s.focusIsle n).saveBlock l))
      (keeps_focusIsle h n)
    unfold patchBlocks
    dsimp only
    split
    · next eq => exact ih (by rwa [eq] at written)
    · next eq => rwa [eq] at written

/-! ## The context in focus -/

/-- Live contexts whose memories stay canonical. -/
theorem State.Keeps.of_outer (h : u.Keeps false s) (dram : s.dram.wf = true → t.dram.wf = true) (isles : s.IslesCanonical → t.IslesCanonical) :
    u.Keeps false t where
  dram := dram ∘ h.dram
  shapes := fun inner => absurd inner (by decide)
  core k := (isles (Keeps.islesCanonical h (canonical_outer_iff.mp k))).1
  left k := (isles (Keeps.islesCanonical h (canonical_outer_iff.mp k))).2.1
  right k := (isles (Keeps.islesCanonical h (canonical_outer_iff.mp k))).2.2.1
  others k := (isles (Keeps.islesCanonical h (restCanonical_outer_iff.mp k))).2.2.2

theorem State.IslesCanonical.isles (h : s.IslesCanonical) : ∀ c ∈ s.isles, c.MemCanonical := by
  have inner := (canonical_outer_iff_inner.mp (canonical_outer_iff.mpr h)).1
  rwa [Canonical, if_pos rfl] at inner

/-- A context's record in focus. -/
theorem State.islesCanonical_unpack {r : CtxRec} (core : r.isles ≠ [] ∨ s.core.MemCanonical) (isles : ∀ c ∈ r.isles, c.MemCanonical)
    (others : ∀ r ∈ s.others, ∀ c ∈ r.isles, c.MemCanonical) : (s.unpack r).IslesCanonical := by
  unfold unpack
  split
  · next eq => exact ⟨core.resolve_left fun ne => ne eq, List.forall_mem_nil _, List.forall_mem_nil _, others⟩
  · next c l eq =>
    rw [eq] at isles
    obtain ⟨head, tail⟩ := List.forall_mem_cons.mp isles
    exact ⟨head, List.forall_mem_nil _, tail, others⟩

theorem State.unpack_dram (s : State) (r : CtxRec) : (s.unpack r).dram = s.dram := (s.unpack_onlyContexts r).dram

theorem State.keeps_focusSlot (h : u.Keeps false s) (n : Nat) : u.Keeps false (s.focusSlot n) := by
  refine Keeps.of_outer h (by rw [(s.focusSlot_onlyContexts n).dram]; exact id) fun k => ?_
  obtain ⟨core, _, _, others⟩ := id k
  unfold focusSlot
  split
  · exact k
  · split
    · exact k
    · next r found =>
      refine islesCanonical_unpack (.inr core) (others r (List.mem_of_find?_eq_some found)) fun q hq => ?_
      dsimp only at hq
      split at hq
      · obtain rfl | hq := List.mem_cons.mp hq
        · exact k.isles
        · exact others q (List.mem_of_mem_filter hq)
      · exact others q (List.mem_of_mem_filter hq)

theorem State.keeps_withSlot {f : State → State} (h : u.Keeps false s) (n : Nat) (hf : ∀ s, u.Keeps false s → u.Keeps false (f s)) :
    u.Keeps false (s.withSlot n f) := by
  have inside := hf _ (keeps_focusSlot h n)
  unfold withSlot
  split
  · dsimp only
    split
    · exact keeps_focusIsle (keeps_focusSlot inside _) _
    · exact inside
  · exact h

/-- The state is in the context of slot `n`, where there is one. -/
def State.Home (n : Nat) (s : State) : Prop := s.ctx.slot = n ∧ (s.ctx.live = true ∨ ∀ r ∈ s.others, r.ctx.slot ≠ n)

/-- In the context of its slot, `withSlot` does not leave it. -/
theorem State.Home.withSlot {n : Nat} (home : s.Home n) (f : State → State) : s.withSlot n f = f s ∨ s.withSlot n f = s := by
  obtain ⟨rfl, live⟩ := home
  unfold State.withSlot focusSlot
  cases hl : s.ctx.live
  · right
    have away : ¬ s.hasCtx s.ctx.slot = true := by
      simpa [hasCtx, hl] using live.resolve_left (by simp [hl])
    rw [if_neg away]
  · left
    have here : s.hasCtx s.ctx.slot = true := by simp [hasCtx, hl]
    simp [here]

theorem State.Home.keeps {n : Nat} {f : State → State} (home : s.Home n) (h : u.Keeps i s) (hf : u.Keeps i (f s)) : u.Keeps i (s.withSlot n f) := by
  obtain eq | eq := home.withSlot f <;> rw [eq] <;> assumption

theorem State.home_unpack {n : Nat} {r : CtxRec} (slot : r.ctx.slot = n) (away : ∀ q ∈ s.others, q.ctx.slot ≠ n) : (s.unpack r).Home n := by
  unfold unpack
  split <;> exact ⟨slot, .inr away⟩

theorem State.focusSlot_home {n : Nat} (has : s.hasCtx n = true) : (s.focusSlot n).Home n := by
  unfold focusSlot
  split
  · next here => simp only [Bool.and_eq_true, beq_iff_eq] at here; exact ⟨here.2, .inl here.1⟩
  · next away =>
    split
    · next none =>
      rw [hasCtx, Bool.or_eq_true, List.any_eq_true] at has
      obtain has | ⟨r, hr, eq⟩ := has
      · exact absurd has away
      · exact absurd eq (List.find?_eq_none.mp none r hr)
    · next r found =>
      have slot := List.find?_some found
      refine home_unpack (by simpa using slot) fun q hq => ?_
      dsimp only at hq
      split at hq
      · next live =>
        obtain rfl | hq := List.mem_cons.mp hq
        · simpa [focusRec, live] using away
        · simpa using (List.mem_filter.mp hq).2
      · simpa using (List.mem_filter.mp hq).2

theorem State.Home.of_ctx {n : Nat} (home : s.Home n) (h : s.Keeps true t) (slot : t.ctx.slot = s.ctx.slot) (live : t.ctx.live = s.ctx.live) : t.Home n := by
  refine ⟨slot.trans home.1, live ▸ home.2.imp_right fun away r hr eq => ?_⟩
  have shape : r.shape ∈ s.others.map CtxRec.shape := h.shapes rfl ▸ List.mem_map_of_mem hr
  obtain ⟨q, hq, same⟩ := List.mem_map.mp shape
  exact away q hq ((congrArg Prod.fst same).trans eq)

/-! ### Contexts that are kept -/

/-- The kept context's record in focus, the context in focus before it among the others. -/
theorem State.focusKept_kept {n : Nat} (away : ¬ s.hasCtx n = true) (kept : ¬ (s.saved.all (·.ctx.slot != n)) = true) :
    ∃ r l, r.ctx.slot = n ∧ s.focusKept n = State.unpack { s with others := if s.ctx.live then s.focusRec :: s.others else s.others, saved := l } r := by
  unfold focusKept
  rw [if_neg away]
  split
  · next none => exact absurd (List.all_eq_true.mpr fun r hr => bne_iff_ne.mpr fun eq => List.find?_eq_none.mp none r hr (beq_iff_eq.mpr eq)) kept
  · next r found => exact ⟨r, _, by simpa using List.find?_some found, rfl⟩

theorem State.unpack_others (s : State) (r : CtxRec) : (s.unpack r).others = s.others := by
  unfold unpack
  split <;> rfl

/-- Putting a kept context back: the context that was in focus before it is found among the others. -/
theorem State.keeps_shelve {ix : Nat} {l : List CtxRec} (h : u.Keeps false s) (dram : s.dram.wf = true → t.dram.wf = true)
    (shapes : t.others.map CtxRec.shape = (if s.ctx.live then s.focusRec :: l else l).map CtxRec.shape)
    (others : s.IslesCanonical → ∀ r ∈ t.others, ∀ c ∈ r.isles, c.MemCanonical) :
    u.Keeps false (t.shelve s.ctx.live s.ctx.slot ix) := by
  unfold shelve
  dsimp only
  split
  · next live =>
    rw [if_pos live] at shapes
    obtain ⟨r, rest, eq, hr, -⟩ := List.map_eq_cons_iff.mp (shapes.trans (List.map_cons ..))
    have found : t.others.find? (·.ctx.slot == s.ctx.slot) = some r := by
      rw [eq, List.find?_cons_of_pos]
      exact beq_iff_eq.mpr (congrArg Prod.fst hr)
    have nonempty : r.isles ≠ [] := fun none => by
      have := congrArg Prod.snd hr
      simp [CtxRec.shape, none, focusRec, isles] at this
    rw [found]
    refine keeps_focusIsle (Keeps.of_outer h (by rw [unpack_dram]; exact dram) fun k => ?_) _
    exact islesCanonical_unpack (.inl nonempty) (others k r (List.mem_of_find?_eq_some found)) fun q hq => others k q (List.mem_of_mem_filter hq)
  · exact Keeps.of_outer h dram fun k => ⟨Isle.start_memCanonical 0 0 64, List.forall_mem_nil _, List.forall_mem_nil _, others k⟩

/-- A function of the context of slot `n`, whether the isles hold that context or it is kept. -/
theorem State.keeps_withKept {f : State → State} (h : u.Keeps false s) (n : Nat) (hf : ∀ s, State.Home n s → s.Keeps true (f s)) :
    u.Keeps false (s.withKept n f) := by
  unfold withKept
  split
  · next has =>
    have inside : u.Keeps false (f (s.focusSlot n)) := (keeps_focusSlot h n).trans (Keeps.outer (hf _ (focusSlot_home has)))
    unfold withSlot
    rw [if_pos has]
    dsimp only
    split
    · exact keeps_focusIsle (keeps_focusSlot inside _) _
    · exact inside
  · next away =>
    split
    · exact h
    · next kept =>
      obtain ⟨r, saved, slot, eq⟩ := focusKept_kept away kept
      extract_lets a save t
      split
      next v ok patched =>
      have put : u.Keeps false ((v.focusIsle 0).shelve s.ctx.live s.ctx.slot s.isleIx) := by
        have aothers : a.others = if s.ctx.live then s.focusRec :: s.others else s.others := by rw [show a = _ from eq, unpack_others]
        have home : a.Home n := by
          rw [show a = _ from eq]
          refine home_unpack slot fun q hq same => away ?_
          rw [hasCtx, Bool.or_eq_true, List.any_eq_true]
          dsimp only at hq
          split at hq
          · next live =>
            obtain rfl | hq := List.mem_cons.mp hq
            · exact .inl (Bool.and_eq_true_iff.mpr ⟨live, beq_iff_eq.mpr same⟩)
            · exact .inr ⟨q, hq, beq_iff_eq.mpr same⟩
          · exact .inr ⟨q, hq, beq_iff_eq.mpr same⟩
        have inner : a.Keeps true (v.focusIsle 0) := by
          have := keeps_patchBlocks (a.ctx.image.liveList (a.ctx.safeList.getD 0)) save a (List.range a.isleCount) (hf a home)
          rw [patched] at this
          exact keeps_focusIsle this 0
        refine keeps_shelve (l := s.others) h (fun k => inner.dram ?_) ((inner.shapes rfl).trans (by rw [aothers])) fun k => ?_
        · rw [show a = _ from eq, unpack_dram]
          exact k
        · refine inner.others (restCanonical_inner_iff.mpr ?_)
          rw [aothers]
          split
          · exact List.forall_mem_cons.mpr ⟨k.isles, k.2.2.2⟩
          · exact k.2.2.2
      dsimp only
      split <;> exact put

/-! ### The context and isle of an operation -/

theorem State.Home.focusIsle {n : Nat} (home : s.Home n) (k : Nat) : (s.focusIsle k).Home n := by
  unfold State.focusIsle
  split <;> exact home

theorem State.keeps_withOp {f : Op → State → State} (h : u.Keeps false s) (q : Nat) (hf : ∀ o s, State.Home o.slot s → s.Keeps true (f o s)) :
    u.Keeps false (s.withOp q f) := by
  unfold withOp
  split
  · exact h
  · next o _ =>
    refine keeps_withKept h _ fun s home => ?_
    exact keeps_focusIsle ((keeps_focusIsle (keeps_refl true s) _).trans (hf o _ (home.focusIsle _))) _

theorem State.keeps_onMember {f : Op → State → State} (h : u.Keeps false s) (c : Contribution) (hf : ∀ o s, State.Home o.slot s → s.Keeps true (f o s)) :
    u.Keeps false (s.onMember c f) := by
  unfold onMember
  split
  · exact keeps_withOp h _ hf
  · exact h

theorem State.keeps_members {f : Contribution → Op → State → State} (hf : ∀ c o s, State.Home o.slot s → s.Keeps true (f c o s)) (l : List Contribution)
    (h : u.Keeps false s) : u.Keeps false (members f l s) := by
  induction l generalizing s with
  | nil => exact h
  | cons c l ih => exact ih (keeps_onMember h c (hf c))

end

open State

section
variable {i : Bool} {u s t : State} {c : Isle} {dram m : Mem} {left right : List Isle} {others : List CtxRec}

/-! ## The network and the engine (R166, R278, R283, R285) -/

theorem Isle.keeps_linkEvent (h : u.KeepsIsle i c left right others dram) (link : Bool) (d : Dir) (rc : Nat) :
    u.KeepsIsle i (c.linkEvent link d rc) left right others dram := by
  unfold linkEvent
  extract_lets _ _ t _ _ _ _ _ v
  clear_value v
  split
  · split
    · exact h
    · exact keeps_raiseLate h _
  · exact h

theorem State.keeps_onward (h : u.Keeps i s) (t : Trav) : u.Keeps i (s.onward t) := h

theorem State.keeps_putWord (h : u.Keeps i s) (t : Trav) (d : Dir) (rc : Nat) : u.Keeps i (s.putWord t d rc) := by
  unfold putWord
  dsimp only
  split
  · exact Isle.keeps_linkEvent h _ _ _
  · exact h

theorem State.keeps_landWord (h : u.Keeps i s) (t : Trav) (d : Dir) (rc : Nat) : u.Keeps i (s.landWord t d rc) := by
  unfold landWord
  split
  · split
    · exact h
    · exact keeps_putWord h _ _ _
  · exact keeps_putWord h _ _ _

theorem State.keeps_atFarEnd (t : Trav) (rc : Nat) (h : u.Keeps i s) : u.Keeps i (atFarEnd t rc s) := by
  unfold atFarEnd
  dsimp only
  split
  · split
    · exact keeps_landWord (keeps_onward h _) _ _ _
    · exact keeps_landWord h _ _ _
  · split
    · exact h
    · exact keeps_landWord h _ _ _
  · split <;> exact h
  · split <;> exact h

theorem State.keeps_wordArrives (h : u.Keeps i s) (n : Nat) : u.Keeps i (s.wordArrives n) := by
  unfold wordArrives
  split
  · exact h
  · dsimp only
    split
    · refine keeps_atIsle (by exact h) (fun s h => ?_) _ _
      exact Isle.keeps_linkEvent h _ _ _
    · refine keeps_atIsle (by exact h) (fun s h => ?_) _ _
      exact keeps_atFarEnd _ _ h

theorem Isle.keeps_expire (h : u.KeepsIsle i c left right others dram) (rc : Nat) (d : Dir) :
    u.KeepsIsle i (c.expire rc d) left right others dram := by
  unfold expire
  split
  · split <;> exact h
  · exact h

theorem State.keeps_serveRemote (h : u.Keeps i s) (t : Trav) (op : AtomOp) (b : Buf) (a : Nat) (y : W64) :
    u.Keeps i (s.serveRemote t op b a y) := Isle.keeps_chain h _ _ _

theorem Isle.keeps_intervalEnd (h : u.KeepsIsle i c left right others dram) (rc : Nat) :
    u.KeepsIsle i (c.intervalEnd rc) left right others dram := by
  unfold intervalEnd
  split
  · exact h
  · split
    · extract_lets m n d
      have hd : u.KeepsIsle i d left right others dram := by
        simp only [d]
        split
        · exact h
        · exact h
        · exact h
        · split
          · exact h
          · exact keeps_raiseLate (by exact h) _
      clear_value d
      split
      · exact hd
      · exact keeps_startX (by exact hd) _
    · exact h

/-! ## Waits (R154, R371, R375) -/

theorem Isle.keeps_takeColl (h : u.KeepsIsle i c left right others dram) (ref : W64) (ph : Nat) :
    u.KeepsIsle i (c.takeColl ref ph) left right others dram := keeps_records (by exact h) _ _

theorem State.keeps_showColl (h : u.Keeps i s) (ref : W64) (ph : Nat) : u.Keeps i (s.showColl ref ph) := by
  unfold showColl
  split
  · exact Isle.keeps_takeColl h _ _
  · split
    · exact h
    · exact keeps_eachIsle h fun _ h => Isle.keeps_takeColl h _ _

theorem State.keeps_consume (h : u.Keeps i s) : u.Keeps i s.consume := by
  unfold consume
  split
  · exact h
  · exact keeps_showColl (by exact h) _ _
  · exact h

end

open State

section
variable {i : Bool} {u s t : State} {c : Isle} {dram m : Mem} {left right : List Isle} {others : List CtxRec}

/-! ## The operations of the copy unit (R290, R298, R301) -/

theorem State.keeps_setOp (h : u.Keeps i s) (o : Op) : u.Keeps i (s.setOp o) := h

theorem State.keeps_dropOp (h : u.Keeps i s) (o : Op) : u.Keeps i (s.dropOp o) := h

theorem State.keeps_await (h : u.Keeps i s) (x : Instr) : u.Keeps i (s.await x) := by
  unfold await
  split <;> exact h

theorem State.keeps_record (h : u.Keeps i s) (f : DefFault) : u.Keeps i (s.record f) := h

theorem State.keeps_recordOp (h : u.Keeps i s) (o : Op) (a b d : Nat) : u.Keeps i (s.recordOp o a b d) := by
  unfold recordOp
  split <;> exact h

theorem State.keeps_stopOp (h : u.Keeps i s) (o : Op) (a b d : Nat) : u.Keeps i (s.stopOp o a b d) := keeps_dropOp (keeps_recordOp h o a b d) o

theorem State.keeps_holdSector (h : u.Keeps i s) (o : Op) : u.Keeps i (s.holdSector o) := by
  refine keeps_await (keeps_setOp ?_ _) _
  split <;> exact h

theorem State.Keeps.channelIn (h : u.Keeps i s) {pl : Place} (eq : s.channelIn pl = some t) : u.Keeps i t := by
  unfold State.channelIn at eq
  split at eq
  · split at eq
    · exact Option.some.inj eq ▸ h
    · cases eq
  · exact Option.some.inj eq ▸ h

theorem State.Keeps.letIn (h : u.Keeps i s) {pl : Place} (eq : s.letIn pl = some t) : u.Keeps i t := by
  unfold State.letIn at eq
  extract_lets ok at eq
  split at eq
  · exact Keeps.channelIn (by exact h) eq
  · cases eq

theorem State.Keeps.take (h : u.Keeps i s) {side a n : Nat} {l : List Byte} (eq : s.take side a n = .bytes t l) : u.Keeps i t := by
  unfold State.take at eq
  split at eq
  · split at eq
    · cases eq
    · split at eq
      · cases eq
      · split at eq
        · cases eq
        · next v admitted =>
          injection eq with eq
          exact eq ▸ keeps_ctxTouch (Keeps.letIn h admitted) _ _ _
  · split at eq
    · cases eq
    · injection eq with eq
      exact eq ▸ h

theorem State.keeps_fill (h : u.Keeps i s) (b : Buf) (a : Nat) (l : List Byte) : u.Keeps i (s.fill b a l) := by
  unfold fill Isle.setBuf Isle.buf
  cases b <;> simp [Keeps, KeepsIsle, h]

theorem State.Keeps.put (h : u.Keeps i s) {side a : Nat} {l r : List Byte} (eq : s.put side a l = .bytes t r) : u.Keeps i t := by
  unfold State.put at eq
  split at eq
  · split at eq
    · cases eq
    · split at eq
      · cases eq
      · split at eq
        · cases eq
        · next v admitted =>
          have written := keeps_devWrite (keeps_ctxTouch (Keeps.letIn h admitted) a false true) ‹Place› l
          injection eq with eq
          subst eq
          split <;> exact written
  · injection eq with eq
    exact eq ▸ keeps_fill h _ _ _

theorem State.keeps_onGot {g : Got} {k : State → List Byte → State} (h : u.Keeps i s) (o : Op)
    (hk : ∀ t l, g = .bytes t l → u.Keeps i (k t l)) : u.Keeps i (s.onGot o g k) := by
  unfold onGot
  split
  · exact hk _ _ rfl
  · exact keeps_holdSector h o
  · exact keeps_stopOp (keeps_ctxTouch h _ _ _) _ _ _ _
  · exact keeps_loseVa h _ _

/-! ### Barriers (R302, R303) -/

theorem State.Keeps.barLetIn (h : u.Keeps i s) {asid pid va : Nat} {kite : Bool} {x : BarUpd} (eq : s.barLetIn asid pid va kite x = some t) :
    u.Keeps i t := by
  unfold State.barLetIn at eq
  split at eq
  · exact Keeps.letIn h eq
  · exact Option.some.inj eq ▸ h

theorem State.keeps_getD_barLetIn (h : u.Keeps i s) (asid pid va : Nat) (kite : Bool) (x : BarUpd) :
    u.Keeps i ((s.barLetIn asid pid va kite x).getD s) := by
  cases eq : s.barLetIn asid pid va kite x with
  | none => exact h
  | some t => exact Keeps.barLetIn h eq

theorem State.keeps_barWrite (h : u.Keeps i s) (pl : Place) (old new : BarW) : u.Keeps i (s.barWrite pl old new) := by
  unfold barWrite
  extract_lets t
  have written : u.Keeps i t := keeps_devWrite h pl _
  clear_value t
  split <;> exact written

theorem State.Keeps.barAt (h : u.Keeps i s) {asid pid va : Nat} {kite : Bool} {x : BarUpd} (eq : s.barAt asid pid va kite x = .ok t) :
    u.Keeps i t := by
  unfold State.barAt at eq
  dsimp only at eq
  split at eq
  · cases eq
  · split at eq
    · cases eq
    · split at eq
      · cases eq
      · injection eq with eq
        exact eq ▸ keeps_barWrite h _ _ _

theorem State.keeps_opBar (h : u.Keeps i s) (o : Op) (ref : W64) (x : BarUpd) : u.Keeps i (s.opBar o ref x).1 := by
  unfold opBar
  split
  · exact h
  · split
    · next eq => exact Keeps.barHere h eq
    · exact keeps_recordOp h _ _ _ _
  · next va _ =>
    have touched := keeps_touch h s.ctx.asid s.ctx.pid (x.asked va false)
    dsimp only
    split
    · next eq => exact Keeps.barAt (keeps_getD_barLetIn touched _ _ _ _ _) eq
    · exact keeps_recordOp touched _ _ _ _
    · exact keeps_recordOp touched _ _ _ _
    · exact keeps_loseVa touched _ _

/-- An update of a barrier stays in its context. -/
theorem State.opBar_ctx (s : State) (o : Op) (ref : W64) (x : BarUpd) :
    (s.opBar o ref x).1.ctx.slot = s.ctx.slot ∧ (s.opBar o ref x).1.ctx.live = s.ctx.live := by
  have recorded (t : State) (a b d : Nat) : (t.recordOp o a b d).ctx.slot = t.ctx.slot ∧ (t.recordOp o a b d).ctx.live = t.ctx.live := by
    unfold recordOp
    split <;> exact ⟨rfl, rfl⟩
  unfold opBar
  split
  · exact ⟨rfl, rfl⟩
  · split
    · next a _ _ eq =>
      unfold barHere at eq
      split at eq
      · cases eq
      · cases eq
        exact ⟨rfl, rfl⟩
    · exact recorded _ _ _ _
  · next va _ =>
    have touched : (s.touch s.ctx.asid s.ctx.pid (x.asked va false)).ctx = s.ctx := (s.touch_onlyFrames _ _ _).onlyMemory.ctx
    dsimp only
    generalize s.touch s.ctx.asid s.ctx.pid (x.asked va false) = v at touched
    rw [← touched]
    have paid : ((v.barLetIn v.ctx.asid v.ctx.pid va false x).getD v).ctx = v.ctx := by
      cases eq : v.barLetIn v.ctx.asid v.ctx.pid va false x with
      | none => rfl
      | some w => exact (barLetIn_onlyMemory eq).ctx
    split
    · next eq =>
      rw [(barAt_onlyMemory eq).ctx, paid]
      exact ⟨rfl, rfl⟩
    · exact recorded _ _ _ _
    · exact recorded _ _ _ _
    · exact ⟨rfl, rfl⟩

theorem State.keeps_moved (h : u.Keeps i s) (o : Op) (n : Nat) : u.Keeps i (s.moved o n) := by
  unfold moved
  split
  · exact h
  · next ref _ =>
    dsimp only
    split
    · split <;> exact keeps_opBar h _ _ _
    · exact h

/-! ### Turns of an operation (R298, R306, R308) -/

theorem State.keeps_vaTrouble (h : u.Keeps i s) (o : Op) (f : VaFault) : u.Keeps i (s.vaTrouble o f) := by
  cases f with
  | xlate f va => exact keeps_recordOp h _ _ _ _
  | ecc va x => exact keeps_loseVa h _ _

theorem State.keeps_joinColl (h : u.Keeps i s) (o : Op) (t : BitVec 512) (base : Nat) : u.Keeps i (s.joinColl o t base) := by
  unfold joinColl
  extract_lets src dst rd c join
  clear_value rd
  split
  · exact keeps_vaTrouble h _ _
  · exact keeps_vaTrouble h _ _
  · split
    · exact keeps_recordOp h _ _ _ _
    · split
      · exact keeps_vaTrouble h _ _
      · exact h

theorem State.keeps_collRead (h : u.Keeps i s) (o : Op) (t : BitVec 512) (base n : Nat) : u.Keeps i (s.collRead o t base n) := by
  unfold collRead
  split
  · exact keeps_joinColl h _ _ _
  · next va _ =>
    have touched := keeps_ctxTouch h va true false
    dsimp only
    split
    · exact keeps_joinColl touched _ _ _
    · split
      · exact keeps_holdSector touched _
      · next eq => exact keeps_setOp (Keeps.letIn touched eq) _

theorem State.keeps_copyStep (h : u.Keeps i s) (o : Op) (src dst : Nat) (t : BitVec 512) (row col : Nat) (sd : Option Nat)
    (hdr : Option (BitVec 256)) (done : Bool) : u.Keeps i (s.copyStep o src dst t row col sd hdr done) := by
  unfold copyStep
  extract_lets hm ss ds off source dest read
  split
  · refine keeps_onGot h _ fun v l eq => ?_
    split
    · exact keeps_stopOp (Keeps.take h eq) _ _ _ _
    · exact keeps_setOp (Keeps.take h eq) _
  · split
    · have read_keeps (v : State) (l : List Byte) (eq : read = .bytes v l) : u.Keeps i v := by
        simp only [read] at eq
        split at eq
        · injection eq with eq
          exact eq ▸ h
        · exact Keeps.take h eq
      clear_value read
      refine keeps_onGot h _ fun v l eq => keeps_onGot (read_keeps v l eq) _ fun w _ eq' => ?_
      exact keeps_moved (Keeps.put (read_keeps v l eq) eq') _ _
    · exact keeps_onGot h _ fun v _ eq => keeps_moved (Keeps.put h eq) _ _

theorem State.keeps_sectorStep (h : u.Keeps i s) (o : Op) : u.Keeps i (s.sectorStep o) := by
  unfold sectorStep
  split
  · exact h
  · split
    · refine keeps_onGot h _ fun v l eq => ?_
      exact keeps_setOp (keeps_fill (Keeps.take h eq) _ _ _) _
    · refine keeps_onGot h _ fun v l eq => keeps_onGot (Keeps.take h eq) _ fun w _ eq' => ?_
      exact keeps_setOp (Keeps.put (Keeps.take h eq) eq') _
    · split
      · exact keeps_stopOp (keeps_ctxTouch h _ _ _) _ _ _ _
      · split
        · exact keeps_loseVa h _ _
        · split
          · exact keeps_holdSector h _
          · next eq => exact keeps_setOp (keeps_fill (keeps_devWrite (keeps_ctxTouch (Keeps.letIn h eq) _ _ _) _ _) _ _ _) _
    · exact keeps_copyStep h _ _ _ _ _ _ _ _ _
    · split
      · exact h
      · exact keeps_collRead h _ _ _ _
    all_goals exact h

end

open State

section
variable {i : Bool} {u s t : State} {c : Isle} {dram m : Mem} {left right : List Isle} {others : List CtxRec}

/-! ## The end of an operation (R298, R309, R317) -/

theorem State.keeps_onSock (h : u.Keeps i s) (n : Nat) (f : Socket → Socket) : u.Keeps i (s.onSock n f) := h

theorem State.keeps_endPacket (h : u.Keeps i s) (k : Nat) (q : Packet) : u.Keeps i (s.endPacket k q) := h

/-- The fault of a packet: in the inner mode, of one of the context in focus. -/
theorem State.keeps_packetFault {q : Packet} (h : u.Keeps i s) (home : i = true → s.Home q.slot) (k a b d : Nat) :
    u.Keeps i (s.packetFault k q a b d) := by
  have recorded (f : DefFault) : u.Keeps i (s.withSlot q.slot fun s => s.record f) := by
    cases i with
    | true => exact (home rfl).keeps h (keeps_record h f)
    | false => exact keeps_withSlot h _ fun _ h => keeps_record h f
  unfold packetFault
  split
  · exact h
  · dsimp only
    split <;> exact recorded _

theorem State.keeps_enqueue {o : Op} (h : u.Keeps i s) (home : s.Home o.slot) (k n : Nat) (l : List Byte) : u.Keeps i (s.enqueue o k n l) := by
  unfold enqueue
  dsimp only
  split
  · exact keeps_endPacket (keeps_packetFault (by exact h) (fun _ => by exact home) _ _ _ _) _ _
  · exact h

theorem State.keeps_postStep {o : Op} (home : s.Home o.slot) : s.Keeps true (postStep o s) := by
  have h := keeps_refl true s
  unfold postStep
  split
  · next k l _ =>
    split
    · exact h
    · split
      · exact h
      · dsimp only
        split
        · exact keeps_stopOp h _ _ _ _
        · split
          · exact keeps_holdSector h _
          · have barred := keeps_opBar h o (BitVec.ofNat 64 (le8 l 48)) (.add (ofLe ((l.drop 56).take 6)))
            have at_home := home.of_ctx barred (s.opBar_ctx _ _ _).1 (s.opBar_ctx _ _ _).2
            split
            · exact keeps_dropOp (keeps_enqueue barred at_home _ _ _) _
            · exact barred
  · exact h

theorem State.keeps_opPost (h : u.Keeps i s) (o : Op) : u.Keeps i (s.opPost o) := by
  unfold opPost
  split
  · exact h
  · next f x y _ =>
    refine keeps_atIsle h (fun s h => ?_) _ _
    split
    · next c eq =>
      refine h.with_core fun k => ?_
      have := Isle.memCanonical_getD_addFlag (f := Fin.ofNat 32 f) (n := 1) k
      rwa [eq] at this
    · exact keeps_recordOp h _ _ _ _

theorem State.keeps_finishOp (o : Op) (h : u.Keeps i s) : u.Keeps i (finishOp o s) := by
  unfold finishOp
  extract_lets held
  split
  · extract_lets free
    clear_value free
    split
    · exact h
    · split
      · exact keeps_holdSector h _
      · exact keeps_dropOp (keeps_opBar h _ _ _) _
  · exact h
  · exact h
  · exact h
  · exact h
  · split
    · exact h
    · split
      · exact keeps_dropOp (keeps_opPost h _) _
      · next ref _ =>
        split
        · exact keeps_holdSector h _
        · have barred : u.Keeps i (if o.owed = 0 then (s, true) else s.opBar o ref (.bytes o.owed)).1 := by
            split
            · exact h
            · exact keeps_opBar h _ _ _
          split
          next v ok eq =>
          rw [eq] at barred
          dsimp only at barred
          split
          · exact keeps_dropOp (keeps_opPost barred _) _
          · exact keeps_dropOp barred _

theorem State.keeps_touchAll (h : u.Keeps i s) (asid pid : Nat) (q : Asked) (n : Nat) : u.Keeps i (s.touchAll asid pid q n) :=
  List.foldlRecOn _ _ (motive := fun t => u.Keeps i t) h fun _ h _ _ => keeps_touch h _ _ _

theorem State.keeps_touchVa (h : u.Keeps i s) (asid pid va n : Nat) : u.Keeps i (s.touchVa asid pid va n) := keeps_touchAll h _ _ _ _

theorem State.keeps_overlayTouch (h : u.Keeps i s) (e : OvlEnt) : u.Keeps i (s.overlayTouch e) := keeps_touchVa h _ _ _ _

theorem State.keeps_admitBy {f : State → Place → Option State} (hf : ∀ s t pl, u.Keeps i s → f s pl = some t → u.Keeps i t) (l : List Place)
    (h : u.Keeps i s) : u.Keeps i (admitBy f s l).1 := by
  induction l generalizing s with
  | nil => exact h
  | cons pl l ih =>
    unfold admitBy
    split
    · exact h
    · next eq => exact ih (hf _ _ _ h eq)

theorem State.keeps_pass (h : u.Keeps i s) (l : List Place) : u.Keeps i (s.pass l).1 := keeps_admitBy (fun _ _ _ h eq => Keeps.letIn h eq) l h

theorem State.keeps_ovlEnd (o : Op) (h : u.Keeps i s) : u.Keeps i (ovlEnd o s) := by
  unfold ovlEnd
  split
  · split
    · exact h
    · split
      · exact h
      · next e _ =>
        split
        · exact keeps_stopOp (keeps_overlayTouch h e) _ _ _ _
        · exact keeps_loseVa (keeps_overlayTouch h e) _ _
        · dsimp only
          have passed := keeps_pass h ((s.overlaySectors e).drop ‹Nat›)
          split
          · exact keeps_dropOp (keeps_opPost (keeps_overlayTouch (by exact passed) _) _) _
          · exact keeps_holdSector (keeps_setOp passed _) _
  · exact h

theorem State.keeps_collArrive (o : Op) (h : u.Keeps i s) : u.Keeps i (collArrive o s) := by
  unfold collArrive
  split
  · exact h
  · split
    · exact h
    · extract_lets x p
      split
      · exact keeps_holdSector h _
      · exact keeps_opBar h o _ _

theorem State.keeps_failMember (failed : Bool) (o : Op) (h : u.Keeps i s) : u.Keeps i (failMember failed o s) := by
  unfold failMember
  split
  · exact h
  · exact keeps_recordOp h _ _ _ _

theorem State.keeps_payResult (o : Op) (h : u.Keeps i s) : u.Keeps i (payResult o s) := by
  unfold payResult
  split
  · split
    · exact keeps_holdSector h _
    · next eq => exact keeps_setOp (Keeps.letIn h eq) _
  · exact h

theorem State.keeps_writeResult (h : u.Keeps i s) (g : List Contribution) (o : Op) : u.Keeps i (s.writeResult g o).1 := by
  unfold writeResult
  split
  · refine List.foldlRecOn _ _ (motive := fun a : State × Option VaFault => u.Keeps i a.1) h fun a ha x _ => ?_
    split
    · exact ha
    · exact keeps_writeVa ha _ _ _ _
  · exact h

theorem State.keeps_failResult (g : List Contribution) (o : Op) (h : u.Keeps i s) : u.Keeps i (failResult g o s) := by
  unfold failResult
  split
  · exact keeps_vaTrouble h _ _
  · exact keeps_failMember _ _ h

theorem State.keeps_giveResult (g : List Contribution) (o : Op) (h : u.Keeps i s) : u.Keeps i (giveResult g o s) := by
  unfold giveResult
  split
  · exact keeps_writeResult h g o
  · exact h

theorem State.keeps_collEnd (h : u.Keeps false s) (q : Nat) : u.Keeps false (s.collEnd q) := by
  unfold collEnd
  split
  · exact h
  · split
    · split
      · exact keeps_withOp h _ fun o s _ => keeps_collArrive o (keeps_refl true s)
      · split
        · exact h
        · split
          · exact h
          · dsimp only
            split
            · exact keeps_members (fun c o s _ => keeps_failMember _ o (keeps_refl true s)) _ (by exact h)
            · split
              · exact keeps_onMember h _ fun o s _ => keeps_payResult o (keeps_refl true s)
              · split
                · exact keeps_members (fun c o s _ => keeps_failResult _ o (keeps_refl true s)) _ (by exact h)
                · refine keeps_withOp (keeps_members (fun c o s _ => keeps_giveResult _ o (keeps_refl true s)) _ (by exact h)) _ fun o s _ => ?_
                  split
                  · exact keeps_collArrive o (keeps_refl true s)
                  · exact keeps_refl true s
    · exact h

end

end Sys2Proof.Machine
end

section
/-! PROOFS. Memories stay canonical: the events -/

namespace Sys2Proof.Machine

open State

section
variable {i : Bool} {u s t : State} {c : Isle} {dram m : Mem} {left right : List Isle} {others : List CtxRec}

/-- What an instruction or event leaves, where it leaves a state. -/
def State.KeepsOut (u : State) (o : Out) : Prop := ∀ t, o = .next t → u.Keeps false t

theorem State.KeepsOut.next (h : u.Keeps false s) : u.KeepsOut (.next s) := fun _ eq => Host.Outcome.next.inj eq ▸ h

/-! ## Tables of the device (R333, R387, R394) -/

theorem State.keeps_onSlot (h : u.Keeps i s) (n : Nat) (f : LSlot → LSlot) : u.Keeps i (s.onSlot n f) := by
  unfold onSlot
  split <;> exact h

theorem State.keeps_onRegion (h : u.Keeps i s) (n : Nat) (f : Region → Region) : u.Keeps i (s.onRegion n f) := h

theorem State.keeps_onPart (h : u.Keeps i s) (n : Nat) (f : Part → Part) : u.Keeps i (s.onPart n f) := h

theorem State.keeps_onFn (h : u.Keeps i s) (n : Nat) (f : Fn → Fn) : u.Keeps i (s.onFn n f) := by
  unfold onFn
  split <;> exact h

theorem State.keeps_message (h : u.Keeps i s) (n : Nat) (v : Fin 4) : u.Keeps i (s.message n v) := keeps_onFn h _ _

theorem State.keeps_event (h : u.Keeps i s) (p k : Nat) (l : List Byte) : u.Keeps i (s.event p k l) := by
  unfold event
  split
  · exact h
  · dsimp only
    split
    · exact keeps_onFn h _ _
    · exact keeps_message (keeps_onFn h _ _) _ _

theorem State.keeps_eachPart {f : Part → State → State} (hf : ∀ p s, u.Keeps i s → u.Keeps i (f p s)) (l : List Part) (h : u.Keeps i s) :
    u.Keeps i (eachPart f l s) := by
  induction l generalizing s with
  | nil => exact h
  | cons p l ih => exact ih (hf p _ h)

theorem State.keeps_dropped (h : u.Keeps i s) (n : Nat) : u.Keeps i (s.dropped n) := by
  unfold dropped
  split
  · exact h
  · exact keeps_message (keeps_onFn h _ _) _ _

theorem State.keeps_completion (h : u.Keeps i s) (n c : Nat) : u.Keeps i (s.completion n c) := by
  unfold completion
  split
  · exact keeps_message h _ _
  · split
    · exact h
    · exact keeps_onFn h _ _

theorem State.keeps_signalSlot (h : u.Keeps i s) (n : Nat) : u.Keeps i (s.signalSlot n) := by
  unfold signalSlot
  split
  · exact h
  · exact keeps_completion h _ _

theorem State.keeps_closeFeatures (h : u.Keeps i s) (n : Nat) : u.Keeps i (s.closeFeatures n) := by
  unfold closeFeatures
  split <;> exact h

theorem State.keeps_arm (h : u.Keeps i s) (n : Nat) (f : LSlot → LSlot) : u.Keeps i (s.arm n f) :=
  keeps_onSlot (keeps_closeFeatures h n) n _

/-! ## The kites (R313, R317, R319) -/

theorem State.keeps_packetFaults (k a b : Nat) (l : List Packet) (h : u.Keeps false s) : u.Keeps false (packetFaults k a b l s) := by
  induction l generalizing s with
  | nil => exact h
  | cons q l ih => exact ih (keeps_packetFault h nofun _ _ _ _)

theorem State.keeps_freezeKite (h : u.Keeps false s) (k : Nat) : u.Keeps false (s.freezeKite k) := by
  unfold freezeKite
  dsimp only
  split
  · exact h
  · refine keeps_eachPart (fun p s h => ?_) _ ?_
    · split
      · exact keeps_event h _ _ _
      · exact h
    · exact keeps_packetFaults _ _ _ _ h

theorem State.keeps_arriveWaits (h : u.Keeps false s) (k : Nat) (q : Packet) (n : Nat) (own : Bool) :
    u.Keeps false (s.arriveWaits k q n own) := by
  unfold arriveWaits
  refine keeps_await (keeps_onSock ?_ _ _) _
  split
  · refine keeps_withSlot h _ fun s h => keeps_atIsle h (fun s h => ?_) _ _
    exact h
  · exact h

theorem State.keeps_execKiteArrive (k n a b d : Nat) (h : u.Keeps false s) : u.KeepsOut (execKiteArrive k n a b d s) := by
  unfold execKiteArrive
  refine .next ?_
  split
  · exact h
  · split
    · exact keeps_freezeKite h _
    · next q _ =>
      dsimp only
      split
      · exact keeps_freezeKite h _
      · split
        · exact keeps_arriveWaits h _ _ _ _
        · split
          · exact keeps_arriveWaits h _ _ _ _
          · have paid (pid : Nat) := keeps_withSlot (keeps_touch h q.asid pid ((BarUpd.kite d).asked b true)) q.slot
              fun s h => keeps_getD_barLetIn h q.asid pid b true (.kite d)
            refine keeps_endPacket ?_ _ _
            split
            · next eq => exact Keeps.barAt (paid _) eq
            · exact keeps_packetFault (paid _) nofun _ _ _ _
            · exact keeps_packetFault (paid _) nofun _ _ _ _
            · exact keeps_withSlot (paid _) _ fun _ h => keeps_loseVa h _ _

theorem State.keeps_execFaultPacket (k n a b : Nat) (h : u.Keeps false s) : u.KeepsOut (execFaultPacket k n a b s) := by
  unfold execFaultPacket
  refine .next ?_
  split
  · exact h
  · split
    · exact keeps_freezeKite h _
    · exact keeps_endPacket (keeps_packetFault h nofun _ _ _ _) _ _

theorem State.keeps_execAbandon (k n : Nat) (l : List Nat) (h : u.Keeps false s) : u.KeepsOut (execAbandon k n l s) := by
  unfold execAbandon
  dsimp only
  refine .next ?_
  split
  · exact h
  · split
    · exact keeps_freezeKite h _
    · exact h

theorem State.keeps_execKiteQuiesceTimeout (k : Nat) (h : u.Keeps false s) : u.KeepsOut (execKiteQuiesceTimeout k s) := by
  unfold execKiteQuiesceTimeout
  refine .next ?_
  split
  · exact h
  · exact keeps_freezeKite h _

/-! ## Commands of the host (R264, R337) -/

theorem State.keeps_inOrder {k : State → State} (h : u.Keeps i s) (n : Nat) (x : Instr) (hk : ∀ s, u.Keeps i s → u.Keeps i (k s)) :
    u.Keeps i (s.inOrder n x k) := by
  unfold inOrder
  split
  · exact h
  · exact hk _ h

theorem State.keeps_command {f : State → State} (h : u.Keeps i s) (n m : Nat) (ok : LSlot → Bool) (hf : ∀ s, u.Keeps i s → u.Keeps i (f s)) :
    u.Keeps i (s.command n m ok f) := by
  unfold command
  split
  · exact h
  · split
    · exact hf _ h
    · exact keeps_dropped h _

theorem State.keeps_setSlot (h : u.Keeps i s) (fn slot x : Nat) : u.Keeps i (s.setSlot fn slot x) := by
  refine keeps_inOrder h _ _ fun s h => ?_
  split
  · exact keeps_command h _ _ _ fun _ h => keeps_arm h _ _
  · exact keeps_command h _ _ _ fun _ h => keeps_onSlot h _ _
  · exact keeps_command h _ _ _ fun _ h => h

theorem State.keeps_beginSuspend (h : u.Keeps false s) (n : Nat) : u.Keeps false (s.beginSuspend n) := by
  unfold beginSuspend
  extract_lets x t v fresh w
  have asked : u.Keeps false v := keeps_onRegion (keeps_onSlot h _ _) _ _
  have timed : u.Keeps false fresh := keeps_withSlot asked n fun _ h => h
  have either : u.Keeps false w := by
    simp only [w]
    split
    · exact asked
    · exact timed
  exact either

theorem State.keeps_suspendSlot (h : u.Keeps false s) (fn slot : Nat) : u.Keeps false (s.suspendSlot fn slot) := by
  refine keeps_inOrder h _ _ fun s h => keeps_command h _ _ _ fun s h => ?_
  have asked := keeps_onSlot h slot (·.request fn true)
  dsimp only
  split
  · exact keeps_onSlot asked _ _
  · exact keeps_beginSuspend asked _
  · exact keeps_beginSuspend asked _
  · exact h
  · exact asked

theorem State.keeps_unsuspend (h : u.Keeps i s) (n : Nat) : u.Keeps i (s.unsuspend n) := keeps_onSlot h _ _

theorem State.keeps_resumeSlot (h : u.Keeps i s) (fn slot : Nat) : u.Keeps i (s.resumeSlot fn slot) :=
  keeps_inOrder h _ _ fun _ h => keeps_command h _ _ _ fun _ h => keeps_unsuspend (keeps_onSlot h _ _) _

theorem State.keeps_clearAsid (h : u.Keeps i s) (n : Nat) : u.Keeps i (s.clearAsid n) := by
  unfold clearAsid
  split
  · exact h
  · dsimp only
    split <;> exact h

theorem State.keeps_arriveCbar (h : u.Keeps i s) (n : Nat) : u.Keeps i (s.arriveCbar n) := by
  unfold arriveCbar
  extract_lets x
  split
  · exact h
  · next p _ =>
    have touched := keeps_touch h x.asid p.pid ((BarUpd.arrive 0).asked x.cbar false)
    clear_value x
    split
    · exact h
    · dsimp only
      generalize s.touch x.asid p.pid ((BarUpd.arrive 0).asked x.cbar false) = v at touched
      split
      · next eq => exact Keeps.barAt touched eq
      · exact touched
      · exact touched
      · exact touched

theorem State.keeps_endContext (h : u.Keeps i s) (n a b : Nat) : u.Keeps i (s.endContext n a b) :=
  keeps_signalSlot (keeps_clearAsid (keeps_arriveCbar (keeps_onSlot (by exact h) _ _) _) _) _

theorem State.keeps_faultSlot (h : u.Keeps i s) (n a b : Nat) : u.Keeps i (s.faultSlot n a b) :=
  keeps_signalSlot (keeps_arriveCbar (keeps_onSlot h _ _) _) _

theorem State.keeps_killSlot (h : u.Keeps i s) (n : Nat) : u.Keeps i (s.killSlot n) := by
  unfold killSlot
  split
  · exact h
  · split
    · exact keeps_endContext h _ _ _
    · exact keeps_faultSlot h _ _ _

theorem State.keeps_killCommand (h : u.Keeps i s) (fn slot : Nat) : u.Keeps i (s.killCommand fn slot) :=
  keeps_inOrder h _ _ fun _ h => keeps_command h _ _ _ fun _ h => keeps_killSlot h _

theorem State.keeps_recordWrite (h : u.Keeps i s) (fn slot off : Nat) (x : Byte) : u.Keeps i (s.recordWrite fn slot off x) :=
  keeps_inOrder h _ _ fun _ h => keeps_command h _ _ _ fun _ h => keeps_onSlot (keeps_closeFeatures h _) _ _

end

open State

section
variable {i : Bool} {u s t : State} {c : Isle} {dram m : Mem} {left right : List Isle} {others : List CtxRec}

/-! ## Arming (R339, R340) -/

theorem State.keeps_armTouch (h : u.Keeps i s) (p : Part) (x : LSlot) : u.Keeps i (s.armTouch p x) := by
  unfold armTouch
  exact List.foldlRecOn _ _ (motive := fun t => u.Keeps i t) h fun _ h _ _ => keeps_touchVa h _ _ _ _

theorem State.keeps_imageTouch (h : u.Keeps i s) (x : LSlot) (p : Part) : u.Keeps i (s.imageTouch x p) := by
  unfold imageTouch
  exact List.foldlRecOn _ _ (motive := fun t => u.Keeps i t) h fun _ h _ _ => keeps_touchVa h _ _ _ _

theorem State.keeps_depTouch (h : u.Keeps i s) (p : Part) (x : LSlot) : u.Keeps i (s.depTouch p x) := by
  unfold depTouch
  exact List.foldlRecOn _ _ (motive := fun t => u.Keeps i t) h fun _ h _ _ => keeps_touchVa h _ _ _ _

/-- A slot turned away. -/
theorem State.keeps_turnedAway (h : u.Keeps i s) (e : Option ErrUnit) (n r : Nat) : u.Keeps i ((s.blame e).faultSlot n 0 r) :=
  keeps_faultSlot (keeps_blame h e) _ _ _

theorem State.keeps_tryReady (h : u.Keeps i s) (n : Nat) : u.Keeps i (s.tryReady n) := by
  unfold tryReady
  extract_lets x go
  split
  · exact h
  · next p _ =>
    split
    · exact h
    · extract_lets v
      have gone (s : State) (h : u.Keeps i s) (d0 d1 : Bool) : u.Keeps i (go s d0 d1) := keeps_onSlot h _ _
      clear_value go
      split
      · exact gone _ h _ _
      · have armed := keeps_armTouch h p x
        change u.Keeps i v at armed
        clear_value v
        split
        · exact keeps_turnedAway armed _ _ _
        · next va _ =>
          extract_lets y w d
          have imaged : u.Keeps i w := keeps_imageTouch armed y p
          clear_value w
          split
          · exact keeps_turnedAway imaged _ _ _
          · have deps : u.Keeps i d := by
              simp only [d]
              exact keeps_depTouch imaged p x
            clear_value d
            split
            · exact gone _ (keeps_onSlot deps _ _) _ _
            · exact keeps_turnedAway deps _ _ _
            · exact keeps_turnedAway deps _ _ _

/-! ## Contexts brought in (R343, R344) -/

theorem Mem.wf_liveFoot (m : Mem) (l : Live) (k a n : Nat) : (liveFoot m l k a n).wf = true :=
  List.foldlRecOn _ _ (motive := fun m : Mem => m.wf = true) rfl fun _ h _ _ => Mem.wf_wrList _ h

theorem Isle.restored_memCanonical (c : Isle) (x : Image) (l : Live) (rc : Nat) (m : Mem) : (c.restored x l rc m).MemCanonical := by
  unfold restored Isle.MemCanonical
  dsimp only
  exact ⟨Mem.wf_liveFoot .., Mem.wf_liveFoot .., Mem.wf_liveFoot .., Mem.wf_wrList _ rfl⟩

theorem LSlot.startIsle_memCanonical (x : LSlot) (y : Image) (q : Nat × Nat) : (x.startIsle y q).MemCanonical := by
  unfold startIsle Isle.start Isle.MemCanonical
  dsimp only
  exact ⟨rfl, rfl, rfl, rfl⟩

theorem CtxRec.restored_memCanonical (r : CtxRec) (n : Nat) (l : List (Isle × Mem)) : ∀ c ∈ (r.restored n l).isles, c.MemCanonical := by
  intro c hc
  obtain ⟨x, -, rfl⟩ := List.mem_map.mp hc
  exact Isle.restored_memCanonical ..

theorem LSlot.startCtx_memCanonical (x : LSlot) (y : Image) : ∀ c ∈ (x.startCtx y).isles, c.MemCanonical := by
  intro c hc
  obtain ⟨q, -, rfl⟩ := List.mem_map.mp hc
  exact x.startIsle_memCanonical y q

theorem State.keeps_addCtx {r : CtxRec} (h : u.Keeps false s) (isles : ∀ c ∈ r.isles, c.MemCanonical) : u.Keeps false (s.addCtx r) := by
  unfold addCtx
  refine Keeps.of_outer h (by rw [unpack_dram]; exact id) fun k => islesCanonical_unpack (.inr k.1) isles ?_
  dsimp only
  split
  · exact List.forall_mem_cons.mpr ⟨k.isles, k.2.2.2⟩
  · exact k.2.2.2

theorem State.keeps_repostAll (k : Nat) (l : List Packet) (h : u.Keeps false s) : u.Keeps false (repostAll k l s) := by
  induction l generalizing s with
  | nil => exact h
  | cons q l ih =>
    refine ih ?_
    split
    · exact keeps_endPacket (keeps_packetFault (keeps_onSock h _ _) nofun _ _ _ _) _ _
    · exact h

theorem State.keeps_repostOne (h : u.Keeps false s) (k : Nat) : u.Keeps false (s.repostOne k) := by
  unfold repostOne
  split
  · exact h
  · exact keeps_repostAll _ _ (by exact h)

theorem State.keeps_repost (h : u.Keeps false s) : u.Keeps false s.repost := keeps_repostOne (keeps_repostOne h _) _

theorem State.Keeps.tryIsles {f : State → Except VaFault State} (hf : ∀ s t, u.Keeps i s → f s = .ok t → u.Keeps i t) (l : List Nat)
    (h : u.Keeps i s) (eq : State.tryIsles f l s = .ok t) : u.Keeps i t := by
  induction l generalizing s with
  | nil => exact Except.ok.inj eq ▸ h
  | cons n l ih =>
    unfold State.tryIsles at eq
    split at eq
    · next ok => exact ih (hf _ _ (keeps_focusIsle h n) ok) eq
    · cases eq

theorem State.Keeps.refillPages (h : u.Keeps i s) (eq : s.refillPages = .ok t) : u.Keeps i t := by
  unfold State.refillPages at eq
  dsimp only at eq
  split at eq
  · cases eq
  · exact Except.ok.inj eq ▸ List.foldlRecOn _ _ (motive := fun t => u.Keeps i t) (by exact h) fun _ h _ _ => keeps_overlayTouch h _

theorem State.Keeps.loadOverlays (l : List OvlEnt) (h : u.Keeps i s) (eq : State.loadOverlays l s = .ok t) : u.Keeps i t := by
  induction l generalizing s with
  | nil => exact Except.ok.inj eq ▸ h
  | cons e l ih =>
    unfold State.loadOverlays at eq
    split at eq
    · exact ih (keeps_overlayTouch (by exact h) e) eq
    · cases eq

theorem State.Keeps.bringIn {x : LSlot} {p : Part} {y : Image} {q : Plan} (h : u.Keeps false s) (eq : s.bringIn x p y q = .ok t) : u.Keeps false t := by
  unfold State.bringIn at eq
  extract_lets v fresh started at eq
  have regions : u.Keeps false v := by
    simp only [v]
    split <;> exact h
  clear_value v
  split at eq
  · split at eq
    · cases eq
    · next r _ _ l _ =>
      extract_lets v' r' w w' at eq
      have touched : u.Keeps false v' := keeps_touchVa regions _ _ _ _
      have added : u.Keeps false w := keeps_addCtx touched (r.restored_memCanonical v'.seq l)
      have again : u.Keeps false w' := added
      clear_value w'
      cases tried : State.tryIsles State.refillPages (List.range w'.isleCount) w' with
      | error f => rw [tried] at eq; cases eq
      | ok z =>
        rw [tried] at eq
        have refilled := Keeps.tryIsles (fun _ _ h ok => Keeps.refillPages h ok) _ again tried
        exact Except.ok.inj eq ▸ keeps_repost (keeps_eachIsle (keeps_focusIsle refilled _) fun _ h => h)
  · have added : u.Keeps false started := keeps_addCtx regions (x.startCtx_memCanonical y)
    clear_value started
    cases tried : State.tryIsles (fun s => State.loadOverlays (s.ctx.image.ovlFor 0 s.isleIx).toList s) (List.range started.isleCount) started with
    | error f => rw [tried] at eq; cases eq
    | ok z =>
      rw [tried] at eq
      exact Except.ok.inj eq ▸ keeps_focusIsle (Keeps.tryIsles (fun _ _ h ok => Keeps.loadOverlays _ h ok) _ added tried) _

end

open State

section
variable {i : Bool} {u s t : State} {c : Isle} {dram m : Mem} {left right : List Isle} {others : List CtxRec}

/-! ## Placement and the selector (R36, R330, R343) -/

theorem State.keeps_requestSwitch (h : u.Keeps false s) (n : Nat) : u.Keeps false (s.requestSwitch n) := by
  unfold requestSwitch
  split
  · exact h
  · split
    · exact h
    · dsimp only
      split
      · exact keeps_withSlot (keeps_onRegion h _ _) _ fun _ h => h
      · exact h

theorem State.keeps_trimTags (h : u.Keeps i s) : u.Keeps i s.trimTags := h

theorem State.keeps_placeAt (h : u.Keeps false s) (x : LSlot) (p : Part) (y : Image) (q : Plan) : u.Keeps false (s.placeAt x p y q) := by
  unfold placeAt
  split
  · dsimp only
    split
    · exact keeps_endContext (keeps_blame h _) _ _ _
    · exact keeps_faultSlot (keeps_blame h _) _ _ _
  · next eq =>
    have placed (f : LSlot → LSlot) := keeps_onSlot (Keeps.bringIn h eq) x.n f
    exact placed _

theorem State.keeps_execPlacement (n : Nat) (h : u.Keeps false s) : u.KeepsOut (execPlacement n s) := by
  unfold execPlacement
  refine .next ?_
  split
  · exact h
  · next p _ =>
    extract_lets x v
    split
    · exact h
    · have imaged : u.Keeps false v := by
        simp only [v]
        split
        · exact keeps_imageTouch h _ _
        · exact h
      clear_value v
      split
      · dsimp only
        split
        · exact keeps_endContext (keeps_blame imaged _) _ _ _
        · exact keeps_turnedAway imaged _ _ _
      · exact keeps_onSlot imaged _ _
      · exact keeps_requestSwitch (keeps_placeAt imaged _ _ _ _) _

theorem Isle.keeps_waitAgain (h : u.KeepsIsle i c left right others dram) : u.KeepsIsle i c.waitAgain left right others dram := by
  unfold waitAgain
  split <;> exact h

theorem State.keeps_begin (h : u.Keeps false s) (c : Ctx) : u.Keeps false (s.begin c) := by
  unfold begin
  refine keeps_onSlot (keeps_onRegion (keeps_withSlot h _ fun s h => ?_) _ _) _ _
  dsimp only
  split
  · exact keeps_eachIsle (by exact h) fun s h => Isle.keeps_waitAgain (by exact h)
  · exact h

theorem State.keeps_yieldTo (h : u.Keeps false s) (r : Region) (c : Ctx) : u.Keeps false (s.yieldTo r c) := by
  refine keeps_begin ?_ _
  split
  · exact keeps_withSlot h _ fun _ h => h
  · exact h

theorem State.keeps_execContextSwitch (n : Nat) (h : u.Keeps false s) : u.KeepsOut (execContextSwitch n s) := by
  unfold execContextSwitch
  refine .next ?_
  split
  · exact h
  · split
    · exact h
    · split
      · exact h
      · split
        · refine keeps_onRegion (keeps_withSlot h _ fun s h => ?_) _ _
          exact h
        · exact keeps_yieldTo h _ _

/-! ## Suspension and retirement (R344, R346) -/

theorem State.keeps_quiesceOne (h : u.Keeps i s) (k : Nat) (drop : Bool) : u.Keeps i (s.quiesceOne k drop) := by
  unfold quiesceOne
  split <;> exact h

theorem State.keeps_quiesceAll (h : u.Keeps i s) (drop : Bool) : u.Keeps i (s.quiesceAll drop) := keeps_quiesceOne (keeps_quiesceOne h _ _) _ _

theorem State.keeps_execSuspensionRequest (n : Nat) (h : u.Keeps false s) : u.KeepsOut (execSuspensionRequest n s) := by
  unfold execSuspensionRequest
  refine .next ?_
  split
  · exact h
  · extract_lets rid v served id
    have served : u.Keeps false v := by
      simp only [v]
      refine keeps_withSlot h _ fun s h => ?_
      split
      · split
        · exact keeps_quiesceAll h _
        · exact h
      · split
        · exact h
        · split
          · exact keeps_quiesceAll h _
          · exact h
    clear_value v
    split <;> exact served

theorem State.keeps_writeBlocks (l : Live) (save : Nat) (ns : List Nat) (h : u.Keeps i s) : u.Keeps i (writeBlocks l save ns s).1 := by
  induction ns generalizing s with
  | nil => exact h
  | cons n ns ih =>
    have written := keeps_writeChunks (save + n * s.ctx.image.blockSize) ((s.focusIsle n).saveBlock l) (keeps_focusIsle h n)
    unfold writeBlocks
    dsimp only
    split
    · next eq => exact ih (by rwa [eq] at written)
    · next eq => rwa [eq] at written

theorem State.keeps_writeSave (h : u.Keeps i s) (save : Nat) : u.Keeps i (s.writeSave save).1 := by
  unfold writeSave
  dsimp only
  split
  · exact keeps_focusIsle (keeps_writeBlocks _ _ _ h) _
  · exact h

theorem State.keeps_dropCtx (h : u.Keeps false s) (n : Nat) : u.Keeps false (s.dropCtx n) := by
  unfold dropCtx
  extract_lets v gone left
  have dropped : u.Keeps false v := by
    simp only [v]
    split
    · exact Keeps.of_outer h id fun k => ⟨Isle.start_memCanonical 0 0 64, List.forall_mem_nil _, List.forall_mem_nil _, k.2.2.2⟩
    · exact Keeps.of_outer h id fun k => ⟨k.1, k.2.1, k.2.2.1, fun r hr => k.2.2.2 r (List.mem_of_mem_filter hr)⟩
  exact dropped

theorem State.keeps_execSuspensionComplete (n : Nat) (h : u.Keeps false s) : u.KeepsOut (execSuspensionComplete n s) := by
  unfold execSuspensionComplete
  refine .next ?_
  split
  · exact h
  · dsimp only
    split
    · exact h
    · have written := keeps_writeSave (keeps_focusSlot h n) (s.slotAt n).save
      split
      · next eq => rw [eq] at written; exact written
      · next eq =>
        rw [eq] at written
        exact keeps_onSlot (keeps_dropCtx (by exact written) _) _ _

theorem State.keeps_relocated (h : u.Keeps i s) (n : Nat) : u.Keeps i (s.relocated n) := keeps_onSlot h _ _

theorem State.keeps_relocate (h : u.Keeps false s) (n : Nat) : u.Keeps false (s.relocate n) := by
  unfold relocate
  split
  · exact keeps_beginSuspend (keeps_onSlot h _ _) _
  · exact keeps_beginSuspend (keeps_onSlot h _ _) _
  · exact keeps_onSlot h _ _
  · exact h

theorem State.keeps_execRelocation (n : Nat) (h : u.Keeps false s) : u.KeepsOut (execRelocation n s) := by
  unfold execRelocation
  refine .next ?_
  split
  · split
    · exact h
    · exact keeps_relocated h _
  · exact keeps_relocate h _

/-! ## Traps (R326, R328, R330) -/

theorem Isle.keeps_takeTrap (h : u.KeepsIsle i c left right others dram) (t : TrapRec) (a b : Nat) :
    u.KeepsIsle i (c.takeTrap t a b) left right others dram := by
  unfold takeTrap
  simp [KeepsIsle, h]

theorem State.keeps_doubleFault (h : u.Keeps i s) (n : Nat) : u.Keeps i (s.doubleFault n) := h

theorem State.keeps_trapHere (h : u.Keeps i s) (t : TrapRec) (n : Nat) : u.Keeps i (s.trapHere t n) := by
  unfold trapHere
  extract_lets v
  have taken : u.Keeps i v := Isle.keeps_takeTrap h t n s.core.pc
  clear_value v
  split <;> exact taken

theorem State.keeps_execSafepointOverdue (n : Nat) (h : u.Keeps false s) : u.KeepsOut (execSafepointOverdue n s) := by
  unfold execSafepointOverdue
  refine .next ?_
  split
  · exact h
  · dsimp only
    split
    · exact h
    · split
      · exact h
      · refine keeps_withSlot h _ fun s h => keeps_eachIsle (by exact h) fun s h => ?_
        split
        · exact keeps_trapHere (by exact h) _ _
        · split
          · exact keeps_trapHere (by exact h) _ _
          · exact h

theorem State.keeps_tagIsle (h : u.Keeps i s) : u.Keeps i s.tagIsle := by
  unfold tagIsle
  split <;> exact h

theorem State.keeps_execRetirement (n : Nat) (h : u.Keeps false s) : u.KeepsOut (execRetirement n s) := by
  unfold execRetirement
  refine .next ?_
  split
  · exact h
  · dsimp only
    split
    · exact h
    · split
      · split
        · refine keeps_withSlot h _ fun s h => keeps_atIsle (by exact h) (fun s h => ?_) _ _
          exact keeps_trapHere h _ _
        · exact h
      · refine keeps_trimTags (keeps_onSlot (keeps_dropCtx (keeps_withSlot h _ fun s h => ?_) _) _ _)
        exact keeps_eachIsle h fun _ h => keeps_tagIsle h

theorem State.keeps_execRetirementComplete (n : Nat) (h : u.Keeps false s) : u.KeepsOut (execRetirementComplete n s) := by
  unfold execRetirementComplete
  refine .next ?_
  split
  · exact keeps_signalSlot (keeps_onSlot (keeps_arriveCbar h _) _ _) _
  · exact h

theorem State.keeps_execTeardown (n a b : Nat) (h : u.Keeps false s) : u.KeepsOut (execTeardown n a b s) := by
  unfold execTeardown
  refine .next ?_
  split
  · split
    · exact keeps_endContext h _ _ _
    · exact h
  · have quieted := keeps_withSlot h n (f := fun s => (s.quiesceAll true).onCtx fun c =>
      { c with cstate := .suspending, faults := [], releases := [], words := [] }) fun _ h => keeps_quiesceAll h true
    split
    next fc fr _ =>
    extract_lets w v
    have dying : u.Keeps false v := by
      simp only [v]
      split
      · exact h
      · exact quieted
    clear_value v
    split
    · exact keeps_onSlot dying _ _
    · exact keeps_endContext (keeps_dropCtx dying _) _ _ _

end

open State

section
variable {i : Bool} {u s t : State} {c : Isle} {wb ab acb ballast dram m : Mem} {left right : List Isle} {others : List CtxRec}

/-! ## The registers of a function (R207, R252, R261, R353, R389) -/

theorem State.keeps_execMsixCoalesceTimer (n : Nat) (h : u.Keeps false s) : u.KeepsOut (execMsixCoalesceTimer n s) := by
  unfold execMsixCoalesceTimer
  extract_lets v
  have fired : u.Keeps false v := by
    simp only [v]
    split
    · exact keeps_message (keeps_onFn h _ _) _ _
    · exact h
  refine .next ?_
  split
  · exact keeps_onFn fired _ _
  · exact fired

theorem State.keeps_regWrite {f : State → State} (h : u.Keeps i s) (n : Nat) (vf : Bool) (hf : ∀ s, u.Keeps i s → u.Keeps i (f s)) :
    u.Keeps i (s.regWrite n vf f) := by
  unfold regWrite
  split
  · exact h
  · split
    · exact keeps_dropped h _
    · exact hf _ h

theorem State.keeps_partWrite {f : Part → State → State} (h : u.Keeps i s) (n : Nat) (vf lockable : Bool)
    (hf : ∀ p s, u.Keeps i s → u.Keeps i (f p s)) : u.Keeps i (s.partWrite n vf lockable f) := by
  refine keeps_regWrite h _ _ fun s h => ?_
  split
  · exact keeps_dropped h _
  · split
    · exact keeps_dropped h _
    · exact hf _ _ h

theorem State.keeps_invalidate (h : u.Keeps i s) (n x : Nat) : u.Keeps i (s.invalidate n x) :=
  keeps_partWrite h _ _ _ fun _ _ h => keeps_onFn h _ _

theorem State.keeps_handleCommand (h : u.Keeps i s) (fn op idx : Nat) : u.Keeps i (s.handleCommand fn op idx) :=
  keeps_partWrite h _ _ _ fun _ _ h => keeps_onPart h _ _

theorem State.keeps_execInvalidationComplete (n : Nat) (h : u.Keeps false s) : u.KeepsOut (execInvalidationComplete n s) := by
  unfold execInvalidationComplete
  refine .next ?_
  split
  · exact h
  · exact keeps_onFn h _ _

theorem State.keeps_touchGpa (h : u.Keeps i s) (p : Part) (gpa n : Nat) : u.Keeps i (s.touchGpa p gpa n) := by
  refine List.foldlRecOn _ _ (motive := fun t => u.Keeps i t) h fun s h a _ => ?_
  split
  · exact keeps_zeroFrame h _
  · exact h

theorem State.keeps_loadTouch (h : u.Keeps i s) (p : Part) (idx : Nat) : u.Keeps i (s.loadTouch p idx) := by
  unfold loadTouch
  extract_lets v
  have entry : u.Keeps i v := keeps_touchGpa h _ _ _
  clear_value v
  split
  · exact entry
  · dsimp only
    split
    · exact keeps_touchVa (keeps_touchVa entry _ _ _ _) _ _ _ _
    · exact keeps_touchVa entry _ _ _ _

/-- Every isle of the context in focus changed by a function, and every other context. -/
theorem State.KeepsParts.map_left (h : u.KeepsParts i wb ab acb ballast left right others dram) {f : Isle → Isle}
    (mems : ∀ c, c.MemCanonical → (f c).MemCanonical) : u.KeepsParts i wb ab acb ballast (left.map f) right others dram :=
  { h with left := fun k => List.forall_mem_map.mpr fun c hc => mems c (h.left k c hc) }

theorem State.KeepsParts.map_right (h : u.KeepsParts i wb ab acb ballast left right others dram) {f : Isle → Isle}
    (mems : ∀ c, c.MemCanonical → (f c).MemCanonical) : u.KeepsParts i wb ab acb ballast left (right.map f) others dram :=
  { h with right := fun k => List.forall_mem_map.mpr fun c hc => mems c (h.right k c hc) }

theorem State.keeps_healResident (h : u.Keeps i s) (pid : Nat) (x : Handle) (n : Nat) : u.Keeps i (s.healResident pid x n) := by
  unfold healResident
  extract_lets heal
  have mems (d : Ctx) (c : Isle) (hc : c.MemCanonical) : (heal d c).MemCanonical := by
    simp only [heal]
    split <;> exact hc
  clear_value heal
  refine KeepsParts.map_others (KeepsParts.map_right (KeepsParts.map_left (h.with_core (mems s.ctx s.core)) (mems _)) (mems _)) (fun r => ?_) fun r hr => ?_
  · simp [CtxRec.shape]
  · exact List.forall_mem_map.mpr fun c hc => mems _ c (hr c hc)

theorem State.keeps_execWhtCommandComplete (n : Nat) (h : u.Keeps false s) : u.KeepsOut (execWhtCommandComplete n s) := by
  unfold execWhtCommandComplete
  refine .next ?_
  split
  · exact h
  · extract_lets idx fail v
    split
    · exact h
    · split
      · have loaded : u.Keeps false v := by
          simp only [v]
          split
          · exact h
          · exact keeps_loadTouch h _ _
        clear_value v
        split
        · exact keeps_onPart (keeps_blame loaded _) _ _
        · exact keeps_onPart (keeps_healResident loaded _ _ _) _ _
      · split <;> exact h

theorem State.keeps_featWrite (h : u.Keeps i s) (n x : Nat) : u.Keeps i (s.featWrite n x) := by
  refine keeps_partWrite h _ _ _ fun p s h => ?_
  split
  · exact keeps_onPart h _ _
  · exact keeps_dropped h _

theorem State.keeps_asidWrite (h : u.Keeps i s) (n : Nat) (set : Bool) (x : Nat) : u.Keeps i (s.asidWrite n set x) := by
  refine keeps_partWrite h _ _ _ fun p s h => ?_
  dsimp only
  split
  · exact keeps_dropped h _
  · exact h

/-! ## Partitions (R395, R396) -/

theorem State.keeps_partRefused (h : u.Keeps i s) (n r : Nat) : u.Keeps i (s.partRefused n r) := keeps_onFn h _ _

theorem State.keeps_partCommand {f : State → State} (h : u.Keeps i s) (n : Nat) (hf : ∀ s, u.Keeps i s → u.Keeps i (f s)) :
    u.Keeps i (s.partCommand n f) := by
  refine keeps_regWrite h _ _ fun s h => ?_
  split
  · exact keeps_partRefused h _ _
  · exact hf _ h

theorem State.keeps_mapAround (l : List Nat) (h : u.Keeps i s) : u.Keeps i (mapAround l s) := by
  induction l generalizing s with
  | nil => exact h
  | cons k l ih =>
    refine ih ?_
    split
    · exact h
    · split <;> exact h

theorem State.keeps_execCreate (n pid : Nat) (l : List Byte) (h : u.Keeps false s) : u.KeepsOut (execCreate n pid l s) := by
  unfold execCreate
  refine .next (keeps_partCommand h _ fun s h => ?_)
  dsimp only
  split
  · exact keeps_partRefused h _ _
  · refine keeps_onFn (keeps_mapAround _ ?_) _ _
    exact List.foldlRecOn _ _ (motive := fun t => u.Keeps false t) (by exact h) fun _ h _ _ => keeps_onFn h _ _

theorem State.keeps_killAll (l : List LSlot) (h : u.Keeps i s) : u.Keeps i (killAll l s) := by
  induction l generalizing s with
  | nil => exact h
  | cons x l ih =>
    refine ih ?_
    split
    · exact h
    · exact keeps_killSlot h _

theorem State.keeps_beginReset (h : u.Keeps i s) (n op pid : Nat) : u.Keeps i (s.beginReset n op pid) := by
  refine keeps_partCommand h _ fun s h => ?_
  split
  · exact keeps_partRefused h _ _
  · exact keeps_onFn (keeps_killAll _ (by exact h)) _ _

theorem State.keeps_powerCycle (h : u.Keeps i s) (p : Part) : u.Keeps i (s.powerCycle p) := by
  unfold powerCycle
  extract_lets mine held wipe sock
  have wiped (m : Mem) (hm : m.wf = true) : (wipe m).wf = true := by
    refine List.foldlRecOn _ _ (motive := fun m : Mem => m.wf = true) ?_ fun _ h _ _ => Mem.wf_clearRange _ _ h
    exact List.foldlRecOn _ _ (motive := fun m : Mem => m.wf = true) hm fun _ h _ _ => Mem.wf_clearRange _ _ h
  clear_value wipe
  exact h.with_dram (wiped _)

theorem State.keeps_execPartcmdComplete (n : Nat) (h : u.Keeps false s) : u.KeepsOut (execPartcmdComplete n s) := by
  unfold execPartcmdComplete
  refine .next ?_
  split
  · exact h
  · split
    · exact h
    · extract_lets v
      have cycled : u.Keeps false v := by
        simp only [v]
        split
        · split
          · exact h
          · exact keeps_powerCycle h _
        · exact h
      clear_value v
      refine keeps_onFn ?_ _ _
      split <;> exact cycled

end

open State

section
variable {i : Bool} {u s t : State}

/-! ## Checkpoint and restore (R404-R408) -/

theorem State.keeps_forgetPeers (h : u.Keeps i s) (n : Nat) : u.Keeps i (s.forgetPeers n) := h

theorem State.keeps_ckptEnd (h : u.Keeps i s) (pid fn : Nat) (r : Option Nat) : u.Keeps i (s.ckptEnd pid fn r) :=
  keeps_message (keeps_event (keeps_onPart (keeps_forgetPeers h _) _ _) _ _ _) _ _

theorem State.keeps_ckptRefused (h : u.Keeps i s) (p : Part) (fn r : Nat) : u.Keeps i (s.ckptRefused p fn r) := keeps_ckptEnd h _ _ _

theorem State.keeps_ckptCommand {f : Part → State → State} (h : u.Keeps i s) (fn op : Nat) (hf : ∀ p s, u.Keeps i s → u.Keeps i (f p s)) :
    u.Keeps i (s.ckptCommand fn op f) := by
  refine keeps_partWrite h _ _ _ fun p s h => ?_
  split
  · exact keeps_dropped h _
  · extract_lets v w
    have cleared : u.Keeps i v := h
    have touched : u.Keeps i w := keeps_touchGpa cleared _ _ _
    clear_value w
    split
    · exact keeps_ckptRefused (keeps_blame touched _) _ _ _
    · split
      · exact keeps_ckptRefused touched _ _ _
      · exact hf _ _ (keeps_onPart touched _ _)

theorem State.keeps_relocateAll (l : List Nat) (h : u.Keeps false s) : u.Keeps false (relocateAll l s) := by
  induction l generalizing s with
  | nil => exact h
  | cons n l ih => exact ih (keeps_relocate h n)

theorem State.keeps_execCheckpoint (n : Nat) (h : u.Keeps false s) : u.KeepsOut (execCheckpoint n s) :=
  .next (keeps_ckptCommand h _ _ fun _ _ h => keeps_relocateAll _ h)

theorem State.keeps_execRestore (n : Nat) (h : u.Keeps false s) : u.KeepsOut (execRestore n s) := by
  refine .next (keeps_ckptCommand h _ _ fun p s h => ?_)
  split
  · exact h
  · exact keeps_ckptRefused h _ _ _

theorem State.keeps_clearDreq (h : u.Keeps i s) (p : Part) : u.Keeps i (s.clearDreq p) :=
  List.foldlRecOn _ _ (motive := fun t => u.Keeps i t) h fun _ h _ _ => keeps_relocated (keeps_onSlot h _ _) _

theorem State.keeps_checkpointEnds (h : u.Keeps i s) (p : Part) (fn : Nat) (r : Option Nat) : u.Keeps i (s.checkpointEnds p fn r) :=
  keeps_clearDreq (keeps_ckptEnd h _ _ _) _

theorem State.keeps_onCkpt (h : u.Keeps i s) (n : Nat) (f : Ckpt → Ckpt) : u.Keeps i (s.onCkpt n f) := h

theorem State.keeps_restoreFails (h : u.Keeps i s) (p : Part) (r : Option Nat) : u.Keeps i (s.restoreFails p r) :=
  keeps_killAll _ (keeps_onCkpt (keeps_onPart h _ _) _ _)

theorem State.keeps_execAbort (n : Nat) (h : u.Keeps false s) : u.KeepsOut (execAbort n s) := by
  refine .next (keeps_partWrite h _ _ _ fun p s h => ?_)
  split
  · exact h
  · split
    · exact keeps_checkpointEnds h _ _ _
    · split
      · exact h
      · exact keeps_restoreFails h _ _

theorem State.keeps_pageEvent (h : u.Keeps i s) (a b : Nat) : u.Keeps i (s.pageEvent a b) := keeps_event h _ _ _

theorem State.keeps_hashPage (h : u.Keeps i s) (p : Part) (c : Ckpt) (n : Nat) : u.Keeps i (s.hashPage p c n) := by
  unfold hashPage
  dsimp only
  split
  · exact keeps_checkpointEnds (keeps_pageEvent h _ _) _ _ _
  · split
    · exact keeps_onCkpt h _ _
    · split
      · exact keeps_checkpointEnds (keeps_pageEvent (keeps_blame h _) _ _) _ _ _
      · exact keeps_onCkpt h _ _

theorem State.keeps_writePlaces (l : List (Place × Byte)) (h : u.Keeps i s) : u.Keeps i (writePlaces l s) := by
  induction l generalizing s with
  | nil => exact h
  | cons x l ih => exact ih (keeps_devWrite h _ _)

theorem State.Keeps.writeGpa {p : Part} {gpa : Nat} {l : List Byte} {ok : Bool} (h : u.Keeps i s) (eq : s.writeGpa p gpa l = (t, ok)) : u.Keeps i t := by
  unfold State.writeGpa at eq
  split at eq
  · cases eq
    exact keeps_writePlaces _ h
  · cases eq
    exact h

theorem State.keeps_storePage (h : u.Keeps i s) (p : Part) (c : Ckpt) (e : Nat × Nat × Nat × BitVec 384) : u.Keeps i (s.storePage p c e) := by
  unfold storePage
  split
  · exact keeps_onCkpt h _ _
  · split
    · exact keeps_checkpointEnds h _ _ _
    · split
      · exact keeps_checkpointEnds (keeps_pageEvent (keeps_blame h _) _ _) _ _ _
      · split
        · exact keeps_checkpointEnds (keeps_pageEvent h _ _) _ _ _
        · next eq => exact keeps_onCkpt (keeps_onPart (Keeps.writeGpa h eq) _ _) _ _

theorem State.keeps_writeManifest (h : u.Keeps i s) (p : Part) (c : Ckpt) : u.Keeps i (s.writeManifest p c) := by
  unfold writeManifest
  extract_lets body hash kept
  split
  · exact keeps_checkpointEnds h _ _ _
  · next eq =>
    have written := Keeps.writeGpa h eq
    exact keeps_checkpointEnds (by exact written) _ _ _

theorem State.keeps_checkpointStep (h : u.Keeps i s) (p : Part) (c : Ckpt) : u.Keeps i (s.checkpointStep p c) := by
  unfold checkpointStep
  extract_lets next
  have nexts (s : State) (h : u.Keeps i s) : u.Keeps i (next s) := keeps_onCkpt h _ _
  clear_value next
  split
  · split
    · exact nexts _ h
    · exact h
  · split
    · exact keeps_hashPage h _ _ _
    · exact nexts _ h
  · split
    · exact keeps_onCkpt (nexts _ h) _ _
    · split
      · exact keeps_checkpointEnds h _ _ _
      · exact h
  · split
    · exact keeps_storePage h _ _ _
    · exact nexts _ h
  · exact keeps_writeManifest h _ _

theorem State.keeps_execCheckpointComplete (n : Nat) (h : u.Keeps false s) : u.KeepsOut (execCheckpointComplete n s) := by
  unfold execCheckpointComplete
  refine .next ?_
  split
  · exact h
  · split
    · split
      · exact keeps_checkpointStep h _ _
      · exact h
    · exact h

theorem State.keeps_restoreReset (h : u.Keeps i s) (p : Part) (fn : Nat) (r : Option Nat) : u.Keeps i (s.restoreReset p fn r) := by
  unfold restoreReset
  split
  · exact keeps_ckptEnd (keeps_powerCycle h _) _ _ _
  · exact h

theorem State.keeps_touchPage (h : u.Keeps i s) (p : Part) (n : Nat) : u.Keeps i (s.touchPage p n) := keeps_touchGpa h _ _ _

theorem State.keeps_putPage (h : u.Keeps i s) (p : Part) (n : Nat) (l : List Byte) : u.Keeps i (s.putPage p n l) := by
  unfold putPage
  split
  · exact keeps_restoreFails (keeps_pageEvent h _ _) _ _
  · next eq => exact keeps_onCkpt (keeps_onPart (Keeps.writeGpa h eq) _ _) _ _

theorem State.keeps_pullPage (h : u.Keeps i s) (p : Part) (c : Ckpt) (e : Nat × Nat × Nat × BitVec 384) : u.Keeps i (s.pullPage p c e) := by
  unfold pullPage
  extract_lets mine
  split
  · split
    · exact keeps_restoreFails h _ _
    · exact h
  · split
    · exact keeps_restoreFails h _ _
    · split
      · exact keeps_restoreFails h _ _
      · split
        · exact keeps_putPage h _ _ _
        · generalize (if bit (le4 c.desc 0x30) 0 then 2 else 1) = copies
          split
          · exact keeps_restoreFails h _ _
          · split
            · exact keeps_restoreFails h _ _
            · exact h

theorem State.keeps_restorePage (h : u.Keeps i s) (p : Part) (c : Ckpt) (e : Nat × Nat × Nat × BitVec 384) : u.Keeps i (s.restorePage p c e) := by
  unfold restorePage
  split
  · exact h
  · split
    · extract_lets page v
      have touched : u.Keeps i v := keeps_touchPage h _ _
      clear_value v
      split
      · exact keeps_restoreFails (keeps_pageEvent (keeps_blame touched _) _ _) _ _
      · split
        · exact keeps_putPage touched _ _ _
        · exact keeps_restoreFails touched _ _
    · exact keeps_pullPage h _ _ _

theorem State.keeps_restoreSlots (h : u.Keeps i s) (p : Part) (c : Ckpt) : u.Keeps i (s.restoreSlots p c) := by
  unfold restoreSlots
  extract_lets l slots kept v w
  have given : u.Keeps i w := by
    simp only [w]
    split <;> exact h
  exact keeps_clearDreq (keeps_ckptEnd given _ _ _) _

theorem State.keeps_restoreStep (h : u.Keeps i s) (p : Part) (c : Ckpt) : u.Keeps i (s.restoreStep p c) := by
  unfold restoreStep
  split
  · exact keeps_restoreReset h _ _ _
  · extract_lets v
    have touched : u.Keeps i v := keeps_touchGpa h _ _ _
    clear_value v
    split
    · exact keeps_restoreFails (keeps_blame touched _) _ _
    · exact keeps_onCkpt (keeps_touchGpa touched _ _ _) _ _
  · split
    · exact keeps_restorePage h _ _ _
    · exact keeps_restoreSlots h _ _

theorem State.keeps_execRestoreComplete (n : Nat) (h : u.Keeps false s) : u.KeepsOut (execRestoreComplete n s) := by
  unfold execRestoreComplete
  refine .next ?_
  split
  · exact h
  · split
    · split
      · exact keeps_restoreStep h _ _
      · exact h
    · exact h

/-! ## Breaches and frames (R246, R400) -/

theorem State.keeps_execFabricLinkBreach (n : Nat) (h : u.Keeps false s) : u.KeepsOut (execFabricLinkBreach n s) := by
  unfold execFabricLinkBreach
  refine .next ?_
  split
  · exact h
  · dsimp only
    split
    · exact keeps_event (by exact h) _ _ _
    · exact h

theorem State.keeps_refuseWaits (h : u.Keeps i s) (n : Nat) : u.Keeps i (s.refuseWaits n) := h

theorem State.keeps_execTdispBreach (n : Nat) (h : u.Keeps false s) : u.KeepsOut (execTdispBreach n s) := by
  have erred (f : Fn → Fn) := keeps_onFn (keeps_refuseWaits h n) n f
  unfold execTdispBreach
  refine .next ?_
  split
  · dsimp only
    split
    · exact keeps_event (erred _) _ _ _
    · exact erred _
  · exact h

theorem State.keeps_execFrameZeroed (d f : Nat) (h : u.Keeps false s) : u.KeepsOut (execFrameZeroed d f s) := by
  unfold execFrameZeroed
  split
  · refine .next ?_
    split
    · exact keeps_zeroFrame h _
    · exact h
  · exact fun _ eq => by cases eq

end

open State

section
variable {i : Bool} {u s t : State} {c : Isle} {dram m : Mem} {left right : List Isle} {others : List CtxRec}

/-! ## Errors, power and frames (R246, R258, R331, R382) -/

theorem State.keeps_capChange (h : u.Keeps i s) (n : Nat) (f : Part → Part) : u.Keeps i (s.capChange n f) :=
  keeps_event (keeps_onPart h _ _) _ _ _

theorem State.keeps_capChanges (f : Part → Part) (l : List Part) (h : u.Keeps i s) : u.Keeps i (capChanges f l s) := by
  induction l generalizing s with
  | nil => exact h
  | cons p l ih => exact ih (keeps_capChange h _ _)

theorem State.keeps_lasting (h : u.Keeps false s) (x : ErrUnit) : u.Keeps false (s.lasting x) := by
  unfold lasting
  split
  · exact h
  · dsimp only
    split
    · exact h
    · exact keeps_relocateAll _ (keeps_capChanges _ _ (by exact h))
  · exact h
  · split
    · exact h
    · exact keeps_relocateAll _ (keeps_capChanges _ _ (by exact h))
  · split
    · exact h
    · exact keeps_capChanges _ _ (by exact h)
  · split
    · exact h
    · exact keeps_capChanges _ _ (by exact h)

theorem State.keeps_countIsle (h : u.Keeps false s) (x : ErrUnit) : u.Keeps false (s.countIsle x) := by
  unfold countIsle
  split
  · dsimp only
    split
    · exact h
    · refine keeps_withSlot (by exact h) _ fun s h => keeps_eachIsle h fun s h => ?_
      split <;> exact h
  · exact h

theorem State.keeps_execCorrectedError (x : ErrUnit) (h : u.Keeps false s) : u.KeepsOut (execCorrectedError x s) := by
  unfold execCorrectedError
  refine .next ?_
  split
  · exact keeps_lasting (by exact h) _
  · have counted := keeps_countIsle h x
    dsimp only
    split
    · exact keeps_lasting (by exact counted) _
    · exact counted

theorem State.keeps_copyFrame (h : u.Keeps i s) (a b : Nat) : u.Keeps i (s.copyFrame a b).1 := by
  unfold copyFrame
  exact h.with_dram fun k => Mem.wf_wrList _ (Mem.wf_clearRange _ _ k)

theorem State.keeps_retireFrame (h : u.Keeps i s) (d f : Nat) : u.Keeps i (s.retireFrame d f) := by
  unfold retireFrame
  extract_lets v
  have listed : u.Keeps i v := by
    simp only [v]
    split <;> exact h
  clear_value v
  split
  · exact listed
  · split
    · exact listed
    · split
      next w bad eq =>
      have copied : u.Keeps i w := by
        split at eq
        · cases eq
          exact listed
        · have copied := keeps_copyFrame listed (d * 2 ^ 40 + f * 65536) (d * 2 ^ 40 + ‹Nat› * 65536)
          rwa [eq] at copied
      exact keeps_event (keeps_onPart copied _ _) _ _ _

theorem State.keeps_execFrameRetirement (d f : Nat) (h : u.Keeps false s) : u.KeepsOut (execFrameRetirement d f s) := by
  unfold execFrameRetirement
  split
  · exact .next (keeps_retireFrame h _ _)
  · exact fun _ eq => by cases eq

theorem State.keeps_execIslandIdleGating (d c r : Nat) (h : u.Keeps false s) : u.KeepsOut (execIslandIdleGating d c r s) := by
  unfold execIslandIdleGating
  refine .next ?_
  split <;> exact h

theorem State.keeps_report (h : u.Keeps i s) (g : List Nat) : u.Keeps i (s.report g) :=
  List.foldlRecOn _ _ (motive := fun t => u.Keeps i t) h fun _ h _ _ => keeps_event h _ _ _

theorem State.keeps_execWaitForWalk (h : u.Keeps false s) : u.KeepsOut (execWaitForWalk s) := by
  have told (l : List (List Nat)) : u.Keeps false (l.foldl (fun s g => s.report g) s) :=
    List.foldlRecOn _ _ (motive := fun t => u.Keeps false t) h fun _ h _ _ => keeps_report h _
  exact .next (by exact told _)

/-! ## Handles, barriers and peers (R306, R352, R363, R375) -/

theorem State.keeps_execWhtEntryFetch (pid n : Nat) (h : u.Keeps false s) : u.KeepsOut (execWhtEntryFetch pid n s) := by
  unfold execWhtEntryFetch
  extract_lets fetched busy free v w
  have mems (c : Isle) (hc : c.MemCanonical) : (free c).MemCanonical := by
    simp only [free]
    split <;> exact hc
  have freed : u.Keeps false w := by
    refine KeepsParts.map_others (by exact h) (fun r => ?_) fun r hr => ?_
    · split
      · simp [CtxRec.shape]
      · rfl
    · split
      · exact List.forall_mem_map.mpr fun c hc => mems _ (hr c hc)
      · exact hr
  clear_value free w
  refine .next ?_
  split
  · exact keeps_eachIsle freed fun s h => h.with_core (mems _)
  · exact freed

theorem State.keeps_execBarrierPhaseRead (n va : Nat) (h : u.Keeps false s) : u.KeepsOut (execBarrierPhaseRead n va s) := by
  refine .next (keeps_withSlot h _ fun s h => keeps_eachIsle h fun s h => ?_)
  have touched := keeps_ctxTouch h va true false
  split
  · split
    · exact touched
    · split
      · next eq =>
        have paid := Keeps.letIn touched eq
        exact paid
      · refine keeps_await ?_ _
        split <;> exact h
  · exact h

theorem State.keeps_execPeerAccess (r : PeerReq) (h : u.Keeps false s) : u.KeepsOut (execPeerAccess r s) := by
  unfold execPeerAccess
  refine .next ?_
  split
  · exact h
  · split
    · exact h
    · split
      · exact h
      · extract_lets x v told
        have touched : u.Keeps false v := keeps_touch (by exact h) _ _ _
        have tells (f : Op → State → State) (hf : ∀ o (s : State), s.Keeps true (f o s)) : u.Keeps false (told f) := by
          simp only [told]
          split
          · exact keeps_withOp touched _ fun o s _ => hf o s
          · exact touched
        clear_value told v
        split
        · split
          · exact tells _ fun _ s => keeps_loseVa (keeps_refl true s) _ _
          · exact touched
        · exact tells _ fun o s => keeps_recordOp (keeps_refl true s) _ _ _ _

theorem State.keeps_tetherPays (h : u.Keeps false s) (r : TetherReq) (q : Packet) (l : List Place) : u.Keeps false (s.tetherPays r q l).1 := by
  unfold tetherPays
  extract_lets forget past todo k v w
  have paid : u.Keeps false v := by
    simp only [v]
    exact keeps_onSock (keeps_withSlot h _ fun _ h => keeps_pass h _) _ _
  clear_value v
  split
  · exact h
  · split
    · exact paid
    · refine keeps_await (keeps_onSock ?_ _ _) _
      simp only [w]
      split
      · refine keeps_withSlot paid _ fun s h => keeps_atIsle h (fun s h => ?_) _ _
        exact h
      · exact paid

theorem State.keeps_execTetherRequest (r : TetherReq) (h : u.Keeps false s) : u.KeepsOut (execTetherRequest r s) := by
  unfold execTetherRequest
  refine .next ?_
  split
  · exact h
  · split
    · exact keeps_freezeKite h _
    · next q _ =>
      split
      · exact keeps_freezeKite h _
      · extract_lets pid refuse n v
        have refused (s : State) (h : u.Keeps false s) : u.Keeps false (refuse s) := keeps_onSock h _ _
        have touched : u.Keeps false v := by
          simp only [v]
          exact keeps_touchAll h _ _ _ _
        clear_value refuse v
        split
        · exact refused _ (keeps_packetFault touched nofun _ _ _ _)
        · next l _ =>
          split
          · exact refused _ (keeps_withSlot touched _ fun _ h => keeps_loseVa h _ _)
          · have paid := keeps_tetherPays touched r q l
            split
            next w ok eq =>
            rw [eq] at paid
            split
            · exact paid
            · split
              · exact keeps_onSock (keeps_writePlaces _ paid) _ _
              · exact keeps_onSock paid _ _

end

open State

section
variable {i : Bool} {u s t : State}

/-! ## The host's accesses (R258, R389, R390, R403) -/

theorem State.keeps_debugSelect (h : u.Keeps i s) (n x : Nat) : u.Keeps i (s.debugSelect n x) := by
  refine keeps_regWrite h _ _ fun s h => ?_
  extract_lets k rid set locked
  have sets : u.Keeps i (set s) := keeps_onFn h _ _
  clear_value set
  split
  · split
    · exact keeps_dropped h _
    · exact sets
  · split
    · exact sets
    · exact keeps_dropped h _

theorem State.keeps_windowWrite (h : u.Keeps i s) (n off : Nat) (l : List Byte) : u.Keeps i (s.windowWrite n off l) := by
  refine keeps_regWrite h _ _ fun s h => ?_
  split
  · next asid pid va _ =>
    split
    · have written := keeps_writeVa h asid pid (va + off) l
      split
      · next eq => rwa [eq] at written
      · next eq =>
        rw [eq] at written
        exact keeps_dropped (keeps_blame written _) _
    · exact keeps_dropped h _
  · exact keeps_dropped h _

theorem State.keeps_recordWrites (fn slot off : Nat) (l : List Byte) (h : u.Keeps i s) : u.Keeps i (recordWrites fn slot off l s) := by
  induction l generalizing s off with
  | nil => exact h
  | cons x l ih => exact ih _ (keeps_recordWrite h _ _ _ _)

theorem State.keeps_launchWrite (h : u.Keeps false s) (fn off w : Nat) : u.Keeps false (s.launchWrite fn off w) := by
  unfold launchWrite
  dsimp only
  split
  · split
    · exact keeps_setSlot h _ _ _
    · exact keeps_suspendSlot h _ _
    · exact keeps_resumeSlot h _ _
    · exact keeps_killCommand h _ _
    · exact keeps_command h _ _ _ fun _ h => h
  · exact keeps_recordWrites _ _ _ _ h

theorem State.keeps_registerWrite (h : u.Keeps false s) (fn off : Nat) (x : W64) : u.Keeps false (s.registerWrite fn off x) := by
  have unchanged (vf : Bool) : u.Keeps false (s.regWrite fn vf id) := keeps_regWrite h _ _ fun _ h => h
  have ofFn (vf : Bool) (f : Fn → Fn) : u.Keeps false (s.regWrite fn vf fun s => s.onFn fn f) := keeps_regWrite h _ _ fun _ h => keeps_onFn h _ _
  have ofPart (vf lockable : Bool) (f : Part → Part) : u.Keeps false (s.partWrite fn vf lockable fun p s => s.onPart p.pid f) :=
    keeps_partWrite h _ _ _ fun _ _ h => keeps_onPart h _ _
  have checked (vf : Bool) (p : Prop) [Decidable p] : u.Keeps false (s.regWrite fn vf fun s => if p then s.dropped fn else s) := by
    refine keeps_regWrite h _ _ fun s h => ?_
    split
    · exact keeps_dropped h _
    · exact h
  unfold registerWrite
  extract_lets w sel
  clear_value w
  split
  · exact unchanged _
  · exact ofFn _ _
  · exact ofFn _ _
  · exact keeps_invalidate h _ _
  · exact ofFn _ _
  · split
    · exact keeps_handleCommand h _ _ _
    · exact unchanged _
  · exact ofPart _ _ _
  · split
    · exact ofPart _ _ _
    · exact unchanged _
  · exact keeps_featWrite h _ _
  · split
    · exact ofPart _ _ _
    · exact unchanged _
  · exact keeps_asidWrite h _ _ _
  · exact checked _ _
  · exact ofFn _ _
  · exact ofFn _ _
  · exact checked _ _
  · exact ofPart _ _ _
  · exact ofPart _ _ _
  · exact unchanged _
  · exact ofFn _ _
  · exact keeps_debugSelect h _ _
  · split
    · exact unchanged _
    · split
      · exact unchanged _
      · split
        · exact keeps_windowWrite h _ _ _
        · split
          · exact keeps_launchWrite h _ _ _
          · exact keeps_regWrite h _ _ fun _ h => keeps_dropped h _

theorem State.keeps_reply (h : u.Keeps i s) (n : Nat) (l : List Byte) : u.Keeps i (s.reply n l) := keeps_onFn h _ _

theorem State.keeps_hostAbort (h : u.Keeps i s) (fn pid a : Nat) (x : ErrUnit) : u.Keeps i (s.hostAbort fn pid a x) :=
  keeps_reply (keeps_event (keeps_uncorrectable h _) _ _ _) _ _

theorem State.keeps_windowAnswer (h : u.Keeps i s) (fn pid a : Nat) (read : Except VaFault (List Byte)) (plain : List Byte) :
    u.Keeps i (s.windowAnswer fn pid a read plain) := by
  unfold windowAnswer
  split
  · exact keeps_hostAbort h _ _ _ _
  · exact keeps_reply h _ _

theorem State.keeps_regAnswer (h : u.Keeps i s) (r : HostReq) : u.Keeps i (s.regAnswer r) := by
  by_cases plain : r.gpa / 8 * 8 < 0x12000 ∨ 0x14800 ≤ r.gpa / 8 * 8 ∨ s.window r.fn = none
  · rw [regAnswer_of_plain rfl plain]
    exact keeps_reply h _ _
  · rw [not_or, not_or, not_lt, not_le] at plain
    obtain ⟨low, high, opened⟩ := plain
    obtain ⟨⟨asid, pid, va⟩, opened⟩ := Option.ne_none_iff_exists'.mp opened
    rw [regAnswer_of_window rfl low high opened]
    exact keeps_windowAnswer (keeps_touchVa h _ _ _ _) _ _ _ _ _

theorem State.keeps_hostPays (h : u.Keeps i s) (r : HostReq) (l : List Place) : u.Keeps i (s.hostPays r l).1 := by
  unfold hostPays
  extract_lets past todo
  have admitted := keeps_admitBy (f := State.channelIn) (fun _ _ _ h eq => Keeps.channelIn h eq) todo h
  split
  next v k eq =>
  rw [eq] at admitted
  dsimp only
  split
  · exact admitted
  · exact keeps_await (by exact admitted) _

theorem State.keeps_writeSectors (h : u.Keeps i s) (a : List Place) (l : List (Place × Byte)) : u.Keeps i (s.writeSectors a l) :=
  keeps_writePlaces _ h

theorem State.keeps_hostMemory (h : u.Keeps i s) (r : HostReq) (p : Part) : u.Keeps i (s.hostMemory r p) := by
  unfold hostMemory
  split
  · exact keeps_reply h _ _
  · next l _ =>
    split
    · exact keeps_hostAbort h _ _ _ _
    · have paid := keeps_hostPays h r l
      split
      next v now ok eq =>
      rw [eq] at paid
      split
      · have written := keeps_writeSectors paid now (l.zip ‹List Byte›)
        dsimp only
        split
        · exact keeps_reply written _ _
        · exact written
      · split
        · exact keeps_reply (keeps_zeroFrames paid _) _ _
        · exact paid

theorem State.keeps_execHostMemoryRequest (r : HostReq) (h : u.Keeps false s) : u.KeepsOut (execHostMemoryRequest r s) := by
  unfold execHostMemoryRequest
  refine .next ?_
  split
  · exact keeps_reply h _ _
  · split
    · exact keeps_reply (by exact h) _ _
    · split
      · split
        · exact keeps_reply (keeps_registerWrite h _ _ _) _ _
        · exact keeps_regAnswer h _
      · split
        · exact keeps_reply h _ _
        · split
          · exact keeps_dropped h _
          · exact keeps_hostMemory h _ _

/-! ## Interfaces, measurements, resets and replicas (R397-R401, R407) -/

/-- An interface's command, taken or not. -/
theorem State.keepsOut_onFn_ite (h : u.Keeps false s) (p : Prop) [Decidable p] (n : Nat) (f : Fn → Fn) :
    u.KeepsOut (.next (if p then s.onFn n f else s)) := by
  refine .next ?_
  split
  · exact keeps_onFn h _ _
  · exact h

theorem State.keeps_execStopInterface (n : Nat) (h : u.Keeps false s) : u.KeepsOut (execStopInterface n s) := by
  unfold execStopInterface
  refine .next ?_
  split
  · exact h
  · exact keeps_onFn h _ _

theorem State.keeps_execGetDeviceInterfaceReport (n : Nat) (h : u.Keeps false s) : u.KeepsOut (execGetDeviceInterfaceReport n s) := by
  unfold execGetDeviceInterfaceReport
  refine .next ?_
  split
  · exact h
  · exact keeps_onFn h _ _

theorem State.keeps_spdm (h : u.Keeps i s) (a b : Nat) (l : List Byte) : u.Keeps i (s.spdm a b l) := by
  unfold spdm
  split
  · exact h
  · exact keeps_onFn h _ _

theorem State.keeps_execFirmwareLoad (x : FwImage) (h : u.Keeps false s) : u.KeepsOut (execFirmwareLoad x s) := by
  unfold execFirmwareLoad
  refine .next ?_
  split <;> exact h

theorem State.keeps_execModuleReset (h : u.Keeps false s) : u.KeepsOut (execModuleReset s) := by
  refine .next (Keeps.of_outer h (fun _ => ?_) fun _ => ?_)
  · rfl
  · exact ⟨Isle.start_memCanonical 0 0 64, List.forall_mem_nil _, List.forall_mem_nil _, List.forall_mem_nil _⟩

theorem State.keeps_givePage (h : u.Keeps i s) (p : Part) (n : Nat) : u.Keeps i (s.givePage p n) := by
  unfold givePage
  extract_lets v
  have touched : u.Keeps i v := keeps_touchPage h _ _
  clear_value v
  split
  · exact keeps_onFn (keeps_blame touched _) _ _
  · exact keeps_onFn touched _ _

theorem State.keeps_servePull (h : u.Keeps i s) (p : Part) (n : Nat) (x : Option Nat) : u.Keeps i (s.servePull p n x) := by
  unfold servePull
  split
  · exact keeps_givePage h _ _
  · split
    · exact keeps_onFn (keeps_blame h _) _ _
    · exact keeps_givePage h _ _

theorem State.keeps_execReplicaExchange (x : ReplicaMsg) (h : u.Keeps false s) : u.KeepsOut (execReplicaExchange x s) := by
  unfold execReplicaExchange
  refine .next ?_
  split
  · exact h
  · split
    · exact h
    · split
      · exact h
      · exact h
      · exact keeps_servePull h _ _ _

end

open State

section
variable {i : Bool} {u s t : State}

/-! ## Instructions and events together (R87, R322) -/

theorem State.keeps_foldl_lands (h : u.Keeps i s) (l : List Flight) : u.Keeps i (l.foldl State.lands s) :=
  List.foldlRecOn l _ (motive := fun t => u.Keeps i t) h fun _ h _ _ => keeps_lands h _

theorem State.keeps_execBufferAccess (n : Nat) (h : u.Keeps false s) : u.KeepsOut (execBufferAccess n s) := by
  unfold execBufferAccess
  refine .next ?_
  split
  · split
    · exact keeps_perform h _ _ _
    · exact h
  · exact h

theorem State.keeps_execNrmtArrival (n : Nat) (h : u.Keeps false s) : u.KeepsOut (execNrmtArrival n s) := by
  unfold execNrmtArrival
  refine .next ?_
  split
  · split
    · refine keeps_atIsle h (fun s h => ?_) _ _
      dsimp only
      split
      · split
        · exact keeps_loseAt (by exact h) _ _
        · exact keeps_serveRemote (by exact h) _ _ _ _ _
      · exact h
    · exact h
  · exact h

theorem State.keeps_execWaitSatisfied (h : u.Keeps false s) : u.KeepsOut (execWaitSatisfied s) := by
  unfold execWaitSatisfied
  refine .next ?_
  split
  · exact keeps_eachIsle h fun _ h => keeps_consume h
  · exact h

theorem State.keeps_execCopyUnitEntryFree (h : u.Keeps false s) : u.KeepsOut (execCopyUnitEntryFree s) := by
  refine .next (keeps_eachIsle h fun s h => ?_)
  split <;> exact h

theorem State.keeps_execAsyncSectorTransfer (n : Nat) (h : u.Keeps false s) : u.KeepsOut (execAsyncSectorTransfer n s) := by
  refine .next (keeps_withOp h _ fun o s _ => ?_)
  split
  · exact keeps_refl true s
  · exact keeps_sectorStep (keeps_refl true s) _

theorem State.keeps_execAsyncOperationComplete (n : Nat) (h : u.Keeps false s) : u.KeepsOut (execAsyncOperationComplete n s) := by
  refine .next (keeps_withOp h _ fun o s home => ?_)
  split
  · exact keeps_postStep home
  · exact keeps_finishOp o (keeps_refl true s)

theorem State.keeps_execLaunchReachesTable (n : Nat) (h : u.Keeps false s) : u.KeepsOut (execLaunchReachesTable n s) := by
  refine .next (keeps_withOp h _ fun o s _ => ?_)
  have stays := keeps_refl true s
  split
  · split
    · exact stays
    · split
      · exact keeps_stopOp stays _ _ _ _
      · exact keeps_dropOp (keeps_arm stays _ _) _
  · exact stays

theorem State.keeps_execMuZero (ld : Bool) (h : u.Keeps false s) : u.KeepsOut (execMuZero ld s) := by
  unfold execMuZero
  refine .next ?_
  split <;> exact keeps_micro h _ _ _

/-- A frame of the isle in focus and of device memory, as a slot word's issue has it. -/
theorem State.Framed.keeps {e d : Prop} (g : s.Framed e d t) (h : u.Keeps i s) : u.Keeps i t where
  dram := g.dram ∘ h.dram
  shapes inner := by rw [g.others, h.shapes inner]
  core k := g.mem (h.core k)
  left := g.left ▸ h.left
  right := g.right ▸ h.right
  others := g.others ▸ h.others

/-- Every instruction and event. -/
theorem State.keepsOut_exec (x : Instr) (h : u.Keeps false s) : u.KeepsOut (exec x s) := by
  cases hp : x.pred? with
  | some p => exact fun t ran => (exec_framed x s hp t ran).keeps h
  | none =>
    cases x with
    | muNop | muLda | muLdb | muStep | muMask | muScl | muFold | muDrain | muDrnc | muXpose | muLoop | muEndl | muPadd | muHdr =>
      exact .next (keeps_micro h _ _ _)
    | muZero => exact keeps_execMuZero _ h
    | muChk | muRet => exact .next (keeps_commitWord h _)
    | resultLanding => exact .next (keeps_foldl_lands h _)
    | bufferAccess => exact keeps_execBufferAccess _ h
    | networkWordArrival => exact .next (keeps_wordArrives h _)
    | fwdWindowExpiry => exact .next (Isle.keeps_expire h _ _)
    | nrmtArrival => exact keeps_execNrmtArrival _ h
    | engineIntervalEnd => exact .next (keeps_stageMuwr (Isle.keeps_intervalEnd h _) _)
    | waitSatisfied => exact keeps_execWaitSatisfied h
    | copyUnitEntryFree => exact keeps_execCopyUnitEntryFree h
    | asyncSectorTransfer => exact keeps_execAsyncSectorTransfer _ h
    | asyncOperationComplete => exact keeps_execAsyncOperationComplete _ h
    | ovlComplete => exact .next (keeps_withOp h _ fun o s _ => keeps_ovlEnd o (keeps_refl true s))
    | collComplete => exact .next (keeps_collEnd h _)
    | launchReachesTable => exact keeps_execLaunchReachesTable _ h
    | kiteArrive => exact keeps_execKiteArrive _ _ _ _ _ h
    | faultPacket => exact keeps_execFaultPacket _ _ _ _ h
    | abandon => exact keeps_execAbandon _ _ _ h
    | kiteQuiesceTimeout => exact keeps_execKiteQuiesceTimeout _ h
    | slotSet => exact .next (keeps_setSlot h _ _ _)
    | suspend => exact .next (keeps_suspendSlot h _ _)
    | resume => exact .next (keeps_resumeSlot h _ _)
    | kill => exact .next (keeps_killCommand h _ _)
    | hostRecordWrite => exact .next (keeps_recordWrite h _ _ _ _)
    | dependenceSatisfied => exact .next (keeps_tryReady h _)
    | placement => exact keeps_execPlacement _ h
    | eprioAging =>
      refine .next ?_
      split
      · exact keeps_onSlot h _ _
      · exact h
    | contextSwitch => exact keeps_execContextSwitch _ h
    | suspensionRequest => exact keeps_execSuspensionRequest _ h
    | suspensionComplete => exact keeps_execSuspensionComplete _ h
    | relocation => exact keeps_execRelocation _ h
    | safepointOverdue => exact keeps_execSafepointOverdue _ h
    | retirement => exact keeps_execRetirement _ h
    | retirementComplete => exact keeps_execRetirementComplete _ h
    | teardown => exact keeps_execTeardown _ _ _ h
    | msixCoalesceTimer => exact keeps_execMsixCoalesceTimer _ h
    | invalidation => exact .next (keeps_invalidate h _ _)
    | invalidationComplete => exact keeps_execInvalidationComplete _ h
    | whtLoad | whtUnload => exact .next (keeps_handleCommand h _ _ _)
    | whtCommandComplete => exact keeps_execWhtCommandComplete _ h
    | featwr => exact .next (keeps_featWrite h _ _)
    | asidcmdSet | asidcmdClear => exact .next (keeps_asidWrite h _ _ _)
    | create => exact keeps_execCreate _ _ _ h
    | partReset | partDestroy => exact .next (keeps_beginReset h _ _ _)
    | partcmdComplete => exact keeps_execPartcmdComplete _ h
    | checkpoint => exact keeps_execCheckpoint _ h
    | restore => exact keeps_execRestore _ h
    | abort => exact keeps_execAbort _ h
    | checkpointComplete => exact keeps_execCheckpointComplete _ h
    | restoreComplete => exact keeps_execRestoreComplete _ h
    | fabricLinkBreach => exact keeps_execFabricLinkBreach _ h
    | tdispBreach => exact keeps_execTdispBreach _ h
    | frameZeroed => exact keeps_execFrameZeroed _ _ h
    | correctedError => exact keeps_execCorrectedError _ h
    | frameRetirement => exact keeps_execFrameRetirement _ _ h
    | islandIdleGating => exact keeps_execIslandIdleGating _ _ _ h
    | voltageRampComplete | islandWake | budgetInterval | socketBringUp | powerThrottle | thermalPoll => exact .next h
    | waitForWalk => exact keeps_execWaitForWalk h
    | whtEntryFetch => exact keeps_execWhtEntryFetch _ _ h
    | barrierPhaseRead => exact keeps_execBarrierPhaseRead _ _ h
    | peerAccess => exact keeps_execPeerAccess _ h
    | tetherRequest => exact keeps_execTetherRequest _ h
    | dbgsel => exact .next (keeps_debugSelect h _ _)
    | rswin => exact .next (keeps_windowWrite h _ _ _)
    | registerWrite => exact .next (keeps_registerWrite h _ _ _)
    | hostMemoryRequest => exact keeps_execHostMemoryRequest _ h
    | functionLevelReset => exact .next (keeps_onFn h _ _)
    | lockInterface | startInterface => exact keepsOut_onFn_ite h _ _ _
    | stopInterface => exact keeps_execStopInterface _ h
    | getDeviceInterfaceReport => exact keeps_execGetDeviceInterfaceReport _ h
    | getVersion => exact .next (keeps_spdm (keeps_onFn h _ _) _ _ _)
    | getCapabilities | negotiateAlgorithms | getDigests | getCertificate | challenge | getMeasurements => exact .next (keeps_spdm h _ _ _)
    | keyExchange | finish => exact .next (keeps_onFn (keeps_spdm h _ _ _) _ _)
    | firmwareLoad => exact keeps_execFirmwareLoad _ h
    | moduleReset => exact keeps_execModuleReset h
    | replicaExchange => exact keeps_execReplicaExchange _ h
    | _ => cases hp

end

end Sys2Proof.Machine
end

section
/-! PROOFS. Memories stay canonical: cycles and steps -/

namespace Sys2Proof.Machine

open State

section
variable {i : Bool} {u s t : State} {c : Isle} {dram m : Mem} {left right : List Isle} {others : List CtxRec}

/-! ## A region cycle (R37, R86, R322) -/

theorem State.keeps_run (x : Instr) (h : u.Keeps false s) : u.Keeps false (run x s) := by
  unfold run
  split
  · next ran => exact keepsOut_exec x h _ ran
  · exact h

/-- A function repeated over a list. -/
theorem State.keeps_foldl {α : Type} {f : State → α → State} (h : u.Keeps i s) (hf : ∀ s x, u.Keeps i s → u.Keeps i (f s x)) (l : List α) :
    u.Keeps i (l.foldl f s) := List.foldlRecOn l f (motive := fun t => u.Keeps i t) h fun _ h _ _ => hf _ _ h

theorem State.keeps_enterWait (h : u.Keeps i s) : u.Keeps i s.enterWait := by
  unfold enterWait
  split
  · exact h
  · split
    · exact h
    · dsimp only
      split
      · exact h
      · split <;> exact h

theorem State.keeps_trackWait (h : u.Keeps i s) : u.Keeps i s.trackWait := by
  unfold trackWait
  split
  · exact h
  · exact keeps_enterWait h

theorem State.keeps_trackWaits (h : u.Keeps i s) : u.Keeps i (s.eachIsle State.trackWait) := keeps_eachIsle h fun _ h => keeps_trackWait h

theorem State.keeps_idleTurn (h : u.Keeps false s) : u.Keeps false s.idleTurn := by
  unfold idleTurn
  extract_lets wake
  have woken : u.Keeps false wake := keeps_requestSwitch (by exact h) _
  clear_value wake
  split
  · split
    · exact keeps_trackWaits woken
    · exact keeps_trackWaits h
  · split
    · split
      · exact h
      · split
        · exact woken
        · exact h
    · exact h

theorem State.keeps_countAll (h : u.Keeps i s) (n : Nat) : u.Keeps i (s.countAll n) := keeps_eachIsle h fun _ h => h

theorem State.keeps_inRcBefore {f : State → State} (h : u.Keeps i s) (hf : ∀ s, u.Keeps i s → u.Keeps i (f s)) : u.Keeps i (s.inRcBefore f) :=
  hf _ h

/-! ### The micro-sequencer (R231, R243) -/

theorem State.keeps_segmentEnd (h : u.Keeps i s) (x : XRun) (r : Routine) (ret : Bool) (g : Segment) (n : Nat) :
    u.Keeps i (s.segmentEnd x r ret g n) := by
  unfold segmentEnd
  dsimp only
  split <;> exact h

theorem State.keeps_muEnd (h : u.Keeps i s) (x : XRun) (n : Nat) : u.Keeps i (s.muEnd x n) := by
  unfold muEnd
  split
  · exact h
  · dsimp only
    split
    · split
      · exact h
      · exact keeps_segmentEnd h _ _ _ _ _
    · exact h

theorem State.keeps_muAfter (h : u.Keeps i s) (g : u.Keeps i t) (x : XRun) (r : Routine) (n : Nat) : u.Keeps i (s.muAfter t x r n) := by
  unfold muAfter
  split
  · split
    · exact g
    · dsimp only
      split
      · exact g
      · exact g
      · exact keeps_segmentEnd h _ _ _ _ _
  · exact g
  · refine keeps_muEnd ?_ _ _
    split <;> exact g

theorem State.keeps_muIssue (h : u.Keeps false s) (r : Routine) : u.Keeps false (s.muIssue r) := by
  unfold muIssue
  split
  · exact h
  · split
    · exact keeps_muFault h _ _
    · split
      · exact keeps_loseAt h _ _
      · split
        · split
          · exact keeps_muFault h _ _
          · exact h
        · exact keeps_run _ h

theorem State.keeps_matCycle (h : u.Keeps false s) (n : Nat) : u.Keeps false (s.matCycle n) := by
  unfold matCycle
  split
  · exact keeps_muAfter h (keeps_muIssue h _) _ _ _
  · exact h

theorem State.keeps_rerunCycle (h : u.Keeps false s) : u.Keeps false s.rerunCycle := by
  unfold rerunCycle
  split
  · exact keeps_inRcBefore h fun _ h => keeps_matCycle h _
  · exact h

theorem State.keeps_replayTurn (h : u.Keeps false s) : u.Keeps false s.replayTurn := by
  unfold replayTurn
  extract_lets v
  have rerun : u.Keeps false v := keeps_eachIsle (keeps_countAll h _) fun _ h => keeps_rerunCycle h
  clear_value v
  split <;> exact rerun

theorem Isle.keeps_segmentLands (h : u.KeepsIsle i c left right others dram) (l : Landing) :
    u.KeepsIsle i (c.segmentLands l) left right others dram := by
  have written := keeps_writesLand h l.segment.writes
  unfold segmentLands
  extract_lets g d m m2 m3
  exact keeps_records (by exact written) _ _

theorem Isle.keeps_matCommit (h : u.KeepsIsle i c left right others dram) (n : Nat) :
    u.KeepsIsle i (c.matCommit n) left right others dram :=
  List.foldlRecOn _ _ (motive := fun c => u.KeepsIsle i c left right others dram) (by exact h) fun _ h _ _ => keeps_segmentLands h _

theorem State.keeps_endEngine (h : u.Keeps false s) : u.Keeps false s.endEngine := by
  unfold endEngine
  extract_lets v
  have committed : u.Keeps false v := Isle.keeps_matCommit h _
  clear_value v
  split
  · exact committed
  · exact keeps_run _ committed

theorem State.keeps_muStop (h : u.Keeps i s) (n : Nat) (l : List Nat) : u.Keeps i (s.muStop n l) := Isle.keeps_raiseLate (by exact h) _

theorem State.keeps_matCyclesOf (l : List Nat) (h : u.Keeps false s) : u.Keeps false (matCyclesOf l s) := by
  induction l generalizing s with
  | nil => exact h
  | cons n l ih =>
    unfold matCyclesOf
    split
    · exact keeps_muStop h _ _
    · have cycled := keeps_matCycle h (s.rcOfTick (n + s.divOf .mat - 1))
      dsimp only
      split
      · exact cycled
      · exact ih cycled

theorem State.keeps_payOwed (h : u.Keeps false s) : u.Keeps false s.payOwed := by
  unfold payOwed
  split
  · exact h
  · exact keeps_inRcBefore h fun _ h => keeps_endEngine (keeps_matCyclesOf _ (by exact h))

/-! ### Traps and handlers (R322, R326) -/

theorem State.keeps_sharing (h : u.Keeps i s) (l : List Nat) (k : List (Nat × TrapRec × Option Nat)) : u.Keeps i (s.sharing l k).1 := h

theorem State.keeps_enterTraps (l : List (Nat × TrapRec)) (h : u.Keeps i s) : u.Keeps i (enterTraps l s) :=
  keeps_foldl h (fun _ _ h => keeps_trapHere (keeps_focusIsle h _) _ _) l

theorem State.keeps_openCycle (h : u.Keeps i s) : u.Keeps i s.openCycle := keeps_eachIsle (by exact h) fun _ h => h

theorem State.keeps_issueWords (test : SlotId → Bool) (l : List (SlotId × Instr)) (h : u.Keeps false s) : u.Keeps false (issueWords test l s) := by
  refine keeps_foldl h (fun s x h => ?_) l
  split
  · exact keeps_run _ (by exact h)
  · exact h

theorem State.keeps_issueAll (test : SlotId → Bool) (l : List (Nat × List (SlotId × Instr))) (h : u.Keeps false s) :
    u.Keeps false (issueAll test l s) := keeps_foldl h (fun _ _ h => keeps_issueWords _ _ (keeps_focusIsle h _)) l

theorem State.keeps_issueRc (h : u.Keeps false s) (f : List (Nat × Fetched)) : u.Keeps false (s.issueRc f) :=
  keeps_issueAll _ _ (keeps_issueAll _ _ h)

theorem State.keeps_freezeFor (h : u.Keeps i s) (l : List (Nat × TrapRec)) : u.Keeps i (s.freezeFor l) := by
  unfold freezeFor
  extract_lets late
  have shared := keeps_sharing h (l.map (·.1) ++ if late then [0] else []) s.nextTraps
  split
  next v k eq =>
  rw [eq] at shared
  have entered := keeps_enterTraps (l ++ k) shared
  dsimp only
  split
  · exact keeps_focusIsle entered 0
  · exact entered

theorem State.keeps_payTurn (h : u.Keeps false s) : u.Keeps false s.payTurn := by
  have paid := keeps_eachIsle h fun _ h => keeps_payOwed h
  unfold payTurn
  dsimp only
  split
  · exact paid
  · exact keeps_freezeFor paid _

theorem State.keeps_overdueTurn (h : u.Keeps i s) : u.Keeps i s.overdueTurn := by
  unfold overdueTurn
  have shared := keeps_sharing h [0] s.nextTraps
  split
  next v l eq =>
  rw [eq] at shared
  refine keeps_focusIsle (keeps_foldl shared (fun s x h => ?_) l) 0
  exact keeps_focusIsle h x.1

theorem State.keeps_handlerLost (h : u.Keeps i s) (a : Nat) : u.Keeps i (s.handlerLost a) := by
  unfold handlerLost
  split
  · exact keeps_loseAt h _ _
  · exact keeps_doubleFault h _

theorem State.keeps_tryLeave (h : u.Keeps i s) : u.Keeps i s.tryLeave := by
  unfold tryLeave
  split
  · split
    · exact keeps_handlerLost h _
    · split
      · exact h
      · extract_lets c v
        have left : u.KeepsIsle i c v.left v.right v.others v.dram := by
          simp only [v]
          split <;> exact h
        clear_value v c
        split <;> exact left
  · exact h

theorem State.keeps_landAll (h : u.Keeps i s) (test : Eff → Bool) : u.Keeps i (s.landAll test) := keeps_foldl_lands h _

theorem State.keeps_performAll (h : u.Keeps false s) : u.Keeps false s.performAll := keeps_foldl h (fun _ _ h => keeps_run _ h) _

theorem State.keeps_handlerClose (h : u.Keeps false s) : u.Keeps false s.handlerClose := keeps_landAll (keeps_performAll h) _

theorem State.keeps_lostIn (h : u.Keeps i s) (a : State) : u.Keeps i (s.lostIn a) := keeps_eachIsle (by exact h) fun _ h => h

theorem Isle.keeps_advance (h : u.KeepsIsle i c left right others dram) : u.KeepsIsle i c.advance left right others dram := by
  unfold advance
  split
  · exact h
  · extract_lets d
    have timed : u.KeepsIsle i d left right others dram := by
      simp only [d]
      split <;> exact h
    clear_value d
    split
    · exact timed
    · split
      · exact timed
      · exact keeps_setLoops timed _
    · exact timed
    · exact keeps_setLoops timed _

theorem State.keeps_handlerBundle (h : u.Keeps false s) (l : List (SlotId × Instr)) : u.Keeps false (s.handlerBundle l) := by
  unfold handlerBundle
  split
  · exact keeps_handlerClose h
  · extract_lets a b
    have issued : u.Keeps false b := keeps_issueWords _ l h
    clear_value b
    split
    · exact h
    · split
      · exact keeps_lostIn h _
      · refine keeps_tryLeave (keeps_handlerClose ?_)
        split
        · exact issued
        · exact Isle.keeps_advance issued

theorem State.keeps_handlerCycle (h : u.Keeps false s) : u.Keeps false s.handlerCycle := by
  unfold handlerCycle
  split
  · exact h
  · split
    · exact keeps_tryLeave (keeps_handlerClose h)
    · extract_lets w c v
      have closed : u.Keeps false w := keeps_handlerClose h
      have opened : u.Keeps false v := h
      clear_value w v
      split
      · exact closed
      · split
        · exact keeps_doom opened _ _ _
        · exact keeps_handlerLost opened _
        · exact keeps_handlerBundle opened _

end

open State

section
variable {i : Bool} {u s t : State} {c : Isle} {dram m : Mem} {left right : List Isle} {others : List CtxRec}

/-! ## The end of a cycle (R86, R371, R378) -/

theorem State.keeps_waitTouch (h : u.Keeps i s) : u.Keeps i s.waitTouch := by
  unfold waitTouch
  split
  · exact keeps_refTouch h _
  · exact h

theorem State.keeps_offer (h : u.Keeps i s) : u.Keeps i s.offer := h

theorem State.keeps_consumeAll (h : u.Keeps false s) : u.Keeps false s.consumeAll := keeps_run .waitSatisfied h

theorem State.keeps_lookAgain (h : u.Keeps i s) : u.Keeps i s.lookAgain := by
  unfold lookAgain
  split
  · split
    · exact h
    · exact keeps_loseVa h _ _
    · exact keeps_loseAt h _ _
    · exact h
  · exact h

theorem State.keeps_standing (h : u.Keeps false s) : u.Keeps false s.standing.1 := by
  unfold standing
  extract_lets v listed issuing looked
  have touched : u.Keeps false v := keeps_eachIsle h fun _ h => keeps_waitTouch h
  have hlisted : u.Keeps false listed := touched
  have hissuing : u.Keeps false issuing := hlisted
  have hlooked : u.Keeps false looked := keeps_eachIsle (keeps_trackWaits (keeps_countAll hlisted _)) fun _ h => keeps_lookAgain h
  clear_value looked issuing listed v
  split
  · exact keeps_foldl (by exact touched) (fun _ _ h => keeps_trapHere (keeps_focusIsle h _) _ _) _
  · split
    · split
      · exact keeps_offer (keeps_trackWaits hissuing)
      · exact keeps_consumeAll hissuing
    · dsimp only
      split
      · exact keeps_offer hlooked
      · exact hlooked

theorem State.keeps_serveAll (h : u.Keeps false s) : u.Keeps false s.serveAll := keeps_foldl h (fun _ _ h => keeps_run _ h) _

theorem State.keeps_closeNetwork (h : u.Keeps i s) : u.Keeps i s.closeNetwork := keeps_foldl h (fun _ _ h => keeps_wordArrives h _) _

theorem State.keeps_endIntervals (h : u.Keeps false s) : u.Keeps false s.endIntervals :=
  keeps_foldl (keeps_endEngine h) (fun _ _ h => keeps_run _ h) _

theorem Isle.keeps_stepPc (h : u.KeepsIsle i c left right others dram) (issued : Bool) :
    u.KeepsIsle i (c.stepPc issued) left right others dram := by
  unfold stepPc
  split
  · exact keeps_advance (by exact h)
  · split <;> exact h

theorem State.keeps_setClock (h : u.Keeps i s) (k : ClkClass × Nat) : u.Keeps i (s.setClock k) := h

theorem State.keeps_closeCycle (h : u.Keeps false s) (l : List (Nat × List (SlotId × Instr))) : u.Keeps false (s.closeCycle l) := by
  unfold closeCycle
  extract_lets clk t1 t2 t3 t4 t5 t6 t7 t8 t9 t10
  have performed : u.Keeps false t1 := keeps_eachIsle h fun _ h => keeps_performAll h
  clear_value t1
  have served : u.Keeps false t2 := keeps_eachIsle performed fun _ h => keeps_serveAll h
  clear_value t2
  have cycled : u.Keeps false t3 := keeps_eachIsle served fun _ h => keeps_matCyclesOf _ h
  clear_value t3
  have first : u.Keeps false t4 := keeps_eachIsle cycled fun _ h => keeps_landAll h _
  clear_value t4
  have moved : u.Keeps false t5 := keeps_closeNetwork first
  clear_value t5
  have landed : u.Keeps false t6 := keeps_eachIsle moved fun _ h => keeps_landAll h _
  clear_value t6
  have ended : u.Keeps false t7 := keeps_eachIsle landed fun _ h => keeps_endIntervals h
  clear_value t7
  have written : u.Keeps false t8 := keeps_eachIsle ended fun _ h => keeps_landAll h _
  clear_value t8
  have stepped : u.Keeps false t9 := keeps_eachIsle written fun _ h => Isle.keeps_stepPc h _
  clear_value t9
  have counted : u.Keeps false t10 := stepped
  clear_value t10 clk
  split
  · exact keeps_setClock counted _
  · exact counted

theorem State.keeps_stand (h : u.Keeps i s) : u.Keeps i s.stand := by
  have tracked := keeps_trackWaits h
  unfold stand
  dsimp only
  split <;> exact tracked

theorem State.keeps_settle (h : u.Keeps false s) (sync found : Bool) : u.Keeps false (s.settle sync found) := by
  unfold settle
  extract_lets list v
  have listed : u.Keeps false v := h
  clear_value v
  split
  · split
    · exact keeps_stand listed
    · split
      · exact listed
      · exact keeps_consumeAll listed
  · split <;> exact listed

theorem State.keeps_waitsPassed (h : u.Keeps false s) (found : Bool) : u.Keeps false (s.waitsPassed found) := by
  unfold waitsPassed
  split
  · exact keeps_consumeAll h
  · exact h

theorem State.keeps_finishCycle (h : u.Keeps false s) (l : List (Nat × List (SlotId × Instr))) : u.Keeps false (s.finishCycle l) := by
  unfold finishCycle
  extract_lets unmet v w
  have counted : u.Keeps false v := by
    refine keeps_eachIsle h fun s h => ?_
    split <;> exact h
  have closed : u.Keeps false w := keeps_closeCycle counted _
  clear_value w
  split
  · exact keeps_settle closed _ _
  · exact keeps_freezeFor (keeps_waitsPassed (by exact closed) _) _

/-! ## A turn and a step (R37, R322, R378) -/

theorem State.keeps_issueCycle (h : u.Keeps false s) (f : List (Nat × Fetched)) : u.Keeps false (s.issueCycle f) := by
  unfold issueCycle
  extract_lets w a
  have issued : u.Keeps false a := keeps_issueRc h f
  clear_value a
  split
  · exact keeps_focusIsle (keeps_enterTraps _ (by exact h)) _
  · split
    · exact keeps_eachIsle h fun _ h => h
    · split
      · exact keeps_lostIn h _
      · refine keeps_finishCycle (keeps_focusIsle (keeps_foldl (keeps_countAll issued _) (fun s x h => ?_) _) _) _
        have focused := keeps_focusIsle h x.1
        dsimp only
        split <;> exact focused

theorem State.keeps_regionCycle (h : u.Keeps false s) : u.Keeps false s.regionCycle := by
  unfold regionCycle
  extract_lets v f
  have opened : u.Keeps false v := keeps_openCycle (by exact h)
  clear_value f v
  split
  · exact keeps_loseAt (keeps_focusIsle opened _) _ _
  · split
    · exact keeps_finishCycle (keeps_countAll (keeps_countAll opened _) _) _
    · exact keeps_issueCycle opened _

theorem State.keeps_afterEnd (h : u.Keeps i s) : u.Keeps i s.afterEnd := by
  unfold afterEnd
  dsimp only
  split
  · exact h
  · split <;> exact h

theorem State.keeps_proceed (h : u.Keeps false s) : u.Keeps false s.proceed := by
  unfold proceed
  split
  · have stood := keeps_standing h
    split
    · next eq =>
      rw [eq] at stood
      exact keeps_regionCycle (keeps_focusIsle stood _)
    · next eq =>
      rw [eq] at stood
      exact stood
  · split
    · exact keeps_afterEnd h
    · exact keeps_regionCycle h

theorem State.keeps_turnOf (h : u.Keeps false s) (n : Nat) : u.Keeps false (s.turnOf n) := by
  unfold turnOf
  split
  · exact h
  · extract_lets v w
    have focused : u.Keeps false v := keeps_focusIsle (keeps_focusSlot h n) 0
    clear_value v
    have freed : u.Keeps false w := by
      simp only [w]
      split
      · exact keeps_run _ focused
      · exact focused
    clear_value w
    split
    · exact focused
    · split
      · exact focused
      · split
        · exact keeps_idleTurn focused
        · split
          · exact keeps_countAll focused _
          · split
            · exact keeps_replayTurn focused
            · split
              · exact keeps_payTurn focused
              · split
                · exact keeps_overdueTurn focused
                · split
                  · exact keeps_eachIsle focused fun _ h => keeps_handlerCycle h
                  · split
                    · exact freed
                    · exact keeps_proceed freed

theorem State.keeps_round (h : u.Keeps false s) : u.Keeps false s.round := by
  unfold round
  extract_lets v
  have begun : u.Keeps false v := h
  clear_value v
  split
  · exact keeps_foldl begun (fun _ _ h => keeps_run _ h) _
  · split
    · exact begun
    · exact keeps_run _ (by exact begun)

/-- Every step keeps the memories of the isles of every live context, and device memory. -/
theorem State.keepsOut_step (s : State) : s.KeepsOut (step s) := by
  have h := keeps_refl false s
  unfold step oneStep
  split
  · exact keepsOut_exec _ (by exact h)
  · split
    · exact .next (keeps_turnOf (by exact h) _)
    · exact .next (keeps_round h)

end

/-! ## The obligations -/

/-- Settles O58: no function of the model leaves device memory out of its canonical form, whichever context is in focus. -/
theorem deviceMemoryStaysCanonical : Obligations.DeviceMemoryStaysCanonical := by
  intro s t canonical ran
  exact (s.keepsOut_step t ran).dram canonical

/-- Settles O59: a context comes back into focus from among the live ones, or with memories built anew. -/
theorem isleMemoriesStayCanonical : Obligations.IsleMemoriesStayCanonical := by
  intro s t canonical ran
  exact Keeps.islesCanonical (s.keepsOut_step t ran) canonical

end Sys2Proof.Machine
end
